-- ==== Sys2Proof/Word.lean ====
section
/-! DEFINITION. The word types of the TH9624: a register and an operand-store word are 32 bits (R126, R390), a byte is 8. -/

namespace Sys2Proof

/-- A 32-bit word: a register, an operand-store word, a memory word. -/
abbrev Word := BitVec 32

/-- A byte of memory. -/
abbrev Byte := BitVec 8

/-- Bits `[hi:lo]` of a word, as a number. -/
def bitsOf (w : Word) (hi lo : Nat) : Nat := (w.toNat >>> lo) % 2 ^ (hi + 1 - lo)

/-- One bit of a word. -/
def bitOf (w : Word) (i : Nat) : Bool := w.toNat.testBit i

/-- The low `n` bits of a number read as two's complement. -/
def signed (n v : Nat) : Int :=
  let u := v % 2 ^ n
  if u < 2 ^ (n - 1) then (u : Int) else (u : Int) - (2 ^ n : Nat)

/-- The two's-complement pattern of an integer in `n` bits, as a number. -/
def unsignedOf (n : Nat) (i : Int) : Nat := (i % (2 ^ n : Nat)).toNat

/-- The smaller of a value and a ceiling: the saturating counters of the register tables. -/
def satTo (ceiling v : Nat) : Nat := if v ≤ ceiling then v else ceiling

/-- An integer held between two bounds (`min(max(v, lo), hi)`). -/
def clampInt (v lo hi : Int) : Int := min (max v lo) hi

end Sys2Proof
end

