-- ==== Sys2Proof/Syntax.lean ====
section
/-! DEFINITION. The commands of the TH9624 block: one constructor of `Instr` for each row of spec/opcode_table.json, with the
operands that the row's rule names. An operand is what the step's cause brings from outside the block (a value written, a
sampled code, a decoded edge), never a value that the block itself holds. `at` operands are instants in CLK_ENG cycles. -/

namespace Sys2Proof

/-- The thirteen bus requesters of R105, in the order of their codes. -/
inductive Requester where
  | cp
  | facet (n : Fin 8)
  | kringDma
  | canDma
  | loupe
  | spp
deriving DecidableEq, Repr

/-- What else reached the SYS block in the CLK_PER cycle of a mode request (R31, R33). -/
inductive ReqCycle where
  /-- nothing: the request is decided under R32. -/
  | alone
  /-- another request was taken first in this cycle (REFCODE 0x5). -/
  | afterRequest
  /-- a hardware trigger of a higher rank was taken in this cycle (REFCODE 0x4). -/
  | afterTrigger
deriving DecidableEq, Repr

/-- The causes of a device reset (R37). -/
inductive ResetCause where
  | modeReq
  | spp
  | heartbeat
deriving DecidableEq, Repr

/-- The supply supervisors of R73 whose change is an event of the HWM. -/
inductive Supervisor where
  | vbatUv | vbatOv | vgdUv | vgdOv | v5Out | v33Out
deriving DecidableEq, Repr

/-- The memories that the scrubber walks (R104). -/
inductive ScrubMem where
  | sram (b : Fin 8)
  | itcm | dtcm | nodeTable | operandStore | flash
deriving DecidableEq, Repr

/-- What moment opens PISn (R328). -/
inductive PisMoment where
  | allOff | zeroCrossing | elapsed20ms
deriving DecidableEq, Repr

/-- The protocol errors of R301's LASTERR. -/
inductive CanErrKind where
  | stuff | form | ack | bit1 | bit0 | crc | protocolException
deriving DecidableEq, Repr

/-- A CAN frame as the controller receives it (the element of R300 without the words the DMA adds). -/
structure CanFrame where
  ext : Bool
  rmt : Bool
  fd  : Bool
  ident : BitVec 29
  brs : Bool
  esi : Bool
  dlc : BitVec 4
  data : List Byte
deriving DecidableEq, Repr

/-- An SPP command frame (R52): the bytes after OP, and the CRC-16 that the master sent. A frame whose bytes do not end with a whole
data word and the CRC is `raw`: every byte after OP as it came. -/
structure SppFrame where
  seq  : Byte
  len  : BitVec 16
  addr : Word
  data : List Word
  crc  : BitVec 16
  raw  : Option (List Byte) := none
deriving DecidableEq, Repr

/-- A received KRing frame (R278, R279): eight header bytes, the payload, the MAC and the CRC-32 as they arrived. -/
structure RingFrame where
  header  : List Byte
  payload : List Byte
  mac     : List Byte
  crc     : Word
deriving DecidableEq, Repr

/-- The state of one copy's logic BIST at its end: patterns applied and the MISR (R368). -/
structure BistEnd where
  patterns : Nat
  misr     : Word
  /-- the restore read that follows the test was correctable (a start-up test has none). -/
  restored : Bool
deriving DecidableEq, Repr

/-- The commands. Each constructor's docstring names the row's rule. -/
inductive Instr where
  /-- R37 -/ | vbatPowerOn (at_ : Nat)
  /-- R73 -/ | vbatPowerLoss
  /-- R40 -/ | pwrseqStep1
  /-- R40 -/ | pwrseqStep2
  /-- R40 -/ | pwrseqStep3
  /-- R40 -/ | pgoodCoreRise
  /-- R40 -/ | pwrseqStep4
  /-- R40 -/ | pwrseqStep5
  /-- R40 -/ | pwrseqStep6
  /-- R41 -/ | crystalReady
  /-- R41 -/ | pllLock
  /-- R40 -/ | pwrseqStep7 (at_ : Nat)
  /-- R41 -/ | crystalTimeout
  /-- R42 -/ | pgoodCoreTimeout
  /-- R42 -/ | pwrseqRetry
  /-- R72 -/ | pgoodCoreLow (at_ : Nat)
  /-- R366: the ends of the copies tested in this wave (two for the CP pair, eight for the facets). -/
  | startupLbistWaveDone (ends : List BistEnd)
  /-- R80 -/ | restoreComplete
  /-- R45 -/ | listenWindowEnd
  /-- R37 -/ | deviceReset (cause : ResetCause) (at_ : Nat)
  /-- R37 -/ | deviceResetRelease
  /-- R16 -/ | hbeatLoss (at_ : Nat)
  /-- R36 -/ | heartbeatReset (at_ : Nat)
  /-- R36 -/ | heartbeatResetRelease
  /-- R36 -/ | hbeatRestoreTimeout (at_ : Nat)
  /-- R83 -/ | wakeRise (at_ : Nat)
  /-- R32 -/ | integrateTimeout
  /-- R32: the KEY of the write, and what else came in its cycle. -/ | modereqBoot (key : BitVec 16) (cyc : ReqCycle)
  /-- R32 -/ | modereqService (key : BitVec 16) (cyc : ReqCycle)
  /-- R32 -/ | modereqIntegrate (key : BitVec 16) (cyc : ReqCycle)
  /-- R32 -/ | modereqStandby (key : BitVec 16) (cyc : ReqCycle)
  /-- R32 -/ | modereqActive (key : BitVec 16) (cyc : ReqCycle)
  /-- R32 -/ | modereqSafe (key : BitVec 16) (cyc : ReqCycle)
  /-- R77 -/ | modereqDormant (key : BitVec 16) (cyc : ReqCycle)
  /-- R31 -/ | modereqLimp (key : BitVec 16) (cyc : ReqCycle)
  /-- R77 -/ | dormantEntryStep
  /-- R77 -/ | dormantEntryComplete (at_ : Nat)
  /-- R82 -/ | glintStart
  /-- R83: the codes converted, by channel index 0–7 (a disabled channel's code is not used). -/
  | glintEnd (codes : List (BitVec 14)) (at_ : Nat)
  /-- R81 -/ | aonCounterEdge (n : Fin 2) (at_ : Nat)
  /-- R81: the value written, and whether an edge falls in the same always-on RC cycle. -/
  | pcntWrite (n : Fin 2) (v : BitVec 24) (edge : Bool) (at_ : Nat)
  /-- R65 -/ | referenceLoss
  /-- R65: HWM RC ticks counted in the window of 4,096 reference cycles. -/ | refMonitorWindow (ticks : Nat)
  /-- R68 -/ | clkGateWrite (v : Word)
  /-- R75 -/ | domctlWrite (v : Word)
  /-- R73 -/ | supplySupervisorChange (sup : Supervisor) (live : Bool)
  /-- R73: false VSA, true VSB. -/ | sensorSupplyOvercurrent (vsb : Bool)
  /-- R19 -/ | bridgeFrameReceive (crcOk : Bool)
  /-- R17 -/ | bridgeAccessDone
  /-- R20 -/ | brgerrcntClr (repeatSameCycle : Bool)
  /-- R87 -/ | cpInstruction
  /-- R87 -/ | cpWfi
  /-- R97 -/ | cpMret
  /-- R87 -/ | cpFenceI
  /-- R97 -/ | cpExternalInterrupt
  /-- R93 -/ | cpTimerInterrupt
  /-- R92: what the debugger writes (with a word) and reads on the debug module while the CP is halted. -/
  | debugHalt (acc : List (BitVec 7 × Option Word))
  /-- R234 -/ | debugResume
  /-- R99 -/ | icuSwset (v : BitVec 28)
  /-- R104: the memory, whether an idle slot came within 1,024 cycles, whether a requester writes the word in the same
  cycle, the number of flipped bits (0–3) that have newly come about in the word read, and the number of address bits (0–3) in which
  the word that the read resolves to differs from the one addressed (R101); before it, the same that has come about in other words of
  the coded memories: address, flips, stray. -/
  | scrubRead (m : ScrubMem) (late : Bool) (clash : Bool) (flips stray : Fin 4) (upsets : List (Word × Fin 4 × Fin 4))
  /-- R106: bank, requester, whether it writes, 64-bit word index of the first beat inside the bank, and its beats
  (the data of a write; for a read only their number counts); and whether the transfer in progress on the bank is in its last
  beat, which its requester paces. -/
  | arbRequest (b : Fin 8) (rq : Requester) (wr : Bool) (word : Fin 65536) (beats : List (BitVec 64)) (last : Bool)
      (at_ : Nat)
  /-- R105 -/ | arbTransferComplete (b : Fin 8) (at_ : Nat)
  /-- R108 -/ | arbGrantCutoff (b : Fin 8)
  /-- R110 -/ | arbAcquire (rq : Requester) (b : Fin 8) (at_ : Nat)
  /-- R110 -/ | arbRelease (rq : Requester) (b : Fin 8) (at_ : Nat)
  /-- R113 -/ | arbLockHoldExpiry (b : Fin 8)
  /-- R117: the pair, coded as MIR.STATE.PAIR. -/ | mirrorMismatch (pair : Fin 17)
  /-- R115 -/ | syncParityError
  /-- R118 -/ | bistCopyDone (e : BistEnd)
  /-- R165 -/ | flowTrigger (src : Fin 32) (at_ : Nat)
  /-- R162 -/ | flowRootEntry (n : Fin 64) (at_ : Nat)
  /-- R168 -/ | tokenArrival (node : BitVec 14) (at_ : Nat)
  /-- R123 -/ | nodeComplete (f : Fin 8) (node : BitVec 14) (at_ : Nat)
  /-- R164 -/ | flowComplete (n : Fin 64) (at_ : Nat)
  /-- R167 -/ | prsRun (run : Bool)
  /-- R176 -/ | prsMonclr (at_ : Nat)
  /-- R163 -/ | scanComplete (at_ : Nat)
  /-- R176 -/ | monitorWindowEnd (f : Fin 8) (at_ : Nat)
  /-- R181 -/ | prsTimerExpiry (n : Fin 4)
  /-- R181 -/ | prsSwtrig (set : BitVec 8)
  /-- R135 -/ | nexccntClr
  /-- R125 -/ | wcollClr
  /-- R165 -/ | flowstClr (n : Fin 64)
  /-- R137 -/ | nodeReservedOpcode (f : Fin 8) (at_ : Nat)
  /-- R138 -/ | nop (f : Fin 8) (at_ : Nat)
  /-- R138 -/ | mov (f : Fin 8) (at_ : Nat)
  /-- R138 -/ | ldii (f : Fin 8) (at_ : Nat)
  /-- R138 -/ | ldiq (f : Fin 8) (at_ : Nat)
  /-- R138 -/ | ldif (f : Fin 8) (at_ : Nat)
  /-- R138 -/ | cvtqf (f : Fin 8) (at_ : Nat)
  /-- R138 -/ | cvtfq (f : Fin 8) (at_ : Nat)
  /-- R138 -/ | cvtif (f : Fin 8) (at_ : Nat)
  /-- R138 -/ | cvtfi (f : Fin 8) (at_ : Nat)
  /-- R131 -/ | qadd (f : Fin 8) (at_ : Nat)
  /-- R131 -/ | qsub (f : Fin 8) (at_ : Nat)
  /-- R131 -/ | qmul (f : Fin 8) (at_ : Nat)
  /-- R131 -/ | qmac (f : Fin 8) (at_ : Nat)
  /-- R131 -/ | qneg (f : Fin 8) (at_ : Nat)
  /-- R131 -/ | qabs (f : Fin 8) (at_ : Nat)
  /-- R139 -/ | qshl (f : Fin 8) (at_ : Nat)
  /-- R137 -/ | qmin (f : Fin 8) (at_ : Nat)
  /-- R137 -/ | qmax (f : Fin 8) (at_ : Nat)
  /-- R139 -/ | qlim (f : Fin 8) (at_ : Nat)
  /-- R139 -/ | qcmp (f : Fin 8) (at_ : Nat)
  /-- R130 -/ | fadd (f : Fin 8) (at_ : Nat)
  /-- R130 -/ | fsub (f : Fin 8) (at_ : Nat)
  /-- R130 -/ | fmul (f : Fin 8) (at_ : Nat)
  /-- R130 -/ | fmac (f : Fin 8) (at_ : Nat)
  /-- R130 -/ | fneg (f : Fin 8) (at_ : Nat)
  /-- R130 -/ | fabs (f : Fin 8) (at_ : Nat)
  /-- R130 -/ | fdiv (f : Fin 8) (at_ : Nat)
  /-- R130 -/ | fsqrt (f : Fin 8) (at_ : Nat)
  /-- R130 -/ | fmin (f : Fin 8) (at_ : Nat)
  /-- R130 -/ | fmax (f : Fin 8) (at_ : Nat)
  /-- R139 -/ | flim (f : Fin 8) (at_ : Nat)
  /-- R139 -/ | fcmp (f : Fin 8) (at_ : Nat)
  /-- R140 -/ | fsincos (f : Fin 8) (at_ : Nat)
  /-- R133 -/ | iadd (f : Fin 8) (at_ : Nat)
  /-- R133 -/ | isub (f : Fin 8) (at_ : Nat)
  /-- R137 -/ | and (f : Fin 8) (at_ : Nat)
  /-- R137 -/ | or (f : Fin 8) (at_ : Nat)
  /-- R137 -/ | xor (f : Fin 8) (at_ : Nat)
  /-- R139 -/ | ishl (f : Fin 8) (at_ : Nat)
  /-- R139 -/ | ishr (f : Fin 8) (at_ : Nat)
  /-- R139 -/ | icmp (f : Fin 8) (at_ : Nat)
  /-- R141 -/ | sel (f : Fin 8) (at_ : Nat)
  /-- R142 -/ | clarke (f : Fin 8) (at_ : Nat)
  /-- R143 -/ | park (f : Fin 8) (at_ : Nat)
  /-- R143 -/ | ipark (f : Fin 8) (at_ : Nat)
  /-- R144 -/ | svm (f : Fin 8) (at_ : Nat)
  /-- R145 -/ | svec (f : Fin 8) (at_ : Nat)
  /-- R146 -/ | pi (f : Fin 8) (at_ : Nat)
  /-- R147 -/ | biq (f : Fin 8) (at_ : Nat)
  /-- R148 -/ | mv44 (f : Fin 8) (at_ : Nat)
  /-- R149 -/ | tint (f : Fin 8) (at_ : Nat)
  /-- R150 -/ | obs (f : Fin 8) (at_ : Nat)
  /-- R151 -/ | argmin (f : Fin 8) (at_ : Nat)
  /-- R152 -/ | ramp (f : Fin 8) (at_ : Nat)
  /-- R153 -/ | dqlim (f : Fin 8) (at_ : Nat)
  /-- R154 -/ | adcrd (f : Fin 8) (at_ : Nat)
  /-- R155 -/ | pwmwr (f : Fin 8) (at_ : Nat)
  /-- R157 -/ | obsrd (f : Fin 8) (at_ : Nat)
  /-- R158 -/ | flag (f : Fin 8) (at_ : Nat)
  /-- R159 -/ | trace (f : Fin 8) (at_ : Nat)
  /-- R160 -/ | tstamp (f : Fin 8) (at_ : Nat)
  /-- R179 -/ | lupStart (b : Fin 4)
  /-- R179 -/ | lupSwtrg (b : Fin 4)
  /-- R180 -/ | lupAbort (b : Fin 4)
  /-- R184: repeats of the bridge frame that carried the results. -/ | adcSequenceComplete (k : Fin 8) (repeats : Fin 3)
  /-- R192: the codes that the three background slots of the frame convert where they are run. -/
  | adcBackgroundFrame (k : Fin 8) (sin cos dc : BitVec 14) (at_ : Nat)
  /-- R191 -/ | adcStatClr (k : Fin 8)
  /-- R204 -/ | zxStart (k : Fin 8)
  /-- R203 -/ | bemfEdge (k : Fin 8) (code : Fin 6) (at_ : Nat)
  /-- R204 -/ | zxTimeout (k : Fin 8)
  /-- R211 -/ | overvoltageStage2
  /-- R211 -/ | stage2ReleaseTimer
  /-- R213 -/ | vdsSignChange (k : Fin 24) (at_ : Nat)
  /-- R213 -/ | alloffConditionMet (g : Fin 8)
  /-- R217: the valley, with the codes that the four sample-and-holds would convert at its sampling instant, the low-side |VDS| of
  U, V, W at that instant, and the high-side |VDS| at the carrier peak of the period that ends, in mV (R375). -/
  | pwmValley (g : Fin 8) (codes : List (BitVec 14)) (vdsL vdsH : List (BitVec 10)) (at_ : Nat)
  /-- R217 -/ | pwmGroupEnable (g : Fin 8)
  /-- R234 -/ | pwmGroupDisable (g : Fin 8)
  /-- R216 -/ | dutyWrite (k : Fin 24) (v : Word)
  /-- R218: taps counted. -/ | delayLineCalibration (g : Fin 8) (taps : Fin 65)
  /-- R226: for G0 in chain mode the timestamp of the edge on SYNCI, in LSB. -/
  | syncReferenceEvent (g : Fin 8) (synci : Nat)
  /-- R227 -/ | syncReferenceLoss (g : Fin 8)
  /-- R230: the raw level, and for how many samples it has been there. -/ | fltActive (m : Fin 6) (level : Bool) (n at_ : Nat)
  /-- R229 -/ | fltInactive (m : Fin 6) (level : Bool) (n at_ : Nat)
  /-- R231 -/ | tripClear (bits : BitVec 6)
  /-- R233 -/ | fltcfgWrite (m : Fin 6) (v : Word)
  /-- R229 -/ | fltcntClr (m : Fin 6)
  /-- R224 -/ | leadgrpWrite (v : Word)
  /-- R237 -/ | handshakeTimeout (k : Fin 24) (high : Bool) (at_ : Nat)
  /-- R241: the VDS in mV, whether the gate stands above 7.0 V, the other legs of its group detected in the same HWM RC cycle. -/
  | vdsDetection (k : Fin 24) (high gross : Bool) (mv : Nat) (gateUp : Bool) (same : List (Fin 24)) (at_ : Nat)
  /-- R241 -/ | vdsEventWindowEnd
  /-- R242 -/ | softOffStep2 (g : Fin 8) (at_ : Nat)
  /-- R242 -/ | softOffSafeState (g : Fin 8) (at_ : Nat)
  /-- R241 -/ | gdrEvtClr
  /-- R245: the highest VBS of the last 2 µs, in mV. -/ | bootstrapUndervoltage (k : Fin 24) (vbs : Nat)
  /-- R245: VBS, in mV. -/ | bootstrapOk (k : Fin 24) (vbs : Nat)
  /-- R340 -/ | reactionFrameArrival
  /-- R252 -/ | pulseTrainEdge (n : Fin 8) (at_ : Nat)
  /-- R251 -/ | heldEdgeTimeout (n : Fin 8) (at_ : Nat)
  /-- R250 -/ | gateOutTimeout (n : Fin 8)
  /-- R253: the sampled sine and cosine comparators. -/ | quadratureTransition (n : Fin 8) (a b : Bool)
  /-- R254 -/ | illegalUnresolvedTimeout (n : Fin 8)
  /-- R261 -/ | observerUpdate (n : Fin 8)
  /-- R259 -/ | idxArm (n : Fin 8)
  /-- R260 -/ | fbrst (n : Fin 8)
  /-- R264 -/ | obsSeedAngle (n : Fin 8) (v : Word)
  /-- R264 -/ | obsSeedCommit (n : Fin 8) (v : Word)
  /-- R261 -/ | obsBwWrite (n : Fin 8) (bw : BitVec 13)
  /-- R253 -/ | qcntWrite (n : Fin 8) (v : Word)
  /-- R252 -/ | fbkEvcntClr (n : Fin 8)
  /-- R268 -/ | wsTooth (w : Fin 4) (at_ : Nat)
  /-- R267: short (true) or open (false). -/ | wsFault (w : Fin 4) (short : Bool)
  /-- R267 -/ | wsFaultClear (w : Fin 4) (short : Bool)
  /-- R268 -/ | wsStandstill (w : Fin 4)
  /-- R270: the sync pulse, the nibble pulses and the pause pulse, each in 10 ns units. -/
  | sentFrame (n : Fin 4) (sync : Nat) (nibbles : List Nat) (pause : Nat) (at_ : Nat)
  /-- R273 -/ | sentErrClr (n : Fin 4)
  /-- R277 -/ | phyLinkFail (p : Fin 4)
  /-- R274 -/ | phyLinkUp (p : Fin 4)
  /-- R274 -/ | phySqiUpdate (p : Fin 4) (sqi : BitVec 3)
  /-- R280: the port, the header, and the SOF by the own ring time, from the cycle start, in 0.125 ns units. -/
  | kringFrameStart (p : Fin 4) (header : List Byte) (sof : Int)
  /-- R284: the port, the frame (none: no SOF in the window of `slot`), and its SOF as there. -/
  | frameCheckDone (p : Fin 4) (slot : Fin 64) (frame : Option RingFrame) (sof : Int)
  /-- R298 -/ | txPayloadFetch (slot : Fin 64)
  /-- R276 -/ | ownFrameSend (slot : Fin 64) (at_ : Nat)
  /-- R286, at an instant in LSB of 156.25 ps. -/ | cycleStart (lsb : Nat)
  /-- R286 -/ | actionInstant
  /-- R288 -/ | clockCorrection
  /-- R287 -/ | linkExchangeRequest (at_ns : Nat)
  /-- R287 -/ | linkExchangeReply (p : Fin 4)
  /-- R287: times of request and reply SOF at the own balls, in 0.125 ns units. -/
  | linkExchangeReceive (p : Fin 4) (reqTime repTime : Nat)
  /-- R290: the measured interval since the last CSTART, in 10 ns units; none for the first one. -/
  | guardianCstart (interval : Option Nat)
  /-- R290 -/ | guardianCstartTimeout
  /-- R291: the ring offset of the edge, in 10 ns units. -/
  | guardianWindowEdge (off : Nat)
  /-- R294 -/ | listenTimeout (at_ : Nat)
  /-- R294 -/ | backoffExpiry (at_ : Nat)
  /-- R293 -/ | krgEnable (v : Word)
  /-- R296 -/ | krgSwreq (swmode : BitVec 3)
  /-- R333 -/ | krgFlipreq
  /-- R283 -/ | krgKeyWrite (slot : Fin 2) (w : Fin 4) (v : Word)
  /-- R302 -/ | krgCntclr
  /-- R391 -/ | portstatRead (p : Fin 4)
  /-- R300 -/ | canFrameReceive (c : Fin 2) (fr : CanFrame) (at_ : Nat)
  /-- R300: the element whose frame has been sent, and the loop delay measured (FD frames). -/
  | canFrameSent (c : Fin 2) (elem : Fin 32) (meas : BitVec 7)
  /-- R300 -/ | canTxgo (c : Fin 2) (v : Word)
  /-- R300 -/ | canTxabort (c : Fin 2) (v : Word)
  /-- R300 -/ | canRxack (c : Fin 2) (v : Word)
  /-- R301: the error and the error counters after it. -/
  | canError (c : Fin 2) (kind : CanErrKind) (tec rec : BitVec 8)
  /-- R299 -/ | canBusOff (c : Fin 2)
  /-- R299 -/ | canBusOffRecovery (c : Fin 2)
  /-- R301 -/ | canConfWrite (c : Fin 2) (v : Word)
  /-- R309 -/ | lnkComparison (at_ : Nat)
  /-- R319: the nine levels sampled on LEAD, bit 0 first (true is recessive). -/ | leadFrame (bits : BitVec 9)
  /-- R320 -/ | lnkRelease
  /-- R327 -/ | pisOpenRequest (mask : BitVec 8)
  /-- R328 -/ | pisOpen (g : Fin 8) (moment : PisMoment)
  /-- R329 -/ | pisCloseRequest (mask : BitVec 8)
  /-- R334 -/ | cfgLflip
  /-- R330 -/ | cfgShaddrWrite (v : Word)
  /-- R332 -/ | shadowWrite (who : Requester) (addr v : Word)
  /-- R345 -/ | releaseGroup (mask : BitVec 8)
  /-- R345 -/ | releaseHalt
  /-- R348 -/ | enableChange (level : Bool)
  /-- R350: the window's raw value, none without a complete period. -/ | pedalWindow (raw : Option (BitVec 16))
  /-- R353 -/ | limpChopPeriod (g : Fin 8)
  /-- R353: the low-side shunt's voltage, in 10 µV. -/ | limpCurrentLimit (g : Fin 8) (v : Nat)
  /-- R352 -/ | limpSectorChange (g : Fin 8) (ha hb hc : Bool)
  /-- R353 -/ | limpSectorDelayEnd (g : Fin 8)
  /-- R354 -/ | limpDormantTimeout
  /-- R357 -/ | spbWrite (who : Requester) (idx : Fin 256) (v : Word) (at_ : Nat)
  /-- R355 -/ | spbCommit
  /-- R362 -/ | spbFlashCopy
  /-- R358 -/ | passwordWord (who : Requester) (w : BitVec 16) (at_ : Nat)
  /-- R359 -/ | passwordLock (who : Requester)
  /-- R359 -/ | passwordTimeout
  /-- R360 -/ | passwordLockoutEnd
  /-- R6 -/ | rwpWrite (who : Requester) (addr v : Word) (at_ : Nat)
  /-- R361 -/ | lifeSecond
  /-- R364 -/ | detcntClr
  /-- R370 -/ | bstStart
  /-- R369 -/ | bstAbort
  /-- R369 -/ | bistWatchdog
  /-- R372 -/ | analogStepStart
  /-- R369 -/ | analogStepAbort
  /-- R372: the codes or comparisons taken, and the value that BST.ARES.VALUE holds. -/
  | analogStepDone (results : List Nat) (value : BitVec 16)
  /-- R375: the code measured in the slot, and whether a sampling instant is near. -/
  | mgnOffsetSlot (k : Fin 8) (code : BitVec 14) (near : Bool)
  /-- R379: the slack of each of the 16 sensors in the window, in ps. -/ | mgnSlackWindow (slacks : List Int)
  /-- R377 -/ | mgnDtEvaluation (k : Fin 24)
  /-- R378 -/ | mgnThrEvaluation (k : Fin 24)
  /-- R71 -/ | vidStepDone
  /-- R381 -/ | mgnApprove (who : Requester) (v : Word) (at_ : Nat)
  /-- R383 -/ | injKey (w : Word) (at_ : Nat)
  /-- R383 -/ | injArmExpiry
  /-- R384 -/ | injFire (who : Requester) (at_ : Nat)
  /-- R386 -/ | injDisarm
  /-- R385 -/ | injLevelEnd
  /-- R387 -/ | evcGctl (v : Word)
  /-- R387 -/ | evcCntlRead (c : Fin 32)
  /-- R387 -/ | evcClr (v : Word) (at_ : Nat)
  /-- R53: the bytes that are clocked after byte 0x00 before SPP_CSn rises. -/ | sppGet (n : Nat)
  /-- R56 -/ | sppRd (fr : SppFrame)
  /-- R56 -/ | sppWr (fr : SppFrame) (at_ : Nat)
  /-- R57: whether the flash reports a failure (R59). -/ | sppFerase (fr : SppFrame) (fail : Bool)
  /-- R57 -/ | sppFprog (fr : SppFrame) (fail : Bool)
  /-- R56 -/ | sppFcrc (fr : SppFrame)
  /-- R56 -/ | sppUnlock (fr : SppFrame) (at_ : Nat)
  /-- R58 -/ | sppSvcreq (fr : SppFrame) (cyc : ReqCycle)
  /-- R56 -/ | sppReset (fr : SppFrame) (cyc : ReqCycle)
  /-- R56 -/ | sppNop (fr : SppFrame)
  /-- R56: the OP byte. -/ | sppUnknownOp (op : Byte) (fr : SppFrame)
  /-- R55 -/ | sppResponseReady
  /-- R6 -/ | registerWrite (who : Requester) (addr v : Word) (at_ : Nat)
  /-- R219: the edge; for a turn-off the delay measured in LSB until the gate is reported below 1.5 V (R236), and for a high-side one the
  bootstrap droop in 0.1 mV/ms (R375). -/
  | commandLineEdge (k : Fin 24) (high level : Bool) (toff : Option (BitVec 14)) (droop : Option (BitVec 16)) (at_ : Nat)
  /-- R229 -/ | fltAbsorbedToggle (m : Fin 6) (level : Bool) (n at_ : Nat)
  /-- R354 -/ | wakeFall
  /-- R211: true when the DC link falls below the off threshold, false when it rises above it. -/
  | dcLinkOffCrossing (below : Bool)
deriving DecidableEq, Repr

end Sys2Proof
end

