-- ==== Sys2Proof/Config.lean ====
section
/-! DEFINITION. The values that the spec leaves open, as constants without a body: nothing can be proved about any of them
but that it is some value of its type. -/

namespace Sys2Proof.Config

/-- A byte of the mask-programmed boot ROM (R100 gives its place, nothing its content). -/
opaque romByte : Nat → Byte

/-- The contents of a copy's MISR when its logic BIST is cut short (R369 records the copy, no rule gives the signature). -/
opaque cutMisr : Nat → Word

/-- The pedal position where SPB[10] has PHI = PLO, so that R350 divides by zero: any position in 0–65,535. -/
opaque pedalFlat : Nat → BitVec 16

/-- The words of the sine table that R140 bounds but does not list, by angle word. -/
opaque sinWord : Word → Word

/-- The words of the cosine table that R140 bounds but does not list, by angle word. -/
opaque cosWord : Word → Word

/-- The shunt resistance that the integrator fits at each leg, in µΩ (R185 names it Rsh; no register holds it). -/
opaque shunt : Nat → Nat

/-- The threshold code that the planner targets where no code of R239 reaches the voltage of R378. -/
opaque thrBeyond : Nat → BitVec 5

/-- Whether the interpolator's quantisation of an angle between two steps goes to the upper one (R255 names the step alone). -/
opaque phiUp : Int → Int → Bool

/-- The interpolator's angle for a pair without amplitude. -/
opaque phiNone : BitVec 10

/-- The speed that the observer takes from a seed that is not a finite number. -/
opaque seedSpeed : Word → Word

/-- Which of two words that one node writes to one operand remains (R123 lets all writes of a node take effect together). -/
opaque stateLast : Nat → Bool

/-- Whether a correction that falls between two steps of its resolution is held as the upper one (R288 gives the resolution, not
the rounding), by numerator and denominator. -/
opaque roundUp : Int → Nat → Bool

/-- The service level that LNK reports while SLMASK names no group (R324 takes the minimum over those groups). -/
opaque slEmpty : BitVec 2

/-- The sequence number of the first frame that a CAN controller stores (R300 gives how it counts, not where it starts). -/
opaque canSeq : Nat → BitVec 16

/-- The limits that BST.AEXP shows after a step of the analog BIST whose window is "exact" (R372 gives it no numbers). -/
opaque exactWindow : Nat → Word

/-- A byte of flash after an erase or a program operation that has failed (R59 gives the RESULT). -/
opaque flashBad : Nat → Nat → Byte

/-- The SEQ byte of the answer to a GET with no response pending (R59 gives its RESULT), and to a frame too short to have one. -/
opaque getSeq : Nat → Byte

/-- How long after its turn-off command a gate takes to fall below 1.5 V, in CLK_ENG cycles, where no measurement tells (R236 waits
for it; the power stage decides). -/
opaque gateFall : Nat → Nat

/-- Does a fetch of flash find its halfword in the instruction cache, where it has been fetched since the last invalidation? Which
lines the cache still holds is not stated (R87). -/
opaque icacheHit : Nat → Bool

/-- Which way a held count of two quadrants moves where the decoder has seen no legal transition (R254 takes the last one's direction). -/
opaque heldUp : Nat → Bool

end Sys2Proof.Config
end

