-- ==== Sys2Proof/Machine/Map.lean ====
section
/-! DEFINITION. Sparse tables keyed by a number: a list of key and value pairs in one canonical form (keys strictly rising,
no entry equal to what an unlisted key reads as), so that equal tables are equal lists. Registers, shadow copies, memory cells
and the arrays of the block's units are all held so. -/

namespace Sys2Proof

/-- What key `j` reads as: the listed value, else the default of that key. -/
def mget (d : Nat → α) : List (Nat × α) → Nat → α
  | [], j => d j
  | (i, v) :: m, j => if i = j then v else mget d m j

/-- Take key `j` out of the table. -/
def merase : List (Nat × α) → Nat → List (Nat × α)
  | [], _ => []
  | (i, v) :: m, j => if i = j then merase m j else (i, v) :: merase m j

/-- Put an entry before the first larger key. -/
def minsert : List (Nat × α) → Nat → α → List (Nat × α)
  | [], j, v => [(j, v)]
  | (i, w) :: m, j, v => if j < i then (j, v) :: (i, w) :: m else (i, w) :: minsert m j v

/-- Write a key: the entry goes where its key belongs, and no entry stays for a value equal to the default. -/
def mset [DecidableEq α] (d : Nat → α) (m : List (Nat × α)) (j : Nat) (v : α) : List (Nat × α) :=
  if v = d j then merase m j else minsert (merase m j) j v

/-- Change the value of one key. -/
def mupd [DecidableEq α] (d : Nat → α) (m : List (Nat × α)) (j : Nat) (f : α → α) : List (Nat × α) :=
  mset d m j (f (mget d m j))

/-- Are the keys above `b` and strictly rising? -/
def mrising : Option Nat → List (Nat × α) → Bool
  | _, [] => true
  | none, (i, _) :: m => mrising (some i) m
  | some b, (i, _) :: m => decide (b < i) && mrising (some i) m

/-- The canonical form of a table. -/
def mwf [DecidableEq α] (d : Nat → α) (m : List (Nat × α)) : Bool :=
  mrising none m && m.all (fun e => decide (e.2 ≠ d e.1))

/-- Keep the entries that a test passes. -/
def mkeep (p : Nat → Bool) (m : List (Nat × α)) : List (Nat × α) := m.filter (fun e => p e.1)

/-- The entries of consecutive keys from `p` on; none for a value equal to the default. -/
def mspan [DecidableEq α] (d : Nat → α) : Nat → List α → List (Nat × α)
  | _, [] => []
  | p, v :: l => if v = d p then mspan d (p + 1) l else (p, v) :: mspan d (p + 1) l

/-- Write consecutive keys from `p` on. -/
def mrange [DecidableEq α] (d : Nat → α) (m : List (Nat × α)) (p : Nat) (l : List α) : List (Nat × α) :=
  mkeep (fun i => decide (i < p)) m ++ (mspan d p l ++ mkeep (fun i => decide (p + l.length ≤ i)) m)

end Sys2Proof
end

