-- ==== Sys2Proof/Machine/Regs.lean ====
section
/-! DEFINITION. The register map of the TH9624 (R389, chapter 14, and the field tables of the owning chapters): for every
register its address, its array dimensions, its composed reset value and its non-reserved fields with their access code (R6)
and the encodings that the field accepts (R3, R4); a name for each register's address (namespace R) and for each field
(namespace F, named REGISTER_FIELD). -/

namespace Sys2Proof

/-- The access codes of R6. -/
inductive Acc where
  | rw | ro | w1c | wo | rws | rwp
deriving DecidableEq, Repr

/-- The encodings a field accepts (R3); a write of any other is discarded for that field (R4). -/
inductive Legal where
  | any
  | range (lo hi : Nat)
  | spans (l : List (Nat × Nat))
deriving DecidableEq, Repr

/-- Does the field accept the encoding? -/
def Legal.ok : Legal → Nat → Bool
  | .any, _ => true
  | .range lo hi, v => decide (lo ≤ v ∧ v ≤ hi)
  | .spans l, v => l.any (fun p => decide (p.1 ≤ v ∧ v ≤ p.2))

/-- One non-reserved field of a register. -/
structure FieldSpec where
  hi : Nat
  lo : Nat
  acc : Acc
  legal : Legal
deriving DecidableEq, Repr

/-- One row of the register index: a register or an array of `count` × `count2` registers. -/
structure RegSpec where
  base : Nat
  count : Nat
  stride : Nat
  count2 : Nat
  stride2 : Nat
  reset : Nat
  fields : List FieldSpec
deriving DecidableEq, Repr

/-- Is `a` the address of a register of this row? -/
def RegSpec.has (r : RegSpec) (a : Nat) : Bool :=
  decide (r.base ≤ a) &&
  (let d := a - r.base
   let i := if r.count = 1 then 0 else d / r.stride
   let e := d - i * r.stride
   let j := if r.count2 = 1 then 0 else e / r.stride2
   decide (i < r.count) && decide (j < r.count2) && (e == j * r.stride2))

/-- A field of the register at address `a`, bits `[hi:lo]`. -/
structure Fld where
  a : Nat
  hi : Nat
  lo : Nat
deriving DecidableEq, Repr

/-- Is this field's encoding one of a set of register fields that a write may change? -/
def Acc.writable : Acc → Bool
  | .rw => true
  | .rwp => true
  | .rws => true
  | _ => false

namespace Regs

def regsSys : List RegSpec := [
  /- SYS.DEVID -/ ⟨0x40000004, 1, 4, 1, 4, 0x9624000C,
    [⟨31, 16, .ro, .any⟩, ⟨15, 8, .ro, .any⟩, ⟨7, 0, .ro, .any⟩]⟩,
  /- SYS.CHID -/ ⟨0x40000008, 1, 4, 1, 4, 0x00000000,
    [⟨2, 0, .ro, .any⟩]⟩,
  /- SYS.MODE -/ ⟨0x40000010, 1, 4, 1, 4, 0x00010021,
    [⟨23, 20, .ro, .any⟩, ⟨19, 19, .w1c, .any⟩, ⟨18, 16, .ro, .any⟩, ⟨7, 4, .ro, .any⟩, ⟨2, 0, .ro, .any⟩]⟩,
  /- SYS.MODEREQ -/ ⟨0x40000014, 1, 4, 1, 4, 0x00000000,
    [⟨31, 16, .wo, .any⟩, ⟨2, 0, .wo, .any⟩]⟩,
  /- SYS.RSTCAUSE -/ ⟨0x40000018, 1, 4, 1, 4, 0x00000001,
    [⟨4, 4, .w1c, .any⟩, ⟨3, 3, .w1c, .any⟩, ⟨2, 2, .w1c, .any⟩, ⟨1, 1, .w1c, .any⟩, ⟨0, 0, .w1c, .any⟩]⟩,
  /- SYS.BOOTSTAT -/ ⟨0x4000001C, 1, 4, 1, 4, 0x00000000,
    [⟨31, 24, .ro, .any⟩, ⟨23, 23, .ro, .any⟩, ⟨22, 22, .ro, .any⟩, ⟨21, 20, .ro, .any⟩, ⟨19, 19, .ro, .any⟩, ⟨18, 18, .ro, .any⟩, ⟨17, 17, .ro, .any⟩, ⟨16, 16, .ro, .any⟩, ⟨15, 14, .ro, .any⟩, ⟨13, 13, .ro, .any⟩, ⟨12, 12, .ro, .any⟩, ⟨11, 11, .ro, .any⟩]⟩,
  /- SYS.BRGSTAT -/ ⟨0x40000020, 1, 4, 1, 4, 0x00000000,
    [⟨2, 2, .w1c, .any⟩, ⟨1, 1, .w1c, .any⟩, ⟨0, 0, .ro, .any⟩]⟩,
  /- SYS.BRGERRCNT -/ ⟨0x40000024, 1, 4, 1, 4, 0x00000000,
    [⟨31, 31, .wo, .any⟩, ⟨15, 0, .ro, .any⟩]⟩]

def regsClk : List RegSpec := [
  /- CLK.STAT -/ ⟨0x40010000, 1, 4, 1, 4, 0x00000000,
    [⟨5, 5, .w1c, .any⟩, ⟨4, 4, .w1c, .any⟩, ⟨3, 3, .ro, .any⟩, ⟨2, 2, .ro, .any⟩, ⟨1, 1, .ro, .any⟩, ⟨0, 0, .ro, .any⟩]⟩,
  /- CLK.GATE -/ ⟨0x40010004, 1, 4, 1, 4, 0x0000000F,
    [⟨3, 3, .rw, .any⟩, ⟨2, 2, .rw, .any⟩, ⟨1, 1, .rw, .any⟩, ⟨0, 0, .rw, .any⟩]⟩]

def regsPwr : List RegSpec := [
  /- PWR.SUPSTAT -/ ⟨0x40020000, 1, 4, 1, 4, 0x00000000,
    [⟨15, 8, .w1c, .any⟩, ⟨7, 7, .ro, .any⟩, ⟨6, 6, .ro, .any⟩, ⟨5, 5, .ro, .any⟩, ⟨4, 4, .ro, .any⟩, ⟨3, 3, .ro, .any⟩, ⟨2, 2, .ro, .any⟩, ⟨1, 1, .ro, .any⟩, ⟨0, 0, .ro, .any⟩]⟩,
  /- PWR.DOMCTL -/ ⟨0x40020004, 1, 4, 1, 4, 0x00000000,
    [⟨5, 5, .rw, .any⟩, ⟨4, 4, .rw, .any⟩, ⟨3, 3, .rw, .any⟩, ⟨2, 2, .rw, .any⟩, ⟨1, 1, .rw, .any⟩, ⟨0, 0, .rw, .any⟩]⟩,
  /- PWR.OFFACC -/ ⟨0x40020008, 1, 4, 1, 4, 0x00000000,
    [⟨31, 0, .ro, .any⟩]⟩,
  /- PWR.OFFSTAT -/ ⟨0x4002000C, 1, 4, 1, 4, 0x00000000,
    [⟨15, 12, .ro, .any⟩, ⟨1, 1, .w1c, .any⟩, ⟨0, 0, .w1c, .any⟩]⟩]

def regsArb : List RegSpec := [
  /- ARB.ERR -/ ⟨0x40030000, 1, 4, 1, 4, 0x00000000,
    [⟨23, 20, .ro, .any⟩, ⟨18, 16, .ro, .any⟩, ⟨4, 4, .w1c, .any⟩, ⟨3, 3, .w1c, .any⟩, ⟨2, 2, .w1c, .any⟩, ⟨1, 1, .w1c, .any⟩, ⟨0, 0, .w1c, .any⟩]⟩,
  /- ARB.CUTSTAT -/ ⟨0x40030004, 1, 4, 1, 4, 0x00000000,
    [⟨12, 0, .w1c, .any⟩]⟩,
  /- ARB.LKHOLD -/ ⟨0x40030008, 1, 4, 1, 4, 0x00000064,
    [⟨15, 0, .rw, (.range 1 65535)⟩]⟩,
  /- ARB.ECCSTAT -/ ⟨0x40030010, 1, 4, 1, 4, 0x00000000,
    [⟨31, 24, .ro, .any⟩, ⟨23, 8, .ro, .any⟩, ⟨3, 3, .w1c, .any⟩, ⟨2, 2, .w1c, .any⟩, ⟨1, 1, .w1c, .any⟩, ⟨0, 0, .w1c, .any⟩]⟩,
  /- ARB.ECCADDR -/ ⟨0x40030014, 1, 4, 1, 4, 0x00000000,
    [⟨31, 0, .ro, .any⟩]⟩,
  /- ARB.SCRUB -/ ⟨0x40030018, 1, 4, 1, 4, 0x80000040,
    [⟨31, 31, .rw, .any⟩, ⟨11, 0, .rw, (.range 16 4095)⟩]⟩,
  /- ARB.RQCFG -/ ⟨0x40030100, 13, 4, 1, 4, 0x01000000,
    [⟨26, 16, .rw, (.range 16 1024)⟩, ⟨8, 8, .rw, .any⟩, ⟨3, 0, .rw, .any⟩]⟩,
  /- ARB.ACQ -/ ⟨0x40030200, 8, 4, 1, 4, 0x0000000F,
    [⟨31, 31, .ro, .any⟩, ⟨30, 30, .ro, .any⟩, ⟨3, 0, .ro, .any⟩]⟩,
  /- ARB.REL -/ ⟨0x40030220, 8, 4, 1, 4, 0x00000000,
    [⟨0, 0, .wo, .any⟩]⟩,
  /- ARB.LKST -/ ⟨0x40030240, 1, 4, 1, 4, 0xFFFFFFFF,
    [⟨3, 0, .ro, .any⟩, ⟨7, 4, .ro, .any⟩, ⟨11, 8, .ro, .any⟩, ⟨15, 12, .ro, .any⟩, ⟨19, 16, .ro, .any⟩, ⟨23, 20, .ro, .any⟩, ⟨27, 24, .ro, .any⟩, ⟨31, 28, .ro, .any⟩]⟩]

def regsMir : List RegSpec := [
  /- MIR.MMSTAT -/ ⟨0x40040000, 1, 4, 1, 4, 0x00000000,
    [⟨17, 17, .w1c, .any⟩, ⟨16, 9, .w1c, .any⟩, ⟨8, 1, .w1c, .any⟩, ⟨0, 0, .w1c, .any⟩]⟩,
  /- MIR.STATE -/ ⟨0x40040004, 1, 4, 1, 4, 0x001F0000,
    [⟨20, 16, .ro, .any⟩, ⟨1, 0, .ro, .any⟩]⟩,
  /- MIR.VERDICT -/ ⟨0x40040008, 1, 4, 1, 4, 0x001F0000,
    [⟨20, 16, .ro, .any⟩, ⟨5, 5, .ro, .any⟩, ⟨4, 4, .ro, .any⟩, ⟨2, 0, .ro, .any⟩]⟩,
  /- MIR.RETIRED -/ ⟨0x4004000C, 1, 4, 1, 4, 0x00000000,
    [⟨16, 16, .ro, .any⟩, ⟨15, 8, .ro, .any⟩, ⟨7, 0, .ro, .any⟩]⟩,
  /- MIR.MMCNT -/ ⟨0x40040010, 1, 4, 1, 4, 0x00000000,
    [⟨31, 16, .ro, .any⟩, ⟨15, 0, .ro, .any⟩]⟩,
  /- MIR.FGRP -/ ⟨0x40040020, 8, 4, 1, 4, 0x000000FF,
    [⟨7, 0, .rws, .any⟩]⟩]

def regsPrs : List RegSpec := [
  /- PRS.CTL -/ ⟨0x40050000, 1, 4, 1, 4, 0x00000000,
    [⟨1, 1, .wo, .any⟩, ⟨0, 0, .rw, .any⟩]⟩,
  /- PRS.STAT -/ ⟨0x40050004, 1, 4, 1, 4, 0x00000000,
    [⟨6, 6, .w1c, .any⟩, ⟨5, 5, .w1c, .any⟩, ⟨3, 3, .ro, .any⟩, ⟨2, 2, .ro, .any⟩, ⟨1, 1, .ro, .any⟩, ⟨0, 0, .ro, .any⟩]⟩,
  /- PRS.SWTRIG -/ ⟨0x40050008, 1, 4, 1, 4, 0x00000000,
    [⟨7, 0, .wo, .any⟩]⟩,
  /- PRS.CHAIN -/ ⟨0x4005000C, 1, 4, 1, 4, 0x00000000,
    [⟨15, 15, .rws, .any⟩, ⟨13, 8, .rws, .any⟩, ⟨7, 7, .rws, .any⟩, ⟨5, 0, .rws, .any⟩]⟩,
  /- PRS.MONCTL -/ ⟨0x40050020, 1, 4, 1, 4, 0x00000004,
    [⟨26, 16, .rw, (.range 0 1024)⟩, ⟨2, 0, .rw, .any⟩]⟩,
  /- PRS.NEXC -/ ⟨0x40050800, 1, 4, 1, 4, 0x00000000,
    [⟨31, 31, .w1c, .any⟩, ⟨30, 30, .w1c, .any⟩, ⟨29, 26, .ro, .any⟩, ⟨25, 23, .ro, .any⟩, ⟨22, 17, .ro, .any⟩, ⟨13, 0, .ro, .any⟩]⟩,
  /- PRS.NEXCCNT -/ ⟨0x40050804, 1, 4, 1, 4, 0x00000000,
    [⟨31, 31, .wo, .any⟩, ⟨15, 0, .ro, .any⟩]⟩,
  /- PRS.EXCPOL -/ ⟨0x40050808, 1, 4, 1, 4, 0x00000038,
    [⟨7, 7, .rw, .any⟩, ⟨6, 6, .rw, .any⟩, ⟨5, 5, .rw, .any⟩, ⟨4, 4, .ro, .any⟩, ⟨3, 3, .ro, .any⟩, ⟨2, 2, .rw, .any⟩, ⟨1, 1, .rw, .any⟩]⟩,
  /- PRS.GFLAG -/ ⟨0x40050818, 1, 4, 1, 4, 0x00000000,
    [⟨31, 0, .w1c, .any⟩]⟩,
  /- PRS.WCOLL -/ ⟨0x4005081C, 1, 4, 1, 4, 0x00000000,
    [⟨31, 31, .wo, .any⟩, ⟨15, 0, .ro, .any⟩]⟩,
  /- PRS.TMR -/ ⟨0x40050010, 4, 4, 1, 4, 0x00000000,
    [⟨31, 31, .rw, .any⟩, ⟨23, 0, .rw, .any⟩]⟩,
  /- PRS.OVRSUM -/ ⟨0x40050030, 2, 4, 1, 4, 0x00000000,
    [⟨31, 0, .w1c, .any⟩]⟩,
  /- PRS.SUSP -/ ⟨0x40050038, 2, 4, 1, 4, 0x00000000,
    [⟨31, 0, .ro, .any⟩]⟩,
  /- PRS.FQ -/ ⟨0x40050100, 8, 16, 1, 4, 0x00000000,
    [⟨24, 16, .ro, .any⟩, ⟨8, 0, .ro, .any⟩]⟩,
  /- PRS.FW -/ ⟨0x40050104, 8, 16, 1, 4, 0x00000000,
    [⟨31, 16, .ro, .any⟩, ⟨15, 0, .ro, .any⟩]⟩,
  /- PRS.FL -/ ⟨0x40050108, 8, 16, 1, 4, 0x00000000,
    [⟨31, 31, .w1c, .any⟩, ⟨26, 16, .ro, .any⟩, ⟨10, 0, .ro, .any⟩]⟩,
  /- PRS.FRF -/ ⟨0x4005010C, 8, 16, 1, 4, 0x00000000,
    [⟨15, 0, .ro, .any⟩]⟩,
  /- PRS.FLOWCFG -/ ⟨0x40050200, 64, 4, 1, 4, 0x00000000,
    [⟨31, 31, .rws, .any⟩, ⟨30, 30, .rws, .any⟩, ⟨29, 27, .rws, .any⟩, ⟨26, 23, .rws, .any⟩, ⟨22, 22, .rws, .any⟩, ⟨21, 19, .rws, .any⟩, ⟨18, 18, .rws, .any⟩, ⟨4, 0, .rws, .any⟩]⟩,
  /- PRS.FLOWST -/ ⟨0x40050300, 64, 4, 1, 4, 0x00000000,
    [⟨31, 31, .ro, .any⟩, ⟨30, 30, .ro, .any⟩, ⟨29, 29, .w1c, .any⟩, ⟨28, 28, .w1c, .any⟩, ⟨27, 27, .w1c, .any⟩, ⟨26, 26, .ro, .any⟩, ⟨25, 25, .wo, .any⟩, ⟨15, 0, .ro, .any⟩]⟩,
  /- PRS.FINFO -/ ⟨0x40050400, 64, 4, 1, 4, 0x00000000,
    [⟨29, 16, .ro, .any⟩, ⟨3, 0, .ro, .any⟩]⟩,
  /- PRS.FRESP -/ ⟨0x40050500, 64, 4, 1, 4, 0x00000000,
    [⟨31, 16, .ro, .any⟩, ⟨15, 0, .ro, .any⟩]⟩,
  /- PRS.SATFLOW -/ ⟨0x40050810, 2, 4, 1, 4, 0x00000000,
    [⟨31, 0, .w1c, .any⟩]⟩,
  /- PRS.PLACE -/ ⟨0x40054000, 1024, 4, 1, 4, 0x00000000,
    [⟨2, 0, .rws, .any⟩, ⟨6, 4, .rws, .any⟩, ⟨10, 8, .rws, .any⟩, ⟨14, 12, .rws, .any⟩, ⟨18, 16, .rws, .any⟩, ⟨22, 20, .rws, .any⟩, ⟨26, 24, .rws, .any⟩, ⟨30, 28, .rws, .any⟩]⟩]

def regsPwm : List RegSpec := [
  /- PWM.GCFG -/ ⟨0x40060000, 8, 64, 1, 4, 0x00000000,
    [⟨31, 31, .rw, .any⟩, ⟨29, 28, .rw, (.range 0 2)⟩, ⟨27, 27, .rw, .any⟩, ⟨26, 26, .rw, .any⟩, ⟨15, 8, .rw, .any⟩, ⟨7, 0, .rw, .any⟩]⟩,
  /- PWM.PRD -/ ⟨0x40060004, 8, 64, 1, 4, 0x02710000,
    [⟨28, 8, .rw, (.range 16000 1600000)⟩, ⟨7, 0, .rw, .any⟩]⟩,
  /- PWM.SDLY -/ ⟨0x40060008, 8, 64, 1, 4, 0x00000000,
    [⟨20, 0, .rw, .any⟩]⟩,
  /- PWM.LOCK -/ ⟨0x4006000C, 8, 64, 1, 4, 0x02000200,
    [⟨27, 16, .rw, .any⟩, ⟨11, 0, .rw, .any⟩]⟩,
  /- PWM.MINP -/ ⟨0x40060010, 8, 64, 1, 4, 0x00000028,
    [⟨8, 0, .rw, (.range 0 400)⟩]⟩,
  /- PWM.GSTAT -/ ⟨0x40060014, 8, 64, 1, 4, 0x00000000,
    [⟨31, 31, .ro, .any⟩, ⟨30, 30, .ro, .any⟩, ⟨29, 29, .w1c, .any⟩, ⟨28, 28, .ro, .any⟩, ⟨27, 27, .ro, .any⟩]⟩,
  /- PWM.PHERR -/ ⟨0x40060018, 8, 64, 1, 4, 0x00000000,
    [⟨31, 0, .ro, .any⟩]⟩,
  /- PWM.DUTY -/ ⟨0x40060400, 24, 16, 1, 4, 0x00000000,
    [⟨31, 0, .rw, .any⟩]⟩,
  /- PWM.DT -/ ⟨0x40060404, 24, 16, 1, 4, 0x00000640,
    [⟨29, 16, .ro, .any⟩, ⟨13, 0, .rw, (.range 0 12800)⟩]⟩,
  /- PWM.APP -/ ⟨0x40060408, 24, 16, 1, 4, 0x00000000,
    [⟨31, 31, .ro, .any⟩, ⟨30, 30, .ro, .any⟩, ⟨29, 29, .ro, .any⟩, ⟨28, 28, .ro, .any⟩, ⟨21, 0, .ro, .any⟩]⟩,
  /- PWM.CARRY -/ ⟨0x4006040C, 24, 16, 1, 4, 0x00000000,
    [⟨31, 0, .ro, .any⟩]⟩,
  /- PWM.FLTCFG -/ ⟨0x40060800, 6, 4, 1, 4, 0x00000000,
    [⟨31, 31, .rw, .any⟩, ⟨30, 30, .rw, .any⟩, ⟨23, 16, .rw, .any⟩, ⟨7, 0, .rw, .any⟩]⟩,
  /- PWM.TRIP -/ ⟨0x40060820, 1, 4, 1, 4, 0x00000000,
    [⟨13, 8, .ro, .any⟩, ⟨5, 0, .w1c, .any⟩]⟩,
  /- PWM.STAT -/ ⟨0x40060824, 1, 4, 1, 4, 0x00000000,
    [⟨2, 2, .ro, .any⟩, ⟨1, 1, .w1c, .any⟩, ⟨0, 0, .w1c, .any⟩]⟩,
  /- PWM.FLTCNT -/ ⟨0x40060830, 6, 4, 1, 4, 0x00000000,
    [⟨31, 31, .wo, .any⟩, ⟨30, 24, .ro, .any⟩, ⟨15, 0, .ro, .any⟩]⟩,
  /- PWM.LEADGRP -/ ⟨0x40060850, 1, 4, 1, 4, 0x00000000,
    [⟨7, 0, .rw, .any⟩]⟩,
  /- PWM.DLCAL -/ ⟨0x40060860, 8, 4, 1, 4, 0x00000000,
    [⟨31, 31, .ro, .any⟩, ⟨30, 30, .w1c, .any⟩, ⟨5, 0, .ro, .any⟩]⟩]

def regsFbk0 : List RegSpec := [
  /- FBK.CFG -/ ⟨0x40070000, 8, 256, 1, 4, 0x00010000,
    [⟨31, 31, .rw, .any⟩, ⟨30, 30, .rw, .any⟩, ⟨29, 29, .rw, .any⟩, ⟨28, 28, .rw, .any⟩, ⟨27, 27, .wo, .any⟩, ⟨26, 25, .rw, (.range 0 2)⟩, ⟨19, 16, .rw, .any⟩, ⟨15, 0, .rw, .any⟩]⟩,
  /- FBK.SCALE -/ ⟨0x40070004, 8, 256, 1, 4, 0x003C0400,
    [⟨31, 16, .rw, (.range 2 65535)⟩, ⟨15, 4, .rw, (.range 1 4095)⟩, ⟨3, 0, .rw, .any⟩]⟩,
  /- FBK.CNT -/ ⟨0x40070008, 8, 256, 1, 4, 0x00000000,
    [⟨31, 0, .rw, .any⟩]⟩,
  /- FBK.MCNT -/ ⟨0x4007000C, 8, 256, 1, 4, 0x00000000,
    [⟨31, 16, .rw, .any⟩, ⟨15, 0, .rw, .any⟩]⟩,
  /- FBK.QCNT -/ ⟨0x40070010, 8, 256, 1, 4, 0x00000000,
    [⟨31, 0, .rw, .any⟩]⟩,
  /- FBK.INTP -/ ⟨0x40070014, 8, 256, 1, 4, 0x00000000,
    [⟨31, 0, .ro, .any⟩]⟩,
  /- FBK.SCCAL -/ ⟨0x40070018, 8, 256, 1, 4, 0x20002000,
    [⟨29, 16, .rw, .any⟩, ⟨13, 0, .rw, .any⟩]⟩,
  /- FBK.SCAMP -/ ⟨0x4007001C, 8, 256, 1, 4, 0x80007810,
    [⟨31, 16, .rw, (.range 16384 49152)⟩, ⟨15, 8, .rw, .any⟩, ⟨7, 0, .rw, .any⟩]⟩,
  /- FBK.TIME -/ ⟨0x40070020, 8, 256, 1, 4, 0x00000000,
    [⟨31, 0, .ro, .any⟩]⟩,
  /- FBK.INTV -/ ⟨0x40070024, 8, 256, 1, 4, 0x00000000,
    [⟨31, 0, .ro, .any⟩]⟩,
  /- FBK.TOOTH -/ ⟨0x40070028, 8, 256, 1, 4, 0x00000000,
    [⟨31, 24, .ro, .any⟩, ⟨23, 16, .ro, .any⟩, ⟨15, 8, .ro, .any⟩, ⟨7, 0, .ro, .any⟩]⟩,
  /- FBK.EVCNT -/ ⟨0x4007002C, 8, 256, 1, 4, 0x00000000,
    [⟨31, 31, .wo, .any⟩, ⟨30, 16, .ro, .any⟩, ⟨15, 0, .ro, .any⟩]⟩,
  /- FBK.STAT -/ ⟨0x40070030, 8, 256, 1, 4, 0x00000000,
    [⟨19, 19, .ro, .any⟩, ⟨18, 18, .ro, .any⟩, ⟨17, 17, .ro, .any⟩, ⟨16, 16, .ro, .any⟩, ⟨15, 15, .w1c, .any⟩, ⟨14, 14, .w1c, .any⟩, ⟨13, 13, .w1c, .any⟩, ⟨12, 12, .w1c, .any⟩, ⟨11, 11, .ro, .any⟩, ⟨10, 10, .w1c, .any⟩, ⟨9, 9, .w1c, .any⟩, ⟨8, 8, .ro, .any⟩, ⟨7, 7, .w1c, .any⟩, ⟨6, 6, .w1c, .any⟩, ⟨5, 5, .w1c, .any⟩, ⟨4, 4, .w1c, .any⟩, ⟨3, 3, .w1c, .any⟩, ⟨2, 2, .w1c, .any⟩, ⟨1, 1, .w1c, .any⟩, ⟨0, 0, .w1c, .any⟩]⟩,
  /- FBK.IDX -/ ⟨0x40070034, 8, 256, 1, 4, 0x00000000,
    [⟨3, 3, .ro, .any⟩, ⟨2, 2, .w1c, .any⟩, ⟨0, 0, .rw, .any⟩]⟩,
  /- FBK.IDXVAL -/ ⟨0x40070038, 8, 256, 1, 4, 0x00000000,
    [⟨31, 0, .rw, .any⟩]⟩,
  /- FBK.OBSCFG -/ ⟨0x4007003C, 8, 256, 1, 4, 0x03E801F4,
    [⟨31, 16, .rw, (.range 1 65535)⟩, ⟨12, 0, .rw, (.range 10 5000)⟩]⟩,
  /- FBK.OBSVE -/ ⟨0x40070040, 8, 256, 1, 4, 0x00000008,
    [⟨7, 0, .rw, (.range 1 255)⟩]⟩,
  /- FBK.ANGOFS -/ ⟨0x40070044, 8, 256, 1, 4, 0x00000000,
    [⟨31, 0, .rw, .any⟩]⟩,
  /- FBK.ANGOFSQ -/ ⟨0x40070048, 8, 256, 1, 4, 0x00000000,
    [⟨31, 0, .rw, .any⟩]⟩,
  /- FBK.OANG -/ ⟨0x40070050, 8, 256, 1, 4, 0x00000000,
    [⟨31, 0, .rw, .any⟩]⟩,
  /- FBK.OSPD -/ ⟨0x40070054, 8, 256, 1, 4, 0x00000000,
    [⟨31, 0, .rw, .any⟩]⟩,
  /- FBK.OACC -/ ⟨0x40070058, 8, 256, 1, 4, 0x00000000,
    [⟨31, 0, .ro, .any⟩]⟩,
  /- FBK.OSTAT -/ ⟨0x4007005C, 8, 256, 1, 4, 0x00000000,
    [⟨31, 0, .ro, .any⟩]⟩,
  /- FBK.WSCFG -/ ⟨0x40070800, 4, 16, 1, 4, 0x00010464,
    [⟨31, 31, .rw, .any⟩, ⟨23, 16, .rw, (.range 1 255)⟩, ⟨13, 8, .rw, .any⟩, ⟨7, 0, .rw, (.range 1 255)⟩]⟩]

def regsFbk1 : List RegSpec := [
  /- FBK.WSCNT -/ ⟨0x40070804, 4, 16, 1, 4, 0x00000000,
    [⟨31, 0, .rw, .any⟩]⟩,
  /- FBK.WSTS -/ ⟨0x40070808, 4, 16, 1, 4, 0x00000000,
    [⟨31, 0, .ro, .any⟩]⟩,
  /- FBK.WSPER -/ ⟨0x4007080C, 4, 16, 1, 4, 0x00000000,
    [⟨31, 31, .ro, .any⟩, ⟨30, 30, .w1c, .any⟩, ⟨29, 29, .ro, .any⟩, ⟨28, 28, .ro, .any⟩, ⟨27, 0, .ro, .any⟩]⟩,
  /- FBK.SNTCFG -/ ⟨0x40070A00, 4, 32, 1, 4, 0x06107800,
    [⟨31, 31, .rw, .any⟩, ⟨30, 30, .rw, .any⟩, ⟨29, 29, .rw, .any⟩, ⟨28, 27, .rw, (.range 0 2)⟩, ⟨26, 24, .rw, (.range 1 6)⟩, ⟨23, 22, .rw, (.range 0 2)⟩, ⟨21, 20, .rw, .any⟩, ⟨19, 10, .rw, (.range 30 900)⟩, ⟨9, 0, .rw, .any⟩]⟩,
  /- FBK.SNTFAST -/ ⟨0x40070A04, 4, 32, 1, 4, 0x00000000,
    [⟨31, 28, .ro, .any⟩, ⟨23, 0, .ro, .any⟩]⟩,
  /- FBK.SNTTS -/ ⟨0x40070A08, 4, 32, 1, 4, 0x00000000,
    [⟨31, 0, .ro, .any⟩]⟩,
  /- FBK.SNTSER -/ ⟨0x40070A0C, 4, 32, 1, 4, 0x00000000,
    [⟨31, 31, .w1c, .any⟩, ⟨30, 30, .ro, .any⟩, ⟨23, 16, .ro, .any⟩, ⟨15, 0, .ro, .any⟩]⟩,
  /- FBK.SNTERR -/ ⟨0x40070A10, 4, 32, 1, 4, 0x00000000,
    [⟨31, 24, .ro, .any⟩, ⟨23, 16, .ro, .any⟩, ⟨15, 8, .ro, .any⟩, ⟨7, 4, .ro, .any⟩, ⟨3, 0, .ro, .any⟩]⟩,
  /- FBK.SNTCTL -/ ⟨0x40070A14, 4, 32, 1, 4, 0x00000000,
    [⟨0, 0, .wo, .any⟩]⟩]

def regsFbk : List RegSpec := regsFbk0 ++ regsFbk1

def regsKrg : List RegSpec := [
  /- KRG.CTL -/ ⟨0x40080000, 1, 4, 1, 4, 0x00000000,
    [⟨31, 31, .rw, .any⟩, ⟨30, 30, .rw, .any⟩, ⟨29, 29, .rw, .any⟩, ⟨7, 4, .ro, .any⟩, ⟨2, 0, .rw, .any⟩]⟩,
  /- KRG.STAT -/ ⟨0x40080004, 1, 4, 1, 4, 0x00000000,
    [⟨31, 31, .w1c, .any⟩, ⟨30, 30, .w1c, .any⟩, ⟨29, 29, .w1c, .any⟩, ⟨28, 28, .w1c, .any⟩, ⟨27, 27, .w1c, .any⟩, ⟨26, 26, .w1c, .any⟩, ⟨10, 8, .ro, .any⟩, ⟨2, 0, .ro, .any⟩]⟩,
  /- KRG.CYCLEN -/ ⟨0x40080008, 1, 4, 1, 4, 0x000061A8,
    [⟨16, 0, .rw, (.range 10000 100000)⟩]⟩,
  /- KRG.SYNCCFG -/ ⟨0x4008000C, 1, 4, 1, 4, 0x1EC81905,
    [⟨31, 24, .rw, (.range 1 255)⟩, ⟨23, 16, .rw, (.range 1 255)⟩, ⟨15, 8, .rw, (.range 1 255)⟩, ⟨3, 0, .rw, .any⟩]⟩,
  /- KRG.ACTOFS -/ ⟨0x40080010, 1, 4, 1, 4, 0x00000000,
    [⟨16, 0, .rw, .any⟩]⟩,
  /- KRG.NITOFS -/ ⟨0x40080014, 1, 4, 1, 4, 0x00003A98,
    [⟨16, 0, .rw, .any⟩]⟩,
  /- KRG.CYC -/ ⟨0x40080018, 1, 4, 1, 4, 0x00000000,
    [⟨31, 0, .ro, .any⟩]⟩,
  /- KRG.CORR -/ ⟨0x4008001C, 1, 4, 1, 4, 0x00000000,
    [⟨31, 16, .ro, .any⟩, ⟨15, 0, .ro, .any⟩]⟩,
  /- KRG.SESS -/ ⟨0x40080020, 1, 4, 1, 4, 0x00000000,
    [⟨31, 0, .rw, .any⟩]⟩,
  /- KRG.VOTE -/ ⟨0x40080044, 1, 4, 1, 4, 0x00004808,
    [⟨31, 31, .rw, .any⟩, ⟨30, 28, .rw, .any⟩, ⟨23, 16, .rw, .any⟩, ⟨15, 15, .rw, .any⟩, ⟨14, 14, .rw, .any⟩, ⟨13, 8, .rw, (.range 1 63)⟩, ⟨5, 0, .rw, (.range 1 63)⟩]⟩,
  /- KRG.VOTESTAT -/ ⟨0x40080048, 1, 4, 1, 4, 0x00000000,
    [⟨31, 31, .w1c, .any⟩, ⟨30, 30, .w1c, .any⟩, ⟨29, 29, .w1c, .any⟩, ⟨28, 28, .w1c, .any⟩, ⟨27, 27, .w1c, .any⟩, ⟨15, 0, .ro, .any⟩]⟩,
  /- KRG.GMARGIN -/ ⟨0x4008004C, 1, 4, 1, 4, 0x00000032,
    [⟨7, 0, .rw, (.range 1 255)⟩]⟩,
  /- KRG.TXBASE -/ ⟨0x40080050, 1, 4, 1, 4, 0x20000000,
    [⟨31, 14, .rw, .any⟩]⟩,
  /- KRG.RXBASE -/ ⟨0x40080054, 1, 4, 1, 4, 0x20080000,
    [⟨31, 15, .rw, .any⟩]⟩,
  /- KRG.CNTCLR -/ ⟨0x40080600, 1, 4, 1, 4, 0x00000000,
    [⟨0, 0, .wo, .any⟩]⟩,
  /- KRG.NRDY -/ ⟨0x40080604, 1, 4, 1, 4, 0x00000000,
    [⟨15, 0, .ro, .any⟩]⟩,
  /- KRG.KEY -/ ⟨0x40080024, 2, 16, 4, 4, 0x00000000,
    [⟨31, 0, .wo, .any⟩]⟩,
  /- KRG.TXRDY -/ ⟨0x40080058, 2, 4, 1, 4, 0x00000000,
    [⟨31, 0, .rw, .any⟩]⟩,
  /- KRG.RXIEN -/ ⟨0x40080060, 2, 4, 1, 4, 0x00000000,
    [⟨31, 0, .rw, .any⟩]⟩,
  /- KRG.PORTCFG -/ ⟨0x40080080, 4, 16, 1, 4, 0x000000C8,
    [⟨31, 31, .rw, .any⟩, ⟨30, 28, .rw, (.spans [(0, 2), (4, 5)])⟩, ⟨9, 0, .rw, .any⟩]⟩,
  /- KRG.PORTSTAT -/ ⟨0x40080084, 4, 16, 1, 4, 0x03800000,
    [⟨31, 31, .ro, .any⟩, ⟨30, 30, .ro, .any⟩, ⟨29, 29, .w1c, .any⟩, ⟨28, 26, .ro, .any⟩, ⟨25, 23, .ro, .any⟩, ⟨9, 0, .ro, .any⟩]⟩,
  /- KRG.PORTCNT -/ ⟨0x40080088, 4, 16, 1, 4, 0x00000000,
    [⟨31, 16, .ro, .any⟩, ⟨15, 0, .ro, .any⟩]⟩,
  /- KRG.SCNT -/ ⟨0x40080400, 2, 256, 64, 4, 0x00000000,
    [⟨31, 24, .ro, .any⟩, ⟨23, 16, .ro, .any⟩, ⟨15, 8, .ro, .any⟩, ⟨7, 4, .ro, .any⟩, ⟨3, 0, .ro, .any⟩]⟩,
  /- KRG.APT -/ ⟨0x40081000, 8, 256, 64, 4, 0x00100000,
    [⟨31, 31, .rw, .any⟩, ⟨30, 27, .rw, .any⟩, ⟨26, 26, .rw, .any⟩, ⟨25, 25, .rw, .any⟩, ⟨24, 20, .rw, (.range 1 30)⟩, ⟨16, 0, .rw, .any⟩]⟩]

def regsCan : List RegSpec := [
  /- CAN.MCTL -/ ⟨0x40090000, 2, 4096, 1, 4, 0x81000000,
    [⟨31, 31, .rw, .any⟩, ⟨30, 28, .rw, (.range 0 4)⟩, ⟨27, 27, .rw, .any⟩, ⟨26, 26, .rw, .any⟩, ⟨25, 25, .rw, .any⟩, ⟨24, 24, .rw, .any⟩, ⟨23, 23, .rw, .any⟩, ⟨22, 22, .rw, .any⟩]⟩,
  /- CAN.ARBT -/ ⟨0x40090004, 2, 4096, 1, 4, 0x023B1410,
    [⟨31, 24, .rw, (.range 1 255)⟩, ⟨23, 16, .rw, (.range 2 255)⟩, ⟨14, 8, .rw, (.range 1 127)⟩, ⟨6, 0, .rw, (.range 1 127)⟩]⟩,
  /- CAN.DATT -/ ⟨0x40090008, 2, 4096, 1, 4, 0x010B0404,
    [⟨28, 24, .rw, (.range 1 31)⟩, ⟨20, 16, .rw, (.range 1 31)⟩, ⟨12, 8, .rw, (.range 1 31)⟩, ⟨4, 0, .rw, (.range 1 31)⟩]⟩,
  /- CAN.SSP -/ ⟨0x4009000C, 2, 4096, 1, 4, 0x00000000,
    [⟨31, 31, .rw, .any⟩, ⟨14, 8, .rw, .any⟩, ⟨6, 0, .ro, .any⟩]⟩,
  /- CAN.STAT -/ ⟨0x40090010, 2, 4096, 1, 4, 0x00000000,
    [⟨31, 31, .ro, .any⟩, ⟨30, 30, .ro, .any⟩, ⟨29, 29, .ro, .any⟩, ⟨28, 28, .w1c, .any⟩, ⟨27, 27, .w1c, .any⟩, ⟨26, 26, .ro, .any⟩, ⟨2, 0, .ro, .any⟩]⟩,
  /- CAN.ECNT -/ ⟨0x40090014, 2, 4096, 1, 4, 0x00000000,
    [⟨23, 23, .ro, .any⟩, ⟨22, 16, .ro, .any⟩, ⟨7, 0, .ro, .any⟩]⟩,
  /- CAN.RXBASE -/ ⟨0x40090018, 2, 4096, 1, 4, 0x00000000,
    [⟨31, 4, .rw, .any⟩]⟩,
  /- CAN.RXQ -/ ⟨0x4009001C, 2, 4096, 1, 4, 0x00100010,
    [⟨31, 31, .rw, .any⟩, ⟨30, 30, .rw, .any⟩, ⟨22, 16, .rw, (.range 1 64)⟩, ⟨14, 14, .rw, .any⟩, ⟨6, 0, .rw, (.range 1 64)⟩]⟩,
  /- CAN.RXPTR -/ ⟨0x40090020, 2, 4096, 1, 4, 0x00000000,
    [⟨29, 24, .ro, .any⟩, ⟨22, 16, .ro, .any⟩, ⟨13, 8, .ro, .any⟩, ⟨6, 0, .ro, .any⟩]⟩,
  /- CAN.RXACK -/ ⟨0x40090024, 2, 4096, 1, 4, 0x00000000,
    [⟨22, 16, .wo, .any⟩, ⟨6, 0, .wo, .any⟩]⟩,
  /- CAN.RXDROP -/ ⟨0x40090028, 2, 4096, 1, 4, 0x00000000,
    [⟨31, 16, .ro, .any⟩, ⟨15, 0, .ro, .any⟩]⟩,
  /- CAN.TXTBL -/ ⟨0x4009002C, 2, 4096, 1, 4, 0x00000000,
    [⟨31, 4, .rw, .any⟩]⟩,
  /- CAN.TXGO -/ ⟨0x40090030, 2, 4096, 1, 4, 0x00000000,
    [⟨31, 0, .wo, .any⟩]⟩,
  /- CAN.TXBUSY -/ ⟨0x40090034, 2, 4096, 1, 4, 0x00000000,
    [⟨31, 0, .ro, .any⟩]⟩,
  /- CAN.TXEND -/ ⟨0x40090038, 2, 4096, 1, 4, 0x00000000,
    [⟨31, 0, .w1c, .any⟩]⟩,
  /- CAN.TXABORT -/ ⟨0x4009003C, 2, 4096, 1, 4, 0x00000000,
    [⟨31, 0, .wo, .any⟩]⟩,
  /- CAN.ACPT -/ ⟨0x40090040, 2, 4096, 64, 8, 0x00000000,
    [⟨31, 31, .rw, .any⟩, ⟨30, 30, .rw, .any⟩, ⟨29, 29, .rw, .any⟩, ⟨28, 0, .rw, .any⟩]⟩,
  /- CAN.ACPM -/ ⟨0x40090044, 2, 4096, 64, 8, 0x1FFFFFFF,
    [⟨31, 31, .rw, .any⟩, ⟨28, 0, .rw, .any⟩]⟩]

def regsLnk : List RegSpec := [
  /- LNK.CTL -/ ⟨0x400A0000, 1, 4, 1, 4, 0x10000000,
    [⟨31, 31, .rw, .any⟩, ⟨30, 30, .rw, .any⟩, ⟨29, 29, .wo, .any⟩, ⟨28, 28, .rw, .any⟩]⟩,
  /- LNK.CFG -/ ⟨0x400A0004, 1, 4, 1, 4, 0x3D004A38,
    [⟨31, 24, .rw, .any⟩, ⟨23, 20, .rw, .any⟩, ⟨16, 0, .rw, .any⟩]⟩,
  /- LNK.XCFG -/ ⟨0x400A0008, 1, 4, 1, 4, 0x10340000,
    [⟨31, 24, .rw, (.range 1 255)⟩, ⟨23, 20, .rw, (.range 1 15)⟩, ⟨19, 10, .rw, .any⟩]⟩,
  /- LNK.ALONE -/ ⟨0x400A000C, 1, 4, 1, 4, 0x00000FA0,
    [⟨11, 0, .rw, .any⟩]⟩,
  /- LNK.STAT -/ ⟨0x400A0010, 1, 4, 1, 4, 0x00180000,
    [⟨31, 31, .ro, .any⟩, ⟨30, 30, .ro, .any⟩, ⟨29, 29, .ro, .any⟩, ⟨28, 28, .ro, .any⟩, ⟨27, 27, .ro, .any⟩, ⟨26, 24, .ro, .any⟩, ⟨23, 21, .ro, .any⟩, ⟨20, 19, .ro, .any⟩, ⟨18, 16, .ro, .any⟩]⟩,
  /- LNK.EVT -/ ⟨0x400A0014, 1, 4, 1, 4, 0x00000000,
    [⟨9, 9, .w1c, .any⟩, ⟨8, 8, .w1c, .any⟩, ⟨7, 7, .w1c, .any⟩, ⟨6, 6, .w1c, .any⟩, ⟨5, 5, .w1c, .any⟩, ⟨4, 4, .w1c, .any⟩, ⟨3, 3, .w1c, .any⟩, ⟨2, 2, .w1c, .any⟩, ⟨1, 1, .w1c, .any⟩, ⟨0, 0, .w1c, .any⟩]⟩,
  /- LNK.CNT -/ ⟨0x400A0018, 1, 4, 1, 4, 0x00000000,
    [⟨31, 16, .ro, .any⟩, ⟨15, 0, .ro, .any⟩]⟩,
  /- LNK.NIN -/ ⟨0x400A0040, 1, 4, 1, 4, 0x00000000,
    [⟨1, 0, .ro, .any⟩, ⟨3, 2, .ro, .any⟩, ⟨5, 4, .ro, .any⟩, ⟨7, 6, .ro, .any⟩, ⟨9, 8, .ro, .any⟩, ⟨11, 10, .ro, .any⟩, ⟨13, 12, .ro, .any⟩, ⟨15, 14, .ro, .any⟩]⟩,
  /- LNK.SHCLAMP -/ ⟨0x400A0044, 1, 4, 1, 4, 0x00000000,
    [⟨7, 0, .rw, .any⟩]⟩,
  /- LNK.DCI -/ ⟨0x400A0048, 1, 4, 1, 4, 0x00000000,
    [⟨1, 1, .ro, .any⟩, ⟨0, 0, .rw, .any⟩]⟩,
  /- LNK.SNAPSRC -/ ⟨0x400A004C, 1, 4, 1, 4, 0x20100000,
    [⟨31, 0, .rw, .any⟩]⟩,
  /- LNK.SNAPRX -/ ⟨0x400A0050, 1, 4, 1, 4, 0x20110000,
    [⟨31, 0, .rw, .any⟩]⟩,
  /- LNK.SNAPCYC -/ ⟨0x400A0054, 1, 4, 1, 4, 0x00000000,
    [⟨31, 0, .ro, .any⟩]⟩,
  /- LNK.CH -/ ⟨0x400A0020, 6, 4, 1, 4, 0x00000000,
    [⟨31, 31, .rw, .any⟩, ⟨30, 30, .rw, .any⟩, ⟨5, 0, .rw, .any⟩]⟩,
  /- LNK.AGR -/ ⟨0x400A0060, 4, 4, 1, 4, 0x00000000,
    [⟨31, 0, .ro, .any⟩]⟩]

def regsCfg : List RegSpec := [
  /- CFG.CTL -/ ⟨0x400B0000, 1, 4, 1, 4, 0x00000000,
    [⟨31, 31, .rw, .any⟩, ⟨30, 30, .wo, .any⟩]⟩,
  /- CFG.STAT -/ ⟨0x400B0004, 1, 4, 1, 4, 0x00000000,
    [⟨31, 31, .ro, .any⟩, ⟨30, 30, .ro, .any⟩, ⟨29, 29, .w1c, .any⟩, ⟨28, 28, .w1c, .any⟩, ⟨27, 27, .w1c, .any⟩, ⟨26, 26, .w1c, .any⟩, ⟨25, 25, .w1c, .any⟩, ⟨15, 0, .ro, .any⟩]⟩,
  /- CFG.PLACE -/ ⟨0x400B0008, 1, 4, 1, 4, 0x000000FF,
    [⟨7, 0, .rws, .any⟩]⟩,
  /- CFG.SHADDR -/ ⟨0x400B000C, 1, 4, 1, 4, 0x00000000,
    [⟨31, 2, .rw, .any⟩]⟩,
  /- CFG.SHDATA -/ ⟨0x400B0010, 1, 4, 1, 4, 0x00000000,
    [⟨31, 0, .ro, .any⟩]⟩]

def regsBst : List RegSpec := [
  /- BST.CTL -/ ⟨0x400C0000, 1, 4, 1, 4, 0x00000000,
    [⟨31, 31, .wo, .any⟩, ⟨30, 30, .wo, .any⟩, ⟨16, 0, .rw, .any⟩]⟩,
  /- BST.STAT -/ ⟨0x400C0004, 1, 4, 1, 4, 0x1F000000,
    [⟨31, 31, .ro, .any⟩, ⟨30, 30, .w1c, .any⟩, ⟨29, 29, .w1c, .any⟩, ⟨28, 24, .ro, .any⟩, ⟨2, 2, .ro, .any⟩, ⟨1, 0, .ro, .any⟩]⟩,
  /- BST.CUT -/ ⟨0x400C01C0, 1, 4, 1, 4, 0x001F0000,
    [⟨31, 31, .w1c, .any⟩, ⟨20, 16, .ro, .any⟩, ⟨8, 8, .ro, .any⟩, ⟨3, 0, .ro, .any⟩]⟩,
  /- BST.ACTL -/ ⟨0x400C0200, 1, 4, 1, 4, 0x00000000,
    [⟨31, 31, .wo, .any⟩, ⟨30, 30, .wo, .any⟩, ⟨15, 8, .rw, .any⟩, ⟨3, 0, .rw, (.range 1 9)⟩]⟩,
  /- BST.ARES -/ ⟨0x400C0204, 1, 4, 1, 4, 0x00000000,
    [⟨31, 30, .ro, .any⟩, ⟨29, 29, .ro, .any⟩, ⟨28, 28, .w1c, .any⟩, ⟨27, 27, .w1c, .any⟩, ⟨15, 0, .ro, .any⟩]⟩,
  /- BST.AEXP -/ ⟨0x400C0208, 1, 4, 1, 4, 0x00000000,
    [⟨31, 16, .ro, .any⟩, ⟨15, 0, .ro, .any⟩]⟩,
  /- BST.REFSIG -/ ⟨0x400C0008, 3, 4, 1, 4, 0x00000000,
    [⟨31, 0, .ro, .any⟩]⟩,
  /- BST.RES -/ ⟨0x400C0040, 17, 4, 1, 4, 0x00000000,
    [⟨31, 20, .ro, .any⟩, ⟨19, 8, .ro, .any⟩, ⟨5, 4, .ro, .any⟩, ⟨3, 2, .ro, .any⟩, ⟨1, 0, .ro, .any⟩]⟩,
  /- BST.SIG -/ ⟨0x400C0100, 17, 8, 2, 4, 0x00000000,
    [⟨31, 0, .ro, .any⟩]⟩]

def regsMgn : List RegSpec := [
  /- MGN.CTL -/ ⟨0x400D0000, 1, 4, 1, 4, 0x00000000,
    [⟨31, 31, .rw, .any⟩, ⟨2, 2, .rw, .any⟩, ⟨1, 1, .rw, .any⟩, ⟨0, 0, .rw, .any⟩]⟩,
  /- MGN.STAT -/ ⟨0x400D0004, 1, 4, 1, 4, 0x00000000,
    [⟨11, 11, .w1c, .any⟩, ⟨10, 8, .ro, .any⟩, ⟨6, 0, .w1c, .any⟩]⟩,
  /- MGN.APPROVE -/ ⟨0x400D0008, 1, 4, 1, 4, 0x00000000,
    [⟨31, 31, .rwp, .any⟩, ⟨17, 16, .rwp, (.range 0 2)⟩, ⟨4, 0, .rwp, (.range 0 23)⟩]⟩,
  /- MGN.VIDP -/ ⟨0x400D000C, 1, 4, 1, 4, 0x00001400,
    [⟨31, 31, .ro, .any⟩, ⟨12, 8, .ro, .any⟩, ⟨5, 0, .ro, .any⟩]⟩,
  /- MGN.SLACK -/ ⟨0x400D0010, 1, 4, 1, 4, 0x00007FFF,
    [⟨31, 16, .ro, .any⟩, ⟨15, 0, .ro, .any⟩]⟩,
  /- MGN.PDS -/ ⟨0x400D0040, 16, 4, 1, 4, 0x00000000,
    [⟨15, 0, .ro, .any⟩]⟩,
  /- MGN.RON -/ ⟨0x400D0100, 24, 32, 1, 4, 0xFFFFFFFF,
    [⟨31, 16, .ro, .any⟩, ⟨15, 0, .ro, .any⟩]⟩,
  /- MGN.TOFF -/ ⟨0x400D0104, 24, 32, 1, 4, 0x00000000,
    [⟨31, 16, .ro, .any⟩, ⟨15, 0, .ro, .any⟩]⟩,
  /- MGN.DROOP -/ ⟨0x400D0108, 24, 32, 1, 4, 0x00000000,
    [⟨15, 0, .ro, .any⟩]⟩,
  /- MGN.DTP -/ ⟨0x400D010C, 24, 32, 1, 4, 0x00000000,
    [⟨31, 31, .ro, .any⟩, ⟨13, 0, .ro, .any⟩]⟩,
  /- MGN.THRP -/ ⟨0x400D0110, 24, 32, 1, 4, 0x00000000,
    [⟨31, 31, .ro, .any⟩, ⟨5, 0, .ro, .any⟩]⟩,
  /- MGN.OFS -/ ⟨0x400D0400, 8, 16, 1, 4, 0x20002000,
    [⟨29, 16, .ro, .any⟩, ⟨13, 0, .ro, .any⟩]⟩,
  /- MGN.OFSW -/ ⟨0x400D0404, 8, 16, 1, 4, 0x00002000,
    [⟨31, 16, .ro, .any⟩, ⟨13, 0, .ro, .any⟩]⟩]

def regsInj : List RegSpec := [
  /- INJ.KEY -/ ⟨0x400E0000, 1, 4, 1, 4, 0x00000000,
    [⟨15, 0, .wo, .any⟩]⟩,
  /- INJ.SEL -/ ⟨0x400E0004, 1, 4, 1, 4, 0x00000000,
    [⟨23, 8, .rw, .any⟩, ⟨7, 0, .rw, (.range 0 139)⟩]⟩,
  /- INJ.ADDR -/ ⟨0x400E0008, 1, 4, 1, 4, 0x00000000,
    [⟨31, 3, .rw, .any⟩]⟩,
  /- INJ.CTL -/ ⟨0x400E000C, 1, 4, 1, 4, 0x00000000,
    [⟨31, 31, .wo, .any⟩, ⟨30, 30, .wo, .any⟩, ⟨11, 0, .rw, .any⟩]⟩,
  /- INJ.STAT -/ ⟨0x400E0010, 1, 4, 1, 4, 0x00000000,
    [⟨31, 31, .ro, .any⟩, ⟨30, 30, .ro, .any⟩, ⟨29, 29, .w1c, .any⟩, ⟨28, 28, .w1c, .any⟩, ⟨27, 27, .w1c, .any⟩, ⟨7, 0, .ro, .any⟩]⟩]

def regsEvc : List RegSpec := [
  /- EVC.GCTL -/ ⟨0x400F0000, 1, 4, 1, 4, 0x00000000,
    [⟨31, 0, .rw, .any⟩]⟩,
  /- EVC.THRST -/ ⟨0x400F0004, 1, 4, 1, 4, 0x00000000,
    [⟨31, 0, .w1c, .any⟩]⟩,
  /- EVC.WRAP -/ ⟨0x400F0008, 1, 4, 1, 4, 0x00000000,
    [⟨31, 0, .w1c, .any⟩]⟩,
  /- EVC.CLR -/ ⟨0x400F000C, 1, 4, 1, 4, 0x00000000,
    [⟨31, 0, .wo, .any⟩]⟩,
  /- EVC.SEL -/ ⟨0x400F0100, 32, 4, 1, 4, 0x00000000,
    [⟨31, 31, .rw, .any⟩, ⟨29, 24, .rw, (.range 0 47)⟩, ⟨7, 0, .rw, (.spans [(0, 4), (8, 27), (32, 72), (80, 86), (96, 101), (104, 111), (112, 115), (128, 255)])⟩]⟩,
  /- EVC.CNTL -/ ⟨0x400F0200, 32, 8, 1, 4, 0x00000000,
    [⟨31, 0, .ro, .any⟩]⟩,
  /- EVC.CNTH -/ ⟨0x400F0204, 32, 8, 1, 4, 0x00000000,
    [⟨15, 0, .ro, .any⟩]⟩]

def regsLup : List RegSpec := [
  /- LUP.CTL -/ ⟨0x40100000, 4, 64, 1, 4, 0x00000000,
    [⟨31, 31, .wo, .any⟩, ⟨30, 30, .wo, .any⟩, ⟨29, 29, .wo, .any⟩, ⟨17, 16, .rw, .any⟩, ⟨15, 13, .rw, .any⟩, ⟨12, 10, .rw, (.range 0 5)⟩, ⟨9, 8, .rw, (.range 0 2)⟩, ⟨5, 0, .rw, .any⟩]⟩,
  /- LUP.SMP -/ ⟨0x40100004, 4, 64, 1, 4, 0x00000000,
    [⟨31, 31, .rw, .any⟩, ⟨11, 8, .rw, .any⟩, ⟨5, 0, .rw, .any⟩]⟩,
  /- LUP.THR -/ ⟨0x40100008, 4, 64, 1, 4, 0x00000000,
    [⟨31, 0, .rw, .any⟩]⟩,
  /- LUP.PRE -/ ⟨0x4010000C, 4, 64, 1, 4, 0x00000000,
    [⟨11, 0, .rw, .any⟩]⟩,
  /- LUP.BASE -/ ⟨0x40100010, 4, 64, 1, 4, 0x20000000,
    [⟨31, 14, .rw, .any⟩]⟩,
  /- LUP.STAT -/ ⟨0x40100014, 4, 64, 1, 4, 0x00000000,
    [⟨31, 31, .w1c, .any⟩, ⟨30, 30, .ro, .any⟩, ⟨29, 29, .ro, .any⟩, ⟨28, 28, .w1c, .any⟩, ⟨27, 27, .ro, .any⟩, ⟨23, 12, .ro, .any⟩, ⟨11, 0, .ro, .any⟩]⟩,
  /- LUP.CH -/ ⟨0x40100020, 4, 64, 8, 4, 0x00000000,
    [⟨31, 30, .rw, (.range 0 2)⟩, ⟨13, 0, .rw, .any⟩]⟩]

def regsSpp : List RegSpec := [
  /- SPP.STAT -/ ⟨0x40110000, 1, 4, 1, 4, 0x00000001,
    [⟨7, 7, .ro, .any⟩, ⟨6, 6, .ro, .any⟩, ⟨5, 5, .w1c, .any⟩, ⟨4, 4, .w1c, .any⟩, ⟨3, 3, .w1c, .any⟩, ⟨2, 0, .ro, .any⟩]⟩,
  /- SPP.ERRCNT -/ ⟨0x40110004, 1, 4, 1, 4, 0x00000000,
    [⟨31, 16, .ro, .any⟩, ⟨15, 0, .ro, .any⟩]⟩]

def regsGdr : List RegSpec := [
  /- GDR.DRV -/ ⟨0x50000000, 24, 16, 1, 4, 0x00107777,
    [⟨21, 20, .rw, .any⟩, ⟨15, 12, .rw, .any⟩, ⟨11, 8, .rw, .any⟩, ⟨7, 4, .rw, .any⟩, ⟨3, 0, .rw, .any⟩]⟩,
  /- GDR.VDS -/ ⟨0x50000004, 24, 16, 1, 4, 0x10001047,
    [⟨28, 24, .ro, .any⟩, ⟨20, 16, .ro, .any⟩, ⟨12, 8, .rwp, .any⟩, ⟨7, 5, .rwp, (.range 0 4)⟩, ⟨4, 0, .rwp, .any⟩]⟩,
  /- GDR.STAT -/ ⟨0x50000008, 24, 16, 1, 4, 0x00000000,
    [⟨7, 7, .ro, .any⟩, ⟨6, 6, .w1c, .any⟩, ⟨5, 5, .w1c, .any⟩, ⟨4, 4, .w1c, .any⟩, ⟨3, 3, .w1c, .any⟩, ⟨2, 2, .w1c, .any⟩, ⟨1, 1, .w1c, .any⟩, ⟨0, 0, .w1c, .any⟩]⟩,
  /- GDR.SOFT -/ ⟨0x50000200, 8, 4, 1, 4, 0x00000053,
    [⟨7, 4, .rwp, (.range 1 15)⟩, ⟨2, 0, .rwp, .any⟩]⟩,
  /- GDR.HSCFG -/ ⟨0x50000240, 1, 4, 1, 4, 0x00000001,
    [⟨2, 0, .rw, .any⟩]⟩,
  /- GDR.EVT -/ ⟨0x50000244, 1, 4, 1, 4, 0x00000000,
    [⟨31, 31, .wo, .any⟩, ⟨15, 0, .ro, .any⟩]⟩,
  /- GDR.EVLEGS -/ ⟨0x50000248, 1, 4, 1, 4, 0x00000000,
    [⟨23, 0, .ro, .any⟩]⟩]

def regsAdc : List RegSpec := [
  /- ADC.SEQCFG -/ ⟨0x50010000, 8, 64, 1, 4, 0x00000020,
    [⟨31, 31, .rw, .any⟩, ⟨27, 24, .rw, (.spans [(0, 5), (15, 15)])⟩, ⟨17, 17, .rw, .any⟩, ⟨16, 16, .rw, .any⟩, ⟨7, 0, .rw, (.range 8 255)⟩]⟩,
  /- ADC.STAT -/ ⟨0x50010004, 8, 64, 1, 4, 0x00000000,
    [⟨31, 31, .wo, .any⟩, ⟨20, 20, .w1c, .any⟩, ⟨19, 16, .ro, .any⟩, ⟨15, 12, .ro, .any⟩, ⟨11, 0, .ro, .any⟩]⟩,
  /- ADC.SKIPCNT -/ ⟨0x50010008, 8, 64, 1, 4, 0x00000000,
    [⟨31, 16, .ro, .any⟩, ⟨15, 0, .ro, .any⟩]⟩,
  /- ADC.VDC -/ ⟨0x5001000C, 8, 64, 1, 4, 0x00000000,
    [⟨31, 31, .w1c, .any⟩, ⟨13, 0, .ro, .any⟩]⟩,
  /- ADC.ZXCFG -/ ⟨0x50010010, 8, 64, 1, 4, 0x000003E8,
    [⟨31, 31, .rw, .any⟩, ⟨15, 0, .rw, (.range 1 65535)⟩]⟩,
  /- ADC.ZX -/ ⟨0x50010014, 8, 64, 1, 4, 0x00000000,
    [⟨31, 31, .w1c, .any⟩, ⟨30, 30, .ro, .any⟩, ⟨29, 29, .ro, .any⟩, ⟨2, 0, .ro, .any⟩]⟩,
  /- ADC.ZXT -/ ⟨0x50010018, 8, 64, 1, 4, 0x00000000,
    [⟨31, 0, .ro, .any⟩]⟩,
  /- ADC.ZXI0 -/ ⟨0x5001001C, 8, 64, 1, 4, 0x00000000,
    [⟨31, 0, .ro, .any⟩]⟩,
  /- ADC.ZXI1 -/ ⟨0x50010020, 8, 64, 1, 4, 0x00000000,
    [⟨31, 0, .ro, .any⟩]⟩]

def regsCsa : List RegSpec := [
  /- CSA.CFG -/ ⟨0x50020000, 24, 4, 1, 4, 0x00000002,
    [⟨2, 0, .rw, (.range 0 4)⟩]⟩,
  /- CSA.CLIP -/ ⟨0x50020060, 1, 4, 1, 4, 0x00000000,
    [⟨23, 0, .w1c, .any⟩]⟩]

def regsAon : List RegSpec := [
  /- AON.TRIM -/ ⟨0x60000000, 1, 4, 1, 4, 0x00000000,
    [⟨23, 16, .ro, .any⟩, ⟨7, 0, .ro, .any⟩]⟩,
  /- AON.GLCFG -/ ⟨0x60000004, 1, 4, 1, 4, 0x00A003E7,
    [⟨31, 31, .rw, .any⟩, ⟨29, 28, .rw, .any⟩, ⟨27, 20, .rw, .any⟩, ⟨13, 0, .rw, (.range 0 15999)⟩]⟩,
  /- AON.SUPCFG -/ ⟨0x60000008, 1, 4, 1, 4, 0x00000000,
    [⟨3, 2, .rw, (.range 0 2)⟩, ⟨1, 0, .rw, (.range 0 2)⟩]⟩,
  /- AON.WAKEEN -/ ⟨0x6000000C, 1, 4, 1, 4, 0x00000001,
    [⟨3, 3, .rw, .any⟩, ⟨2, 2, .rw, .any⟩, ⟨1, 1, .rw, .any⟩, ⟨0, 0, .ro, .any⟩]⟩,
  /- AON.WAKESRC -/ ⟨0x60000010, 1, 4, 1, 4, 0x00000000,
    [⟨11, 8, .ro, .any⟩, ⟨4, 4, .w1c, .any⟩, ⟨3, 3, .w1c, .any⟩, ⟨2, 2, .w1c, .any⟩, ⟨1, 1, .w1c, .any⟩, ⟨0, 0, .w1c, .any⟩]⟩,
  /- AON.SLBASE -/ ⟨0x60000014, 1, 4, 1, 4, 0x10C40000,
    [⟨31, 0, .rw, .any⟩]⟩,
  /- AON.SLCTL -/ ⟨0x60000018, 1, 4, 1, 4, 0x00000000,
    [⟨31, 31, .ro, .any⟩, ⟨30, 30, .ro, .any⟩, ⟨29, 29, .ro, .any⟩, ⟨28, 19, .ro, .any⟩, ⟨9, 0, .rw, (.range 0 512)⟩]⟩,
  /- AON.SLCRC -/ ⟨0x6000001C, 1, 4, 1, 4, 0x00000000,
    [⟨31, 0, .ro, .any⟩]⟩,
  /- AON.PCCTL -/ ⟨0x60000020, 1, 4, 1, 4, 0x00000000,
    [⟨31, 24, .rw, .any⟩, ⟨23, 16, .rw, .any⟩, ⟨5, 5, .ro, .any⟩, ⟨4, 4, .ro, .any⟩, ⟨3, 3, .rw, .any⟩, ⟨2, 2, .rw, .any⟩, ⟨1, 1, .rw, .any⟩, ⟨0, 0, .rw, .any⟩]⟩,
  /- AON.PCNT -/ ⟨0x60000024, 2, 4, 1, 4, 0x00000000,
    [⟨23, 0, .rw, .any⟩]⟩,
  /- AON.GLCH -/ ⟨0x60000040, 8, 4, 1, 4, 0xFFFFC000,
    [⟨31, 28, .rw, (.spans [(0, 9), (15, 15)])⟩, ⟨27, 14, .rw, .any⟩, ⟨13, 0, .rw, .any⟩]⟩,
  /- AON.GLRES -/ ⟨0x60000060, 8, 4, 1, 4, 0x00000000,
    [⟨31, 31, .ro, .any⟩, ⟨13, 0, .ro, .any⟩]⟩,
  /- AON.WLOG -/ ⟨0x60000080, 8, 4, 1, 4, 0x00000000,
    [⟨31, 28, .ro, .any⟩, ⟨27, 24, .ro, .any⟩, ⟨23, 22, .ro, .any⟩, ⟨15, 0, .ro, .any⟩]⟩,
  /- AON.SLSKIP -/ ⟨0x600000A0, 16, 4, 1, 4, 0x00000000,
    [⟨31, 0, .ro, .any⟩]⟩]

def regsHwm : List RegSpec := [
  /- HWM.STAT -/ ⟨0x70000000, 1, 4, 1, 4, 0x84000000,
    [⟨31, 31, .ro, .any⟩, ⟨30, 30, .ro, .any⟩, ⟨29, 29, .ro, .any⟩, ⟨28, 28, .w1c, .any⟩, ⟨27, 27, .ro, .any⟩, ⟨26, 26, .ro, .any⟩]⟩,
  /- HWM.RXSTAT -/ ⟨0x70000004, 1, 4, 1, 4, 0x00000000,
    [⟨31, 31, .ro, .any⟩, ⟨30, 30, .ro, .any⟩, ⟨24, 24, .w1c, .any⟩, ⟨23, 16, .ro, .any⟩, ⟨15, 8, .ro, .any⟩]⟩,
  /- HWM.RXREL -/ ⟨0x70000008, 1, 4, 1, 4, 0x00000000,
    [⟨30, 30, .wo, .any⟩, ⟨7, 0, .wo, .any⟩]⟩,
  /- HWM.DETLAST -/ ⟨0x7000000C, 1, 4, 1, 4, 0x00000000,
    [⟨31, 31, .w1c, .any⟩, ⟨30, 30, .w1c, .any⟩, ⟨26, 24, .ro, .any⟩, ⟨15, 8, .ro, .any⟩, ⟨7, 0, .ro, .any⟩]⟩,
  /- HWM.DETCNT -/ ⟨0x70000010, 1, 4, 1, 4, 0x00000000,
    [⟨31, 31, .wo, .any⟩, ⟨15, 0, .ro, .any⟩]⟩,
  /- HWM.FCTL -/ ⟨0x70000014, 1, 4, 1, 4, 0x00000000,
    [⟨0, 0, .rw, .any⟩]⟩,
  /- HWM.PDL -/ ⟨0x70000020, 1, 4, 1, 4, 0x00000000,
    [⟨31, 16, .ro, .any⟩, ⟨15, 0, .ro, .any⟩]⟩,
  /- HWM.LIMPSTAT -/ ⟨0x70000024, 1, 4, 1, 4, 0x00000FFF,
    [⟨31, 16, .ro, .any⟩, ⟨15, 12, .ro, .any⟩, ⟨11, 0, .ro, .any⟩]⟩,
  /- HWM.LIFE -/ ⟨0x70000030, 1, 4, 1, 4, 0x00000000,
    [⟨31, 0, .ro, .any⟩]⟩,
  /- HWM.PWENT -/ ⟨0x70000040, 1, 4, 1, 4, 0x00000000,
    [⟨15, 0, .wo, .any⟩]⟩,
  /- HWM.PWSTAT -/ ⟨0x70000044, 1, 4, 1, 4, 0x00000000,
    [⟨31, 31, .ro, .any⟩, ⟨30, 30, .ro, .any⟩, ⟨29, 28, .ro, .any⟩, ⟨27, 24, .ro, .any⟩]⟩,
  /- HWM.PWCTL -/ ⟨0x70000048, 1, 4, 1, 4, 0x00000000,
    [⟨31, 31, .wo, .any⟩, ⟨15, 0, .rw, .any⟩]⟩,
  /- HWM.SPBSTAT -/ ⟨0x7000004C, 1, 4, 1, 4, 0x00000000,
    [⟨31, 31, .ro, .any⟩, ⟨30, 30, .w1c, .any⟩, ⟨29, 29, .w1c, .any⟩, ⟨3, 0, .ro, .any⟩]⟩,
  /- HWM.LOGSTAT -/ ⟨0x70000050, 1, 4, 1, 4, 0x00000000,
    [⟨31, 16, .ro, .any⟩, ⟨7, 7, .ro, .any⟩, ⟨6, 0, .ro, .any⟩]⟩,
  /- HWM.GCFG -/ ⟨0x70000400, 1, 4, 1, 4, 0x0BB861A8,
    [⟨31, 31, .rwp, .any⟩, ⟨30, 17, .rwp, .any⟩, ⟨16, 0, .rwp, .any⟩]⟩,
  /- HWM.GSTAT -/ ⟨0x70000404, 1, 4, 1, 4, 0x00000000,
    [⟨31, 31, .ro, .any⟩, ⟨30, 30, .w1c, .any⟩, ⟨29, 29, .w1c, .any⟩, ⟨18, 16, .ro, .any⟩, ⟨7, 0, .ro, .any⟩]⟩,
  /- HWM.PISCTL -/ ⟨0x70000500, 1, 4, 1, 4, 0x00FF0000,
    [⟨23, 16, .ro, .any⟩, ⟨15, 8, .wo, .any⟩, ⟨7, 0, .wo, .any⟩]⟩,
  /- HWM.PISSTAT -/ ⟨0x70000504, 1, 4, 1, 4, 0x00000000,
    [⟨15, 8, .w1c, .any⟩, ⟨7, 0, .w1c, .any⟩]⟩,
  /- HWM.SPB -/ ⟨0x70000800, 256, 4, 1, 4, 0x00000000,
    [⟨31, 0, .rwp, .any⟩]⟩,
  /- HWM.GAPT -/ ⟨0x70001000, 8, 256, 64, 4, 0x00000000,
    [⟨31, 31, .rwp, .any⟩, ⟨30, 30, .rwp, .any⟩, ⟨29, 16, .rwp, .any⟩, ⟨15, 15, .rwp, .any⟩, ⟨13, 0, .rwp, .any⟩]⟩]

def regsCpt : List RegSpec := [
  /- CPT.MTIME -/ ⟨0xE0000000, 2, 4, 1, 4, 0x00000000,
    [⟨31, 0, .rw, .any⟩]⟩,
  /- CPT.MTIMECMP -/ ⟨0xE0000008, 2, 4, 1, 4, 0xFFFFFFFF,
    [⟨31, 0, .rw, .any⟩]⟩]

def regsIcu : List RegSpec := [
  /- ICU.VTAB -/ ⟨0xE0001000, 1, 4, 1, 4, 0x00000000,
    [⟨31, 9, .rw, .any⟩]⟩,
  /- ICU.CUR -/ ⟨0xE0001004, 1, 4, 1, 4, 0x0000001F,
    [⟨14, 8, .ro, .any⟩, ⟨4, 0, .ro, .any⟩]⟩,
  /- ICU.SWSET -/ ⟨0xE0001008, 1, 4, 1, 4, 0x00000000,
    [⟨27, 0, .wo, .any⟩]⟩,
  /- ICU.SRC -/ ⟨0xE0002000, 128, 4, 1, 4, 0x00000000,
    [⟨31, 31, .w1c, .any⟩, ⟨8, 8, .rw, .any⟩, ⟨4, 4, .rw, .any⟩, ⟨3, 0, .rw, .any⟩]⟩]

/-- The register rows of the 64 KiB block that an address lies in; the two CAN controllers share block 0x4009. -/
def block (a : Nat) : List RegSpec :=
  match a / 0x10000 with
  | 0x4000 => regsSys | 0x4001 => regsClk | 0x4002 => regsPwr | 0x4003 => regsArb | 0x4004 => regsMir
  | 0x4005 => regsPrs | 0x4006 => regsPwm | 0x4007 => regsFbk | 0x4008 => regsKrg | 0x4009 => regsCan
  | 0x400A => regsLnk | 0x400B => regsCfg | 0x400C => regsBst | 0x400D => regsMgn | 0x400E => regsInj
  | 0x400F => regsEvc | 0x4010 => regsLup | 0x4011 => regsSpp | 0x5000 => regsGdr | 0x5001 => regsAdc
  | 0x5002 => regsCsa | 0x6000 => regsAon | 0x7000 => regsHwm | 0xE000 => regsCpt ++ regsIcu
  | _ => []

/-- The row of the register at an address, none where no register lies (R390). -/
def spec (a : Nat) : Option RegSpec := (block a).find? (fun r => r.has a)

end Regs

namespace R

def SYS_DEVID : Nat := 0x40000004
def SYS_CHID : Nat := 0x40000008
def SYS_MODE : Nat := 0x40000010
def SYS_MODEREQ : Nat := 0x40000014
def SYS_RSTCAUSE : Nat := 0x40000018
def SYS_BOOTSTAT : Nat := 0x4000001C
def SYS_BRGSTAT : Nat := 0x40000020
def SYS_BRGERRCNT : Nat := 0x40000024
def CLK_STAT : Nat := 0x40010000
def CLK_GATE : Nat := 0x40010004
def PWR_SUPSTAT : Nat := 0x40020000
def PWR_DOMCTL : Nat := 0x40020004
def PWR_OFFACC : Nat := 0x40020008
def PWR_OFFSTAT : Nat := 0x4002000C
def ARB_ERR : Nat := 0x40030000
def ARB_CUTSTAT : Nat := 0x40030004
def ARB_LKHOLD : Nat := 0x40030008
def ARB_ECCSTAT : Nat := 0x40030010
def ARB_ECCADDR : Nat := 0x40030014
def ARB_SCRUB : Nat := 0x40030018
def ARB_RQCFG (n : Nat) : Nat := 0x40030100 + 0x4 * n
def ARB_ACQ (n : Nat) : Nat := 0x40030200 + 0x4 * n
def ARB_REL (n : Nat) : Nat := 0x40030220 + 0x4 * n
def ARB_LKST : Nat := 0x40030240
def MIR_MMSTAT : Nat := 0x40040000
def MIR_STATE : Nat := 0x40040004
def MIR_VERDICT : Nat := 0x40040008
def MIR_RETIRED : Nat := 0x4004000C
def MIR_MMCNT : Nat := 0x40040010
def MIR_FGRP (n : Nat) : Nat := 0x40040020 + 0x4 * n
def PRS_CTL : Nat := 0x40050000
def PRS_STAT : Nat := 0x40050004
def PRS_SWTRIG : Nat := 0x40050008
def PRS_CHAIN : Nat := 0x4005000C
def PRS_MONCTL : Nat := 0x40050020
def PRS_NEXC : Nat := 0x40050800
def PRS_NEXCCNT : Nat := 0x40050804
def PRS_EXCPOL : Nat := 0x40050808
def PRS_GFLAG : Nat := 0x40050818
def PRS_WCOLL : Nat := 0x4005081C
def PRS_TMR (n : Nat) : Nat := 0x40050010 + 0x4 * n
def PRS_OVRSUM (n : Nat) : Nat := 0x40050030 + 0x4 * n
def PRS_SUSP (n : Nat) : Nat := 0x40050038 + 0x4 * n
def PRS_FQ (n : Nat) : Nat := 0x40050100 + 0x10 * n
def PRS_FW (n : Nat) : Nat := 0x40050104 + 0x10 * n
def PRS_FL (n : Nat) : Nat := 0x40050108 + 0x10 * n
def PRS_FRF (n : Nat) : Nat := 0x4005010C + 0x10 * n
def PRS_FLOWCFG (n : Nat) : Nat := 0x40050200 + 0x4 * n
def PRS_FLOWST (n : Nat) : Nat := 0x40050300 + 0x4 * n
def PRS_FINFO (n : Nat) : Nat := 0x40050400 + 0x4 * n
def PRS_FRESP (n : Nat) : Nat := 0x40050500 + 0x4 * n
def PRS_SATFLOW (n : Nat) : Nat := 0x40050810 + 0x4 * n
def PRS_PLACE (n : Nat) : Nat := 0x40054000 + 0x4 * n
def PWM_GCFG (n : Nat) : Nat := 0x40060000 + 0x40 * n
def PWM_PRD (n : Nat) : Nat := 0x40060004 + 0x40 * n
def PWM_SDLY (n : Nat) : Nat := 0x40060008 + 0x40 * n
def PWM_LOCK (n : Nat) : Nat := 0x4006000C + 0x40 * n
def PWM_MINP (n : Nat) : Nat := 0x40060010 + 0x40 * n
def PWM_GSTAT (n : Nat) : Nat := 0x40060014 + 0x40 * n
def PWM_PHERR (n : Nat) : Nat := 0x40060018 + 0x40 * n
def PWM_DUTY (n : Nat) : Nat := 0x40060400 + 0x10 * n
def PWM_DT (n : Nat) : Nat := 0x40060404 + 0x10 * n
def PWM_APP (n : Nat) : Nat := 0x40060408 + 0x10 * n
def PWM_CARRY (n : Nat) : Nat := 0x4006040C + 0x10 * n
def PWM_FLTCFG (n : Nat) : Nat := 0x40060800 + 0x4 * n
def PWM_TRIP : Nat := 0x40060820
def PWM_STAT : Nat := 0x40060824
def PWM_FLTCNT (n : Nat) : Nat := 0x40060830 + 0x4 * n
def PWM_LEADGRP : Nat := 0x40060850
def PWM_DLCAL (n : Nat) : Nat := 0x40060860 + 0x4 * n
def FBK_CFG (n : Nat) : Nat := 0x40070000 + 0x100 * n
def FBK_SCALE (n : Nat) : Nat := 0x40070004 + 0x100 * n
def FBK_CNT (n : Nat) : Nat := 0x40070008 + 0x100 * n
def FBK_MCNT (n : Nat) : Nat := 0x4007000C + 0x100 * n
def FBK_QCNT (n : Nat) : Nat := 0x40070010 + 0x100 * n
def FBK_INTP (n : Nat) : Nat := 0x40070014 + 0x100 * n
def FBK_SCCAL (n : Nat) : Nat := 0x40070018 + 0x100 * n
def FBK_SCAMP (n : Nat) : Nat := 0x4007001C + 0x100 * n
def FBK_TIME (n : Nat) : Nat := 0x40070020 + 0x100 * n
def FBK_INTV (n : Nat) : Nat := 0x40070024 + 0x100 * n
def FBK_TOOTH (n : Nat) : Nat := 0x40070028 + 0x100 * n
def FBK_EVCNT (n : Nat) : Nat := 0x4007002C + 0x100 * n
def FBK_STAT (n : Nat) : Nat := 0x40070030 + 0x100 * n
def FBK_IDX (n : Nat) : Nat := 0x40070034 + 0x100 * n
def FBK_IDXVAL (n : Nat) : Nat := 0x40070038 + 0x100 * n
def FBK_OBSCFG (n : Nat) : Nat := 0x4007003C + 0x100 * n
def FBK_OBSVE (n : Nat) : Nat := 0x40070040 + 0x100 * n
def FBK_ANGOFS (n : Nat) : Nat := 0x40070044 + 0x100 * n
def FBK_ANGOFSQ (n : Nat) : Nat := 0x40070048 + 0x100 * n
def FBK_OANG (n : Nat) : Nat := 0x40070050 + 0x100 * n
def FBK_OSPD (n : Nat) : Nat := 0x40070054 + 0x100 * n
def FBK_OACC (n : Nat) : Nat := 0x40070058 + 0x100 * n
def FBK_OSTAT (n : Nat) : Nat := 0x4007005C + 0x100 * n
def FBK_WSCFG (n : Nat) : Nat := 0x40070800 + 0x10 * n
def FBK_WSCNT (n : Nat) : Nat := 0x40070804 + 0x10 * n
def FBK_WSTS (n : Nat) : Nat := 0x40070808 + 0x10 * n
def FBK_WSPER (n : Nat) : Nat := 0x4007080C + 0x10 * n
def FBK_SNTCFG (n : Nat) : Nat := 0x40070A00 + 0x20 * n
def FBK_SNTFAST (n : Nat) : Nat := 0x40070A04 + 0x20 * n
def FBK_SNTTS (n : Nat) : Nat := 0x40070A08 + 0x20 * n
def FBK_SNTSER (n : Nat) : Nat := 0x40070A0C + 0x20 * n
def FBK_SNTERR (n : Nat) : Nat := 0x40070A10 + 0x20 * n
def FBK_SNTCTL (n : Nat) : Nat := 0x40070A14 + 0x20 * n
def KRG_CTL : Nat := 0x40080000
def KRG_STAT : Nat := 0x40080004
def KRG_CYCLEN : Nat := 0x40080008
def KRG_SYNCCFG : Nat := 0x4008000C
def KRG_ACTOFS : Nat := 0x40080010
def KRG_NITOFS : Nat := 0x40080014
def KRG_CYC : Nat := 0x40080018
def KRG_CORR : Nat := 0x4008001C
def KRG_SESS : Nat := 0x40080020
def KRG_VOTE : Nat := 0x40080044
def KRG_VOTESTAT : Nat := 0x40080048
def KRG_GMARGIN : Nat := 0x4008004C
def KRG_TXBASE : Nat := 0x40080050
def KRG_RXBASE : Nat := 0x40080054
def KRG_CNTCLR : Nat := 0x40080600
def KRG_NRDY : Nat := 0x40080604
def KRG_KEY (n : Nat) (m : Nat) : Nat := 0x40080024 + 0x10 * n + 0x4 * m
def KRG_TXRDY (n : Nat) : Nat := 0x40080058 + 0x4 * n
def KRG_RXIEN (n : Nat) : Nat := 0x40080060 + 0x4 * n
def KRG_PORTCFG (n : Nat) : Nat := 0x40080080 + 0x10 * n
def KRG_PORTSTAT (n : Nat) : Nat := 0x40080084 + 0x10 * n
def KRG_PORTCNT (n : Nat) : Nat := 0x40080088 + 0x10 * n
def KRG_SCNT (n : Nat) (m : Nat) : Nat := 0x40080400 + 0x100 * n + 0x4 * m
def KRG_APT (n : Nat) (m : Nat) : Nat := 0x40081000 + 0x100 * n + 0x4 * m
def CAN_MCTL (n : Nat) : Nat := 0x40090000 + 0x1000 * n
def CAN_ARBT (n : Nat) : Nat := 0x40090004 + 0x1000 * n
def CAN_DATT (n : Nat) : Nat := 0x40090008 + 0x1000 * n
def CAN_SSP (n : Nat) : Nat := 0x4009000C + 0x1000 * n
def CAN_STAT (n : Nat) : Nat := 0x40090010 + 0x1000 * n
def CAN_ECNT (n : Nat) : Nat := 0x40090014 + 0x1000 * n
def CAN_RXBASE (n : Nat) : Nat := 0x40090018 + 0x1000 * n
def CAN_RXQ (n : Nat) : Nat := 0x4009001C + 0x1000 * n
def CAN_RXPTR (n : Nat) : Nat := 0x40090020 + 0x1000 * n
def CAN_RXACK (n : Nat) : Nat := 0x40090024 + 0x1000 * n
def CAN_RXDROP (n : Nat) : Nat := 0x40090028 + 0x1000 * n
def CAN_TXTBL (n : Nat) : Nat := 0x4009002C + 0x1000 * n
def CAN_TXGO (n : Nat) : Nat := 0x40090030 + 0x1000 * n
def CAN_TXBUSY (n : Nat) : Nat := 0x40090034 + 0x1000 * n
def CAN_TXEND (n : Nat) : Nat := 0x40090038 + 0x1000 * n
def CAN_TXABORT (n : Nat) : Nat := 0x4009003C + 0x1000 * n
def CAN_ACPT (n : Nat) (m : Nat) : Nat := 0x40090040 + 0x1000 * n + 0x8 * m
def CAN_ACPM (n : Nat) (m : Nat) : Nat := 0x40090044 + 0x1000 * n + 0x8 * m
def LNK_CTL : Nat := 0x400A0000
def LNK_CFG : Nat := 0x400A0004
def LNK_XCFG : Nat := 0x400A0008
def LNK_ALONE : Nat := 0x400A000C
def LNK_STAT : Nat := 0x400A0010
def LNK_EVT : Nat := 0x400A0014
def LNK_CNT : Nat := 0x400A0018
def LNK_NIN : Nat := 0x400A0040
def LNK_SHCLAMP : Nat := 0x400A0044
def LNK_DCI : Nat := 0x400A0048
def LNK_SNAPSRC : Nat := 0x400A004C
def LNK_SNAPRX : Nat := 0x400A0050
def LNK_SNAPCYC : Nat := 0x400A0054
def LNK_CH (n : Nat) : Nat := 0x400A0020 + 0x4 * n
def LNK_AGR (n : Nat) : Nat := 0x400A0060 + 0x4 * n
def CFG_CTL : Nat := 0x400B0000
def CFG_STAT : Nat := 0x400B0004
def CFG_PLACE : Nat := 0x400B0008
def CFG_SHADDR : Nat := 0x400B000C
def CFG_SHDATA : Nat := 0x400B0010
def BST_CTL : Nat := 0x400C0000
def BST_STAT : Nat := 0x400C0004
def BST_CUT : Nat := 0x400C01C0
def BST_ACTL : Nat := 0x400C0200
def BST_ARES : Nat := 0x400C0204
def BST_AEXP : Nat := 0x400C0208
def BST_REFSIG (n : Nat) : Nat := 0x400C0008 + 0x4 * n
def BST_RES (n : Nat) : Nat := 0x400C0040 + 0x4 * n
def BST_SIG (n : Nat) (m : Nat) : Nat := 0x400C0100 + 0x8 * n + 0x4 * m
def MGN_CTL : Nat := 0x400D0000
def MGN_STAT : Nat := 0x400D0004
def MGN_APPROVE : Nat := 0x400D0008
def MGN_VIDP : Nat := 0x400D000C
def MGN_SLACK : Nat := 0x400D0010
def MGN_PDS (n : Nat) : Nat := 0x400D0040 + 0x4 * n
def MGN_RON (n : Nat) : Nat := 0x400D0100 + 0x20 * n
def MGN_TOFF (n : Nat) : Nat := 0x400D0104 + 0x20 * n
def MGN_DROOP (n : Nat) : Nat := 0x400D0108 + 0x20 * n
def MGN_DTP (n : Nat) : Nat := 0x400D010C + 0x20 * n
def MGN_THRP (n : Nat) : Nat := 0x400D0110 + 0x20 * n
def MGN_OFS (n : Nat) : Nat := 0x400D0400 + 0x10 * n
def MGN_OFSW (n : Nat) : Nat := 0x400D0404 + 0x10 * n
def INJ_KEY : Nat := 0x400E0000
def INJ_SEL : Nat := 0x400E0004
def INJ_ADDR : Nat := 0x400E0008
def INJ_CTL : Nat := 0x400E000C
def INJ_STAT : Nat := 0x400E0010
def EVC_GCTL : Nat := 0x400F0000
def EVC_THRST : Nat := 0x400F0004
def EVC_WRAP : Nat := 0x400F0008
def EVC_CLR : Nat := 0x400F000C
def EVC_SEL (n : Nat) : Nat := 0x400F0100 + 0x4 * n
def EVC_CNTL (n : Nat) : Nat := 0x400F0200 + 0x8 * n
def EVC_CNTH (n : Nat) : Nat := 0x400F0204 + 0x8 * n
def LUP_CTL (n : Nat) : Nat := 0x40100000 + 0x40 * n
def LUP_SMP (n : Nat) : Nat := 0x40100004 + 0x40 * n
def LUP_THR (n : Nat) : Nat := 0x40100008 + 0x40 * n
def LUP_PRE (n : Nat) : Nat := 0x4010000C + 0x40 * n
def LUP_BASE (n : Nat) : Nat := 0x40100010 + 0x40 * n
def LUP_STAT (n : Nat) : Nat := 0x40100014 + 0x40 * n
def LUP_CH (n : Nat) (m : Nat) : Nat := 0x40100020 + 0x40 * n + 0x4 * m
def SPP_STAT : Nat := 0x40110000
def SPP_ERRCNT : Nat := 0x40110004
def GDR_DRV (n : Nat) : Nat := 0x50000000 + 0x10 * n
def GDR_VDS (n : Nat) : Nat := 0x50000004 + 0x10 * n
def GDR_STAT (n : Nat) : Nat := 0x50000008 + 0x10 * n
def GDR_SOFT (n : Nat) : Nat := 0x50000200 + 0x4 * n
def GDR_HSCFG : Nat := 0x50000240
def GDR_EVT : Nat := 0x50000244
def GDR_EVLEGS : Nat := 0x50000248
def ADC_SEQCFG (n : Nat) : Nat := 0x50010000 + 0x40 * n
def ADC_STAT (n : Nat) : Nat := 0x50010004 + 0x40 * n
def ADC_SKIPCNT (n : Nat) : Nat := 0x50010008 + 0x40 * n
def ADC_VDC (n : Nat) : Nat := 0x5001000C + 0x40 * n
def ADC_ZXCFG (n : Nat) : Nat := 0x50010010 + 0x40 * n
def ADC_ZX (n : Nat) : Nat := 0x50010014 + 0x40 * n
def ADC_ZXT (n : Nat) : Nat := 0x50010018 + 0x40 * n
def ADC_ZXI0 (n : Nat) : Nat := 0x5001001C + 0x40 * n
def ADC_ZXI1 (n : Nat) : Nat := 0x50010020 + 0x40 * n
def CSA_CFG (n : Nat) : Nat := 0x50020000 + 0x4 * n
def CSA_CLIP : Nat := 0x50020060
def AON_TRIM : Nat := 0x60000000
def AON_GLCFG : Nat := 0x60000004
def AON_SUPCFG : Nat := 0x60000008
def AON_WAKEEN : Nat := 0x6000000C
def AON_WAKESRC : Nat := 0x60000010
def AON_SLBASE : Nat := 0x60000014
def AON_SLCTL : Nat := 0x60000018
def AON_SLCRC : Nat := 0x6000001C
def AON_PCCTL : Nat := 0x60000020
def AON_PCNT (n : Nat) : Nat := 0x60000024 + 0x4 * n
def AON_GLCH (n : Nat) : Nat := 0x60000040 + 0x4 * n
def AON_GLRES (n : Nat) : Nat := 0x60000060 + 0x4 * n
def AON_WLOG (n : Nat) : Nat := 0x60000080 + 0x4 * n
def AON_SLSKIP (n : Nat) : Nat := 0x600000A0 + 0x4 * n
def HWM_STAT : Nat := 0x70000000
def HWM_RXSTAT : Nat := 0x70000004
def HWM_RXREL : Nat := 0x70000008
def HWM_DETLAST : Nat := 0x7000000C
def HWM_DETCNT : Nat := 0x70000010
def HWM_FCTL : Nat := 0x70000014
def HWM_PDL : Nat := 0x70000020
def HWM_LIMPSTAT : Nat := 0x70000024
def HWM_LIFE : Nat := 0x70000030
def HWM_PWENT : Nat := 0x70000040
def HWM_PWSTAT : Nat := 0x70000044
def HWM_PWCTL : Nat := 0x70000048
def HWM_SPBSTAT : Nat := 0x7000004C
def HWM_LOGSTAT : Nat := 0x70000050
def HWM_GCFG : Nat := 0x70000400
def HWM_GSTAT : Nat := 0x70000404
def HWM_PISCTL : Nat := 0x70000500
def HWM_PISSTAT : Nat := 0x70000504
def HWM_SPB (n : Nat) : Nat := 0x70000800 + 0x4 * n
def HWM_GAPT (n : Nat) (m : Nat) : Nat := 0x70001000 + 0x100 * n + 0x4 * m
def CPT_MTIME (n : Nat) : Nat := 0xE0000000 + 0x4 * n
def CPT_MTIMECMP (n : Nat) : Nat := 0xE0000008 + 0x4 * n
def ICU_VTAB : Nat := 0xE0001000
def ICU_CUR : Nat := 0xE0001004
def ICU_SWSET : Nat := 0xE0001008
def ICU_SRC (n : Nat) : Nat := 0xE0002000 + 0x4 * n

end R

namespace F

def SYS_DEVID_PART : Fld := ⟨R.SYS_DEVID, 31, 16⟩
def SYS_DEVID_VARIANT : Fld := ⟨R.SYS_DEVID, 15, 8⟩
def SYS_DEVID_REV : Fld := ⟨R.SYS_DEVID, 7, 0⟩
def SYS_CHID_CHID : Fld := ⟨R.SYS_CHID, 2, 0⟩
def SYS_MODE_REFCODE : Fld := ⟨R.SYS_MODE, 23, 20⟩
def SYS_MODE_REFUSED : Fld := ⟨R.SYS_MODE, 19, 19⟩
def SYS_MODE_PREV : Fld := ⟨R.SYS_MODE, 18, 16⟩
def SYS_MODE_SUB : Fld := ⟨R.SYS_MODE, 7, 4⟩
def SYS_MODE_MODE : Fld := ⟨R.SYS_MODE, 2, 0⟩
def SYS_MODEREQ_KEY : Fld := ⟨R.SYS_MODEREQ, 31, 16⟩
def SYS_MODEREQ_REQ : Fld := ⟨R.SYS_MODEREQ, 2, 0⟩
def SYS_RSTCAUSE_HBEAT : Fld := ⟨R.SYS_RSTCAUSE, 4, 4⟩
def SYS_RSTCAUSE_SWRST : Fld := ⟨R.SYS_RSTCAUSE, 3, 3⟩
def SYS_RSTCAUSE_SPPRST : Fld := ⟨R.SYS_RSTCAUSE, 2, 2⟩
def SYS_RSTCAUSE_WAKE : Fld := ⟨R.SYS_RSTCAUSE, 1, 1⟩
def SYS_RSTCAUSE_POR : Fld := ⟨R.SYS_RSTCAUSE, 0, 0⟩
def SYS_BOOTSTAT_FACETFAIL : Fld := ⟨R.SYS_BOOTSTAT, 31, 24⟩
def SYS_BOOTSTAT_CPFAIL : Fld := ⟨R.SYS_BOOTSTAT, 23, 23⟩
def SYS_BOOTSTAT_XTALFAIL : Fld := ⟨R.SYS_BOOTSTAT, 22, 22⟩
def SYS_BOOTSTAT_PGRETRY : Fld := ⟨R.SYS_BOOTSTAT, 21, 20⟩
def SYS_BOOTSTAT_SPBMISM : Fld := ⟨R.SYS_BOOTSTAT, 19, 19⟩
def SYS_BOOTSTAT_IDINV : Fld := ⟨R.SYS_BOOTSTAT, 18, 18⟩
def SYS_BOOTSTAT_NOIMG : Fld := ⟨R.SYS_BOOTSTAT, 17, 17⟩
def SYS_BOOTSTAT_FALLBACK : Fld := ⟨R.SYS_BOOTSTAT, 16, 16⟩
def SYS_BOOTSTAT_SLOT : Fld := ⟨R.SYS_BOOTSTAT, 15, 14⟩
def SYS_BOOTSTAT_SVCREQ : Fld := ⟨R.SYS_BOOTSTAT, 13, 13⟩
def SYS_BOOTSTAT_CFGSWAP : Fld := ⟨R.SYS_BOOTSTAT, 12, 12⟩
def SYS_BOOTSTAT_CFGFAIL : Fld := ⟨R.SYS_BOOTSTAT, 11, 11⟩
def SYS_BRGSTAT_BFAULT : Fld := ⟨R.SYS_BRGSTAT, 2, 2⟩
def SYS_BRGSTAT_CRCERR : Fld := ⟨R.SYS_BRGSTAT, 1, 1⟩
def SYS_BRGSTAT_UP : Fld := ⟨R.SYS_BRGSTAT, 0, 0⟩
def SYS_BRGERRCNT_CLR : Fld := ⟨R.SYS_BRGERRCNT, 31, 31⟩
def SYS_BRGERRCNT_COUNT : Fld := ⟨R.SYS_BRGERRCNT, 15, 0⟩
def CLK_STAT_MONERR : Fld := ⟨R.CLK_STAT, 5, 5⟩
def CLK_STAT_XLOSS : Fld := ⟨R.CLK_STAT, 4, 4⟩
def CLK_STAT_EXTREF : Fld := ⟨R.CLK_STAT, 3, 3⟩
def CLK_STAT_RCREF : Fld := ⟨R.CLK_STAT, 2, 2⟩
def CLK_STAT_PLLLOCK : Fld := ⟨R.CLK_STAT, 1, 1⟩
def CLK_STAT_XTALOK : Fld := ⟨R.CLK_STAT, 0, 0⟩
def CLK_GATE_INJ : Fld := ⟨R.CLK_GATE, 3, 3⟩
def CLK_GATE_EVC : Fld := ⟨R.CLK_GATE, 2, 2⟩
def CLK_GATE_LUP : Fld := ⟨R.CLK_GATE, 1, 1⟩
def CLK_GATE_CAN : Fld := ⟨R.CLK_GATE, 0, 0⟩
def PWR_SUPSTAT_LATCH : Fld := ⟨R.PWR_SUPSTAT, 15, 8⟩
def PWR_SUPSTAT_VSFLT : Fld := ⟨R.PWR_SUPSTAT, 7, 7⟩
def PWR_SUPSTAT_PGLOW : Fld := ⟨R.PWR_SUPSTAT, 6, 6⟩
def PWR_SUPSTAT_V33OUT : Fld := ⟨R.PWR_SUPSTAT, 5, 5⟩
def PWR_SUPSTAT_V5OUT : Fld := ⟨R.PWR_SUPSTAT, 4, 4⟩
def PWR_SUPSTAT_VGDOV : Fld := ⟨R.PWR_SUPSTAT, 3, 3⟩
def PWR_SUPSTAT_VGDUV : Fld := ⟨R.PWR_SUPSTAT, 2, 2⟩
def PWR_SUPSTAT_VBATOV : Fld := ⟨R.PWR_SUPSTAT, 1, 1⟩
def PWR_SUPSTAT_VBATUV : Fld := ⟨R.PWR_SUPSTAT, 0, 0⟩
def PWR_DOMCTL_VSB : Fld := ⟨R.PWR_DOMCTL, 5, 5⟩
def PWR_DOMCTL_VSA : Fld := ⟨R.PWR_DOMCTL, 4, 4⟩
def PWR_DOMCTL_KYW : Fld := ⟨R.PWR_DOMCTL, 3, 3⟩
def PWR_DOMCTL_KYE : Fld := ⟨R.PWR_DOMCTL, 2, 2⟩
def PWR_DOMCTL_KXW : Fld := ⟨R.PWR_DOMCTL, 1, 1⟩
def PWR_DOMCTL_KXE : Fld := ⟨R.PWR_DOMCTL, 0, 0⟩
def PWR_OFFACC_ADDR : Fld := ⟨R.PWR_OFFACC, 31, 0⟩
def PWR_OFFSTAT_REQ : Fld := ⟨R.PWR_OFFSTAT, 15, 12⟩
def PWR_OFFSTAT_OVR : Fld := ⟨R.PWR_OFFSTAT, 1, 1⟩
def PWR_OFFSTAT_VALID : Fld := ⟨R.PWR_OFFSTAT, 0, 0⟩
def ARB_ERR_OWNER : Fld := ⟨R.ARB_ERR, 23, 20⟩
def ARB_ERR_BANK : Fld := ⟨R.ARB_ERR, 18, 16⟩
def ARB_ERR_HOLDEXP : Fld := ⟨R.ARB_ERR, 4, 4⟩
def ARB_ERR_LKLOST : Fld := ⟨R.ARB_ERR, 3, 3⟩
def ARB_ERR_LKREFUSE : Fld := ⟨R.ARB_ERR, 2, 2⟩
def ARB_ERR_LKORDER : Fld := ⟨R.ARB_ERR, 1, 1⟩
def ARB_ERR_CUTOFF : Fld := ⟨R.ARB_ERR, 0, 0⟩
def ARB_CUTSTAT_CUT : Fld := ⟨R.ARB_CUTSTAT, 12, 0⟩
def ARB_LKHOLD_HOLD : Fld := ⟨R.ARB_LKHOLD, 15, 0⟩
def ARB_ECCSTAT_UECNT : Fld := ⟨R.ARB_ECCSTAT, 31, 24⟩
def ARB_ECCSTAT_CECNT : Fld := ⟨R.ARB_ECCSTAT, 23, 8⟩
def ARB_ECCSTAT_SCRLATE : Fld := ⟨R.ARB_ECCSTAT, 3, 3⟩
def ARB_ECCSTAT_FLCE : Fld := ⟨R.ARB_ECCSTAT, 2, 2⟩
def ARB_ECCSTAT_UE : Fld := ⟨R.ARB_ECCSTAT, 1, 1⟩
def ARB_ECCSTAT_CE : Fld := ⟨R.ARB_ECCSTAT, 0, 0⟩
def ARB_ECCADDR_ADDR : Fld := ⟨R.ARB_ECCADDR, 31, 0⟩
def ARB_SCRUB_EN : Fld := ⟨R.ARB_SCRUB, 31, 31⟩
def ARB_SCRUB_INTV : Fld := ⟨R.ARB_SCRUB, 11, 0⟩
def ARB_RQCFG_LIMIT (n : Nat) : Fld := ⟨(R.ARB_RQCFG n), 26, 16⟩
def ARB_RQCFG_NOPRE (n : Nat) : Fld := ⟨(R.ARB_RQCFG n), 8, 8⟩
def ARB_RQCFG_PRIO (n : Nat) : Fld := ⟨(R.ARB_RQCFG n), 3, 0⟩
def ARB_ACQ_GOT (n : Nat) : Fld := ⟨(R.ARB_ACQ n), 31, 31⟩
def ARB_ACQ_PREVLOST (n : Nat) : Fld := ⟨(R.ARB_ACQ n), 30, 30⟩
def ARB_ACQ_OWNER (n : Nat) : Fld := ⟨(R.ARB_ACQ n), 3, 0⟩
def ARB_REL_REL (n : Nat) : Fld := ⟨(R.ARB_REL n), 0, 0⟩
def MIR_MMSTAT_SYNCPAR : Fld := ⟨R.MIR_MMSTAT, 17, 17⟩
def MIR_MMSTAT_PWM : Fld := ⟨R.MIR_MMSTAT, 16, 9⟩
def MIR_MMSTAT_FACET : Fld := ⟨R.MIR_MMSTAT, 8, 1⟩
def MIR_MMSTAT_CP : Fld := ⟨R.MIR_MMSTAT, 0, 0⟩
def MIR_STATE_PAIR : Fld := ⟨R.MIR_STATE, 20, 16⟩
def MIR_STATE_PHASE : Fld := ⟨R.MIR_STATE, 1, 0⟩
def MIR_VERDICT_PAIR : Fld := ⟨R.MIR_VERDICT, 20, 16⟩
def MIR_VERDICT_INC1 : Fld := ⟨R.MIR_VERDICT, 5, 5⟩
def MIR_VERDICT_INC0 : Fld := ⟨R.MIR_VERDICT, 4, 4⟩
def MIR_VERDICT_RESULT : Fld := ⟨R.MIR_VERDICT, 2, 0⟩
def MIR_RETIRED_NOSHADOW : Fld := ⟨R.MIR_RETIRED, 16, 16⟩
def MIR_RETIRED_PWMGRP : Fld := ⟨R.MIR_RETIRED, 15, 8⟩
def MIR_RETIRED_FACET : Fld := ⟨R.MIR_RETIRED, 7, 0⟩
def MIR_MMCNT_SYNCPAR : Fld := ⟨R.MIR_MMCNT, 31, 16⟩
def MIR_MMCNT_MISMATCH : Fld := ⟨R.MIR_MMCNT, 15, 0⟩
def MIR_FGRP_GRP (n : Nat) : Fld := ⟨(R.MIR_FGRP n), 7, 0⟩
def PRS_CTL_MONCLR : Fld := ⟨R.PRS_CTL, 1, 1⟩
def PRS_CTL_RUN : Fld := ⟨R.PRS_CTL, 0, 0⟩
def PRS_STAT_SHWR : Fld := ⟨R.PRS_STAT, 6, 6⟩
def PRS_STAT_ROOTOVF : Fld := ⟨R.PRS_STAT, 5, 5⟩
def PRS_STAT_DRAIN : Fld := ⟨R.PRS_STAT, 3, 3⟩
def PRS_STAT_SCAN : Fld := ⟨R.PRS_STAT, 2, 2⟩
def PRS_STAT_STOPPED : Fld := ⟨R.PRS_STAT, 1, 1⟩
def PRS_STAT_RUNNING : Fld := ⟨R.PRS_STAT, 0, 0⟩
def PRS_SWTRIG_SET : Fld := ⟨R.PRS_SWTRIG, 7, 0⟩
def PRS_CHAIN_ENB : Fld := ⟨R.PRS_CHAIN, 15, 15⟩
def PRS_CHAIN_FLOWB : Fld := ⟨R.PRS_CHAIN, 13, 8⟩
def PRS_CHAIN_ENA : Fld := ⟨R.PRS_CHAIN, 7, 7⟩
def PRS_CHAIN_FLOWA : Fld := ⟨R.PRS_CHAIN, 5, 0⟩
def PRS_MONCTL_ALARM : Fld := ⟨R.PRS_MONCTL, 26, 16⟩
def PRS_MONCTL_WIN : Fld := ⟨R.PRS_MONCTL, 2, 0⟩
def PRS_NEXC_VALID : Fld := ⟨R.PRS_NEXC, 31, 31⟩
def PRS_NEXC_OVR : Fld := ⟨R.PRS_NEXC, 30, 30⟩
def PRS_NEXC_CAUSE : Fld := ⟨R.PRS_NEXC, 29, 26⟩
def PRS_NEXC_FACET : Fld := ⟨R.PRS_NEXC, 25, 23⟩
def PRS_NEXC_FLOW : Fld := ⟨R.PRS_NEXC, 22, 17⟩
def PRS_NEXC_NODE : Fld := ⟨R.PRS_NEXC, 13, 0⟩
def PRS_NEXCCNT_CLR : Fld := ⟨R.PRS_NEXCCNT, 31, 31⟩
def PRS_NEXCCNT_COUNT : Fld := ⟨R.PRS_NEXCCNT, 15, 0⟩
def PRS_EXCPOL_GRPDENY : Fld := ⟨R.PRS_EXCPOL, 7, 7⟩
def PRS_EXCPOL_OVTOK : Fld := ⟨R.PRS_EXCPOL, 6, 6⟩
def PRS_EXCPOL_BADIDX : Fld := ⟨R.PRS_EXCPOL, 5, 5⟩
def PRS_EXCPOL_BADOP : Fld := ⟨R.PRS_EXCPOL, 4, 4⟩
def PRS_EXCPOL_ECC : Fld := ⟨R.PRS_EXCPOL, 3, 3⟩
def PRS_EXCPOL_DIVZ : Fld := ⟨R.PRS_EXCPOL, 2, 2⟩
def PRS_EXCPOL_INV : Fld := ⟨R.PRS_EXCPOL, 1, 1⟩
def PRS_GFLAG_FLAG : Fld := ⟨R.PRS_GFLAG, 31, 0⟩
def PRS_WCOLL_CLR : Fld := ⟨R.PRS_WCOLL, 31, 31⟩
def PRS_WCOLL_COUNT : Fld := ⟨R.PRS_WCOLL, 15, 0⟩
def PRS_TMR_EN (n : Nat) : Fld := ⟨(R.PRS_TMR n), 31, 31⟩
def PRS_TMR_PER (n : Nat) : Fld := ⟨(R.PRS_TMR n), 23, 0⟩
def PRS_OVRSUM_OVR (n : Nat) : Fld := ⟨(R.PRS_OVRSUM n), 31, 0⟩
def PRS_SUSP_SUSP (n : Nat) : Fld := ⟨(R.PRS_SUSP n), 31, 0⟩
def PRS_FQ_QMAX (n : Nat) : Fld := ⟨(R.PRS_FQ n), 24, 16⟩
def PRS_FQ_QDEPTH (n : Nat) : Fld := ⟨(R.PRS_FQ n), 8, 0⟩
def PRS_FW_WAVG (n : Nat) : Fld := ⟨(R.PRS_FW n), 31, 16⟩
def PRS_FW_WMAX (n : Nat) : Fld := ⟨(R.PRS_FW n), 15, 0⟩
def PRS_FL_ALARM (n : Nat) : Fld := ⟨(R.PRS_FL n), 31, 31⟩
def PRS_FL_LMAX (n : Nat) : Fld := ⟨(R.PRS_FL n), 26, 16⟩
def PRS_FL_LOAD (n : Nat) : Fld := ⟨(R.PRS_FL n), 10, 0⟩
def PRS_FRF_COUNT (n : Nat) : Fld := ⟨(R.PRS_FRF n), 15, 0⟩
def PRS_FLOWCFG_EN (n : Nat) : Fld := ⟨(R.PRS_FLOWCFG n), 31, 31⟩
def PRS_FLOWCFG_POL (n : Nat) : Fld := ⟨(R.PRS_FLOWCFG n), 30, 30⟩
def PRS_FLOWCFG_PRIO (n : Nat) : Fld := ⟨(R.PRS_FLOWCFG n), 29, 27⟩
def PRS_FLOWCFG_DIV (n : Nat) : Fld := ⟨(R.PRS_FLOWCFG n), 26, 23⟩
def PRS_FLOWCFG_DLEN (n : Nat) : Fld := ⟨(R.PRS_FLOWCFG n), 22, 22⟩
def PRS_FLOWCFG_DLGRP (n : Nat) : Fld := ⟨(R.PRS_FLOWCFG n), 21, 19⟩
def PRS_FLOWCFG_CIRQ (n : Nat) : Fld := ⟨(R.PRS_FLOWCFG n), 18, 18⟩
def PRS_FLOWCFG_SRC (n : Nat) : Fld := ⟨(R.PRS_FLOWCFG n), 4, 0⟩
def PRS_FLOWST_INSV (n : Nat) : Fld := ⟨(R.PRS_FLOWST n), 31, 31⟩
def PRS_FLOWST_PEND (n : Nat) : Fld := ⟨(R.PRS_FLOWST n), 30, 30⟩
def PRS_FLOWST_UNFIRED (n : Nat) : Fld := ⟨(R.PRS_FLOWST n), 29, 29⟩
def PRS_FLOWST_DLMISS (n : Nat) : Fld := ⟨(R.PRS_FLOWST n), 28, 28⟩
def PRS_FLOWST_TRIGOVR (n : Nat) : Fld := ⟨(R.PRS_FLOWST n), 27, 27⟩
def PRS_FLOWST_SUSP (n : Nat) : Fld := ⟨(R.PRS_FLOWST n), 26, 26⟩
def PRS_FLOWST_CLR (n : Nat) : Fld := ⟨(R.PRS_FLOWST n), 25, 25⟩
def PRS_FLOWST_OVRCNT (n : Nat) : Fld := ⟨(R.PRS_FLOWST n), 15, 0⟩
def PRS_FINFO_NNODES (n : Nat) : Fld := ⟨(R.PRS_FINFO n), 29, 16⟩
def PRS_FINFO_NROOT (n : Nat) : Fld := ⟨(R.PRS_FINFO n), 3, 0⟩
def PRS_FRESP_RLAST (n : Nat) : Fld := ⟨(R.PRS_FRESP n), 31, 16⟩
def PRS_FRESP_RMAX (n : Nat) : Fld := ⟨(R.PRS_FRESP n), 15, 0⟩
def PRS_SATFLOW_SAT (n : Nat) : Fld := ⟨(R.PRS_SATFLOW n), 31, 0⟩
def PWM_GCFG_EN (n : Nat) : Fld := ⟨(R.PWM_GCFG n), 31, 31⟩
def PWM_GCFG_SYNC (n : Nat) : Fld := ⟨(R.PWM_GCFG n), 29, 28⟩
def PWM_GCFG_CHOP (n : Nat) : Fld := ⟨(R.PWM_GCFG n), 27, 27⟩
def PWM_GCFG_SYNCOEN (n : Nat) : Fld := ⟨(R.PWM_GCFG n), 26, 26⟩
def PWM_GCFG_REFN (n : Nat) : Fld := ⟨(R.PWM_GCFG n), 15, 8⟩
def PWM_GCFG_REFW (n : Nat) : Fld := ⟨(R.PWM_GCFG n), 7, 0⟩
def PWM_PRD_HALF (n : Nat) : Fld := ⟨(R.PWM_PRD n), 28, 8⟩
def PWM_PRD_FRAC (n : Nat) : Fld := ⟨(R.PWM_PRD n), 7, 0⟩
def PWM_SDLY_SDLY (n : Nat) : Fld := ⟨(R.PWM_SDLY n), 20, 0⟩
def PWM_LOCK_LOCKWIN (n : Nat) : Fld := ⟨(R.PWM_LOCK n), 27, 16⟩
def PWM_LOCK_SLEW (n : Nat) : Fld := ⟨(R.PWM_LOCK n), 11, 0⟩
def PWM_MINP_TMIN (n : Nat) : Fld := ⟨(R.PWM_MINP n), 8, 0⟩
def PWM_GSTAT_RUN (n : Nat) : Fld := ⟨(R.PWM_GSTAT n), 31, 31⟩
def PWM_GSTAT_LOCKED (n : Nat) : Fld := ⟨(R.PWM_GSTAT n), 30, 30⟩
def PWM_GSTAT_REFLOST (n : Nat) : Fld := ⟨(R.PWM_GSTAT n), 29, 29⟩
def PWM_GSTAT_TRIPPED (n : Nat) : Fld := ⟨(R.PWM_GSTAT n), 28, 28⟩
def PWM_GSTAT_LEADBLK (n : Nat) : Fld := ⟨(R.PWM_GSTAT n), 27, 27⟩
def PWM_PHERR_ERR (n : Nat) : Fld := ⟨(R.PWM_PHERR n), 31, 0⟩
def PWM_DUTY_DUTY (n : Nat) : Fld := ⟨(R.PWM_DUTY n), 31, 0⟩
def PWM_DT_DTADJ (n : Nat) : Fld := ⟨(R.PWM_DT n), 29, 16⟩
def PWM_DT_DTBASE (n : Nat) : Fld := ⟨(R.PWM_DT n), 13, 0⟩
def PWM_APP_REFCAP (n : Nat) : Fld := ⟨(R.PWM_APP n), 31, 31⟩
def PWM_APP_DROPL (n : Nat) : Fld := ⟨(R.PWM_APP n), 30, 30⟩
def PWM_APP_DROPH (n : Nat) : Fld := ⟨(R.PWM_APP n), 29, 29⟩
def PWM_APP_DTCLAMP (n : Nat) : Fld := ⟨(R.PWM_APP n), 28, 28⟩
def PWM_APP_H (n : Nat) : Fld := ⟨(R.PWM_APP n), 21, 0⟩
def PWM_CARRY_C (n : Nat) : Fld := ⟨(R.PWM_CARRY n), 31, 0⟩
def PWM_FLTCFG_EN (n : Nat) : Fld := ⟨(R.PWM_FLTCFG n), 31, 31⟩
def PWM_FLTCFG_POL (n : Nat) : Fld := ⟨(R.PWM_FLTCFG n), 30, 30⟩
def PWM_FLTCFG_FILT (n : Nat) : Fld := ⟨(R.PWM_FLTCFG n), 23, 16⟩
def PWM_FLTCFG_MASK (n : Nat) : Fld := ⟨(R.PWM_FLTCFG n), 7, 0⟩
def PWM_TRIP_ACT : Fld := ⟨R.PWM_TRIP, 13, 8⟩
def PWM_TRIP_TRIP : Fld := ⟨R.PWM_TRIP, 5, 0⟩
def PWM_STAT_DBGHALT : Fld := ⟨R.PWM_STAT, 2, 2⟩
def PWM_STAT_CFGREF : Fld := ⟨R.PWM_STAT, 1, 1⟩
def PWM_STAT_CLRREF : Fld := ⟨R.PWM_STAT, 0, 0⟩
def PWM_FLTCNT_CLR (n : Nat) : Fld := ⟨(R.PWM_FLTCNT n), 31, 31⟩
def PWM_FLTCNT_REFCNT (n : Nat) : Fld := ⟨(R.PWM_FLTCNT n), 30, 24⟩
def PWM_FLTCNT_GLITCH (n : Nat) : Fld := ⟨(R.PWM_FLTCNT n), 15, 0⟩
def PWM_LEADGRP_GRP : Fld := ⟨R.PWM_LEADGRP, 7, 0⟩
def PWM_DLCAL_LOCK (n : Nat) : Fld := ⟨(R.PWM_DLCAL n), 31, 31⟩
def PWM_DLCAL_ERR (n : Nat) : Fld := ⟨(R.PWM_DLCAL n), 30, 30⟩
def PWM_DLCAL_TAPS (n : Nat) : Fld := ⟨(R.PWM_DLCAL n), 5, 0⟩
def FBK_CFG_PTEN (n : Nat) : Fld := ⟨(R.FBK_CFG n), 31, 31⟩
def FBK_CFG_SCEN (n : Nat) : Fld := ⟨(R.FBK_CFG n), 30, 30⟩
def FBK_CFG_PSRC (n : Nat) : Fld := ⟨(R.FBK_CFG n), 29, 29⟩
def FBK_CFG_AUTOFB (n : Nat) : Fld := ⟨(R.FBK_CFG n), 28, 28⟩
def FBK_CFG_FBRST (n : Nat) : Fld := ⟨(R.FBK_CFG n), 27, 27⟩
def FBK_CFG_REFKIND (n : Nat) : Fld := ⟨(R.FBK_CFG n), 26, 25⟩
def FBK_CFG_PFILT (n : Nat) : Fld := ⟨(R.FBK_CFG n), 19, 16⟩
def FBK_CFG_IEN (n : Nat) : Fld := ⟨(R.FBK_CFG n), 15, 0⟩
def FBK_SCALE_CPR (n : Nat) : Fld := ⟨(R.FBK_SCALE n), 31, 16⟩
def FBK_SCALE_LPR (n : Nat) : Fld := ⟨(R.FBK_SCALE n), 15, 4⟩
def FBK_SCALE_PP (n : Nat) : Fld := ⟨(R.FBK_SCALE n), 3, 0⟩
def FBK_CNT_CNT (n : Nat) : Fld := ⟨(R.FBK_CNT n), 31, 0⟩
def FBK_MCNT_MREF (n : Nat) : Fld := ⟨(R.FBK_MCNT n), 31, 16⟩
def FBK_MCNT_MCNT (n : Nat) : Fld := ⟨(R.FBK_MCNT n), 15, 0⟩
def FBK_QCNT_QCNT (n : Nat) : Fld := ⟨(R.FBK_QCNT n), 31, 0⟩
def FBK_INTP_INTP (n : Nat) : Fld := ⟨(R.FBK_INTP n), 31, 0⟩
def FBK_SCCAL_OFSC (n : Nat) : Fld := ⟨(R.FBK_SCCAL n), 29, 16⟩
def FBK_SCCAL_OFSS (n : Nat) : Fld := ⟨(R.FBK_SCCAL n), 13, 0⟩
def FBK_SCAMP_GC (n : Nat) : Fld := ⟨(R.FBK_SCAMP n), 31, 16⟩
def FBK_SCAMP_AMPHI (n : Nat) : Fld := ⟨(R.FBK_SCAMP n), 15, 8⟩
def FBK_SCAMP_AMPLO (n : Nat) : Fld := ⟨(R.FBK_SCAMP n), 7, 0⟩
def FBK_TIME_TIME (n : Nat) : Fld := ⟨(R.FBK_TIME n), 31, 0⟩
def FBK_INTV_INTV (n : Nat) : Fld := ⟨(R.FBK_INTV n), 31, 0⟩
def FBK_TOOTH_MISSING (n : Nat) : Fld := ⟨(R.FBK_TOOTH n), 31, 24⟩
def FBK_TOOTH_EXTRA (n : Nat) : Fld := ⟨(R.FBK_TOOTH n), 23, 16⟩
def FBK_TOOTH_UNEXP (n : Nat) : Fld := ⟨(R.FBK_TOOTH n), 15, 8⟩
def FBK_TOOTH_LOSTREF (n : Nat) : Fld := ⟨(R.FBK_TOOTH n), 7, 0⟩
def FBK_EVCNT_CLR (n : Nat) : Fld := ⟨(R.FBK_EVCNT n), 31, 31⟩
def FBK_EVCNT_ILLEGAL (n : Nat) : Fld := ⟨(R.FBK_EVCNT n), 30, 16⟩
def FBK_EVCNT_UNCLASS (n : Nat) : Fld := ⟨(R.FBK_EVCNT n), 15, 0⟩
def FBK_STAT_REFOK (n : Nat) : Fld := ⟨(R.FBK_STAT n), 19, 19⟩
def FBK_STAT_REFP (n : Nat) : Fld := ⟨(R.FBK_STAT n), 18, 18⟩
def FBK_STAT_GATED (n : Nat) : Fld := ⟨(R.FBK_STAT n), 17, 17⟩
def FBK_STAT_FBACT (n : Nat) : Fld := ⟨(R.FBK_STAT n), 16, 16⟩
def FBK_STAT_FBRSTREF (n : Nat) : Fld := ⟨(R.FBK_STAT n), 15, 15⟩
def FBK_STAT_SEEDREF (n : Nat) : Fld := ⟨(R.FBK_STAT n), 14, 14⟩
def FBK_STAT_ARMREF (n : Nat) : Fld := ⟨(R.FBK_STAT n), 13, 13⟩
def FBK_STAT_UNRES (n : Nat) : Fld := ⟨(R.FBK_STAT n), 12, 12⟩
def FBK_STAT_PEND (n : Nat) : Fld := ⟨(R.FBK_STAT n), 11, 11⟩
def FBK_STAT_WRAP (n : Nat) : Fld := ⟨(R.FBK_STAT n), 10, 10⟩
def FBK_STAT_SVRISE (n : Nat) : Fld := ⟨(R.FBK_STAT n), 9, 9⟩
def FBK_STAT_AMPFLT (n : Nat) : Fld := ⟨(R.FBK_STAT n), 8, 8⟩
def FBK_STAT_FBSW (n : Nat) : Fld := ⟨(R.FBK_STAT n), 7, 7⟩
def FBK_STAT_ILLEGAL (n : Nat) : Fld := ⟨(R.FBK_STAT n), 6, 6⟩
def FBK_STAT_UNCLASS (n : Nat) : Fld := ⟨(R.FBK_STAT n), 5, 5⟩
def FBK_STAT_LOSTREF (n : Nat) : Fld := ⟨(R.FBK_STAT n), 4, 4⟩
def FBK_STAT_UNEXP (n : Nat) : Fld := ⟨(R.FBK_STAT n), 3, 3⟩
def FBK_STAT_EXTRA (n : Nat) : Fld := ⟨(R.FBK_STAT n), 2, 2⟩
def FBK_STAT_MISSING (n : Nat) : Fld := ⟨(R.FBK_STAT n), 1, 1⟩
def FBK_STAT_REF (n : Nat) : Fld := ⟨(R.FBK_STAT n), 0, 0⟩
def FBK_IDX_IDXDIR (n : Nat) : Fld := ⟨(R.FBK_IDX n), 3, 3⟩
def FBK_IDX_DONE (n : Nat) : Fld := ⟨(R.FBK_IDX n), 2, 2⟩
def FBK_IDX_ARM (n : Nat) : Fld := ⟨(R.FBK_IDX n), 0, 0⟩
def FBK_IDXVAL_IDXVAL (n : Nat) : Fld := ⟨(R.FBK_IDXVAL n), 31, 0⟩
def FBK_OBSCFG_DBN (n : Nat) : Fld := ⟨(R.FBK_OBSCFG n), 31, 16⟩
def FBK_OBSCFG_BW (n : Nat) : Fld := ⟨(R.FBK_OBSCFG n), 12, 0⟩
def FBK_OBSVE_VEDGES (n : Nat) : Fld := ⟨(R.FBK_OBSVE n), 7, 0⟩
def FBK_ANGOFS_OFS (n : Nat) : Fld := ⟨(R.FBK_ANGOFS n), 31, 0⟩
def FBK_ANGOFSQ_OFS (n : Nat) : Fld := ⟨(R.FBK_ANGOFSQ n), 31, 0⟩
def FBK_OANG_ANG (n : Nat) : Fld := ⟨(R.FBK_OANG n), 31, 0⟩
def FBK_OSPD_SPD (n : Nat) : Fld := ⟨(R.FBK_OSPD n), 31, 0⟩
def FBK_OACC_ACC (n : Nat) : Fld := ⟨(R.FBK_OACC n), 31, 0⟩
def FBK_OSTAT_STAT (n : Nat) : Fld := ⟨(R.FBK_OSTAT n), 31, 0⟩
def FBK_WSCFG_EN (n : Nat) : Fld := ⟨(R.FBK_WSCFG n), 31, 31⟩
def FBK_WSCFG_WEVN (n : Nat) : Fld := ⟨(R.FBK_WSCFG n), 23, 16⟩
def FBK_WSCFG_WFILT (n : Nat) : Fld := ⟨(R.FBK_WSCFG n), 13, 8⟩
def FBK_WSCFG_WTMO (n : Nat) : Fld := ⟨(R.FBK_WSCFG n), 7, 0⟩
def FBK_WSCNT_CNT (n : Nat) : Fld := ⟨(R.FBK_WSCNT n), 31, 0⟩
def FBK_WSTS_TIME (n : Nat) : Fld := ⟨(R.FBK_WSTS n), 31, 0⟩
def FBK_WSPER_VALID (n : Nat) : Fld := ⟨(R.FBK_WSPER n), 31, 31⟩
def FBK_WSPER_STOP (n : Nat) : Fld := ⟨(R.FBK_WSPER n), 30, 30⟩
def FBK_WSPER_SHORT (n : Nat) : Fld := ⟨(R.FBK_WSPER n), 29, 29⟩
def FBK_WSPER_OPEN (n : Nat) : Fld := ⟨(R.FBK_WSPER n), 28, 28⟩
def FBK_WSPER_PER (n : Nat) : Fld := ⟨(R.FBK_WSPER n), 27, 0⟩
def FBK_SNTCFG_EN (n : Nat) : Fld := ⟨(R.FBK_SNTCFG n), 31, 31⟩
def FBK_SNTCFG_SUCC (n : Nat) : Fld := ⟨(R.FBK_SNTCFG n), 30, 30⟩
def FBK_SNTCFG_LEGCRC (n : Nat) : Fld := ⟨(R.FBK_SNTCFG n), 29, 29⟩
def FBK_SNTCFG_PAUSE (n : Nat) : Fld := ⟨(R.FBK_SNTCFG n), 28, 27⟩
def FBK_SNTCFG_NDATA (n : Nat) : Fld := ⟨(R.FBK_SNTCFG n), 26, 24⟩
def FBK_SNTCFG_SER (n : Nat) : Fld := ⟨(R.FBK_SNTCFG n), 23, 22⟩
def FBK_SNTCFG_RUNERR (n : Nat) : Fld := ⟨(R.FBK_SNTCFG n), 21, 20⟩
def FBK_SNTCFG_TICK (n : Nat) : Fld := ⟨(R.FBK_SNTCFG n), 19, 10⟩
def FBK_SNTCFG_FLEN (n : Nat) : Fld := ⟨(R.FBK_SNTCFG n), 9, 0⟩
def FBK_SNTFAST_STATUS (n : Nat) : Fld := ⟨(R.FBK_SNTFAST n), 31, 28⟩
def FBK_SNTFAST_DATA (n : Nat) : Fld := ⟨(R.FBK_SNTFAST n), 23, 0⟩
def FBK_SNTTS_TIME (n : Nat) : Fld := ⟨(R.FBK_SNTTS n), 31, 0⟩
def FBK_SNTSER_NEW (n : Nat) : Fld := ⟨(R.FBK_SNTSER n), 31, 31⟩
def FBK_SNTSER_ENH (n : Nat) : Fld := ⟨(R.FBK_SNTSER n), 30, 30⟩
def FBK_SNTSER_ID (n : Nat) : Fld := ⟨(R.FBK_SNTSER n), 23, 16⟩
def FBK_SNTSER_DATA (n : Nat) : Fld := ⟨(R.FBK_SNTSER n), 15, 0⟩
def FBK_SNTERR_CALERR (n : Nat) : Fld := ⟨(R.FBK_SNTERR n), 31, 24⟩
def FBK_SNTERR_NIBERR (n : Nat) : Fld := ⟨(R.FBK_SNTERR n), 23, 16⟩
def FBK_SNTERR_CRCERR (n : Nat) : Fld := ⟨(R.FBK_SNTERR n), 15, 8⟩
def FBK_SNTERR_PAUSEERR (n : Nat) : Fld := ⟨(R.FBK_SNTERR n), 7, 4⟩
def FBK_SNTERR_SERERR (n : Nat) : Fld := ⟨(R.FBK_SNTERR n), 3, 0⟩
def FBK_SNTCTL_CLR (n : Nat) : Fld := ⟨(R.FBK_SNTCTL n), 0, 0⟩
def KRG_CTL_EN : Fld := ⟨R.KRG_CTL, 31, 31⟩
def KRG_CTL_CSEN : Fld := ⟨R.KRG_CTL, 30, 30⟩
def KRG_CTL_TXKEY : Fld := ⟨R.KRG_CTL, 29, 29⟩
def KRG_CTL_NODEID : Fld := ⟨R.KRG_CTL, 7, 4⟩
def KRG_CTL_CSMODE : Fld := ⟨R.KRG_CTL, 2, 0⟩
def KRG_STAT_FVEXH : Fld := ⟨R.KRG_STAT, 31, 31⟩
def KRG_STAT_CLKERR : Fld := ⟨R.KRG_STAT, 30, 30⟩
def KRG_STAT_MODEERR : Fld := ⟨R.KRG_STAT, 29, 29⟩
def KRG_STAT_COLL : Fld := ⟨R.KRG_STAT, 28, 28⟩
def KRG_STAT_APTERR : Fld := ⟨R.KRG_STAT, 27, 27⟩
def KRG_STAT_OWNLOST : Fld := ⟨R.KRG_STAT, 26, 26⟩
def KRG_STAT_MODE : Fld := ⟨R.KRG_STAT, 10, 8⟩
def KRG_STAT_STATE : Fld := ⟨R.KRG_STAT, 2, 0⟩
def KRG_CYCLEN_LEN : Fld := ⟨R.KRG_CYCLEN, 16, 0⟩
def KRG_SYNCCFG_OFSLIM : Fld := ⟨R.KRG_SYNCCFG, 31, 24⟩
def KRG_SYNCCFG_RATELIM : Fld := ⟨R.KRG_SYNCCFG, 23, 16⟩
def KRG_SYNCCFG_RLYTOL : Fld := ⟨R.KRG_SYNCCFG, 15, 8⟩
def KRG_SYNCCFG_NNODES : Fld := ⟨R.KRG_SYNCCFG, 3, 0⟩
def KRG_ACTOFS_OFS : Fld := ⟨R.KRG_ACTOFS, 16, 0⟩
def KRG_NITOFS_OFS : Fld := ⟨R.KRG_NITOFS, 16, 0⟩
def KRG_CYC_CYC32 : Fld := ⟨R.KRG_CYC, 31, 0⟩
def KRG_CORR_OFS : Fld := ⟨R.KRG_CORR, 31, 16⟩
def KRG_CORR_RATE : Fld := ⟨R.KRG_CORR, 15, 0⟩
def KRG_SESS_SESS : Fld := ⟨R.KRG_SESS, 31, 0⟩
def KRG_VOTE_SWREQ : Fld := ⟨R.KRG_VOTE, 31, 31⟩
def KRG_VOTE_SWMODE : Fld := ⟨R.KRG_VOTE, 30, 28⟩
def KRG_VOTE_AUTOMASK : Fld := ⟨R.KRG_VOTE, 23, 16⟩
def KRG_VOTE_FLIPREQ : Fld := ⟨R.KRG_VOTE, 15, 15⟩
def KRG_VOTE_FLIPOK : Fld := ⟨R.KRG_VOTE, 14, 14⟩
def KRG_VOTE_SWTMO : Fld := ⟨R.KRG_VOTE, 13, 8⟩
def KRG_VOTE_FLIPTMO : Fld := ⟨R.KRG_VOTE, 5, 0⟩
def KRG_VOTESTAT_SWDONE : Fld := ⟨R.KRG_VOTESTAT, 31, 31⟩
def KRG_VOTESTAT_SWFAIL : Fld := ⟨R.KRG_VOTESTAT, 30, 30⟩
def KRG_VOTESTAT_SWCONF : Fld := ⟨R.KRG_VOTESTAT, 29, 29⟩
def KRG_VOTESTAT_FLIPDONE : Fld := ⟨R.KRG_VOTESTAT, 28, 28⟩
def KRG_VOTESTAT_FLIPFAIL : Fld := ⟨R.KRG_VOTESTAT, 27, 27⟩
def KRG_VOTESTAT_VOTERS : Fld := ⟨R.KRG_VOTESTAT, 15, 0⟩
def KRG_GMARGIN_GM : Fld := ⟨R.KRG_GMARGIN, 7, 0⟩
def KRG_TXBASE_BASE : Fld := ⟨R.KRG_TXBASE, 31, 14⟩
def KRG_RXBASE_BASE : Fld := ⟨R.KRG_RXBASE, 31, 15⟩
def KRG_CNTCLR_CLR : Fld := ⟨R.KRG_CNTCLR, 0, 0⟩
def KRG_NRDY_COUNT : Fld := ⟨R.KRG_NRDY, 15, 0⟩
def KRG_KEY_KEY (n : Nat) (m : Nat) : Fld := ⟨(R.KRG_KEY n m), 31, 0⟩
def KRG_TXRDY_RDY (n : Nat) : Fld := ⟨(R.KRG_TXRDY n), 31, 0⟩
def KRG_RXIEN_IEN (n : Nat) : Fld := ⟨(R.KRG_RXIEN n), 31, 0⟩
def KRG_PORTCFG_MASTER (n : Nat) : Fld := ⟨(R.KRG_PORTCFG n), 31, 31⟩
def KRG_PORTCFG_TMODE (n : Nat) : Fld := ⟨(R.KRG_PORTCFG n), 30, 28⟩
def KRG_PORTCFG_LDLYINIT (n : Nat) : Fld := ⟨(R.KRG_PORTCFG n), 9, 0⟩
def KRG_PORTSTAT_LINK (n : Nat) : Fld := ⟨(R.KRG_PORTSTAT n), 31, 31⟩
def KRG_PORTSTAT_LOOP (n : Nat) : Fld := ⟨(R.KRG_PORTSTAT n), 30, 30⟩
def KRG_PORTSTAT_LONG (n : Nat) : Fld := ⟨(R.KRG_PORTSTAT n), 29, 29⟩
def KRG_PORTSTAT_SQI (n : Nat) : Fld := ⟨(R.KRG_PORTSTAT n), 28, 26⟩
def KRG_PORTSTAT_SQIMIN (n : Nat) : Fld := ⟨(R.KRG_PORTSTAT n), 25, 23⟩
def KRG_PORTSTAT_LDLY (n : Nat) : Fld := ⟨(R.KRG_PORTSTAT n), 9, 0⟩
def KRG_PORTCNT_CRCERR (n : Nat) : Fld := ⟨(R.KRG_PORTCNT n), 31, 16⟩
def KRG_PORTCNT_DOWN (n : Nat) : Fld := ⟨(R.KRG_PORTCNT n), 15, 0⟩
def KRG_SCNT_EMPTY (n : Nat) (m : Nat) : Fld := ⟨(R.KRG_SCNT n m), 31, 24⟩
def KRG_SCNT_INVAL (n : Nat) (m : Nat) : Fld := ⟨(R.KRG_SCNT n m), 23, 16⟩
def KRG_SCNT_AUTH (n : Nat) (m : Nat) : Fld := ⟨(R.KRG_SCNT n m), 15, 8⟩
def KRG_SCNT_EARLY (n : Nat) (m : Nat) : Fld := ⟨(R.KRG_SCNT n m), 7, 4⟩
def KRG_SCNT_LATE (n : Nat) (m : Nat) : Fld := ⟨(R.KRG_SCNT n m), 3, 0⟩
def KRG_APT_EN (n : Nat) (m : Nat) : Fld := ⟨(R.KRG_APT n m), 31, 31⟩
def KRG_APT_OWNER (n : Nat) (m : Nat) : Fld := ⟨(R.KRG_APT n m), 30, 27⟩
def KRG_APT_SYNC (n : Nat) (m : Nat) : Fld := ⟨(R.KRG_APT n m), 26, 26⟩
def KRG_APT_STAT (n : Nat) (m : Nat) : Fld := ⟨(R.KRG_APT n m), 25, 25⟩
def KRG_APT_PLEN (n : Nat) (m : Nat) : Fld := ⟨(R.KRG_APT n m), 24, 20⟩
def KRG_APT_START (n : Nat) (m : Nat) : Fld := ⟨(R.KRG_APT n m), 16, 0⟩
def CAN_MCTL_CONF (n : Nat) : Fld := ⟨(R.CAN_MCTL n), 31, 31⟩
def CAN_MCTL_OPMODE (n : Nat) : Fld := ⟨(R.CAN_MCTL n), 30, 28⟩
def CAN_MCTL_FDON (n : Nat) : Fld := ⟨(R.CAN_MCTL n), 27, 27⟩
def CAN_MCTL_BRSON (n : Nat) : Fld := ⟨(R.CAN_MCTL n), 26, 26⟩
def CAN_MCTL_PEXOFF (n : Nat) : Fld := ⟨(R.CAN_MCTL n), 25, 25⟩
def CAN_MCTL_AUTOREC (n : Nat) : Fld := ⟨(R.CAN_MCTL n), 24, 24⟩
def CAN_MCTL_ONESHOT (n : Nat) : Fld := ⟨(R.CAN_MCTL n), 23, 23⟩
def CAN_MCTL_TXORD (n : Nat) : Fld := ⟨(R.CAN_MCTL n), 22, 22⟩
def CAN_ARBT_PRESC (n : Nat) : Fld := ⟨(R.CAN_ARBT n), 31, 24⟩
def CAN_ARBT_SEG1 (n : Nat) : Fld := ⟨(R.CAN_ARBT n), 23, 16⟩
def CAN_ARBT_SEG2 (n : Nat) : Fld := ⟨(R.CAN_ARBT n), 14, 8⟩
def CAN_ARBT_SJW (n : Nat) : Fld := ⟨(R.CAN_ARBT n), 6, 0⟩
def CAN_DATT_DPRESC (n : Nat) : Fld := ⟨(R.CAN_DATT n), 28, 24⟩
def CAN_DATT_DSEG1 (n : Nat) : Fld := ⟨(R.CAN_DATT n), 20, 16⟩
def CAN_DATT_DSEG2 (n : Nat) : Fld := ⟨(R.CAN_DATT n), 12, 8⟩
def CAN_DATT_DSJW (n : Nat) : Fld := ⟨(R.CAN_DATT n), 4, 0⟩
def CAN_SSP_EN (n : Nat) : Fld := ⟨(R.CAN_SSP n), 31, 31⟩
def CAN_SSP_OFS (n : Nat) : Fld := ⟨(R.CAN_SSP n), 14, 8⟩
def CAN_SSP_MEAS (n : Nat) : Fld := ⟨(R.CAN_SSP n), 6, 0⟩
def CAN_STAT_BUSOFF (n : Nat) : Fld := ⟨(R.CAN_STAT n), 31, 31⟩
def CAN_STAT_ERRPAS (n : Nat) : Fld := ⟨(R.CAN_STAT n), 30, 30⟩
def CAN_STAT_WARN (n : Nat) : Fld := ⟨(R.CAN_STAT n), 29, 29⟩
def CAN_STAT_PEX (n : Nat) : Fld := ⟨(R.CAN_STAT n), 28, 28⟩
def CAN_STAT_ACKERR (n : Nat) : Fld := ⟨(R.CAN_STAT n), 27, 27⟩
def CAN_STAT_ACT (n : Nat) : Fld := ⟨(R.CAN_STAT n), 26, 26⟩
def CAN_STAT_LASTERR (n : Nat) : Fld := ⟨(R.CAN_STAT n), 2, 0⟩
def CAN_ECNT_RPAS (n : Nat) : Fld := ⟨(R.CAN_ECNT n), 23, 23⟩
def CAN_ECNT_REC (n : Nat) : Fld := ⟨(R.CAN_ECNT n), 22, 16⟩
def CAN_ECNT_TEC (n : Nat) : Fld := ⟨(R.CAN_ECNT n), 7, 0⟩
def CAN_RXBASE_BASE (n : Nat) : Fld := ⟨(R.CAN_RXBASE n), 31, 4⟩
def CAN_RXQ_NOMATCH (n : Nat) : Fld := ⟨(R.CAN_RXQ n), 31, 31⟩
def CAN_RXQ_Q1POL (n : Nat) : Fld := ⟨(R.CAN_RXQ n), 30, 30⟩
def CAN_RXQ_Q1SIZE (n : Nat) : Fld := ⟨(R.CAN_RXQ n), 22, 16⟩
def CAN_RXQ_Q0POL (n : Nat) : Fld := ⟨(R.CAN_RXQ n), 14, 14⟩
def CAN_RXQ_Q0SIZE (n : Nat) : Fld := ⟨(R.CAN_RXQ n), 6, 0⟩
def CAN_RXPTR_Q1HEAD (n : Nat) : Fld := ⟨(R.CAN_RXPTR n), 29, 24⟩
def CAN_RXPTR_Q1FILL (n : Nat) : Fld := ⟨(R.CAN_RXPTR n), 22, 16⟩
def CAN_RXPTR_Q0HEAD (n : Nat) : Fld := ⟨(R.CAN_RXPTR n), 13, 8⟩
def CAN_RXPTR_Q0FILL (n : Nat) : Fld := ⟨(R.CAN_RXPTR n), 6, 0⟩
def CAN_RXACK_Q1ACK (n : Nat) : Fld := ⟨(R.CAN_RXACK n), 22, 16⟩
def CAN_RXACK_Q0ACK (n : Nat) : Fld := ⟨(R.CAN_RXACK n), 6, 0⟩
def CAN_RXDROP_Q1DROP (n : Nat) : Fld := ⟨(R.CAN_RXDROP n), 31, 16⟩
def CAN_RXDROP_Q0DROP (n : Nat) : Fld := ⟨(R.CAN_RXDROP n), 15, 0⟩
def CAN_TXTBL_BASE (n : Nat) : Fld := ⟨(R.CAN_TXTBL n), 31, 4⟩
def CAN_TXGO_GO (n : Nat) : Fld := ⟨(R.CAN_TXGO n), 31, 0⟩
def CAN_TXBUSY_BUSY (n : Nat) : Fld := ⟨(R.CAN_TXBUSY n), 31, 0⟩
def CAN_TXEND_END (n : Nat) : Fld := ⟨(R.CAN_TXEND n), 31, 0⟩
def CAN_TXABORT_ABORT (n : Nat) : Fld := ⟨(R.CAN_TXABORT n), 31, 0⟩
def CAN_ACPT_EN (n : Nat) (m : Nat) : Fld := ⟨(R.CAN_ACPT n m), 31, 31⟩
def CAN_ACPT_EXT (n : Nat) (m : Nat) : Fld := ⟨(R.CAN_ACPT n m), 30, 30⟩
def CAN_ACPT_KIND (n : Nat) (m : Nat) : Fld := ⟨(R.CAN_ACPT n m), 29, 29⟩
def CAN_ACPT_ID (n : Nat) (m : Nat) : Fld := ⟨(R.CAN_ACPT n m), 28, 0⟩
def CAN_ACPM_Q (n : Nat) (m : Nat) : Fld := ⟨(R.CAN_ACPM n m), 31, 31⟩
def CAN_ACPM_MASK (n : Nat) (m : Nat) : Fld := ⟨(R.CAN_ACPM n m), 28, 0⟩
def LNK_CTL_EN : Fld := ⟨R.LNK_CTL, 31, 31⟩
def LNK_CTL_CLAIMEN : Fld := ⟨R.LNK_CTL, 30, 30⟩
def LNK_CTL_RELEASE : Fld := ⟨R.LNK_CTL, 29, 29⟩
def LNK_CTL_RLEADEN : Fld := ⟨R.LNK_CTL, 28, 28⟩
def LNK_CFG_SLMASK : Fld := ⟨R.LNK_CFG, 31, 24⟩
def LNK_CFG_MFMT : Fld := ⟨R.LNK_CFG, 23, 20⟩
def LNK_CFG_LDOFS : Fld := ⟨R.LNK_CFG, 16, 0⟩
def LNK_XCFG_CATCHN : Fld := ⟨R.LNK_XCFG, 31, 24⟩
def LNK_XCFG_XMAXN : Fld := ⟨R.LNK_XCFG, 23, 20⟩
def LNK_XCFG_NSNAP : Fld := ⟨R.LNK_XCFG, 19, 10⟩
def LNK_ALONE_CYC : Fld := ⟨R.LNK_ALONE, 11, 0⟩
def LNK_STAT_TOKEN : Fld := ⟨R.LNK_STAT, 31, 31⟩
def LNK_STAT_RLEAD : Fld := ⟨R.LNK_STAT, 30, 30⟩
def LNK_STAT_LINEFLT : Fld := ⟨R.LNK_STAT, 29, 29⟩
def LNK_STAT_INSTEP : Fld := ⟨R.LNK_STAT, 28, 28⟩
def LNK_STAT_SNAPOK : Fld := ⟨R.LNK_STAT, 27, 27⟩
def LNK_STAT_LEADID : Fld := ⟨R.LNK_STAT, 26, 24⟩
def LNK_STAT_SL : Fld := ⟨R.LNK_STAT, 23, 21⟩
def LNK_STAT_CMPRES : Fld := ⟨R.LNK_STAT, 20, 19⟩
def LNK_STAT_MAJSRC : Fld := ⟨R.LNK_STAT, 18, 16⟩
def LNK_EVT_ALONE : Fld := ⟨R.LNK_EVT, 9, 9⟩
def LNK_EVT_CATCHDONE : Fld := ⟨R.LNK_EVT, 8, 8⟩
def LNK_EVT_SLCHG : Fld := ⟨R.LNK_EVT, 7, 7⟩
def LNK_EVT_NOMAJ : Fld := ⟨R.LNK_EVT, 6, 6⟩
def LNK_EVT_XMIN : Fld := ⟨R.LNK_EVT, 5, 5⟩
def LNK_EVT_LEADDUP : Fld := ⟨R.LNK_EVT, 4, 4⟩
def LNK_EVT_LINEFLT : Fld := ⟨R.LNK_EVT, 3, 3⟩
def LNK_EVT_CLAIMLOST : Fld := ⟨R.LNK_EVT, 2, 2⟩
def LNK_EVT_LOST : Fld := ⟨R.LNK_EVT, 1, 1⟩
def LNK_EVT_WON : Fld := ⟨R.LNK_EVT, 0, 0⟩
def LNK_CNT_XMINCNT : Fld := ⟨R.LNK_CNT, 31, 16⟩
def LNK_CNT_LFCNT : Fld := ⟨R.LNK_CNT, 15, 0⟩
def LNK_SHCLAMP_MASK : Fld := ⟨R.LNK_SHCLAMP, 7, 0⟩
def LNK_DCI_OUT : Fld := ⟨R.LNK_DCI, 1, 1⟩
def LNK_DCI_VAL : Fld := ⟨R.LNK_DCI, 0, 0⟩
def LNK_SNAPSRC_ADDR : Fld := ⟨R.LNK_SNAPSRC, 31, 0⟩
def LNK_SNAPRX_ADDR : Fld := ⟨R.LNK_SNAPRX, 31, 0⟩
def LNK_SNAPCYC_CYC : Fld := ⟨R.LNK_SNAPCYC, 31, 0⟩
def LNK_CH_EN (n : Nat) : Fld := ⟨(R.LNK_CH n), 31, 31⟩
def LNK_CH_MEMBER (n : Nat) : Fld := ⟨(R.LNK_CH n), 30, 30⟩
def LNK_CH_SLOT (n : Nat) : Fld := ⟨(R.LNK_CH n), 5, 0⟩
def LNK_AGR_VAL (n : Nat) : Fld := ⟨(R.LNK_AGR n), 31, 0⟩
def CFG_CTL_SHRDY : Fld := ⟨R.CFG_CTL, 31, 31⟩
def CFG_CTL_LFLIP : Fld := ⟨R.CFG_CTL, 30, 30⟩
def CFG_STAT_LIVE : Fld := ⟨R.CFG_STAT, 31, 31⟩
def CFG_STAT_ARMED : Fld := ⟨R.CFG_STAT, 30, 30⟩
def CFG_STAT_ARMREF : Fld := ⟨R.CFG_STAT, 29, 29⟩
def CFG_STAT_LIVEWR : Fld := ⟨R.CFG_STAT, 28, 28⟩
def CFG_STAT_NOTSH : Fld := ⟨R.CFG_STAT, 27, 27⟩
def CFG_STAT_SHWR : Fld := ⟨R.CFG_STAT, 26, 26⟩
def CFG_STAT_CANCEL : Fld := ⟨R.CFG_STAT, 25, 25⟩
def CFG_STAT_FLIPCNT : Fld := ⟨R.CFG_STAT, 15, 0⟩
def CFG_PLACE_MASK : Fld := ⟨R.CFG_PLACE, 7, 0⟩
def CFG_SHADDR_ADDR : Fld := ⟨R.CFG_SHADDR, 31, 2⟩
def CFG_SHDATA_DATA : Fld := ⟨R.CFG_SHDATA, 31, 0⟩
def BST_CTL_START : Fld := ⟨R.BST_CTL, 31, 31⟩
def BST_CTL_ABORT : Fld := ⟨R.BST_CTL, 30, 30⟩
def BST_CTL_MASK : Fld := ⟨R.BST_CTL, 16, 0⟩
def BST_STAT_RUN : Fld := ⟨R.BST_STAT, 31, 31⟩
def BST_STAT_DONE : Fld := ⟨R.BST_STAT, 30, 30⟩
def BST_STAT_REFUSED : Fld := ⟨R.BST_STAT, 29, 29⟩
def BST_STAT_REGION : Fld := ⟨R.BST_STAT, 28, 24⟩
def BST_STAT_COPY : Fld := ⟨R.BST_STAT, 2, 2⟩
def BST_STAT_ORIGIN : Fld := ⟨R.BST_STAT, 1, 0⟩
def BST_CUT_VALID : Fld := ⟨R.BST_CUT, 31, 31⟩
def BST_CUT_REGION : Fld := ⟨R.BST_CUT, 20, 16⟩
def BST_CUT_COPY : Fld := ⟨R.BST_CUT, 8, 8⟩
def BST_CUT_CAUSE : Fld := ⟨R.BST_CUT, 3, 0⟩
def BST_ACTL_START : Fld := ⟨R.BST_ACTL, 31, 31⟩
def BST_ACTL_ABORT : Fld := ⟨R.BST_ACTL, 30, 30⟩
def BST_ACTL_ARG : Fld := ⟨R.BST_ACTL, 15, 8⟩
def BST_ACTL_STEP : Fld := ⟨R.BST_ACTL, 3, 0⟩
def BST_ARES_RESULT : Fld := ⟨R.BST_ARES, 31, 30⟩
def BST_ARES_RUN : Fld := ⟨R.BST_ARES, 29, 29⟩
def BST_ARES_DONE : Fld := ⟨R.BST_ARES, 28, 28⟩
def BST_ARES_REFUSED : Fld := ⟨R.BST_ARES, 27, 27⟩
def BST_ARES_VALUE : Fld := ⟨R.BST_ARES, 15, 0⟩
def BST_AEXP_HI : Fld := ⟨R.BST_AEXP, 31, 16⟩
def BST_AEXP_LO : Fld := ⟨R.BST_AEXP, 15, 0⟩
def BST_REFSIG_SIG (n : Nat) : Fld := ⟨(R.BST_REFSIG n), 31, 0⟩
def BST_RES_PCNT1 (n : Nat) : Fld := ⟨(R.BST_RES n), 31, 20⟩
def BST_RES_PCNT0 (n : Nat) : Fld := ⟨(R.BST_RES n), 19, 8⟩
def BST_RES_ORIGIN (n : Nat) : Fld := ⟨(R.BST_RES n), 5, 4⟩
def BST_RES_RES1 (n : Nat) : Fld := ⟨(R.BST_RES n), 3, 2⟩
def BST_RES_RES0 (n : Nat) : Fld := ⟨(R.BST_RES n), 1, 0⟩
def BST_SIG_SIG (n : Nat) (m : Nat) : Fld := ⟨(R.BST_SIG n m), 31, 0⟩
def MGN_CTL_EN : Fld := ⟨R.MGN_CTL, 31, 31⟩
def MGN_CTL_VIDEN : Fld := ⟨R.MGN_CTL, 2, 2⟩
def MGN_CTL_THREN : Fld := ⟨R.MGN_CTL, 1, 1⟩
def MGN_CTL_DTEN : Fld := ⟨R.MGN_CTL, 0, 0⟩
def MGN_STAT_APPREF : Fld := ⟨R.MGN_STAT, 11, 11⟩
def MGN_STAT_HELD : Fld := ⟨R.MGN_STAT, 10, 8⟩
def MGN_STAT_EXH : Fld := ⟨R.MGN_STAT, 6, 0⟩
def MGN_APPROVE_GO : Fld := ⟨R.MGN_APPROVE, 31, 31⟩
def MGN_APPROVE_TYPE : Fld := ⟨R.MGN_APPROVE, 17, 16⟩
def MGN_APPROVE_IDX : Fld := ⟨R.MGN_APPROVE, 4, 0⟩
def MGN_VIDP_HELD : Fld := ⟨R.MGN_VIDP, 31, 31⟩
def MGN_VIDP_CUR : Fld := ⟨R.MGN_VIDP, 12, 8⟩
def MGN_VIDP_PROP : Fld := ⟨R.MGN_VIDP, 5, 0⟩
def MGN_SLACK_WIN : Fld := ⟨R.MGN_SLACK, 31, 16⟩
def MGN_SLACK_WORST : Fld := ⟨R.MGN_SLACK, 15, 0⟩
def MGN_PDS_SLK (n : Nat) : Fld := ⟨(R.MGN_PDS n), 15, 0⟩
def MGN_RON_HS (n : Nat) : Fld := ⟨(R.MGN_RON n), 31, 16⟩
def MGN_RON_LS (n : Nat) : Fld := ⟨(R.MGN_RON n), 15, 0⟩
def MGN_TOFF_HS (n : Nat) : Fld := ⟨(R.MGN_TOFF n), 31, 16⟩
def MGN_TOFF_LS (n : Nat) : Fld := ⟨(R.MGN_TOFF n), 15, 0⟩
def MGN_DROOP_DROOP (n : Nat) : Fld := ⟨(R.MGN_DROOP n), 15, 0⟩
def MGN_DTP_HELD (n : Nat) : Fld := ⟨(R.MGN_DTP n), 31, 31⟩
def MGN_DTP_PROP (n : Nat) : Fld := ⟨(R.MGN_DTP n), 13, 0⟩
def MGN_THRP_HELD (n : Nat) : Fld := ⟨(R.MGN_THRP n), 31, 31⟩
def MGN_THRP_PROP (n : Nat) : Fld := ⟨(R.MGN_THRP n), 5, 0⟩
def MGN_OFS_OFSV (n : Nat) : Fld := ⟨(R.MGN_OFS n), 29, 16⟩
def MGN_OFS_OFSU (n : Nat) : Fld := ⟨(R.MGN_OFS n), 13, 0⟩
def MGN_OFSW_GAINERR (n : Nat) : Fld := ⟨(R.MGN_OFSW n), 31, 16⟩
def MGN_OFSW_OFSW (n : Nat) : Fld := ⟨(R.MGN_OFSW n), 13, 0⟩
def INJ_KEY_KEY : Fld := ⟨R.INJ_KEY, 15, 0⟩
def INJ_SEL_ARG : Fld := ⟨R.INJ_SEL, 23, 8⟩
def INJ_SEL_DET : Fld := ⟨R.INJ_SEL, 7, 0⟩
def INJ_ADDR_ADDR : Fld := ⟨R.INJ_ADDR, 31, 3⟩
def INJ_CTL_FIRE : Fld := ⟨R.INJ_CTL, 31, 31⟩
def INJ_CTL_DISARM : Fld := ⟨R.INJ_CTL, 30, 30⟩
def INJ_CTL_DUR : Fld := ⟨R.INJ_CTL, 11, 0⟩
def INJ_STAT_ARMED : Fld := ⟨R.INJ_STAT, 31, 31⟩
def INJ_STAT_HELD : Fld := ⟨R.INJ_STAT, 30, 30⟩
def INJ_STAT_FIRED : Fld := ⟨R.INJ_STAT, 29, 29⟩
def INJ_STAT_REFUSED : Fld := ⟨R.INJ_STAT, 28, 28⟩
def INJ_STAT_BUSY : Fld := ⟨R.INJ_STAT, 27, 27⟩
def INJ_STAT_LAST : Fld := ⟨R.INJ_STAT, 7, 0⟩
def EVC_GCTL_RUN : Fld := ⟨R.EVC_GCTL, 31, 0⟩
def EVC_THRST_THR : Fld := ⟨R.EVC_THRST, 31, 0⟩
def EVC_WRAP_WRAP : Fld := ⟨R.EVC_WRAP, 31, 0⟩
def EVC_CLR_CLR : Fld := ⟨R.EVC_CLR, 31, 0⟩
def EVC_SEL_THREN (n : Nat) : Fld := ⟨(R.EVC_SEL n), 31, 31⟩
def EVC_SEL_THRSH (n : Nat) : Fld := ⟨(R.EVC_SEL n), 29, 24⟩
def EVC_SEL_SRC (n : Nat) : Fld := ⟨(R.EVC_SEL n), 7, 0⟩
def EVC_CNTL_CNT (n : Nat) : Fld := ⟨(R.EVC_CNTL n), 31, 0⟩
def EVC_CNTH_CNT (n : Nat) : Fld := ⟨(R.EVC_CNTH n), 15, 0⟩
def LUP_CTL_START (n : Nat) : Fld := ⟨(R.LUP_CTL n), 31, 31⟩
def LUP_CTL_SWTRG (n : Nat) : Fld := ⟨(R.LUP_CTL n), 30, 30⟩
def LUP_CTL_ABORT (n : Nat) : Fld := ⟨(R.LUP_CTL n), 29, 29⟩
def LUP_CTL_TRGSEL (n : Nat) : Fld := ⟨(R.LUP_CTL n), 17, 16⟩
def LUP_CTL_TRGCH (n : Nat) : Fld := ⟨(R.LUP_CTL n), 15, 13⟩
def LUP_CTL_REL (n : Nat) : Fld := ⟨(R.LUP_CTL n), 12, 10⟩
def LUP_CTL_TFMT (n : Nat) : Fld := ⟨(R.LUP_CTL n), 9, 8⟩
def LUP_CTL_TRGARG (n : Nat) : Fld := ⟨(R.LUP_CTL n), 5, 0⟩
def LUP_SMP_KIND (n : Nat) : Fld := ⟨(R.LUP_SMP n), 31, 31⟩
def LUP_SMP_DIV (n : Nat) : Fld := ⟨(R.LUP_SMP n), 11, 8⟩
def LUP_SMP_SRC (n : Nat) : Fld := ⟨(R.LUP_SMP n), 5, 0⟩
def LUP_THR_THR (n : Nat) : Fld := ⟨(R.LUP_THR n), 31, 0⟩
def LUP_PRE_PRE (n : Nat) : Fld := ⟨(R.LUP_PRE n), 11, 0⟩
def LUP_BASE_BASE (n : Nat) : Fld := ⟨(R.LUP_BASE n), 31, 14⟩
def LUP_STAT_DONE (n : Nat) : Fld := ⟨(R.LUP_STAT n), 31, 31⟩
def LUP_STAT_INCOMPLETE (n : Nat) : Fld := ⟨(R.LUP_STAT n), 30, 30⟩
def LUP_STAT_TRIGD (n : Nat) : Fld := ⟨(R.LUP_STAT n), 29, 29⟩
def LUP_STAT_CFGERR (n : Nat) : Fld := ⟨(R.LUP_STAT n), 28, 28⟩
def LUP_STAT_RUN (n : Nat) : Fld := ⟨(R.LUP_STAT n), 27, 27⟩
def LUP_STAT_LOST (n : Nat) : Fld := ⟨(R.LUP_STAT n), 23, 12⟩
def LUP_STAT_TRIGIDX (n : Nat) : Fld := ⟨(R.LUP_STAT n), 11, 0⟩
def LUP_CH_MODE (n : Nat) (m : Nat) : Fld := ⟨(R.LUP_CH n m), 31, 30⟩
def LUP_CH_IDX (n : Nat) (m : Nat) : Fld := ⟨(R.LUP_CH n m), 13, 0⟩
def SPP_STAT_READY : Fld := ⟨R.SPP_STAT, 7, 7⟩
def SPP_STAT_BUSY : Fld := ⟨R.SPP_STAT, 6, 6⟩
def SPP_STAT_LOSTRESP : Fld := ⟨R.SPP_STAT, 5, 5⟩
def SPP_STAT_BUSYREJ : Fld := ⟨R.SPP_STAT, 4, 4⟩
def SPP_STAT_CRCERR : Fld := ⟨R.SPP_STAT, 3, 3⟩
def SPP_STAT_MODE : Fld := ⟨R.SPP_STAT, 2, 0⟩
def SPP_ERRCNT_CRCCNT : Fld := ⟨R.SPP_ERRCNT, 31, 16⟩
def SPP_ERRCNT_REFCNT : Fld := ⟨R.SPP_ERRCNT, 15, 0⟩
def GDR_DRV_BSUV (n : Nat) : Fld := ⟨(R.GDR_DRV n), 21, 20⟩
def GDR_DRV_SNKLS (n : Nat) : Fld := ⟨(R.GDR_DRV n), 15, 12⟩
def GDR_DRV_SRCLS (n : Nat) : Fld := ⟨(R.GDR_DRV n), 11, 8⟩
def GDR_DRV_SNKHS (n : Nat) : Fld := ⟨(R.GDR_DRV n), 7, 4⟩
def GDR_DRV_SRCHS (n : Nat) : Fld := ⟨(R.GDR_DRV n), 3, 0⟩
def GDR_VDS_THREFF (n : Nat) : Fld := ⟨(R.GDR_VDS n), 28, 24⟩
def GDR_VDS_THRADJ (n : Nat) : Fld := ⟨(R.GDR_VDS n), 20, 16⟩
def GDR_VDS_THR (n : Nat) : Fld := ⟨(R.GDR_VDS n), 12, 8⟩
def GDR_VDS_GROSS (n : Nat) : Fld := ⟨(R.GDR_VDS n), 7, 5⟩
def GDR_VDS_BLANK (n : Nat) : Fld := ⟨(R.GDR_VDS n), 4, 0⟩
def GDR_STAT_BSOK (n : Nat) : Fld := ⟨(R.GDR_STAT n), 7, 7⟩
def GDR_STAT_HSTOLS (n : Nat) : Fld := ⟨(R.GDR_STAT n), 6, 6⟩
def GDR_STAT_HSTOHS (n : Nat) : Fld := ⟨(R.GDR_STAT n), 5, 5⟩
def GDR_STAT_BSUV (n : Nat) : Fld := ⟨(R.GDR_STAT n), 4, 4⟩
def GDR_STAT_VDSLS (n : Nat) : Fld := ⟨(R.GDR_STAT n), 3, 3⟩
def GDR_STAT_VDSHS (n : Nat) : Fld := ⟨(R.GDR_STAT n), 2, 2⟩
def GDR_STAT_GROSSLS (n : Nat) : Fld := ⟨(R.GDR_STAT n), 1, 1⟩
def GDR_STAT_GROSSHS (n : Nat) : Fld := ⟨(R.GDR_STAT n), 0, 0⟩
def GDR_SOFT_WTIME (n : Nat) : Fld := ⟨(R.GDR_SOFT n), 7, 4⟩
def GDR_SOFT_WEAK (n : Nat) : Fld := ⟨(R.GDR_SOFT n), 2, 0⟩
def GDR_HSCFG_HSTMO : Fld := ⟨R.GDR_HSCFG, 2, 0⟩
def GDR_EVT_CLR : Fld := ⟨R.GDR_EVT, 31, 31⟩
def GDR_EVT_COUNT : Fld := ⟨R.GDR_EVT, 15, 0⟩
def GDR_EVLEGS_LEGS : Fld := ⟨R.GDR_EVLEGS, 23, 0⟩
def ADC_SEQCFG_EN (n : Nat) : Fld := ⟨(R.ADC_SEQCFG n), 31, 31⟩
def ADC_SEQCFG_MUX4 (n : Nat) : Fld := ⟨(R.ADC_SEQCFG n), 27, 24⟩
def ADC_SEQCFG_BGSC (n : Nat) : Fld := ⟨(R.ADC_SEQCFG n), 17, 17⟩
def ADC_SEQCFG_BGDC (n : Nat) : Fld := ⟨(R.ADC_SEQCFG n), 16, 16⟩
def ADC_SEQCFG_TSET (n : Nat) : Fld := ⟨(R.ADC_SEQCFG n), 7, 0⟩
def ADC_STAT_CLR (n : Nat) : Fld := ⟨(R.ADC_STAT n), 31, 31⟩
def ADC_STAT_PREDLIM (n : Nat) : Fld := ⟨(R.ADC_STAT n), 20, 20⟩
def ADC_STAT_PREDRUN (n : Nat) : Fld := ⟨(R.ADC_STAT n), 19, 16⟩
def ADC_STAT_PREDMAX (n : Nat) : Fld := ⟨(R.ADC_STAT n), 15, 12⟩
def ADC_STAT_BGSKIP (n : Nat) : Fld := ⟨(R.ADC_STAT n), 11, 0⟩
def ADC_SKIPCNT_SKIP2 (n : Nat) : Fld := ⟨(R.ADC_SKIPCNT n), 31, 16⟩
def ADC_SKIPCNT_SKIP1 (n : Nat) : Fld := ⟨(R.ADC_SKIPCNT n), 15, 0⟩
def ADC_VDC_NEW (n : Nat) : Fld := ⟨(R.ADC_VDC n), 31, 31⟩
def ADC_VDC_CODE (n : Nat) : Fld := ⟨(R.ADC_VDC n), 13, 0⟩
def ADC_ZXCFG_EN (n : Nat) : Fld := ⟨(R.ADC_ZXCFG n), 31, 31⟩
def ADC_ZXCFG_TMO (n : Nat) : Fld := ⟨(R.ADC_ZXCFG n), 15, 0⟩
def ADC_ZX_DONE (n : Nat) : Fld := ⟨(R.ADC_ZX n), 31, 31⟩
def ADC_ZX_DIR (n : Nat) : Fld := ⟨(R.ADC_ZX n), 30, 30⟩
def ADC_ZX_NOMOTION (n : Nat) : Fld := ⟨(R.ADC_ZX n), 29, 29⟩
def ADC_ZX_CODE (n : Nat) : Fld := ⟨(R.ADC_ZX n), 2, 0⟩
def ADC_ZXT_TIME (n : Nat) : Fld := ⟨(R.ADC_ZXT n), 31, 0⟩
def ADC_ZXI0_INT (n : Nat) : Fld := ⟨(R.ADC_ZXI0 n), 31, 0⟩
def ADC_ZXI1_INT (n : Nat) : Fld := ⟨(R.ADC_ZXI1 n), 31, 0⟩
def CSA_CFG_GAIN (n : Nat) : Fld := ⟨(R.CSA_CFG n), 2, 0⟩
def CSA_CLIP_CLIP : Fld := ⟨R.CSA_CLIP, 23, 0⟩
def AON_TRIM_HWMTRIM : Fld := ⟨R.AON_TRIM, 23, 16⟩
def AON_TRIM_AONTRIM : Fld := ⟨R.AON_TRIM, 7, 0⟩
def AON_GLCFG_EN : Fld := ⟨R.AON_GLCFG, 31, 31⟩
def AON_GLCFG_CONFIRM : Fld := ⟨R.AON_GLCFG, 29, 28⟩
def AON_GLCFG_SETTLE : Fld := ⟨R.AON_GLCFG, 27, 20⟩
def AON_GLCFG_INTV : Fld := ⟨R.AON_GLCFG, 13, 0⟩
def AON_SUPCFG_VSBMODE : Fld := ⟨R.AON_SUPCFG, 3, 2⟩
def AON_SUPCFG_VSAMODE : Fld := ⟨R.AON_SUPCFG, 1, 0⟩
def AON_WAKEEN_PC1 : Fld := ⟨R.AON_WAKEEN, 3, 3⟩
def AON_WAKEEN_PC0 : Fld := ⟨R.AON_WAKEEN, 2, 2⟩
def AON_WAKEEN_GLINT : Fld := ⟨R.AON_WAKEEN, 1, 1⟩
def AON_WAKEEN_WAKE : Fld := ⟨R.AON_WAKEEN, 0, 0⟩
def AON_WAKESRC_GLCH : Fld := ⟨R.AON_WAKESRC, 11, 8⟩
def AON_WAKESRC_REPLAY : Fld := ⟨R.AON_WAKESRC, 4, 4⟩
def AON_WAKESRC_PC1 : Fld := ⟨R.AON_WAKESRC, 3, 3⟩
def AON_WAKESRC_PC0 : Fld := ⟨R.AON_WAKESRC, 2, 2⟩
def AON_WAKESRC_GLINT : Fld := ⟨R.AON_WAKESRC, 1, 1⟩
def AON_WAKESRC_WAKE : Fld := ⟨R.AON_WAKESRC, 0, 0⟩
def AON_SLBASE_BASE : Fld := ⟨R.AON_SLBASE, 31, 0⟩
def AON_SLCTL_CRCBAD : Fld := ⟨R.AON_SLCTL, 31, 31⟩
def AON_SLCTL_RESTORED : Fld := ⟨R.AON_SLCTL, 30, 30⟩
def AON_SLCTL_BADBASE : Fld := ⟨R.AON_SLCTL, 29, 29⟩
def AON_SLCTL_SKIP : Fld := ⟨R.AON_SLCTL, 28, 19⟩
def AON_SLCTL_COUNT : Fld := ⟨R.AON_SLCTL, 9, 0⟩
def AON_SLCRC_CRC : Fld := ⟨R.AON_SLCRC, 31, 0⟩
def AON_PCCTL_THR1 : Fld := ⟨R.AON_PCCTL, 31, 24⟩
def AON_PCCTL_THR0 : Fld := ⟨R.AON_PCCTL, 23, 16⟩
def AON_PCCTL_UPONLY1 : Fld := ⟨R.AON_PCCTL, 5, 5⟩
def AON_PCCTL_UPONLY0 : Fld := ⟨R.AON_PCCTL, 4, 4⟩
def AON_PCCTL_DIR1 : Fld := ⟨R.AON_PCCTL, 3, 3⟩
def AON_PCCTL_DIR0 : Fld := ⟨R.AON_PCCTL, 2, 2⟩
def AON_PCCTL_EN1 : Fld := ⟨R.AON_PCCTL, 1, 1⟩
def AON_PCCTL_EN0 : Fld := ⟨R.AON_PCCTL, 0, 0⟩
def AON_PCNT_COUNT (n : Nat) : Fld := ⟨(R.AON_PCNT n), 23, 0⟩
def AON_GLCH_SRC (n : Nat) : Fld := ⟨(R.AON_GLCH n), 31, 28⟩
def AON_GLCH_HI (n : Nat) : Fld := ⟨(R.AON_GLCH n), 27, 14⟩
def AON_GLCH_LO (n : Nat) : Fld := ⟨(R.AON_GLCH n), 13, 0⟩
def AON_GLRES_VIOL (n : Nat) : Fld := ⟨(R.AON_GLRES n), 31, 31⟩
def AON_GLRES_VALUE (n : Nat) : Fld := ⟨(R.AON_GLRES n), 13, 0⟩
def AON_WLOG_CAUSE (n : Nat) : Fld := ⟨(R.AON_WLOG n), 31, 28⟩
def AON_WLOG_STEP (n : Nat) : Fld := ⟨(R.AON_WLOG n), 27, 24⟩
def AON_WLOG_RETRY (n : Nat) : Fld := ⟨(R.AON_WLOG n), 23, 22⟩
def AON_WLOG_TIME (n : Nat) : Fld := ⟨(R.AON_WLOG n), 15, 0⟩
def AON_SLSKIP_SKIP (n : Nat) : Fld := ⟨(R.AON_SLSKIP n), 31, 0⟩
def HWM_STAT_FAULT : Fld := ⟨R.HWM_STAT, 31, 31⟩
def HWM_STAT_ENABLE : Fld := ⟨R.HWM_STAT, 30, 30⟩
def HWM_STAT_LIMP : Fld := ⟨R.HWM_STAT, 29, 29⟩
def HWM_STAT_HBLOST : Fld := ⟨R.HWM_STAT, 28, 28⟩
def HWM_STAT_PDLFLT : Fld := ⟨R.HWM_STAT, 27, 27⟩
def HWM_STAT_DEFPW : Fld := ⟨R.HWM_STAT, 26, 26⟩
def HWM_RXSTAT_WDRAW : Fld := ⟨R.HWM_RXSTAT, 31, 31⟩
def HWM_RXSTAT_HALT : Fld := ⟨R.HWM_RXSTAT, 30, 30⟩
def HWM_RXSTAT_RELREF : Fld := ⟨R.HWM_RXSTAT, 24, 24⟩
def HWM_RXSTAT_SHORT : Fld := ⟨R.HWM_RXSTAT, 23, 16⟩
def HWM_RXSTAT_SOFT : Fld := ⟨R.HWM_RXSTAT, 15, 8⟩
def HWM_RXREL_HALT : Fld := ⟨R.HWM_RXREL, 30, 30⟩
def HWM_RXREL_GRP : Fld := ⟨R.HWM_RXREL, 7, 0⟩
def HWM_DETLAST_VALID : Fld := ⟨R.HWM_DETLAST, 31, 31⟩
def HWM_DETLAST_OVR : Fld := ⟨R.HWM_DETLAST, 30, 30⟩
def HWM_DETLAST_CLASS : Fld := ⟨R.HWM_DETLAST, 26, 24⟩
def HWM_DETLAST_POS : Fld := ⟨R.HWM_DETLAST, 15, 8⟩
def HWM_DETLAST_DET : Fld := ⟨R.HWM_DETLAST, 7, 0⟩
def HWM_DETCNT_CLR : Fld := ⟨R.HWM_DETCNT, 31, 31⟩
def HWM_DETCNT_COUNT : Fld := ⟨R.HWM_DETCNT, 15, 0⟩
def HWM_FCTL_FORCE : Fld := ⟨R.HWM_FCTL, 0, 0⟩
def HWM_PDL_RAW : Fld := ⟨R.HWM_PDL, 31, 16⟩
def HWM_PDL_X : Fld := ⟨R.HWM_PDL, 15, 0⟩
def HWM_LIMPSTAT_Y : Fld := ⟨R.HWM_LIMPSTAT, 31, 16⟩
def HWM_LIMPSTAT_EXCL : Fld := ⟨R.HWM_LIMPSTAT, 15, 12⟩
def HWM_LIMPSTAT_SECT : Fld := ⟨R.HWM_LIMPSTAT, 11, 0⟩
def HWM_LIFE_SEC : Fld := ⟨R.HWM_LIFE, 31, 0⟩
def HWM_PWENT_WORD : Fld := ⟨R.HWM_PWENT, 15, 0⟩
def HWM_PWSTAT_UNLK : Fld := ⟨R.HWM_PWSTAT, 31, 31⟩
def HWM_PWSTAT_LOCKOUT : Fld := ⟨R.HWM_PWSTAT, 30, 30⟩
def HWM_PWSTAT_NEXT : Fld := ⟨R.HWM_PWSTAT, 29, 28⟩
def HWM_PWSTAT_WRONG : Fld := ⟨R.HWM_PWSTAT, 27, 24⟩
def HWM_PWCTL_LOCK : Fld := ⟨R.HWM_PWCTL, 31, 31⟩
def HWM_PWCTL_AUTHOR : Fld := ⟨R.HWM_PWCTL, 15, 0⟩
def HWM_SPBSTAT_BUSY : Fld := ⟨R.HWM_SPBSTAT, 31, 31⟩
def HWM_SPBSTAT_FULL : Fld := ⟨R.HWM_SPBSTAT, 30, 30⟩
def HWM_SPBSTAT_REFUSED : Fld := ⟨R.HWM_SPBSTAT, 29, 29⟩
def HWM_SPBSTAT_QUEUE : Fld := ⟨R.HWM_SPBSTAT, 3, 0⟩
def HWM_LOGSTAT_TOTAL : Fld := ⟨R.HWM_LOGSTAT, 31, 16⟩
def HWM_LOGSTAT_WRAP : Fld := ⟨R.HWM_LOGSTAT, 7, 7⟩
def HWM_LOGSTAT_NEXT : Fld := ⟨R.HWM_LOGSTAT, 6, 0⟩
def HWM_GCFG_EN : Fld := ⟨R.HWM_GCFG, 31, 31⟩
def HWM_GCFG_NITOFS : Fld := ⟨R.HWM_GCFG, 30, 17⟩
def HWM_GCFG_CYCLEN : Fld := ⟨R.HWM_GCFG, 16, 0⟩
def HWM_GSTAT_CAL : Fld := ⟨R.HWM_GSTAT, 31, 31⟩
def HWM_GSTAT_CSTERR : Fld := ⟨R.HWM_GSTAT, 30, 30⟩
def HWM_GSTAT_ORIGBLK : Fld := ⟨R.HWM_GSTAT, 29, 29⟩
def HWM_GSTAT_GMODE : Fld := ⟨R.HWM_GSTAT, 18, 16⟩
def HWM_GSTAT_CUTCNT : Fld := ⟨R.HWM_GSTAT, 7, 0⟩
def HWM_PISCTL_OPEN : Fld := ⟨R.HWM_PISCTL, 23, 16⟩
def HWM_PISCTL_OPENREQ : Fld := ⟨R.HWM_PISCTL, 15, 8⟩
def HWM_PISCTL_CLOSEREQ : Fld := ⟨R.HWM_PISCTL, 7, 0⟩
def HWM_PISSTAT_AUTO : Fld := ⟨R.HWM_PISSTAT, 15, 8⟩
def HWM_PISSTAT_CLREF : Fld := ⟨R.HWM_PISSTAT, 7, 0⟩
def HWM_SPB_V (n : Nat) : Fld := ⟨(R.HWM_SPB n), 31, 0⟩
def HWM_GAPT_EN (n : Nat) (m : Nat) : Fld := ⟨(R.HWM_GAPT n m), 31, 31⟩
def HWM_GAPT_OWN (n : Nat) (m : Nat) : Fld := ⟨(R.HWM_GAPT n m), 30, 30⟩
def HWM_GAPT_OPEN (n : Nat) (m : Nat) : Fld := ⟨(R.HWM_GAPT n m), 29, 16⟩
def HWM_GAPT_STAT (n : Nat) (m : Nat) : Fld := ⟨(R.HWM_GAPT n m), 15, 15⟩
def HWM_GAPT_CLOSE (n : Nat) (m : Nat) : Fld := ⟨(R.HWM_GAPT n m), 13, 0⟩
def CPT_MTIME_V (n : Nat) : Fld := ⟨(R.CPT_MTIME n), 31, 0⟩
def CPT_MTIMECMP_V (n : Nat) : Fld := ⟨(R.CPT_MTIMECMP n), 31, 0⟩
def ICU_VTAB_BASE : Fld := ⟨R.ICU_VTAB, 31, 9⟩
def ICU_CUR_SRC : Fld := ⟨R.ICU_CUR, 14, 8⟩
def ICU_CUR_LVL : Fld := ⟨R.ICU_CUR, 4, 0⟩
def ICU_SWSET_SET : Fld := ⟨R.ICU_SWSET, 27, 0⟩
def ICU_SRC_PEND (n : Nat) : Fld := ⟨(R.ICU_SRC n), 31, 31⟩
def ICU_SRC_EDGE (n : Nat) : Fld := ⟨(R.ICU_SRC n), 8, 8⟩
def ICU_SRC_EN (n : Nat) : Fld := ⟨(R.ICU_SRC n), 4, 4⟩
def ICU_SRC_PRIO (n : Nat) : Fld := ⟨(R.ICU_SRC n), 3, 0⟩

end F

end Sys2Proof
end

