-- ==== Sys2Proof/Machine/Defaults.lean ====
section
/-! DEFINITION. What every register holds at a VBAT power-on (R9, R389): the composed reset value of its row, with the rows
whose reset value depends on the array index, and the safety parameters as delivered. -/

namespace Sys2Proof

/-- The safety parameters before anything has been written (R356, R376, R343): the layout identifier, the class map of R344,
and the reference values of the spec's reference vehicle, channel A; the password is the delivery value 0 (R360).
DESIGN CHOICE (log 3, unsafe): the spec gives the other parameters only reference values. -/
def spbDflt (i : Nat) : Word :=
  match i with
  | 0 => 0x53500003
  | 1 => 0x00000001
  | 8 => 0x80310201
  | 9 => 0x128E00FA
  | 10 => 0x119401F4
  | 11 => 0x000F0000
  | 12 => 0x03E8000F
  | 16 => 0x147B0000
  | 17 => 0x23D7012C
  | 18 => 0x33330258
  | 19 => 0x4CCD05DC
  | 20 => 0x80000DAC
  | 21 => 0x999A1194
  | 22 => 0xB333157C
  | 23 => 0xCCCD1964
  | 24 => 0xE6661D4C
  | 25 => 0xFFFF1F40
  | 26 => 0xFFFF1F40
  | 27 => 0xFFFF1F40
  | 28 => 0xFFFF1F40
  | 29 => 0xFFFF1F40
  | 30 => 0xFFFF1F40
  | 31 => 0xFFFF1F40
  | 32 => 0x00000294
  | 33 => 0x00000258
  | 34 => 0x0000003D
  | 40 => 0x00280000
  | 41 => 0x00280000
  | 42 => 0x00640000
  | 43 => 0x00640000
  | 44 => 0x00640000
  | 45 => 0x00640000
  | 46 => 0x00000001
  | 47 => 0x00000001
  | 48 => 0x0000003F
  | 64 => 0x0280FEC0
  | 65 => 0x0280FEC0
  | 66 => 0x0280FEC0
  | 67 => 0x0280FEC0
  | 68 => 0x0280FEC0
  | 69 => 0x0280FEC0
  | 70 => 0x0280FEC0
  | 71 => 0x0280FEC0
  | 72 => 0x78280300
  | 73 => 0x78280300
  | 74 => 0x78280300
  | 75 => 0x78280300
  | 76 => 0x78280300
  | 77 => 0x78280300
  | 78 => 0x78280300
  | 79 => 0x78280300
  | 80 => 0x00001F08
  | 81 => 0x00FA0078
  | 82 => 0x00000140
  | 83 => 0x0000012C
  | 84 => 0x00000032
  | 85 => 0x0BB80028
  | 96 => 0x11111111
  | 97 => 0x11111111
  | 98 => 0x11111111
  | 99 => 0x11111111
  | 100 => 0x11111111
  | 101 => 0x11111111
  | 102 => 0x11111111
  | 103 => 0x11111111
  | 104 => 0x11111111
  | 105 => 0x11111111
  | 106 => 0x00111111
  | 107 => 0x00000000
  | 108 => 0x00000000
  | 109 => 0x11000000
  | 110 => 0x30111111
  | 111 => 0x04333034
  | 112 => 0xF0443403
  | 113 => 0x0000FFFF
  | 114 => 0x00000000
  | 115 => 0x00000000
  | 116 => 0x00000000
  | 117 => 0x00000000
  | 120 => 0x00000001
  | 121 => 0x00000001
  | 122 => 0x00000004
  | 123 => 0x00000008
  | 124 => 0x00000010
  | 125 => 0x00000020
  | _ => 0

/-- The value of the register at an address at a VBAT power-on. Factory fuses and signatures read 0, DESIGN CHOICE (log 4). -/
def regDflt (a : Nat) : Word :=
  if 0x70000800 ≤ a ∧ a < 0x70000C00 then spbDflt ((a - 0x70000800) / 4)
  else if a = R.SYS_CHID then 1
  else if a = R.KRG_CTL then 0x10
  else if 0xE0002190 ≤ a ∧ a < 0xE0002200 then 0x100
  else if 0x40030100 ≤ a ∧ a < 0x40030134 then
    (match (a - 0x40030100) / 4 with
     | 0 => 0x0100000A
     | 9 => 0x0100000E
     | 10 => 0x01000008
     | 11 => 0x01000002
     | 12 => 0x01000004
     | _ => 0x0100000C)
  else if a = R.KRG_PORTCFG 0 ∨ a = R.KRG_PORTCFG 2 then 0x800000C8
  else match Regs.spec a with
    | some r => BitVec.ofNat 32 r.reset
    | none => 0

end Sys2Proof
end

