-- ==== Sys2Proof/Machine/State.lean ====
section
/-! DEFINITION. The state of the TH9624 block: its registers, its memories, and for each block of the device what the spec
gives it beside its registers; the queue of waiting commands; the reasons for which a command can stop; and the state after
reset. Everything is plain data. -/

namespace Sys2Proof.Machine

/-- The eight modes of R29. -/
inductive Mode where
  | dormant | boot | service | integrate | standby | active | limp | safe
deriving DecidableEq, Repr

/-- The MODE codes of R29. -/
def Mode.code : Mode → Nat
  | .dormant => 0
  | .boot => 1
  | .service => 2
  | .integrate => 3
  | .standby => 4
  | .active => 5
  | .limp => 6
  | .safe => 7

/-- The BOOT substates of R29; `none` in every other mode. -/
inductive Sub where
  | none | pwrseq | rom | listen | firmware | wakefail | idfail | bistfail
deriving DecidableEq, Repr

/-- The SUB codes of R29. -/
def Sub.code : Sub → Nat
  | .none => 0
  | .pwrseq => 1
  | .rom => 2
  | .listen => 3
  | .firmware => 4
  | .wakefail => 5
  | .idfail => 6
  | .bistfail => 7

/-- What the gating points of a group's legs do (R14): pass the gate command, force the legs off or into a short circuit, or
follow the direct pedal path (R353). -/
inductive Gate where
  | pass | off | shortLow | shortHigh | limp
deriving DecidableEq, Repr

/-- Where the A-die sequencer stands (R39–R43). -/
inductive Seq where
  /-- the wake delay of R39 runs. -/ | delay
  /-- steps 1–7 of R40 run; the number is the last step reached. -/ | steps (n : Nat)
  /-- an attempt has failed and the next one starts 20 ms later (R42, R36, R72). -/ | retryWait
  /-- step 7 is done and the start-up logic BIST runs; the number is the wave (0 CP pair, 1 facets). -/ | lbist (wave : Nat)
  /-- the sequence is complete. -/ | done
  /-- WAKEFAIL with the D-die unpowered (R42). -/ | failed
  /-- the D-die is held in a reset of R36 or R37. -/ | held
  /-- DORMANT. -/ | asleep
deriving DecidableEq, Repr

/-- The direction of one always-on counter in DORMANT (R81, R249): the comparators' last quadrant, the direction of the last legal
transition, and whether an illegal one is unresolved. -/
structure AonDir where
  quad : Nat := 0
  quadKnown : Bool := false
  dir : Bool := true
  dirKnown : Bool := false
  pend : Bool := false
deriving DecidableEq, Repr

/-- Sequencer, supplies and reference (R39–R43, R65, R70–R75). -/
structure Power where
  vbat : Bool := true
  seq : Seq := .delay
  retries : Nat := 0
  pgTimer : Bool := false
  xtalTimer : Bool := false
  pgood : Bool := false
  crystal : Bool := false
  xtalFail : Bool := false
  vcen : Bool := false
  hwmOn : Bool := false
  dcore : Bool := false
  flashOn : Bool := false
  ioOn : Bool := false
  /-- when the wake event of the running sequence came, for WLOG.TIME. -/
  wakeAt : Nat := 0
  /-- a save list is to be restored at this wake (R80). -/
  restore : Bool := false
  /-- the last entry to DORMANT ran the save of R79. -/
  saved : Bool := false
  /-- the last step of R77 reached, 0 outside an entry. -/
  entry : Nat := 0
  /-- a wake event came during an entry (R78). -/
  replay : Bool := false
  wakePin : Bool := false
  /-- HBEAT supervision is armed (R16). -/
  hbArmed : Bool := false
  /-- the time of the last HBEAT loss, retained through a device reset (R349). -/
  lastHbLoss : Option Nat := none
  /-- HBEAT has not toggled since its last loss (R344). -/
  hbLost : Bool := false
  /-- the hold of R36 has been released and HBEAT has not toggled yet. -/
  hbWait : Bool := false
  /-- the HWM is to assert the D-die reset of R36. -/
  hbDue : Bool := false
  /-- a device reset has been requested and is about to be asserted (R37). -/
  rstDue : Option ResetCause := none
  /-- the reset that holds the D-die is the heartbeat reset. -/
  hbReset : Bool := false
  /-- the reset that holds the D-die has cut the start-up logic BIST short, which runs again after it (R369). -/
  relbist : Bool := false
  /-- the selection of SPB[2] as read at step 3 (R64). -/
  extref : Bool := false
  /-- the consecutive violating Glints (R83). -/
  glints : Nat := 0
  /-- a Glint is running (R82). -/
  glintOn : Bool := false
  /-- the DORMANT reference copies of the always-on counters (R81). -/
  pcRef : List (Nat × Nat) := []
  /-- their direction while the FBK block is off. -/
  aonDir : List (Nat × AonDir) := []
  /-- the VID code that the planner drives towards, none at rest (R71). -/
  vidTarget : Option Nat := none
  /-- the sensor supplies VSA and VSB are on, and ADC0 with its multiplexer is powered (R69, R82). -/
  vsa : Bool := false
  vsb : Bool := false
  adc0 : Bool := false
  /-- the conditions that the supervisors of R73 watch, as bits of PWR.SUPSTAT, whether or not the supervisors run. -/
  supRaw : Nat := 0
deriving DecidableEq, Repr

/-- One register access on the bridge (R17, R18). -/
structure Access where
  who : Requester
  addr : Nat
  val : Word
  time : Nat
deriving DecidableEq, Repr

/-- The die-to-die bridge (R17–R20): the writes under way in order of issue, the frames a status report waits in, and the
failed transmissions of the frame now being sent. -/
structure Bridge where
  queue : List Access := []
  fails : Nat := 0
deriving DecidableEq, Repr

/-- The response the service port holds or prepares (R53–R56). -/
structure SppResp where
  seq : Nat
  result : Nat
  data : List Word
deriving DecidableEq, Repr

/-- The service port beside its registers. -/
structure Spp where
  /-- the response of the executing command. -/
  staged : Option SppResp := none
  /-- the stored response. -/
  resp : Option SppResp := none
  /-- the bytes that the last frame clocked out on SPP_MISO. -/
  out : List Byte := []
  /-- a read or write that waits for another requester's lock (R112): true a write. -/
  wait : Option (Bool × SppFrame) := none
deriving DecidableEq, Repr

/-- The debug module (R92): dmactive, data0, the two words of the program buffer, the last command, cmderr and abstractauto; the
system bus access's address, data and control; resumeack; and what the last access by the debugger returned. -/
structure Dm where
  active : Bool := false
  data0 : Word := 0
  buf : List Word := [0, 0]
  command : Word := 0
  cmderr : Nat := 0
  auto : Word := 0
  sbAddr : Word := 0
  sbData : Word := 0
  sbcs : Word := 0x00040000
  resumeack : Bool := false
  out : Word := 0
deriving DecidableEq, Repr

/-- The control processor (R87–R92). -/
structure Cp where
  pc : Word := 0
  x : List (Nat × Word) := []
  f : List (Nat × Word) := []
  csr : List (Nat × Word) := []
  /-- machine mode (true) or user mode. -/
  machine : Bool := true
  /-- waiting in WFI. -/
  wfi : Bool := false
  /-- halted by the debug unit (R92). -/
  debug : Bool := false
  /-- the halfwords of flash that the instruction cache holds, the newest first (R87). -/
  icache : List (Nat × Nat) := []
  /-- the debug module (R92). -/
  dm : Dm := {}
deriving DecidableEq, Repr

/-- The interrupt controller (R94–R97): the level stack, the topmost first, and the lines that a block holds up. -/
structure Icu where
  stack : List Nat := []
  lines : List (Nat × Bool) := []
deriving DecidableEq, Repr

/-- A transfer that a requester presents to a bank (R106). -/
structure Xfer where
  rq : Nat
  wr : Bool
  word : Nat
  beats : List (BitVec 64)
  preempted : Nat
deriving DecidableEq, Repr

/-- One bank's arbiter (R105–R109): the transfer in its slots, those that wait, and the last winner. -/
structure Bank where
  cur : Option Xfer := none
  wait : List Xfer := []
  last : Nat := 12
  /-- the data of the last read that completed. -/
  rdata : List (BitVec 64) := []
  /-- the requester whose last transfer, acquisition or release here ended in a bus error, none after one that did not. -/
  err : Option Nat := none
  /-- the last winner before the grant in force, and the cycle of its decision, none once another moment has passed (R109). -/
  prev : Nat := 12
  dec : Option Nat := none
  /-- what the last read of ARB.ACQb returned, by requester. -/
  acq : List (Nat × Word) := []
  /-- the acquisitions of one cycle (R110, R111): the cycle, the requester that took the free lock in it, whether its read showed
  PREVLOST, and the requesters that found the lock held by another. -/
  lkAt : Option Nat := none
  lkWon : Option Nat := none
  lkLost : Bool := false
  lkTries : List Nat := []
deriving DecidableEq, Repr

/-- A move between a DMA engine and system SRAM that waits for a lock (R112): what a KRing frame left for slot `slot` of a ring, the
payload of an own slot, the snapshot of R315 or one word of it, or a CAN frame with the time of its SOF. -/
inductive DmaJob where
  | ringRx (r slot res : Nat) (frame : Option RingFrame)
  | ringTx (slot : Nat)
  | snapTake
  | snapWord (cyc : Nat) (w : Word)
  | canRx (c : Nat) (fr : CanFrame) (sof : Word)
deriving DecidableEq, Repr

/-- The code of the engine that makes a move (R105). -/
def DmaJob.engine : DmaJob → Nat
  | .ringRx .. => 9
  | .ringTx .. => 9
  | .snapTake => 9
  | .snapWord .. => 9
  | .canRx .. => 10

/-- The Mirror beside its registers (R114–R120). -/
structure Mirror where
  /-- the frozen pairs that wait for their test or are in it, coded as MIR.STATE.PAIR, in the order in which they are tested. -/
  frozen : List Nat := []
  /-- the results of copy 0 of pairs whose copy 1 has not ended: pair, faulty, cut short. -/
  copy0 : List (Nat × (Bool × Bool)) := []
  /-- pairs whose restore read was uncorrectable (R365). -/
  broken : List Nat := []
  /-- what the Mirror's forcing holds: pair and groups (R116, R117). -/
  hold : List (Nat × Nat) := []
  /-- the retired facets whose groups wait for a flip (R119), as pair codes. -/
  flipFor : List Nat := []
  /-- pairs that stay frozen until a reset. -/
  stuck : List Nat := []
  /-- the fault-log entries of R119: the pairs with two faulty copies, newest first. -/
  faultLog : List Nat := []
deriving DecidableEq, Repr

/-- What the HWM holds for one group (R211–R214, R242, R327, R415). -/
structure HGrp where
  gate : Gate := .off
  /-- a stage-2 short holds the group; its release waits for the next period boundary. -/
  stage2 : Bool := false
  stage2Rel : Bool := false
  /-- released in ACTIVE: the forced state lasts to the group's next valley (R345). -/
  relWait : Bool := false
  /-- two-step turn-off: 0 none, 1 weak sink, 2 strong sink, 3 safe state applied; and when the present step began. -/
  soft : Nat := 0
  softAt : Nat := 0
  /-- a Mirror forcing (R117). -/
  mirror : Bool := false
  /-- VDS shorts found on a high or a low side since the group was last passed. -/
  vdsH : Bool := false
  vdsL : Bool := false
  /-- a bootstrap undervoltage has turned a high-side short into a low-side one (R214). -/
  bsLow : Bool := false
  /-- the all-off condition of R213, and whether the last interval showed the group above threshold. -/
  slow : Bool := true
  above : Bool := false
  lastEdge : Option Nat := none
  /-- the last changes of the gate state, newest first: when, and the state before; as far as the bridge has still to report them
  (R17, R188). -/
  hist : List (Nat × Gate) := []
  /-- an open request of PISn that waits for its moment (R328). -/
  pisReq : Bool := false
  /-- the request that waits is the HWM's own (R327). -/
  pisHwm : Bool := false
  /-- the high-side short that the group brought into a mode of R415, which it keeps (R34). -/
  carried : Bool := false
  /-- the group is off because the mode hold (1) or a safe state (2) has chosen it; 0 otherwise (R213, R415). -/
  offBy : Nat := 0
  /-- the HWM sector drive of R352, R353: the sector in force, whether the 1 µs wait runs, the chopper's high side, whether a
  chopping period has begun since the drive began, and the legs whose high and low switch stay on through the wait (3 none). -/
  sector : Nat := 7
  /-- the sensor sector that its three comparators last showed (R352). -/
  hall : Nat := 7
  turning : Bool := false
  chopOn : Bool := false
  driving : Bool := false
  keepH : Nat := 3
  keepL : Nat := 3
deriving DecidableEq, Repr

/-- A request of a D-die detector on its way to the HWM (R340). -/
structure Rx where
  det : Nat
  pos : Nat
  cls : Nat
  groups : Nat
deriving DecidableEq, Repr

/-- An SPB write that waits for its commit: the parameter, the source, AUTHOR at the write, the old and the new value. -/
structure Commit where
  idx : Nat
  src : Nat
  author : Nat
  old : Word
  new : Word
deriving DecidableEq, Repr

/-- The HWM beside its registers. -/
structure Hwm where
  /-- requests of D-die detectors, in the order sent. -/
  rxq : List Rx := []
  /-- the event window of R241 is open. -/
  vdsWindow : Bool := false
  /-- the leg whose detection opened the event, and the legs of the event. -/
  vdsLeg : Nat := 0
  /-- the DC link lies below the stage-2 off threshold (R211). -/
  dcLow : Bool := true
  /-- raw values of the last four valid windows, and the runs of invalid and valid windows (R350). -/
  pdl : List Nat := []
  pdlBad : Nat := 0
  pdlGood : Nat := 0
  /-- Halts in LIMP that hold every group while a supply is out of range (R346). -/
  limpHalt : Bool := false
  /-- the password words entered so far, and when the last one came (R358). -/
  words : List (BitVec 16) := []
  wordAt : Nat := 0
  /-- one word has been logged in the running lockout (R360). -/
  lockLogged : Bool := false
  /-- SPB writes that wait for their commit, oldest first (R357). -/
  commits : List Commit := []
  /-- a commit awaits its flash copy (R362, R411), with the sequence numbers of the next SPB and log copies. -/
  copyDue : Bool := false
  spbSeq : Nat := 0
  logSeq : Nat := 0
  spbSlot : Nat := 0
  logSlot : Nat := 0
  /-- the supervisors that hold a sensor supply off (R73): VSA, VSB. -/
  vsOff : List Bool := [false, false]
  /-- HWM.LIFE as last saved in the non-volatile array (R361). -/
  lifeSaved : Word := 0
deriving DecidableEq, Repr

/-- The self-test controllers beside their registers (R365–R373). -/
structure Bist where
  /-- the on-demand regions still to be tested, the one under test first. -/
  regions : List Nat := []
  /-- when the copy under test started. -/
  startAt : Nat := 0
  /-- an analog step runs; the step, the target and the window that START has taken (R372). -/
  step : Bool := false
  stepNo : Nat := 0
  stepArg : Nat := 0
  window : Option (Nat × Nat) := none
  /-- the switch that a GATE step drives: leg, high side (R373). -/
  drive : Option (Nat × Bool) := none
deriving DecidableEq, Repr

/-- The margin planner beside its registers (R375–R381). -/
structure Margin where
  /-- consecutive windows whose minimum slack exceeded SLKHI (R379). -/
  high : Nat := 0
  /-- the turn of the offset cycle: leg U, V, W, ADC reference, for each ADC (R375). -/
  turn : List (Nat × Nat) := []
  /-- running sums of the averages of R375, by quantity and unit: count and sum. -/
  sums : List (Nat × (Nat × Int)) := []
  /-- the last 1,024 turn-off delays of each switch, newest first: low side 2k, high side 2k + 1. -/
  toff : List (Nat × List Nat) := []
  /-- the parameters that hold an approved value (R381): 32 × TYPE + IDX, 64 for VID. -/
  approved : List Nat := []
deriving DecidableEq, Repr

/-- Fault injection beside its registers (R383–R385). -/
structure Inject where
  /-- when the first key was written, with no other INJ write since. -/
  key1 : Option Nat := none
  /-- event injections that wait for their moment: detector, and argument or what is left of it. -/
  waiting : List (Nat × Nat) := []
  /-- the level injection that is held: detector and argument; and whether its condition was there before. -/
  held : Option (Nat × Nat) := none
  before : Bool := false
deriving DecidableEq, Repr

/-- A trigger source's event on its way to the scheduler (R161, R162). -/
structure Trig where
  src : Nat
  time : Nat
deriving DecidableEq, Repr

/-- What a root scan recorded of one flow (R163): its nodes, its roots, and the groups that its PWMWR nodes name (R24), as a mask. -/
structure FlowInfo where
  nodes : Nat := 0
  nroot : Nat := 0
  roots : List Nat := []
  grps : Nat := 0
deriving DecidableEq, Repr

/-- An instance in service (R164, R174): its number, flow, trigger cycle, node-table half, priority and node count; whether its
roots have entered; the token counts of its nodes; and how many nodes have fired. -/
structure Inst where
  id : Nat
  flow : Nat
  trig : Nat
  half : Bool
  prio : Nat
  nodes : Nat
  roots : List Nat
  rooted : Bool := false
  counts : List (Nat × Nat) := []
  fired : Nat := 0
deriving DecidableEq, Repr

/-- A node in a ready list or held at its facet (R168–R170). -/
structure Ready where
  id : Nat
  flow : Nat
  node : Nat
  half : Bool
  entry : Nat
  prio : Nat
deriving DecidableEq, Repr

/-- A node issued and short of its latency (R123): when it ends, what it writes to the operand store and to a group's compare
shadow, its successors with the facet each is placed on, and whether it has raised its one exception cause. -/
structure Flight where
  facet : Nat
  id : Nat
  flow : Nat
  node : Nat
  done : Nat
  writes : List (Nat × Word)
  duties : List (Nat × Word)
  grp : Nat
  succ : List Nat
  half : Bool
  quiet : Bool
  /-- the graph flag that a FLAG node sets. -/
  flag : Option Nat := none
  /-- buffer, channel and word of a TRACE node. -/
  trace : Option (Nat × Nat × Word) := none
deriving DecidableEq, Repr

/-- A token in flight: its target, its instance, the node and facet that sent it. -/
structure Tok where
  id : Nat
  node : Nat
  time : Nat
  src : Nat
  facet : Nat
  quiet : Bool
deriving DecidableEq, Repr

/-- One facet's lists and monitors (R168–R170, R176): the cycle from which its slot is free, from when a node has been held, and
the running window's sums. -/
structure Facet where
  ready : List Ready := []
  held : List Ready := []
  free : Nat := 0
  heldFrom : Nat := 0
  waits : Nat := 0
  issues : Nat := 0
  busy : Nat := 0
deriving DecidableEq, Repr

/-- The Prism engine beside its registers and memories (R121–R176). -/
structure Prism where
  /-- source events presented and not yet taken. -/
  events : List Trig := []
  /-- the events counted by each flow's divider. -/
  divs : List (Nat × Nat) := []
  nextId : Nat := 0
  insts : List Inst := []
  flights : List Flight := []
  toks : List Tok := []
  facets : List (Nat × Facet) := []
  /-- the live root lists, and those of the last scan of the shadow half. -/
  info : List (Nat × FlowInfo) := []
  next : List (Nat × FlowInfo) := []
  /-- a scan started by RUN runs; a scan for a flip runs (R163, R173). -/
  runScan : Bool := false
  flipScan : Bool := false
  /-- the last cycle with operand-store writes, and the words written in it with the writer: facet 0–7, or 8 for the bus. -/
  wrCycle : Nat := 0
  wrWords : List (Nat × Nat) := []
deriving DecidableEq, Repr

/-- One Loupe buffer beside its registers (R177–R179). -/
structure Loupe where
  /-- sample events counted by the divider. -/
  div : Nat := 0
  /-- records taken since START, and records taken after the trigger record. -/
  taken : Nat := 0
  after : Nat := 0
  /-- the trigger applies at the next sample event. -/
  armed : Bool := false
  /-- the cycle of the last record. -/
  last : Option Nat := none
  /-- the hold words of the trace taps, by channel. -/
  hold : List (Nat × Word) := []
deriving DecidableEq, Repr

/-- One period sequence's results (R183–R187): the four codes, which sample-and-holds were converted, whether the result frame
was repeated, and the sequence number; whether R187 decided on the command lines, and until when, in LSB, their fall still skips
the shunts; the |VDS| samples of the low and high sides in mV, and the high sides' on-times of the period before (R375). -/
structure AdcSeq where
  codes : List (BitVec 14) := [0, 0, 0, 0]
  conv : Nat := 0
  late : Bool := false
  seq : Nat := 0
  lines : Bool := false
  until_ : Nat := 0
  vl : List Nat := []
  vh : List Nat := []
  on : List Nat := []
deriving DecidableEq, Repr

/-- One converter beside its registers: the sequence under way, the results delivered, the last sequence number, and the edges
of a crossing measurement (code and time, newest first). -/
structure Adc where
  busy : Option AdcSeq := none
  res : AdcSeq := {}
  seq : Nat := 0
  edges : List (Nat × Nat) := []
  /-- PREDLIM has been raised in the running run of predicted samples (R191). -/
  raised : Bool := false
  /-- SEQCFG before the last write, and when that write took effect. -/
  cfgOld : Word := 0x20
  cfgAt : Option Nat := none
  /-- the previous period's sample: codes and converted sample-and-holds (R375). -/
  before : AdcSeq := {}
  /-- the last sampling instant, in LSB (R193). -/
  inst : Option Nat := none
deriving DecidableEq, Repr

/-- One group's pattern generator beside its registers (R215–R228). -/
structure Pgrp where
  /-- loaded at the last valley: HALF and FRAC, TMIN, REFN, REFW, CHOP. -/
  half : Nat := 0
  frac : Nat := 0
  tmin : Nat := 0
  refn : Nat := 0
  refw : Nat := 0
  chop : Bool := false
  /-- the exact valley time less the placed one, in 1/128 LSB (R215). -/
  err : Int := 0
  /-- the length of the running period, and the correction that the next one takes. -/
  p : Nat := 0
  corr : Int := 0
  /-- consecutive corrections within LOCKWIN (R227). -/
  good : Nat := 0
  /-- periods since REFN was loaded (R222). -/
  refc : Nat := 0
  /-- the lines are held low until the resume point (R416), or held at their last compared value (R117). -/
  held : Bool := false
  frozen : Bool := false
  /-- the placed time of the last valley, in LSB. -/
  pos : Nat := 0
  /-- delay bits are used, and TAPS lies outside 32–63 (R218). -/
  fine : Bool := true
  tapsBad : Bool := false
  /-- when the running period began, in CLK_ENG cycles. -/
  time : Nat := 0
  /-- the tap map in use, the one that the next valley takes (R218). -/
  map : List Nat := []
  nextMap : List Nat := []
  /-- the placed time of the last synchronising pulse, in LSB, until the next group in the chain has used it (R228). -/
  pulse : Option Nat := none
  /-- a KRing cycle has started since the last valley, and the first valley after one has come (R226). -/
  cycStart : Bool := false
  ringDue : Bool := false
deriving DecidableEq, Repr

/-- An edge that a command line will make: LSB after the valley, high-side line, new level. -/
structure Edge where
  time : Int
  high : Bool
  level : Bool
deriving DecidableEq, Repr

/-- One leg's pattern, command lines and drivers (R216–R220, R236, R237, R239, R245). -/
structure Leg where
  lineH : Bool := false
  lineL : Bool := false
  /-- the edges still to come. -/
  edges : List Edge := []
  /-- applied high time and effective dead time of the running period, and the time of its first edge. -/
  h : Nat := 0
  tdk : Nat := 0
  r : Nat := 0
  /-- when the low-side line last rose, in LSB from the valley that opened the running period. -/
  lowFrom : Int := 0
  /-- the duty before the last write of the compare shadow, the cycle of that write, and its writer: facet 0–7, or 8 for the bus. -/
  dutyOld : Word := 0
  dutyAt : Option Nat := none
  dutyBy : Nat := 0
  /-- the drive currents and the threshold code in force (R235, R239). -/
  drv : Word := 0x7777
  thrH : Nat := 0x10
  thrL : Nat := 0x10
  /-- a turn-on that a handshake time-out has withheld until the next commanded turn-on (R237). -/
  heldH : Bool := false
  heldL : Bool := false
  /-- the high side stays off after a bootstrap undervoltage (R245). -/
  bsHold : Bool := false
  /-- since when each switch has been told to turn on, and from when its source current flows (R236, R239): none while it is off or
  waits for the opposite gate. -/
  cmdH : Option Nat := none
  cmdL : Option Nat := none
  onH : Option Nat := none
  onL : Option Nat := none
  /-- from when each gate is reported below 1.5 V, since the switch was last on (R236). -/
  fallH : Nat := 0
  fallL : Nat := 0
  /-- how long the high side was on about the carrier peak of the running period, in CLK_ENG cycles (R375). -/
  peakOn : Nat := 0
  /-- the switches that step 1 of a two-step turn-off discharges by the weak sink (R242). -/
  weakH : Bool := false
  weakL : Bool := false
deriving DecidableEq, Repr

/-- One feedback port beside its registers (R248–R265). -/
structure Fbport where
  /-- the direction of the most recent legal quadrature transition, and whether there has been one since SCEN rose. -/
  dir : Bool := true
  dirKnown : Bool := false
  /-- the quadrature decoder's state; whether one has been sampled since SCEN rose. -/
  quad : Nat := 0
  quadKnown : Bool := false
  /-- the timestamp of the last counted edge, the direction of its step, the interval before it in the same direction. -/
  last : Option Nat := none
  stepDir : Bool := true
  prevInt : Option Nat := none
  /-- twice the reference interval Δref; a short edge that is held. -/
  dref2 : Nat := 0
  held : Option Nat := none
  /-- consecutive LOSTREF; the last UNEXP lay more than two positions away. -/
  lost : Nat := 0
  farUnexp : Bool := false
  /-- QCNT at the last pulse-train edge (R260). -/
  qMark : Word := 0
  /-- the position modulo 4 × LPR, and the interpolated one in 1/256 count. -/
  qm : Nat := 0
  qm256 : Nat := 0
  /-- the wrap of INTP that its last value lies in, none since QCNT was written or SCEN rose (R257). -/
  intpPage : Option Nat := none
  /-- consecutive pairs within the amplitude window. -/
  ampRun : Nat := 0
  /-- directions of the last counted step of each source. -/
  pDir : Bool := true
  qDir : Bool := true
  /-- counted steps of the active source since SVALID fell (R263), and SVALID. -/
  steps : Nat := 0
  svalid : Bool := false
  /-- the observer's state: angle, speed, acceleration. -/
  th : Word := 0
  om : Word := 0
  al : Word := 0
  /-- the staged seed angle, and a committed seed. -/
  seedAng : Option Word := none
  seed : Option (Word × Word) := none
  /-- updates since the active source's count changed, and that count. -/
  idle : Nat := 0
  count : Word := 0
  seq : Nat := 0
deriving DecidableEq, Repr

/-- One wheel-speed input beside its registers (R268): the last tooth, and the teeth since the last event. -/
structure Wheel where
  last : Option Nat := none
  teeth : Nat := 0
deriving DecidableEq, Repr

/-- One SENT receiver beside its registers (R270): the last sync length, the discarded frames in a row, and the serial bits 3 and
2 of the good frames, newest first. -/
structure Sent where
  sync : Option Nat := none
  bad : Nat := 0
  bits : List (Bool × Bool) := []
deriving DecidableEq, Repr

/-- What a VALID frame of the running cycle told (R296, R297). -/
structure Heard where
  src : Nat
  int : Bool
  mode : Nat
  swv : Option Nat
  flip : Bool
deriving DecidableEq, Repr

/-- One KRing port beside its registers (R277, R287): consecutive cycles without and with a link-exchange reply, and the delays
of the last 16 replies, newest first. -/
structure Port where
  miss : Nat := 0
  run : Nat := 0
  delays : List Nat := []
deriving DecidableEq, Repr

/-- A frame in relay (R280): the port that it leaves on, the header as sent, and the SOF there by the own ring time, in 1/8 ns. -/
structure Relay where
  out : Nat := 0
  header : List Byte := []
  sof : Int := 0
deriving DecidableEq, Repr

/-- KRing beside its registers (R274-R298). -/
structure Ring where
  /-- ring time is valid (R289); when the running cycle started, in LSB of 156.25 ps. -/
  timeValid : Bool := false
  start : Int := 0
  /-- the key words in force and those written since the last cycle start, by slot * 4 + word; TXKEY in force (R283). -/
  keys : List (Nat × Word) := []
  keysNext : List (Nat × Word) := []
  txkey : Bool := false
  /-- the running cycle is the one in which ring time was adopted; cycles with a correction within OFSLIM since (R293). -/
  adopt : Bool := false
  good : Nat := 0
  /-- cycles since the cold start, own frames carry CS, and cycles in a row with a VALID frame of another node (R294). -/
  cold : Option Nat := none
  cs : Bool := false
  csRun : Nat := 0
  /-- deviations of this cycle: sender, ring, 1/8 ns; of the last one by sender, in 1/16 ns (R288). -/
  devs : List (Nat × (Nat × Int)) := []
  prev : List (Nat × Int) := []
  /-- the rate correction in ppb, and the cycles that it has spent at its limit. -/
  rate : Int := 0
  rateRun : Nat := 0
  /-- what this cycle has brought: copies delivered (64 r + s), VALID payloads by slot, what their headers told, senders
  rejected for TIMING. -/
  seen : List Nat := []
  got : List (Nat × List Byte) := []
  heard : List Heard := []
  rejects : List Nat := []
  /-- the own frame of this cycle: sent, returned on a W port, come back folded on an E port; the vote and the flip vote that it carried; the consecutive
  cycles without a return (R292). -/
  ownSent : Bool := false
  ownBack : Bool := false
  ownFold : Bool := false
  ownSw : Option Nat := none
  ownFlip : Bool := false
  ownMiss : Nat := 0
  /-- the votes that take part in this cycle, an automatic request, the cycles voted so far, and a request of the Mirror (R296,
  R333). -/
  swVote : Option Nat := none
  swAuto : Option Nat := none
  swWait : Nat := 0
  flipVote : Bool := false
  flipWait : Nat := 0
  flipMirror : Bool := false
  /-- a link-exchange request has gone out in this cycle, and the ports that have been answered. -/
  asked : Bool := false
  replied : List Nat := []
  ports : List (Nat × Port) := []
  /-- the payload fetched for an own slot (R298). -/
  payload : Option (Nat × List Byte) := none
  /-- the last transmission on each port: the bytes of a frame or of a link-exchange frame; of a frame in relay its header. -/
  wire : List (Nat × List Byte) := []
  /-- frames in relay, by the port on which they arrive (R280). -/
  relays : List (Nat × Relay) := []
deriving DecidableEq, Repr

/-- The HWM guardian beside its registers (R290, R291): the last CSTART intervals, the open windows (slot 0-63, or 64 the
link-exchange window), and when the last own frame left. -/
structure Guard where
  intervals : List Nat := []
  windows : List Nat := []
  /-- a line-driver window is open: a slot's or that of the link exchange, widened by GMARGIN. -/
  wide : Bool := false
  lastOwn : Option Nat := none
deriving DecidableEq, Repr

/-- One CAN controller beside its registers (R299-R301): the running receive sequence number, and a write of CONF = 1 that waits
for the end of the frame. -/
structure Can where
  seq : Nat := 0
  /-- the transmit element whose frame is on the bus, that frame, and CPT.MTIME[31:0] at its SOF. -/
  onBus : Option Nat := none
  frame : Option CanFrame := none
  sof : Word := 0
  confDue : Bool := false
deriving DecidableEq, Repr

/-- The triplex link beside its registers (R305-R326). -/
structure Link where
  /-- consecutive faulted and consecutive clean LEAD frames (R321). -/
  faulted : Nat := 0
  clean : Nat := 0
  /-- a local flip is pending: its scan runs (R334, R173). -/
  lflip : Bool := false
  /-- the own status payload sent in this cycle (R308). -/
  sent : Option (List Word) := none
  /-- the own channel was the minority of the last cycle; the times of its minority events (R310). -/
  xmin : Bool := false
  xminAt : List Nat := []
  /-- cycles in a row in which the own block equalled the reference, and without a partner (R314). -/
  agree : Nat := 0
  alone : Nat := 0
  /-- the set-points of the last reference block, and those that apply (R312). -/
  setp : List Word := []
  applied : List Word := []
  /-- the last snapshot taken, the next word of the one being received, and the cycle of the last word received (R315). -/
  snap : List Word := []
  rxNext : Nat := 0
  rxCyc : Nat := 0
  /-- the cycle of the last comparison (R314); the ring lead that the status slots of the last cycle name, and of this one (R323). -/
  cmpCyc : Option Nat := none
  lead : Option Nat := none
  leadNew : Option Nat := none
deriving DecidableEq, Repr

/-- What hardware has done in the running CLK_PER cycle, for the rules that settle what a write of the same cycle finds (R10, R33,
R76, R176, R257, R387). -/
structure Fresh where
  /-- registers and the bits that hardware has set in them. -/
  bits : List (Nat × Nat) := []
  /-- commands that carried an instant of this cycle. -/
  stamps : Nat := 0
  /-- the last access to an unpowered or unclocked block: address and requester. -/
  off : Option (Nat × Nat) := none
  /-- a change of mode by a hardware trigger: the stamps before it, the mode and substate that it left, its rank in R33. -/
  turn : Option (Nat × (Mode × (Sub × Nat))) := none
  /-- a keyed request of the bus has been decided in this cycle. -/
  req : Bool := false
  /-- event counters and what they have counted. -/
  counts : List (Nat × Nat) := []
  /-- registers written, when in the cycle, and what they held before (R216). -/
  wrote : List (Nat × (Nat × Word)) := []
  /-- position counters, by register address, with the steps that they have made, and whether a step set WRAP or a class the count. -/
  steps : List (Nat × (Int × Bool)) := []
  /-- feedback ports whose comparators or pulse train this cycle has sampled. -/
  sampled : List Nat := []
  /-- feedback ports with an observer seed of this cycle (R264). -/
  seeded : List Nat := []
deriving DecidableEq, Repr

/-- Why a command can stop with a fault. No command of this block does: the type is closed and empty of uses on purpose. -/
inductive Fault where
  /-- raised by nobody; safe. -/ | none
deriving DecidableEq, Repr

/-- Why a command can be refused by the model. -/
inductive Refusal where
  /-- raised by an arm of exec that has no meaning yet; safe. -/ | notModelled (mnemonic : String)
deriving DecidableEq, Repr

/-- The state of the block. -/
structure State where
  /-- the time in CLK_ENG cycles (R63). -/
  now : Nat
  /-- the number of free values drawn so far (the model's own field). -/
  draws : Nat
  fresh : Fresh
  mode : Mode
  sub : Sub
  /-- registers, by address; the live copy of RWS fields. -/
  regs : List (Nat × Word)
  /-- shadow copies of registers with RWS fields. -/
  shadow : List (Nat × Word)
  /-- all byte-addressed memory: TCMs, SRAM, node-table halves, operand store, flash, always-on memory. -/
  mem : List Host.Cell
  /-- bits in error among the 80 stored bits of a 64-bit word, by its first byte's address (R101). -/
  ecc : List (Nat × Nat)
  pwr : Power
  brg : Bridge
  spp : Spp
  cp : Cp
  icu : Icu
  banks : List (Nat × Bank)
  /-- moves of the DMA engines that wait, in the order in which they came. -/
  dma : List DmaJob
  /-- the next word of the scrubber in each memory: 0–7 the SRAM banks, 8 and 9 the TCMs, 10 the node table, 11 the operand store,
  12 flash (R104). -/
  scrub : List (Nat × Nat)
  mir : Mirror
  hgrp : List (Nat × HGrp)
  hwm : Hwm
  /-- the 48-bit counts of the event counters (R387). -/
  evc : List (Nat × Nat)
  bist : Bist
  mgn : Margin
  inj : Inject
  lnk : Link
  legs : List (Nat × Leg)
  pgrp : List (Nat × Pgrp)
  adc : List (Nat × Adc)
  fbp : List (Nat × Fbport)
  wheels : List (Nat × Wheel)
  sents : List (Nat × Sent)
  prs : Prism
  lup : List (Nat × Loupe)
  /-- the Loupe's staging FIFO: address and word (R180). -/
  fifo : List (Nat × Word)
  krg : Ring
  grd : Guard
  can : List (Nat × Can)
  /-- the commands that wait, the next one first. -/
  pending : List Instr
deriving DecidableEq, Repr

/-- Right after a VBAT power-on (R37): every register at its reset value, nothing in memory, the wake delay running. -/
def State.reset : State where
  now := 0
  draws := 0
  fresh := {}
  mode := .boot
  sub := .pwrseq
  regs := []
  shadow := []
  mem := []
  ecc := []
  pwr := {}
  brg := {}
  spp := {}
  cp := {}
  icu := {}
  banks := []
  dma := []
  scrub := []
  mir := {}
  hgrp := []
  hwm := {}
  evc := []
  bist := {}
  mgn := {}
  inj := {}
  lnk := {}
  legs := []
  pgrp := []
  adc := []
  fbp := []
  wheels := []
  sents := []
  prs := {}
  lup := []
  fifo := []
  krg := {}
  grd := {}
  can := []
  pending := []

end Sys2Proof.Machine
end

