-- ==== Sys2Proof/Machine/Ops.lean ====
section
/-! DEFINITION. The named operations over registers, time, the event counters, the interrupt controller and memory. -/

namespace Sys2Proof.Machine

/-! ### Registers -/

/-- The live value of the register at an address. -/
def State.reg (s : State) (a : Nat) : Word := mget regDflt s.regs a

/-- Set the live value of the register at an address. -/
def State.setReg (s : State) (a : Nat) (w : Word) : State := { s with regs := mset regDflt s.regs a w }

/-- The shadow value of the register at an address (R6, R330). -/
def State.shd (s : State) (a : Nat) : Word := mget regDflt s.shadow a

/-- Set the shadow value. -/
def State.setShd (s : State) (a : Nat) (w : Word) : State := { s with shadow := mset regDflt s.shadow a w }

/-- A word with bits `[hi:lo]` replaced. -/
def putBits (w : Word) (hi lo v : Nat) : Word :=
  BitVec.ofNat 32 (w.toNat - bitsOf w hi lo * 2 ^ lo + v % 2 ^ (hi + 1 - lo) * 2 ^ lo)

/-- The value of a field. -/
def State.get (s : State) (f : Fld) : Nat := bitsOf (s.reg f.a) f.hi f.lo

/-- Is a field other than 0? -/
def State.flag (s : State) (f : Fld) : Bool := s.get f != 0

/-- The bits that the running CLK_PER cycle has set in the register at an address (R10). -/
def State.freshBits (s : State) (a : Nat) : Nat :=
  s.fresh.bits.foldl (fun m e => if e.1 = a then m ||| e.2 else m) 0

/-- Bits of a register count as set in the running CLK_PER cycle (R10). -/
def State.mark (s : State) (a m : Nat) : State :=
  { s with fresh := { s.fresh with bits := if m = 0 then s.fresh.bits else (a, m) :: s.fresh.bits } }

/-- Set a field; the bits that it sets count as set in the running cycle. -/
def State.put (s : State) (f : Fld) (v : Nat) : State :=
  (s.setReg f.a (putBits (s.reg f.a) f.hi f.lo v)).mark f.a (v % 2 ^ (f.hi + 1 - f.lo) * 2 ^ f.lo)

/-- Has the running cycle set a bit of a field? -/
def State.freshIn (s : State) (f : Fld) : Bool := bitsOf (BitVec.ofNat 32 (s.freshBits f.a)) f.hi f.lo != 0

/-- The next CLK_PER cycle: nothing has happened in it yet. -/
def newCycle (s : State) : State := { s with fresh := {} }

/-- Set a one-bit field, or clear it. -/
def State.putB (s : State) (f : Fld) (b : Bool) : State := s.put f b.toNat

/-- Bit `i` of a field. -/
def State.bit (s : State) (f : Fld) (i : Nat) : Bool := (s.get f).testBit i

/-- A number with bit `i` set or cleared. -/
def withBit (v i : Nat) (b : Bool) : Nat :=
  if v.testBit i then (if b then v else v - 2 ^ i) else (if b then v + 2 ^ i else v)

/-- Set or clear bit `i` of a field; only that bit counts as set. -/
def State.putBit (s : State) (f : Fld) (i : Nat) (b : Bool) : State :=
  (s.setReg f.a (putBits (s.reg f.a) f.hi f.lo (withBit (s.get f) i b))).mark f.a (if b then 2 ^ (f.lo + i) else 0)

/-- The largest value of a field. -/
def fldTop (f : Fld) : Nat := 2 ^ (f.hi + 1 - f.lo) - 1

/-- A maximum rises to a value, or stays. -/
def State.putMax (s : State) (f : Fld) (v : Nat) : State := if s.get f < v then s.put f v else s

/-- A maximum is cleared, unless it has risen in this cycle (R176). -/
def State.clearMax (s : State) (f : Fld) : State := if s.freshIn f then s else s.put f 0

/-- Add to a counter field that saturates at its largest value. -/
def State.bump (s : State) (f : Fld) (n : Nat) : State := s.put f (satTo (fldTop f) (s.get f + n))

/-- A field read as two's complement. -/
def State.getS (s : State) (f : Fld) : Int := signed (f.hi + 1 - f.lo) (s.get f)

/-- Store an integer into a field as two's complement. -/
def State.putS (s : State) (f : Fld) (v : Int) : State := s.put f (unsignedOf (f.hi + 1 - f.lo) v)

/-- A register that loads at valleys is about to change: its word until now is kept for a load of the same cycle (R216). -/
def noteOld (a : Nat) (s : State) : State :=
  if s.fresh.wrote.any (fun e => e.1 == a && e.2.1 == s.now) then s
  else { s with fresh := { s.fresh with wrote := (a, (s.now, s.reg a)) :: s.fresh.wrote } }

/-- A field as it loads in cycle `t`: a write that takes effect in that cycle goes to the following valley (R216). -/
def State.loaded (s : State) (t : Nat) (f : Fld) : Nat :=
  match s.fresh.wrote.find? (fun e => e.1 == f.a && e.2.1 == t) with
  | some e => bitsOf e.2.2 f.hi f.lo
  | none => s.get f

/-- The groups, legs or bits named by a mask of `n` bits, in rising order. -/
def bitsIn (n mask : Nat) : List Nat := (List.range n).filter (fun i => mask.testBit i)

/-- Apply an operation for each member of a list, in order. -/
def forAll (l : List Nat) (f : Nat → State → State) (s : State) : State := l.foldl (fun t i => f i t) s

/-- The value of safety parameter `i` (R356). -/
def State.spb (s : State) (i : Nat) : Word := s.reg (R.HWM_SPB i)

/-- A group's HWM record. -/
def State.grp (s : State) (g : Nat) : HGrp := mget (fun _ => {}) s.hgrp g

/-- Change a group's HWM record. -/
def State.updGrp (s : State) (g : Nat) (f : HGrp → HGrp) : State :=
  { s with hgrp := mupd (fun _ => {}) s.hgrp g f }

/-! ### Event counters (R387) -/

/-- The 48-bit count of counter `c`. -/
def State.evcOf (s : State) (c : Nat) : Nat := mget (fun _ => 0) s.evc c

/-- Counter `c` counts `n` events: modulo 2⁴⁸ with WRAP, and THRST when bits [47:THRSH] change. -/
def evcOne (n c : Nat) (s : State) : State :=
  let old := s.evcOf c
  let sum := old + n
  let new := sum % 2 ^ 48
  let s := { s with evc := mset (fun _ => 0) s.evc c new, fresh := { s.fresh with counts := (c, n) :: s.fresh.counts } }
  let s := if sum ≠ new then s.putBit F.EVC_WRAP_WRAP c true else s
  let sh := s.get (F.EVC_SEL_THRSH c)
  if s.flag (F.EVC_SEL_THREN c) && (old >>> sh != sum >>> sh) then s.putBit F.EVC_THRST_THR c true else s

/-- The counters that run on a source. -/
def evcOn (s : State) (src : Nat) : List Nat :=
  if s.flag F.CLK_GATE_EVC then
    (bitsIn 32 (s.get F.EVC_GCTL_RUN)).filter (fun c => s.get (F.EVC_SEL_SRC c) == src)
  else []

/-- `n` events of a source: every counter that runs on it counts them. -/
def evcAdd (src n : Nat) (s : State) : State := if n = 0 then s else forAll (evcOn s src) (evcOne n) s

/-! ### Interrupt controller (R94) -/

/-- Is source `n` edge-triggered? -/
def icuEdge (s : State) (n : Nat) : Bool := s.flag (F.ICU_SRC_EDGE n)

/-- Does a block hold source `n` up? -/
def icuLine (s : State) (n : Nat) : Bool := mget (fun _ => false) s.icu.lines n

/-- Is source `n` pending: the latch of an edge source, the line of a level source. -/
def icuPending (s : State) (n : Nat) : Bool := if icuEdge s n then s.flag (F.ICU_SRC_PEND n) else icuLine s n

/-- Source `n` becomes pending; the event counters see it when it was not (R387, sources 0x80–0xFF). -/
def icuPend (n : Nat) (s : State) : State :=
  if s.flag (F.ICU_SRC_PEND n) then s.put (F.ICU_SRC_PEND n) 1 else evcAdd (0x80 + n) 1 (s.put (F.ICU_SRC_PEND n) 1)

/-- A line rises or falls; a rising edge latches an edge source. -/
def icuMoveLine (n : Nat) (up : Bool) (s : State) : State :=
  let was := icuLine s n
  let s := { s with icu := { s.icu with lines := mset (fun _ => false) s.icu.lines n up } }
  if up && !was then (if icuEdge s n then icuPend n s else evcAdd (0x80 + n) 1 s) else s

/-- Source 86 is active while any THRST bit is set (R387). -/
def evcSettle (s : State) : State := icuMoveLine 86 (s.flag F.EVC_THRST_THR) s

/-- A block raises or lowers its line; the event counters see a rise (R387, sources 0x80–0xFF). -/
def icuSetLine (n : Nat) (up : Bool) (s : State) : State := evcSettle (icuMoveLine n up s)

/-- `n` events of an event-counter source. -/
def evcCount (src n : Nat) (s : State) : State := evcSettle (evcAdd src n s)

/-- A momentary event of source `n`: it latches an edge source. A level source, whose condition is gone at once, holds
nothing (R94, DEDUCED, log 9). The reserved sources 94–99 never become pending (R99). -/
def icuEvent (n : Nat) (s : State) : State :=
  if 94 ≤ n ∧ n ≤ 99 then s else if icuEdge s n then evcSettle (icuPend n s) else s

/-- An event that the HWM reports to the D-die over the bridge, which carries nothing while it is down (R17, R19). -/
def hwmEvent (n : Nat) (s : State) : State := if s.flag F.SYS_BRGSTAT_UP then icuEvent n s else s

/-! ### Time (R63) -/

/-- Is the D-die clocked and out of reset? -/
def dRun (s : State) : Bool :=
  match s.pwr.seq with
  | .lbist _ => true
  | .done => true
  | _ => false

/-- The 64-bit value of CPT.MTIME. -/
def mtime (s : State) : Nat := (s.reg (R.CPT_MTIME 0)).toNat + (s.reg (R.CPT_MTIME 1)).toNat * 2 ^ 32

/-- Set the 64-bit value of CPT.MTIME. -/
def setMtime (s : State) (v : Nat) : State :=
  (s.setReg (R.CPT_MTIME 0) (BitVec.ofNat 32 v)).setReg (R.CPT_MTIME 1) (BitVec.ofNat 32 (v / 2 ^ 32))

/-- A 64-bit counter of the CP, from its low and high CSR. -/
def cpCount (s : State) (n : Nat) : Nat :=
  (mget (fun _ => 0) s.cp.csr n).toNat + (mget (fun _ => 0) s.cp.csr (n + 0x80)).toNat * 2 ^ 32

/-- Set a 64-bit counter of the CP. -/
def setCpCount (n v : Nat) (s : State) : State :=
  let low := mset (fun _ => 0) s.cp.csr n (BitVec.ofNat 32 v)
  { s with cp := { s.cp with csr := mset (fun _ => 0) low (n + 0x80) (BitVec.ofNat 32 (v / 2 ^ 32)) } }

/-- CLK_CORE cycles pass: mcycle counts them unless mcountinhibit.CY is set (R90). -/
def countCycles (n : Nat) (s : State) : State :=
  if bitOf (mget (fun _ => 0) s.cp.csr 0x320) 0 then s else setCpCount 0xB00 (cpCount s 0xB00 + n) s

/-- Change the engine's record. -/
def State.updPrs (s : State) (f : Prism → Prism) : State := { s with prs := f s.prs }

/-- One facet's record. -/
def State.facet (s : State) (f : Nat) : Facet := mget (fun _ => {}) s.prs.facets f

/-- Change one facet. -/
def State.updFacet (s : State) (f : Nat) (g : Facet → Facet) : State :=
  s.updPrs (fun p => { p with facets := mupd (fun _ => {}) p.facets f g })

/-- The cycles up to `t` in which facet `f` has held a node are counted (R169, R387). -/
def heldTick (t f : Nat) (s : State) : State :=
  let c := s.facet f
  if c.held.isEmpty ∨ t ≤ c.heldFrom then s
  else
    let n := t - c.heldFrom
    evcAdd (0x10 + f) n ((s.bump (F.PRS_FRF_COUNT f) n).updFacet f (fun c => { c with heldFrom := t }))

/-- Time passes up to instant `t`, in CLK_ENG cycles, and never runs back: CPT.MTIME counts CLK_PER cycles (R93), the CP's mcycle
CLK_CORE cycles, the event counters sources 0x01, 0x02 and 0x10–0x17. -/
def passTo (t : Nat) (s : State) : State :=
  if t ≤ s.now then s
  else
    let d := t - s.now
    let p := t / 3 - s.now / 3
    let s := { s with now := t }
    if dRun s then
      let s := countCycles (2 * d) (setMtime s ((mtime s + p) % 2 ^ 64))
      evcSettle (forAll (List.range 8) (heldTick t) (evcAdd 2 p (evcAdd 1 d s)))
    else s

/-- A command that carries an instant lets time pass up to it. Commands between which no CLK_PER edge lies fall in one cycle (R10); a
new cycle knows what time itself has counted in it, and nothing else. -/
def advanceTo (t : Nat) (s : State) : State :=
  let edge := t - t % 3
  let s := passTo t (if s.now < edge then newCycle (passTo (edge - 1) s) else s)
  { s with fresh := { s.fresh with stamps := s.fresh.stamps + 1 } }

/-- Draw a free value's number and step the counter: the value itself is an opaque constant of Config applied to it. -/
def draw (s : State) : Nat × State := (s.draws, { s with draws := s.draws + 1 })

/-! ### Memory (R100, R330) -/

/-- What a byte that nothing has written reads as: erased flash reads 0xFF; every RAM reads 0, DESIGN CHOICE (log 5). -/
def memDflt (a : Nat) : Byte := if 0x10000000 ≤ a ∧ a < 0x11000000 then 0xFF else 0

/-- A byte of memory at its physical place. -/
def State.byte (s : State) (a : Nat) : Byte := mget memDflt s.mem a

/-- Write a byte of memory at its physical place. -/
def State.setByte (s : State) (a : Nat) (b : Byte) : State := { s with mem := mset memDflt s.mem a b }

/-- A little-endian word at a physical place (R5). -/
def State.word (s : State) (a : Nat) : Word :=
  BitVec.ofNat 32 ((s.byte a).toNat + (s.byte (a + 1)).toNat * 2 ^ 8 + (s.byte (a + 2)).toNat * 2 ^ 16
    + (s.byte (a + 3)).toNat * 2 ^ 24)

/-- Write a little-endian word at a physical place. -/
def State.setWord (s : State) (a : Nat) (w : Word) : State :=
  (((s.setByte a (w.extractLsb' 0 8)).setByte (a + 1) (w.extractLsb' 8 8)).setByte (a + 2) (w.extractLsb' 16 8)).setByte
    (a + 3) (w.extractLsb' 24 8)

/-- Consecutive words. -/
def State.words (s : State) (a n : Nat) : List Word := (List.range n).map (fun i => s.word (a + 4 * i))

/-- Write consecutive words. -/
def State.setWords (s : State) (a : Nat) : List Word → State
  | [] => s
  | w :: ws => (s.setWord a w).setWords (a + 4) ws

/-- Consecutive bytes. -/
def State.bytes (s : State) (a n : Nat) : List Byte := (List.range n).map (fun i => s.byte (a + i))

/-- Write consecutive bytes. -/
def State.setBytes (s : State) (a : Nat) (l : List Byte) : State := { s with mem := mrange memDflt s.mem a l }

/-- The physical place of a node-table address: the CP and SPP see the live half first (R330). -/
def nodePlace (s : State) (a : Nat) : Nat :=
  if 0x30000000 ≤ a ∧ a < 0x30040000 ∧ s.flag F.CFG_STAT_LIVE then
    (if a < 0x30020000 then a + 0x20000 else a - 0x20000)
  else a

/-- The operand store (R127, R129): operand `i` of 16,384. -/
def State.operand (s : State) (i : Nat) : Word := s.word (0x30040000 + 4 * i)

/-- Write operand `i`. -/
def State.setOperand (s : State) (i : Nat) (w : Word) : State := s.setWord (0x30040000 + 4 * i) w

/-! ### Number formats of frames and images -/

/-- CRC-32 of IEEE 802.3 (R49, R278): one bit. -/
def crc32Bit (c : Nat) : Nat := if c % 2 = 1 then (c / 2) ^^^ 0xEDB88320 else c / 2

/-- CRC-32: one byte. -/
def crc32Byte (c : Nat) (b : Byte) : Nat := (List.range 8).foldl (fun r _ => crc32Bit r) (c ^^^ b.toNat)

/-- CRC-32 over bytes in address order. -/
def crc32 (l : List Byte) : Word := BitVec.ofNat 32 ((l.foldl crc32Byte 0xFFFFFFFF) ^^^ 0xFFFFFFFF)

/-- CRC-16 of R52: one bit. -/
def crc16Bit (c : Nat) : Nat := if c ≥ 0x8000 then ((c * 2) % 0x10000) ^^^ 0x1021 else c * 2

/-- CRC-16 of R52: one byte. -/
def crc16Byte (c : Nat) (b : Byte) : Nat := (List.range 8).foldl (fun r _ => crc16Bit r) (c ^^^ (b.toNat * 256))

/-- CRC-16 over bytes: polynomial 0x1021, initial value 0xFFFF, no reflection (R52). -/
def crc16 (l : List Byte) : BitVec 16 := BitVec.ofNat 16 (l.foldl crc16Byte 0xFFFF)

/-- The four bytes of a word, most significant first (SPP). -/
def beBytes (w : Word) : List Byte :=
  [w.extractLsb' 24 8, w.extractLsb' 16 8, w.extractLsb' 8 8, w.extractLsb' 0 8]

/-- The four bytes of a word, least significant first. -/
def leBytes (w : Word) : List Byte :=
  [w.extractLsb' 0 8, w.extractLsb' 8 8, w.extractLsb' 16 8, w.extractLsb' 24 8]

/-- A word from bytes, least significant first; absent bytes are 0. -/
def leWord (l : List Byte) : Word := BitVec.ofNat 32 (((l.take 4).foldr (fun b r => b.toNat + 256 * r) 0))

/-! ### Blocks without a supply or a clock (R68, R76) -/

/-- Does an address lie in an A-die block of R17? -/
def aDie (a : Nat) : Bool :=
  decide (0x50000000 ≤ a ∧ a < 0x50030000) || decide (0x60000000 ≤ a ∧ a < 0x60002000) || decide (0x70000000 ≤ a ∧ a < 0x70010000)

/-- Is the block of an address unpowered or unclocked (R76)? -/
def blockOff (s : State) (a : Nat) : Bool :=
  if aDie a then !s.flag F.SYS_BRGSTAT_UP
  else match a / 0x10000 with
    | 0x4009 => !s.flag F.CLK_GATE_CAN
    | 0x400E => !s.flag F.CLK_GATE_INJ
    | 0x400F => !s.flag F.CLK_GATE_EVC
    | 0x4010 => !s.flag F.CLK_GATE_LUP
    | _ => false

/-- Record an access to such a block (R76); the cycle's first one is also kept for a write of 1 to VALID in it. -/
def offAccess (rq a : Nat) (s : State) : State :=
  let s := { s with fresh := { s.fresh with off := some (s.fresh.off.getD (a, rq)) } }
  let s := if s.flag F.PWR_OFFSTAT_VALID then s.put F.PWR_OFFSTAT_OVR 1
    else ((s.put F.PWR_OFFSTAT_VALID 1).put F.PWR_OFFSTAT_REQ rq).setReg R.PWR_OFFACC (BitVec.ofNat 32 a)
  icuEvent 70 s

/-- An access of a requester to the register that a command names, at the block's edge: to a block that is off it ends in a bus error
(R76). -/
def access (rq a : Nat) (act : State → State) (s : State) : State := if blockOff s a then offAccess rq a s else act s

/-- An event of a block: it has none while the block is off (R68). -/
def clocked (a : Nat) (act : State → State) (s : State) : State := if blockOff s a then s else act s

end Sys2Proof.Machine
end

