-- ==== Sys2Proof/Machine/Gate.lean ====
section
/-! DEFINITION. From a gating point to a gate ball (R14, R235–R237, R245, R351–R353): what a leg's driver is told, the direct pedal
path's demand and sector, the shoot-through handshake and the drive currents. -/

namespace Sys2Proof.Machine

/-! ### Legs -/

/-- One leg's lines, drivers and pattern. -/
def State.leg (s : State) (k : Nat) : Leg := mget (fun _ => {}) s.legs k

/-- What the A-die holds of a leg, which a D-die reset leaves as it is: the drivers follow the HWM's gating point. -/
def Leg.driver (l : Leg) : Leg := {
  drv := l.drv, thrH := l.thrH, thrL := l.thrL, heldH := l.heldH, heldL := l.heldL, bsHold := l.bsHold,
  cmdH := l.cmdH, cmdL := l.cmdL, onH := l.onH, onL := l.onL, fallH := l.fallH, fallL := l.fallL, weakH := l.weakH,
  weakL := l.weakL }

/-- Change one leg. -/
def State.updLeg (s : State) (k : Nat) (f : Leg → Leg) : State := { s with legs := mupd (fun _ => {}) s.legs k f }

/-- One group's pattern generator. -/
def State.pg (s : State) (g : Nat) : Pgrp := mget (fun _ => {}) s.pgrp g

/-- Change one pattern generator. -/
def State.updPg (s : State) (g : Nat) (f : Pgrp → Pgrp) : State := { s with pgrp := mupd (fun _ => {}) s.pgrp g f }

/-! ### The direct pedal path's demand and sector (R351–R353) -/

/-- X[j] and Y[j] of the pedal map (R351). -/
def mapX (s : State) (j : Nat) : Nat := bitsOf (s.spb (16 + j)) 31 16

/-- Y[j] of the pedal map. -/
def mapY (s : State) (j : Nat) : Nat := bitsOf (s.spb (16 + j)) 15 0

/-- The threshold of a pedal position (R351). -/
def pedalMap (s : State) (x : Nat) : Nat :=
  if x < mapX s 0 then 0
  else if mapX s 15 ≤ x then mapY s 15
  else match (List.range 15).find? (fun j => decide (mapX s j ≤ x ∧ x < mapX s (j + 1))) with
    | some j =>
      let dy : Int := (mapY s (j + 1) : Int) - (mapY s j : Int)
      ((mapY s j : Int) + dy * ((x : Int) - (mapX s j : Int)) / ((mapX s (j + 1) : Int) - (mapX s j : Int))).toNat
    | none => (List.range 16).foldl (fun y j => if mapX s j ≤ x then mapY s j else y) 0

/-- The demand in force: 0 while PDLFLT is live. -/
def pedalDemand (s : State) : Nat := if s.flag F.HWM_STAT_PDLFLT then 0 else pedalMap s (s.get F.HWM_PDL_X)

/-- The gain that SPB[8].LGAIN selects, coded as CSA.CFGn.GAIN (R351). -/
def limpGain (s : State) : Nat := 5 * 2 ^ bitsOf (s.spb 8) 10 8

/-- The threshold of the peak-current comparator on the shunt amplifier's output, in 10 µV: y × G, saturated at 2.0 V (R351). -/
def limpThreshold (s : State) : Nat := min (pedalDemand s * limpGain s) 200000

/-- The two legs of a group that a sector drives, high side and low side, 0 U, 1 V, 2 W (R352); DIRn swaps them. -/
def sectorLegs (e : Nat) (neg : Bool) : Option (Nat × Nat) :=
  let p : Option (Nat × Nat) := match e with
    | 0 => some (1, 2)
    | 1 => some (1, 0)
    | 2 => some (2, 0)
    | 3 => some (2, 1)
    | 4 => some (0, 1)
    | 5 => some (0, 2)
    | _ => none
  if neg then p.map (fun x => (x.2, x.1)) else p

/-- The legs of the group's present sector: high side, low side. -/
def drivenLegs (s : State) (g : Nat) : Option (Nat × Nat) := sectorLegs (s.grp g).sector (bitOf (s.spb 11) (g - 2))

/-- What the direct path commands for leg `k` (R353): nothing without a demand or before the first chopping period; while a sector
change waits, only the switches that both sectors have. -/
def limpRaw (s : State) (k : Nat) : Bool × Bool :=
  let h := s.grp (k / 3)
  match drivenLegs s (k / 3) with
  | none => (false, false)
  | some (hi, lo) =>
    if pedalDemand s = 0 ∨ h.driving = false then (false, false)
    else (decide (k % 3 = hi) && h.chopOn && (!h.turning || h.keepH == hi), decide (k % 3 = lo) && (!h.turning || h.keepL == lo))

/-! ### Gating point, handshake, gate ball -/

/-- What the gating point of leg `k` asks of its high and low switch (R14): in a group that the mode hold or a safe state keeps all-off,
the switch that a GATE step drives (R373). -/
def gateRaw (s : State) (k : Nat) : Bool × Bool :=
  match (s.grp (k / 3)).gate with
  | .off => ((s.grp (k / 3)).offBy != 0 && s.bist.drive == some (k, true), (s.grp (k / 3)).offBy != 0 && s.bist.drive == some (k, false))
  | .shortLow => (false, true)
  | .shortHigh => (true, false)
  | .pass => ((s.leg k).lineH, (s.leg k).lineL)
  | .limp => limpRaw s k

/-- The turn-ons that no handshake time-out and no bootstrap undervoltage withholds (R237, R245). -/
def gateGo (s : State) (k : Nat) : Bool × Bool :=
  let l := s.leg k
  let r := gateRaw s k
  (r.1 && !(l.heldH && l.cmdH.isSome) && !l.bsHold, r.2 && !(l.heldL && l.cmdL.isSome))

/-- Since when a command holds. -/
def sinceOf (on : Bool) (was : Option Nat) (t : Nat) : Option Nat := if on then some (was.getD t) else none

/-- Is a switch with this start on at instant `t`? -/
def onAt (start : Option Nat) (t : Nat) : Bool :=
  match start with
  | none => false
  | some a => decide (a ≤ t)

/-- How long a turn-on may wait for the opposite gate, in CLK_ENG cycles (R237). -/
def handshakeLimit (s : State) : Nat := 150 * (s.get F.GDR_HSCFG_HSTMO + 1)

/-- The start of a switch that is told to turn on (`go`) since `cmd` (R236, R237): `start` where it has one; else it turns on once the
opposite switch is off and its gate has fallen, `fall`, where that lies within the handshake's limit (DEDUCED, log 119); else it waits. -/
def handshake (s : State) (t : Nat) (go : Bool) (start opposite : Option Nat) (fall : Nat) (cmd : Option Nat) : Option Nat :=
  if go && start.isNone && opposite.isNone && decide (max t fall ≤ cmd.getD t + handshakeLimit s) then some (max t fall) else start

/-- The carrier peak of a group's running period, in CLK_ENG cycles. -/
def peakOf (s : State) (g : Nat) : Nat := (2 * (s.pg g).pos + (s.pg g).p) * 3 / 128

/-- For how long the high side of leg `k` has been on about the carrier peak, as it stands at instant `t` (R375). -/
def onAtPeak (s : State) (k t : Nat) : Nat :=
  let l := s.leg k
  match l.onH with
  | none => l.peakOn
  | some a => if a ≤ peakOf s (k / 3) ∧ peakOf s (k / 3) ≤ t then t - a else l.peakOn

/-- A leg's driver follows its gating point at instant `t` (R236). A gate that turns off is reported below 1.5 V `fall` cycles later,
where a measurement tells, else after an open time (log 104). A new turn-on command ends a withheld one (R237); a forced edge takes the
drive currents and the threshold in force (R235, R378). -/
def settleLeg (t : Nat) (fall : Option Nat) (k : Nat) (s : State) : State :=
  let l := s.leg k
  let raw := gateRaw s k
  let go := gateGo s k
  let endH := !go.1 && onAt l.onH t
  let endL := !go.2 && onAt l.onL t
  let fallH := if endH then t + fall.getD (Config.gateFall s.draws + 1) else l.fallH
  let fallL := if endL then t + fall.getD (Config.gateFall (s.draws + 1) + 1) else l.fallL
  let cmdH := sinceOf raw.1 l.cmdH t
  let cmdL := sinceOf raw.2 l.cmdL t
  let stayL := if go.2 then l.onL else none
  let onH := handshake s t go.1 (if go.1 then l.onH else none) stayL fallL cmdH
  let onL := handshake s t go.2 stayL onH fallH cmdL
  let newH := onH.isSome && l.onH.isNone
  let newL := onL.isSome && l.onL.isNone
  let moved := newH || newL || (onH.isNone && l.onH.isSome) || (onL.isNone && l.onL.isSome)
  let drv := if moved then s.reg (R.GDR_DRV k) else l.drv
  let thr := s.get (F.GDR_VDS_THREFF k)
  let peakOn := if endH then onAtPeak s k t else l.peakOn
  let s := if fall.isNone && (endH || endL) then { s with draws := s.draws + 2 } else s
  s.updLeg k (fun l => { l with
    heldH := l.heldH && l.cmdH.isSome && raw.1, heldL := l.heldL && l.cmdL.isSome && raw.2,
    cmdH := cmdH, cmdL := cmdL, onH := onH, onL := onL, fallH := fallH, fallL := fallL, peakOn := peakOn,
    drv := drv, thrH := if newH then thr else l.thrH, thrL := if newL then thr else l.thrL })

/-- The same for the three legs of a group. -/
def settleLegs (g : Nat) (s : State) : State := forAll [3 * g, 3 * g + 1, 3 * g + 2] (settleLeg s.now none) s

/-- The switches of leg `k` that their gate balls hold on now: high side, low side (R14, R236). -/
def gatePoint (s : State) (k : Nat) : Bool × Bool := (onAt (s.leg k).onH s.now, onAt (s.leg k).onL s.now)

/-- The level of ball PISn: high closes the phase isolation switches; low on an open request, and while the ball's domain is unpowered
(R327, R407). -/
def pisLevel (s : State) (g : Nat) : Bool := s.pwr.hwmOn && !s.bit F.HWM_PISCTL_OPEN g

/-- The source current of a drive code, in mA (R235). -/
def sourceMa (code : Nat) : Nat :=
  [50, 75, 100, 150, 200, 250, 300, 400, 500, 600, 750, 900, 1000, 1200, 1350, 1500].getD code 0

/-- The sink current of a drive code, in mA (R235). -/
def sinkMa (code : Nat) : Nat :=
  [100, 150, 200, 300, 400, 500, 600, 800, 1000, 1200, 1400, 1600, 1800, 2000, 2250, 2500].getD code 0

/-- The weak sink of a group's two-step turn-off, in mA (R242). -/
def weakMa (s : State) (g : Nat) : Nat := (s.get (F.GDR_SOFT_WEAK g) + 1) * 50

/-- The current that a gate ball drives, in mA, by the leg's settings in force: sourced where positive, sunk where negative (R235,
R242). -/
def gateCurrent (s : State) (k : Nat) (high : Bool) : Int :=
  let l := s.leg k
  let b := gatePoint s k
  let code := fun (f : Nat → Fld) => bitsOf l.drv (f k).hi (f k).lo
  if high then
    (if b.1 then (sourceMa (code F.GDR_DRV_SRCHS) : Int)
     else if l.weakH then -(weakMa s (k / 3) : Int) else -(sinkMa (code F.GDR_DRV_SNKHS) : Int))
  else
    (if b.2 then (sourceMa (code F.GDR_DRV_SRCLS) : Int)
     else if l.weakL then -(weakMa s (k / 3) : Int) else -(sinkMa (code F.GDR_DRV_SNKLS) : Int))

/-- The blanked threshold of a code, in mV (R239). -/
def thrMv (c : Nat) : Nat := if c < 16 then 100 + 25 * c else 500 + 100 * (c - 16)

/-- The gross threshold of a leg, in mV (R240). -/
def grossMv (s : State) (k : Nat) : Nat := 2000 + 1000 * s.get (F.GDR_VDS_GROSS k)

/-- Is the monitor of a switch armed at instant `t` (R239, R240)? The blanked one from the end of blanking and 100 ns on, the gross
one while the switch is on and its gate is reported above 7.0 V. -/
def vdsArmed (s : State) (k : Nat) (high gross gateUp : Bool) (t : Nat) : Bool :=
  let l := s.leg k
  match (if high then l.onH else l.onL) with
  | none => false
  | some t0 => if gross then gateUp && decide (t0 ≤ t)
               else decide (t0 + 75 * (s.get (F.GDR_VDS_BLANK k) + 1) + 30 ≤ t)

/-- Does a drain-source voltage, in mV, exceed the monitor's threshold? -/
def vdsOver (s : State) (k : Nat) (high gross : Bool) (mv : Nat) : Bool :=
  if gross then decide (grossMv s k < mv) else decide (thrMv (if high then (s.leg k).thrH else (s.leg k).thrL) < mv)

end Sys2Proof.Machine
end

