-- ==== Sys2Proof/Machine/Ecc.lean ====
section
/-! DEFINITION. The memory code (R101–R103): what a read and a write of a stored word do with the bits that are in error, and the
ARB.ECCSTAT reports; with them the request of a D-die detector to the HWM (R340) and an injection that waits (R384). -/

namespace Sys2Proof.Machine

/-! ### Requests to the HWM, and injections that wait -/

/-- The class mapped to position `p` (R343); the fixed positions read 0xF. -/
def classOf (s : State) (p : Nat) : Nat := bitsOf (s.spb (96 + p / 8)) (4 * (p % 8) + 3) (4 * (p % 8))

/-- A detector on the D-die sends its index and class to the HWM in a status frame (R340). With the bridge stopped no frame is
carried (R19). -/
def sendRaise (det pos groups : Nat) (s : State) : State :=
  if s.flag F.SYS_BRGSTAT_UP then
    { s with hwm := { s.hwm with rxq := s.hwm.rxq ++ [{ det := det, pos := pos, cls := classOf s pos, groups := groups }] } }
  else s

/-- The same with a fixed class. -/
def sendRaiseAs (det pos cls groups : Nat) (s : State) : State :=
  if s.flag F.SYS_BRGSTAT_UP then
    { s with hwm := { s.hwm with rxq := s.hwm.rxq ++ [{ det := det, pos := pos, cls := cls, groups := groups }] } }
  else s

/-- An injection acts (R384). -/
def injActed (s : State) : State := evcCount 0x73 1 (icuEvent 85 (s.put F.INJ_STAT_FIRED 1))

/-- The argument of an injection into a detector that waits for its moment. -/
def injDue (s : State) (det : Nat) : Option Nat := (s.inj.waiting.find? (fun e => e.1 == det)).map (·.2)

/-- A waiting injection acts and is gone. -/
def injPop (det : Nat) (s : State) : State :=
  injActed { s with inj := { s.inj with waiting := s.inj.waiting.filter (fun e => e.1 != det) } }

/-! ### The code -/

/-- The bits in error among the 80 stored bits of the 64-bit word that holds a physical address. -/
def State.errs (s : State) (a : Nat) : Nat := mget (fun _ => 0) s.ecc (a / 8 * 8)

/-- Set that number. -/
def State.setErrs (s : State) (a n : Nat) : State := { s with ecc := mset (fun _ => 0) s.ecc (a / 8 * 8) n }

/-- Is the address in the flash window? -/
def inFlash (a : Nat) : Bool := decide (0x10000000 ≤ a ∧ a < 0x11000000)

/-- A corrected error is reported: CE or FLCE, CECNT, source 68. -/
def eccCorrected (flash : Bool) (s : State) : State :=
  let s := s.put (if flash then F.ARB_ECCSTAT_FLCE else F.ARB_ECCSTAT_CE) 1
  evcCount 0x50 1 (icuEvent 68 (s.bump F.ARB_ECCSTAT_CECNT 1))

/-- An uncorrectable error is reported: UE, UECNT, the first address, source 69, detector ECCUE. -/
def eccFailed (shown : Nat) (s : State) : State :=
  let s := if s.flag F.ARB_ECCSTAT_UE then s else s.setReg R.ARB_ECCADDR (BitVec.ofNat 32 (shown / 8 * 8))
  let s := (s.put F.ARB_ECCSTAT_UE 1).bump F.ARB_ECCSTAT_UECNT 1
  sendRaise 128 128 0xFF (icuEvent 69 s)

/-- The bits that an injection into ECCUE flips in the read of the word at INJ.ADDR (R384). -/
def eccInject (shown : Nat) (s : State) : Nat × State :=
  match injDue s 128 with
  | none => (0, s)
  | some n => if shown / 8 = s.get F.INJ_ADDR_ADDR then (n, injPop 128 s) else (0, s)

/-- A read of the word at physical place `a`, bus address `shown`: is it uncorrectable, and the state after correction and
report (R102). One or two bits are corrected, and in RAM written back. -/
def eccRead (a shown : Nat) (s : State) : Bool × State :=
  let q := eccInject shown s
  let n := s.errs a + q.1
  let s := q.2
  if n = 0 then (false, s)
  else if n ≤ 2 then
    if inFlash a then (false, eccCorrected true s) else (false, eccCorrected false (s.setErrs a 0))
  else (true, eccFailed shown s)

/-- The read part of a write narrower than 64 bits (R103): false where it refuses the write. -/
def eccWritePart (a shown : Nat) (s : State) : Bool × State :=
  let r := eccRead a shown s
  (!r.1, r.2)

/-- Read the words that hold several operands, in order: does one fail? -/
def eccReadAll (s : State) : List Nat → Bool × State
  | [] => (false, s)
  | a :: l =>
    let r := eccRead a a s
    let q := eccReadAll r.2 l
    (r.1 || q.1, q.2)

/-- Newly flipped bits come about in a stored word; a count above the code's reach stays uncorrectable. -/
def eccFlip (a n : Nat) (s : State) : State := if n = 0 then s else s.setErrs a (max (s.errs a) (min 3 (s.errs a + n)))

end Sys2Proof.Machine
end

