-- ==== Sys2Proof/Machine/React.lean ====
section
/-! DEFINITION. How a detector reaches a reaction (R339–R346): the class map, the latches, the state that each group's gating
points take (R14, R211–R214, R341, R415), FAULTn (R347), phase isolation (R327, R328), the lead token's release (R320), and the
change of mode (R29, R32). -/

namespace Sys2Proof.Machine

/-! ### Groups -/

/-- SPB[40 + n].FTHR (R212). -/
def fthr (s : State) (g : Nat) : Nat := bitsOf (s.spb (40 + g)) 31 16

/-- SPB[40 + n].PREF, with 0b11 read as 0b01 (R212). -/
def pref (s : State) (g : Nat) : Nat :=
  let p := bitsOf (s.spb (40 + g)) 1 0
  if p = 3 then 1 else p

/-- Is the group's Soft-off latched? -/
def softLatch (s : State) (g : Nat) : Bool := s.bit F.HWM_RXSTAT_SOFT g

/-- Is the group's Short latched? -/
def shortLatch (s : State) (g : Nat) : Bool := s.bit F.HWM_RXSTAT_SHORT g

/-- Is a Halt or a Withdraw latched? -/
def haltLatch (s : State) : Bool := s.flag F.HWM_RXSTAT_HALT || s.flag F.HWM_RXSTAT_WDRAW

/-- Does the row of R26 for this mode force all legs off (R415)? -/
def Mode.holds : Mode → Bool
  | .boot => true
  | .service => true
  | .integrate => true
  | .standby => true
  | _ => false

/-- Does the direct path drive the group in LIMP (R346, R356)? A group that is lost by a Soft-off, a Short, a stage-2 short or its
open PISn is not driven (R325). -/
def limpDrives (s : State) (g : Nat) : Bool :=
  s.mode == .limp && decide (2 ≤ g ∧ g ≤ 5) && bitOf (s.spb 11) (14 + g) && !s.bit F.HWM_LIMPSTAT_EXCL (g - 2) && !s.hwm.limpHalt
    && !softLatch s g && !shortLatch s g && !(s.grp g).stage2 && !s.bit F.HWM_PISCTL_OPEN g

/-- May a group be all-off under the forcing of kind `why` (1 the mode hold, 2 a safe state)? While the all-off condition holds, and,
once that forcing has put it off, until an interval shows it above threshold (R213, R415). -/
def mayBeOff (s : State) (g why : Nat) : Bool := (s.grp g).slow || ((s.grp g).offBy == why && !(s.grp g).above)

/-- The safe state of R213: all-off where PREF and the speed allow it, else the short that PREF names. -/
def safeState (s : State) (g : Nat) : Gate :=
  if pref s g = 0 then (if fthr s g ≠ 0 && mayBeOff s g 2 then .off else .shortLow)
  else if pref s g = 2 then .shortHigh
  else .shortLow

/-- The mode hold of R415, which keeps the high-side short that the group entered the mode with (R34). -/
def modeHold (s : State) (g : Nat) : Gate :=
  if mayBeOff s g 1 then .off else if (s.grp g).carried then .shortHigh else .shortLow

/-- The active short circuit of a Short reaction or of stage 2: low side unless PREF selects the high side (R211, R339). -/
def activeShort (s : State) (g : Nat) : Gate := if pref s g = 2 then .shortHigh else .shortLow

/-- Is any high side of the group without a valid bootstrap supply (GDR.STATk.BSOK = 0)? -/
def bsBad (s : State) (g : Nat) : Bool :=
  [3 * g, 3 * g + 1, 3 * g + 2].any (fun k => !s.flag (F.GDR_STAT_BSOK k))

/-- Has the group a graph (R24)? A flow of the live set is assigned to the groups that its PWMWR nodes write and to the group that its
deadline names (DEDUCED, log 87). -/
def assigned (s : State) (g : Nat) : Bool :=
  s.prs.info.any (fun e => e.2.nodes != 0 &&
    (e.2.grps.testBit g || (s.flag (F.PRS_FLOWCFG_DLEN e.1) && s.get (F.PRS_FLOWCFG_DLGRP e.1) == g)))

/-- The forcing of a group and its kind (1 the mode hold, 2 a safe state, 0 another), before the fault rules: an unpowered gate is low
(R26, R399); then stage 2 over everything
(R211), then the weak sink of a two-step turn-off (R242), LIMP, then SAFE, Withdraw, Halt and a Mirror forcing (R26, R117; SAFE's
place DEDUCED, log 51), Short, Soft-off (R341), the mode hold, a release that waits for its valley (R211, R345), a group without a
graph (R24); none where the commands pass. -/
def forcing (s : State) (g : Nat) : Option (Nat × Gate) :=
  let h := s.grp g
  if s.mode = .dormant ∨ s.pwr.hwmOn = false then some (0, .off)
  else if h.stage2 then some (0, activeShort s g)
  else if h.soft = 1 ∨ h.soft = 2 then some (0, .off)
  else if s.mode = .limp then
    (if limpDrives s g then some (0, .limp) else some (2, safeState s g))
  else if haltLatch s || h.mirror || s.mode == .safe then some (2, safeState s g)
  else if shortLatch s g then some (0, activeShort s g)
  else if softLatch s g then some (2, safeState s g)
  else if s.mode.holds then some (1, modeHold s g)
  else if h.stage2Rel then some (0, activeShort s g)
  else if h.relWait ∧ h.gate ≠ .pass then some (h.offBy, h.gate)
  else if assigned s g = false then some (2, safeState s g)
  else none

/-- The state that a forcing wants. -/
def forced (s : State) (g : Nat) : Option Gate := (forcing s g).map Prod.snd

/-- The fault rules of R214 over a forcing; an unpowered gate is low in any case (R26). -/
def faultRule (s : State) (g : Nat) (want : Gate) : Gate :=
  let h := s.grp g
  if want = .limp then .limp
  else if s.mode = .dormant ∨ s.pwr.hwmOn = false then .off
  else if (h.soft = 1 ∨ h.soft = 2) ∧ h.stage2 = false then .off
  else
    let w := if h.vdsH && h.vdsL then .off else if h.vdsH then .shortHigh else if h.vdsL then .shortLow else want
    if w = .shortHigh ∧ (h.bsLow || bsBad s g) then .shortLow else w

/-- The gate state that the HWM's gating points of a group take. -/
def gateOf (s : State) (g : Nat) : Gate :=
  match forced s g with
  | none => .pass
  | some w => faultRule s g w

/-- Does a bootstrap undervoltage replace the high-side short that the group's forcing and its faults ask for (R214)? -/
def lowInstead (s : State) (g : Nat) : Bool :=
  let h := s.grp g
  match forced s g with
  | none => false
  | some f => (h.bsLow || bsBad s g)
      && (if h.vdsH && h.vdsL then Gate.off else if h.vdsH then Gate.shortHigh else if h.vdsL then .shortLow else f) == Gate.shortHigh

/-- A group's record as it takes gate state `w` under a forcing of kind `why`. A group that passes leaves its forced state: its fault
record ends (R214). A high-side short that is replaced by a low-side one stays replaced until then. What the group
brought into its mode outlasts a stage-2 short (R34, R211). The bridge reports a change
within 100 ns of instant `t` (R17). -/
def HGrp.take (h : HGrp) (w : Gate) (why : Nat) (low : Bool) (t : Nat) : HGrp :=
  let h : HGrp := { h with
    hist := if h.gate = w then h.hist else (t, h.gate) :: h.hist.takeWhile (fun e => decide (t < e.1 + 30)),
    offBy := if w = Gate.off then why else 0,
    carried := h.carried && (w == Gate.shortHigh || h.stage2),
    driving := h.driving && w == Gate.limp,
    chopOn := h.chopOn && w == Gate.limp }
  if w = .pass then { h with gate := w, vdsH := false, vdsL := false, bsLow := false, soft := 0, relWait := false }
  else { h with gate := w, bsLow := h.bsLow || low }

/-- The gate state of a group as the bridge has last reported it at instant `t` (R17, R188). -/
def reportedGate (s : State) (g t : Nat) : Gate :=
  match ((s.grp g).hist.filter (fun e => decide (t < e.1 + 30))).getLast? with
  | some e => e.2
  | none => (s.grp g).gate

/-- Change one converter. -/
def State.updConv (s : State) (k : Nat) (f : Adc → Adc) : State := { s with adc := mupd (fun _ => {}) s.adc k f }

/-- A crossing measurement ends (R204). -/
def zxStop (k : Nat) (s : State) : State := (s.put (F.ADC_ZXCFG_EN k) 0).updConv k (fun a => { a with edges := [] })

/-- Apply the gate state of one group. A group that leaves all-off ends its crossing measurement. -/
def settleGroup (g : Nat) (s : State) : State :=
  let why := match forcing s g with
    | some (k, .off) => k
    | _ => 0
  let was := (s.grp g).gate
  let s := settleLegs g (s.updGrp g (fun h => h.take (gateOf s g) why (lowInstead s g) s.now))
  if was = .off ∧ (s.grp g).gate ≠ .off ∧ s.flag (F.ADC_ZXCFG_EN g) = true then zxStop g s else s

/-- Apply the gate state of every group. -/
def settleGroups (s : State) : State := forAll (List.range 8) settleGroup s

/-! ### FAULTn (R347) -/

/-- The conditions of R347. With the HWM domain off, FAULTn is at high impedance. -/
def faultCond (s : State) : Bool :=
  s.pwr.hwmOn &&
    ((match s.mode with
      | .boot => true
      | .service => true
      | .safe => true
      | .limp => true
      | _ => false)
    || s.flag F.HWM_RXSTAT_SOFT || s.flag F.HWM_RXSTAT_SHORT || haltLatch s
    || (List.range 8).any (fun g => (s.grp g).mirror)
    || s.flag F.HWM_FCTL_FORCE)

/-- FAULTn follows its conditions; every change raises source 73 (R347). -/
def settleFault (s : State) : State :=
  if faultCond s = s.flag F.HWM_STAT_FAULT then s
  else hwmEvent 73 (s.putB F.HWM_STAT_FAULT (faultCond s))

/-- The reaction to a group's VDS shorts has been released: its fault state ends (R243; DEDUCED, log 51). -/
def vdsEnd (g : Nat) (s : State) : State := s.updGrp g (fun h => { h with vdsH := false, vdsL := false })

/-- The same after the end of a Halt or Withdraw latch, for a group that no latch holds any longer. -/
def vdsEndFree (g : Nat) (s : State) : State :=
  if softLatch s g || shortLatch s g || haltLatch s then s else vdsEnd g s

/-- The gating points and FAULTn after a change of what they depend on. -/
def settle (s : State) : State := settleFault (settleGroups s)

/-- A group's period boundary, or the stop of its carrier: what was released and waited for it passes (R211, R345). -/
def boundaryRelease (g : Nat) (s : State) : State :=
  if (s.grp g).stage2Rel || (s.grp g).relWait then
    settle (s.updGrp g (fun h => { h with stage2Rel := false, relWait := false }))
  else s

/-! ### Phase isolation (R327, R328) -/

/-- Open PISn; an automatic open sets AUTO (R327). -/
def pisOpenNow (g : Nat) (s : State) : State :=
  let s := if (s.grp g).pisHwm then s.putBit F.HWM_PISSTAT_AUTO g true else s
  (s.putBit F.HWM_PISCTL_OPEN g true).updGrp g (fun h => { h with pisReq := false, pisHwm := false })

/-- A request to open PISn: it opens at once where the group is all-off at a speed that allows it, else it waits (R328). -/
def pisRequest (g : Nat) (s : State) : State :=
  if s.bit F.HWM_PISCTL_OPEN g then s
  else if (s.grp g).gate = .off ∧ (s.grp g).slow = true then pisOpenNow g s
  else s.updGrp g (fun h => { h with pisReq := true })

/-- An automatic request of the HWM, for a group in SPB[48] (R327). -/
def pisAuto (g : Nat) (s : State) : State :=
  if bitOf (s.spb 48) g ∧ s.bit F.HWM_PISCTL_OPEN g = false then
    pisRequest g (s.updGrp g (fun h => { h with pisHwm := true }))
  else s

/-! ### Cut-short tests and held injections -/

/-- The regions' patterns to terminal count (R365). -/
def bistTerminal (r : Nat) : Nat := if r ≤ 8 then 744 else 256

/-- Record a cut in BST.CUT: the first one stays while VALID holds (R374). -/
def bstCutRecord (region copy cause : Nat) (s : State) : State :=
  if s.flag F.BST_CUT_VALID then s
  else (((s.put F.BST_CUT_VALID 1).put F.BST_CUT_REGION region).put F.BST_CUT_COPY copy).put F.BST_CUT_CAUSE cause

/-- The analog step ends: a switch that it drives turns off (R373). -/
def stepEnd (s : State) : State :=
  let t := { s with bist := { s.bist with step := false, drive := none } }
  match s.bist.drive with
  | none => t
  | some (k, _) => settleLeg t.now none k t

/-- Is an analog step `step` under way on unit `u`, so that its path is off the ball (R372)? `[4:0]` of ARG is the unit. -/
def stepOn (s : State) (step u : Nat) : Bool := s.bist.step && s.bist.stepNo == step && s.bist.stepArg % 32 == u

/-- An analog step is cut short: INCOMPLETE (R372, R369). -/
def analogCut (cause : Nat) (s : State) : State :=
  if s.bist.step then
    let s := stepEnd s
    let s := ((s.put F.BST_ARES_RESULT 3).put F.BST_ARES_RUN 0).put F.BST_ARES_DONE 1
    icuEvent 84 (bstCutRecord 0x1F 0 cause s)
  else s

/-- The copies under test: those of a start-up wave (wave 0 has both copies of the CP pair, waves 1 and 2 a copy of each facet, R366),
else the one of BST.STAT. -/
def copiesUnderTest (s : State) : List (Nat × Nat) :=
  match s.get F.BST_STAT_ORIGIN, s.pwr.seq with
  | 1, .lbist 0 => [(0, 0), (0, 1)]
  | 1, .lbist (w + 1) => (List.range 8).map (fun i => (i + 1, w))
  | _, _ => [(s.get F.BST_STAT_REGION, s.get F.BST_STAT_COPY)]

/-- Copy `c` of region `r` is INCOMPLETE, with the patterns applied so far, 780 CLK_ENG cycles each (R365, R368, R369). -/
def cutCopy (r c : Nat) (s : State) : State :=
  let n := min ((s.now - s.bist.startAt) / 780) (bistTerminal r - 1)
  let (k, s) := draw s
  let s := s.setReg (R.BST_SIG r c) (Config.cutMisr k)
  let s := if c = 0 then (s.put (F.BST_RES_RES0 r) 3).put (F.BST_RES_PCNT0 r) n
           else (s.put (F.BST_RES_RES1 r) 3).put (F.BST_RES_PCNT1 r) n
  s.put (F.BST_RES_ORIGIN r) (s.get F.BST_STAT_ORIGIN)

/-- The logic BIST under way is cut short. -/
def logicCut (cause : Nat) (s : State) : State :=
  if s.flag F.BST_STAT_RUN then
    let t := (copiesUnderTest s).foldl (fun t e => cutCopy e.1 e.2 t) s
    bstCutRecord (s.get F.BST_STAT_REGION) (s.get F.BST_STAT_COPY) cause t
  else s

/-- A waiting injection into a run of frames acts on one more: `left` frames remain, with 32 added until the first one. -/
def injSpend (det : Nat) (s : State) : State :=
  match injDue s det with
  | none => s
  | some n =>
    let left := n % 32 - 1
    let rest := s.inj.waiting.filter (fun e => e.1 != det)
    let s := { s with inj := { s.inj with waiting := if left = 0 then rest else (det, left) :: rest } }
    if 32 ≤ n then injActed s else s

/-- Is a level injection into a detector held, with this argument? -/
def injHeld (s : State) (det arg : Nat) : Bool := s.inj.held == some (det, arg)

/-- The condition that supervisor bit `b` of PWR.SUPSTAT reports, as the HWM has it (R73): while the HWM domain is on, the supervisor's
own or an injected one; bit 7, a sensor supply in overcurrent shutdown. -/
def supLive (s : State) (b : Nat) : Bool :=
  if b = 7 then s.hwm.vsOff.any id || injHeld s 127 0
  else s.pwr.hwmOn && (s.pwr.supRaw.testBit b || injHeld s (121 + b) 0)

/-- PWR.SUPSTAT takes a supervisor's condition, while the bridge carries it (R17, R19): the live bit, and at its rise the latch and source
79 (R74). -/
def supShow (b : Nat) (s : State) : State :=
  if s.flag F.SYS_BRGSTAT_UP then
    let was := bitOf (s.reg R.PWR_SUPSTAT) b
    let live := supLive s b
    let s := s.setReg R.PWR_SUPSTAT (putBits (s.reg R.PWR_SUPSTAT) b b live.toNat)
    if live && !was then icuEvent 79 (s.putBit F.PWR_SUPSTAT_LATCH b true) else s
  else s

/-- In LIMP, a Halt from VBATUV, VGDUV, VGDOV or V5OUT holds every group while its live condition lasts (R346). -/
def limpSupplyHalt (s : State) : Bool :=
  s.mode == .limp && [(0, 121), (2, 123), (3, 124), (4, 125)].any
    (fun e => bitsOf (s.spb (96 + e.2 / 8)) (4 * (e.2 % 8) + 3) (4 * (e.2 % 8)) == 3 && supLive s e.1)

/-- The forced condition of a level injection goes: what it was before, or is by now at a supervisor, returns (R384). -/
def injUndo (det : Nat) (before : Bool) (s : State) : State :=
  if 24 ≤ det ∧ det < 48 then s.putB (F.GDR_STAT_BSOK (det - 24)) before
  else if 72 ≤ det ∧ det < 78 then s.putBit F.PWM_TRIP_ACT (det - 72) before
  else if 102 ≤ det ∧ det < 106 then s.putB (F.FBK_WSPER_OPEN (det - 102)) before
  else if 121 ≤ det ∧ det < 127 then
    let s := supShow (det - 121) s
    { s with hwm := { s.hwm with limpHalt := limpSupplyHalt s } }
  else if det = 127 then supShow 7 s
  else if det = 135 then s.putB F.PWM_STAT_DBGHALT s.cp.debug
  else if det = 136 then { s with hwm := { s.hwm with dcLow := before } }
  else s

/-- A held level injection ends (R385). -/
def injEnd (s : State) : State :=
  match s.inj.held with
  | none => s
  | some (det, _) =>
    let b := s.inj.before
    settle (injUndo det b { s.put F.INJ_STAT_HELD 0 with inj := { s.inj with held := none } })

/-- Does a mode belong to the set in which an injection may fire (R383)? ACTIVE needs the password for the FIRE alone. -/
def Mode.injectable : Mode → Bool
  | .service => true
  | .standby => true
  | .active => true
  | _ => false

/-! ### Command lines held low (R224, R230, R234) -/

/-- The command lines fall less than 25 ns after a sampling instant that they decide: its shunt samples are skipped (R187, R189). -/
def shuntsCut (g : Nat) (s : State) : State :=
  s.updConv g (fun a => match a.busy with
    | some q => if q.lines && decide (s.now * 64 / 3 < q.until_) then { a with busy := some { q with conv := q.conv / 8 * 8 } } else a
    | none => a)

/-- Both lines of every leg of a group fall; the edges to come are cancelled; the group waits for its resume point (R416). -/
def linesLow (g : Nat) (s : State) : State :=
  settleLegs g <| shuntsCut g
    (forAll [3 * g, 3 * g + 1, 3 * g + 2] (fun k t => t.updLeg k (fun l => { l with lineH := false, lineL := false, edges := [] }))
      (s.updPg g (fun p => { p with held := true })))

/-- A lead-only group without the lead: its lines fall, LEADBLK (R224, R323). -/
def leadBlock (s : State) : State :=
  if s.flag F.LNK_STAT_TOKEN || s.flag F.LNK_STAT_RLEAD then s
  else forAll (bitsIn 8 (s.get F.PWM_LEADGRP_GRP)) (fun g t => linesLow g (t.put (F.PWM_GSTAT_LEADBLK g) 1)) s

/-! ### The lead token (R320) -/

/-- DCI is driven while the device holds the token or the ring lead, and then follows LNK.DCI.VAL (R320). -/
def settleDci (s : State) : State :=
  s.putB F.LNK_DCI_OUT ((s.flag F.LNK_STAT_TOKEN || s.flag F.LNK_STAT_RLEAD) && s.flag F.LNK_DCI_VAL)

/-- The holder releases the token: nobody is known to lead (LEADID, R336). -/
def tokenRelease (s : State) : State :=
  if s.flag F.LNK_STAT_TOKEN then
    leadBlock (icuEvent 88 (settleDci (((s.put F.LNK_STAT_TOKEN 0).put F.LNK_STAT_LEADID 0).put F.LNK_EVT_LOST 1)))
  else s

/-- The ring lead is lost: DCI and the lead-only groups go (R320, R323, R224). -/
def ringLeadDrop (s : State) : State :=
  if s.flag F.LNK_STAT_RLEAD then leadBlock (settleDci (s.put F.LNK_STAT_RLEAD 0)) else s

/-- INSTEP falls: a catch-up begins (R314), and the holder releases the token (R320). -/
def instepFall (s : State) : State :=
  if s.flag F.LNK_STAT_INSTEP then tokenRelease ((s.put F.LNK_STAT_INSTEP 0).put F.LNK_STAT_SNAPOK 0) else s

/-! ### Password lock and change log (R359, R361) -/

/-- The log's place in always-on memory (R85). -/
def logBase : Nat := 0x60001800

/-- A new entry of the change log (R361): TYPE, source, index or cause, old and new words. It is a commit (R411), so the copies in flash
are due (R362). -/
def logNew (typ src low : Nat) (w2 w3 : Word) (s : State) : State :=
  let e := s.get F.HWM_LOGSTAT_NEXT
  let w1 := typ * 2 ^ 28 + src * 2 ^ 26 + s.get F.HWM_PWCTL_AUTHOR * 2 ^ 8 + low
  let a := logBase + 16 * e
  let s := ((s.setErrs a 0).setErrs (a + 8) 0).setWords a [s.reg R.HWM_LIFE, BitVec.ofNat 32 w1, w2, w3]
  let s := s.bump F.HWM_LOGSTAT_TOTAL 1
  let s := if e = 127 then (s.put F.HWM_LOGSTAT_NEXT 0).put F.HWM_LOGSTAT_WRAP 1 else s.put F.HWM_LOGSTAT_NEXT (e + 1)
  hwmEvent 75 { s with hwm := { s.hwm with copyDue := true } }

/-- The index of the newest entry. -/
def logNewest (s : State) : Nat := (s.get F.HWM_LOGSTAT_NEXT + 127) % 128

/-- A refused write is logged; one from the same source to the same index or address as the newest entry adds 1 to that
entry's word 3 instead (R361), with the read part of a narrow write (R103). -/
def logRefused (typ src low : Nat) (w2 w3 : Word) (s : State) : State :=
  let a := logBase + 16 * logNewest s
  let w1 := s.word (a + 4)
  if s.get F.HWM_LOGSTAT_TOTAL ≠ 0 ∧ bitsOf w1 31 28 = typ ∧ bitsOf w1 27 26 = src ∧ bitsOf w1 7 0 = low
      ∧ (typ = 2 ∨ s.word (a + 8) = w2) then
    let q := eccWritePart (a + 8) (a + 8) s
    if q.1 then q.2.setWord (a + 12) (BitVec.ofNat 32 (satTo 0xFFFFFFFF ((q.2.word (a + 12)).toNat + 1))) else q.2
  else logNew typ src low w2 w3 s

/-- The password locks (R359): a log entry with the cause, source 74, AUTHOR cleared. An unlocked password only. -/
def pwLock (src cause : Nat) (s : State) : State :=
  if s.flag F.HWM_PWSTAT_UNLK then
    let s := logNew 7 src cause 0 0 (s.put F.HWM_PWSTAT_UNLK 0)
    hwmEvent 74 (s.put F.HWM_PWCTL_AUTHOR 0)
  else s

/-! ### Modes (R29, R32, R33) -/

/-- The substate in BOOT; in every other mode it stays 0 (R29). -/
def subTo (sb : Sub) (s : State) : State := if s.mode = .boot then { s with sub := sb } else s

/-- A mode and its substate, 0 in every mode but BOOT (R29). -/
def modeTo (m : Mode) (sb : Sub) (s : State) : State := { s with mode := m, sub := if m = .boot then sb else .none }

/-- The sensor supplies and ADC0 (R69, R82): in powered modes VSA and VSB follow PWR.DOMCTL, but for one in
overcurrent shutdown (R75); in DORMANT they follow AON.SUPCFG, on in
the continuous mode and, while a Glint runs, in the Glint mode. ADC0 is on with the analog domain and during a Glint. -/
def settleSupplies (s : State) : State :=
  let on := fun (dom mode : Fld) (off : Bool) =>
    s.pwr.vbat && (if s.mode = .dormant then s.get mode == 2 || (s.get mode == 1 && s.pwr.glintOn) else s.flag dom && !off)
  { s with pwr := { s.pwr with
      vsa := on F.PWR_DOMCTL_VSA F.AON_SUPCFG_VSAMODE (s.hwm.vsOff.headD false),
      vsb := on F.PWR_DOMCTL_VSB F.AON_SUPCFG_VSBMODE (s.hwm.vsOff.getD 1 false),
      adc0 := s.pwr.hwmOn || s.pwr.glintOn } }

/-- A group that enters a mode of R415 in a high-side short keeps it (R34). -/
def carryShorts (m : Mode) (s : State) : State :=
  forAll (List.range 8) (fun g t => t.updGrp g (fun h => { h with carried := m.holds && h.gate == .shortHigh && !h.slow })) s

/-- The rows of R32 that a change of mode makes at once: PREV, the new mode and substate, source 71, and what depends on the
mode — the lead token, a held injection, an analog step, the password, a pending local flip, the shorts that stay (R34), the Halts
of LIMP (R346). -/
def changeMode (m : Mode) (sb : Sub) (s : State) : State :=
  if s.mode = m then subTo sb s
  else
    let old := s.mode
    let s := carryShorts m s
    let s := s.put F.SYS_MODE_PREV old.code
    let s := modeTo m sb s
    let s := icuEvent 71 s
    let s := if old = .active then tokenRelease s else s
    let s := if m.injectable then s else injEnd s
    let s := if old = .service then analogCut 6 s else s
    let s := if m = .limp ∨ m = .safe ∨ m = .dormant then pwLock 2 3 s else s
    let s := settleSupplies { s with hwm := { s.hwm with limpHalt := limpSupplyHalt s } }
    if (old = .boot ∨ old = .service) ∧ ¬ (m = .boot ∨ m = .service) ∧ s.lnk.lflip = true then
      { (s.putB F.PRS_STAT_SCAN s.prs.runScan).put F.CFG_STAT_CANCEL 1 with
        lnk := { s.lnk with lflip := false }, prs := { s.prs with flipScan := false, next := [] } }
    else s

/-- The automatic opening of PIS on entry to SAFE or LIMP, for every group of SPB[48] that the HWM does not drive (R327). -/
def pisOnEntry (s : State) : State :=
  if s.mode = .safe ∨ s.mode = .limp then
    forAll (List.range 8) (fun g t => if limpDrives t g then t else pisAuto g t) s
  else s

/-- The modes that the SAFE row of a Withdraw leaves (R32). -/
def Mode.toSafe : Mode → Bool
  | .integrate => true
  | .standby => true
  | .active => true
  | _ => false

/-- Enter a mode, with everything that follows from it. A latched Withdraw is a standing trigger: where the new mode has a SAFE
row, the device goes on to SAFE (R339, R33). -/
def enterMode (m : Mode) (sb : Sub) (s : State) : State :=
  let s := changeMode m sb s
  let s := if s.flag F.HWM_RXSTAT_WDRAW && m.toSafe then changeMode .safe .none s else s
  pisOnEntry (settle s)

/-- A hardware trigger of rank `r` in R33, with rows from the modes of `rows`: where a trigger of a lower rank has changed the mode in
the same CLK_PER cycle, the one of the higher rank is taken, from the mode that the cycle began with. -/
def outrank (r : Nat) (rows : Mode → Bool) (s : State) : State :=
  match s.fresh.turn with
  | none => s
  | some (n, m, sb, r0) => if n < s.fresh.stamps ∧ r < r0 ∧ rows m = true then modeTo m sb s else s

/-- Has a hardware trigger changed the mode earlier in the cycle of the present command (R33)? -/
def superseded (s : State) : Bool :=
  match s.fresh.turn with
  | none => false
  | some (n, _) => decide (n < s.fresh.stamps)

/-- What the change of mode by a hardware trigger of rank `r` leaves for the rest of its cycle: the mode that it left. -/
def turned (r : Nat) (old : State) (s : State) : State :=
  if s.mode = old.mode then s
  else { s with fresh := { s.fresh with turn := some (s.fresh.stamps, old.mode, old.sub, r) } }

/-- A hardware trigger of rank `r` enters a mode. -/
def enterBy (r : Nat) (m : Mode) (sb : Sub) (s : State) : State := turned r s (enterMode m sb s)

/-- The modes that the LIMP row of R32 leaves. -/
def Mode.toLimp : Mode → Bool
  | .boot => true
  | .integrate => true
  | .standby => true
  | .active => true
  | .safe => true
  | _ => false

/-- Is trigger `bit` of R349 enabled? -/
def limpEnabled (s : State) (bit : Nat) : Bool := bitOf (s.spb 8) 31 && bitOf (s.spb 12) bit

/-- A trigger of R349 fires: LIMP, where it is enabled and the mode has the row. -/
def limpTrigger (bit : Nat) (s : State) : State :=
  if limpEnabled s bit then
    let s := (outrank 3 Mode.toLimp s).put F.HWM_STAT_LIMP 1
    enterBy 3 .limp .none { s with pwr := { s.pwr with hbArmed := false } }
  else s

/-! ### Reaction classes (R339, R346) -/

/-- Does a demand more severe than Soft-off hold a group (R341, R211)? -/
def overSoft (s : State) (g : Nat) : Bool :=
  (s.grp g).stage2 || haltLatch s || s.mode == .safe || shortLatch s g

/-- Step 1 of a two-step turn-off begins (R242): the switches that are on go to the weak sink, the others keep the strong one. -/
def softBegin (g : Nat) (s : State) : State :=
  forAll [3 * g, 3 * g + 1, 3 * g + 2]
    (fun k t => t.updLeg k (fun l => { l with weakH := (gatePoint s k).1, weakL := (gatePoint s k).2 }))
    (s.updGrp g (fun h => { h with soft := 1, softAt := s.now }))

/-- A Soft-off latches on one group and starts its two-step turn-off, unless its latch is set already or a more severe demand holds
the group (R341, R242; DEDUCED, log 51). In LIMP it excludes a group of the direct path (R346). -/
def softOffGroup (g : Nat) (s : State) : State :=
  let s := if s.mode = .limp ∧ 2 ≤ g ∧ g ≤ 5 then s.putBit F.HWM_LIMPSTAT_EXCL (g - 2) true else s
  if softLatch s g then s
  else
    let outdone := overSoft s g
    let go := (s.grp g).soft = 0 && !outdone
    let s := s.putBit F.HWM_RXSTAT_SOFT g true
    if go then softBegin g s else s

/-- A Short latches on one group (R339); it takes effect no earlier than a running two-step turn-off allows (R341). -/
def shortGroup (g : Nat) (s : State) : State :=
  let s := if s.mode = .limp ∧ 2 ≤ g ∧ g ≤ 5 then s.putBit F.HWM_LIMPSTAT_EXCL (g - 2) true else s
  s.putBit F.HWM_RXSTAT_SHORT g true

/-- The Halt reaction: the latch, and ACTIVE to STANDBY (R32). In LIMP a Halt is recorded only (R346). -/
def haltNow (s : State) : State :=
  if s.mode = .limp then s
  else
    let s := outrank 6 (fun m => m == .active) (s.put F.HWM_RXSTAT_HALT 1)
    if s.mode = .active then enterBy 6 .standby .none s else s

/-- The Withdraw reaction: the latch, and SAFE from a mode that has the row (R32). In LIMP it is recorded only. -/
def withdrawNow (s : State) : State :=
  if s.mode = .limp then s
  else
    let s := outrank 4 Mode.toSafe (s.put F.HWM_RXSTAT_WDRAW 1)
    if s.mode.toSafe then enterBy 4 .safe .none s else s

/-- Apply a class to the groups of a mask: 0 Flag, 1 Soft-off, 2 Short, 3 Halt, 4 Withdraw. -/
def applyClass (cls groups : Nat) (s : State) : State :=
  match cls with
  | 1 => forAll (bitsIn 8 groups) softOffGroup s
  | 2 => forAll (bitsIn 8 groups) shortGroup s
  | 3 => haltNow s
  | 4 => withdrawNow s
  | _ => s

/-- Record a raise in DETLAST (R339, R364). -/
def detRecord (det pos cls : Nat) (s : State) : State :=
  if s.flag F.HWM_DETLAST_VALID then s.put F.HWM_DETLAST_OVR 1
  else (((s.put F.HWM_DETLAST_VALID 1).put F.HWM_DETLAST_CLASS cls).put F.HWM_DETLAST_POS pos).put F.HWM_DETLAST_DET det

/-- What every raise does, of any class (R339): DETLAST, DETCNT, and on the D-die, while the bridge carries it, source 72 and the event
counters' 0x70. -/
def recordRaise (det pos cls : Nat) (s : State) : State :=
  let s := hwmEvent 72 ((detRecord det pos cls s).bump F.HWM_DETCNT_COUNT 1)
  if s.flag F.SYS_BRGSTAT_UP then evcCount 0x70 1 s else s

/-- A raise of a detector reaches the HWM and its class is applied (R339). -/
def raiseAs (det pos cls groups : Nat) (s : State) : State :=
  settle (applyClass cls groups (recordRaise det pos cls s))

/-- A raise of a mapped detector on the A-die, whose position is its index. -/
def raise (det groups : Nat) (s : State) : State := raiseAs det det (classOf s det) groups s

/-! ### Electrical speed (R213) -/

/-- One edge of a group at instant `t`: the interval since the last one against FTHR, in CLK_ENG cycles. -/
def speedEdge (g t : Nat) (s : State) : State :=
  let h := s.grp g
  let f := fthr s g
  let above := f = 0 || (match h.lastEdge with
    | none => false
    | some l => decide ((t - l) * 6 * f < 300000000))
  let fast := f = 0 || (match h.lastEdge with
    | none => false
    | some l => decide ((t - l) * 54 * f < 3000000000))
  let s := s.updGrp g (fun h => { h with lastEdge := some t, above := above, slow := if fast then false else h.slow })
  settleFault (settleGroup g s)

/-- A zero crossing or the all-off condition lets a waiting open request act (R328). -/
def pisIfWaiting (g : Nat) (s : State) : State := if (s.grp g).pisReq then pisOpenNow g s else s

end Sys2Proof.Machine
end

