-- ==== Sys2Proof/Machine/Power.lean ====
section
/-! DEFINITION. Power-on, the wake sequence, resets, the heartbeat and the start-up logic BIST (R16, R25, R36–R44, R47, R66,
R72, R366). -/

namespace Sys2Proof.Machine

abbrev Out := Host.Outcome State Fault Refusal

/-! ### The wake log (R86) -/

/-- Open an entry of the wake log: the older entries move down by one. -/
def wlogNew (cause : Nat) (s : State) : State :=
  let s := forAll [7, 6, 5, 4, 3, 2, 1] (fun i t => t.setReg (R.AON_WLOG i) (t.reg (R.AON_WLOG (i - 1)))) s
  (s.setReg (R.AON_WLOG 0) 0).put (F.AON_WLOG_CAUSE 0) cause

/-- The running sequence has reached a step. -/
def wlogStep (n : Nat) (s : State) : State := s.put (F.AON_WLOG_STEP 0) n

/-- Change the power record. -/
def State.updPwr (s : State) (f : Power → Power) : State := { s with pwr := f s.pwr }

/-- The sequencer moves to step `n` of R40. -/
def seqStep (n : Nat) (s : State) : State := wlogStep n (s.updPwr (fun p => { p with seq := .steps n }))

/-! ### What a reset leaves (R9, R37, R38, R47, R67, R74, R364, R374) -/

/-- Does a register lie in a D-die or A-die block that a D-die reset resets? -/
def dieBlock (a : Nat) : Bool :=
  let b := a / 0x10000
  decide (0x4000 ≤ b ∧ b ≤ 0x4011) || decide (0x5000 ≤ b ∧ b ≤ 0x5002) || b == 0xE000

/-- Is a register of those blocks retained whole through a device reset? -/
def keptWhole (a : Nat) : Bool :=
  a == R.SYS_RSTCAUSE || a == R.MIR_RETIRED || a == R.BST_CUT || (List.range 17).any (fun r => a == R.BST_RES r)

/-- The channel identity is loaded from SPB[1] at every reset (R25). -/
def loadChid (s : State) : State :=
  let id := bitsOf (s.spb 1) 2 0
  (s.put F.SYS_CHID_CHID id).put F.KRG_CTL_NODEID id

/-- The D-die reset: every D-die register and every A-die register outside the HWM and the always-on domain takes its reset
value in both copies, but for the fields that are retained; what the blocks hold beside their registers starts afresh; H0 is
the live half (R392). Memory, the HWM and the always-on domain keep what they hold. The latched Withdraw ends (R364), the
password locks (R359), a running test is cut short (R369), a held injection ends (R385). -/
def dieReset (s : State) : State :=
  let s := analogCut 2 (logicCut 2 (injEnd s))
  let s := pwLock 2 2 s
  let t : State := { State.reset with
    now := s.now, draws := s.draws, mode := s.mode, sub := s.sub,
    regs := mkeep (fun a => !dieBlock a || keptWhole a) s.regs,
    mem := s.mem, ecc := s.ecc, pwr := { s.pwr with vidTarget := none }, hgrp := s.hgrp, hwm := s.hwm, grd := s.grd, pending := s.pending }
  let t := t.put F.SYS_MODE_PREV (s.get F.SYS_MODE_PREV)
  let t := ((t.put F.SYS_BOOTSTAT_FACETFAIL (s.get F.SYS_BOOTSTAT_FACETFAIL)).put F.SYS_BOOTSTAT_CPFAIL
    (s.get F.SYS_BOOTSTAT_CPFAIL)).put F.SYS_BOOTSTAT_PGRETRY (s.get F.SYS_BOOTSTAT_PGRETRY)
  let t := (((t.put F.CLK_STAT_RCREF (s.get F.CLK_STAT_RCREF)).put F.CLK_STAT_PLLLOCK (s.get F.CLK_STAT_PLLLOCK)).put
    F.CLK_STAT_XTALOK (s.get F.CLK_STAT_XTALOK)).put F.CLK_STAT_EXTREF (s.get F.CLK_STAT_EXTREF)
  let t := t.setReg R.PWR_SUPSTAT (BitVec.ofNat 32 (bitsOf (s.reg R.PWR_SUPSTAT) 7 0))
  let t := { t.put F.MGN_VIDP_CUR (s.get F.MGN_VIDP_CUR) with mgn := { approved := s.mgn.approved.filter (· == 64) } }
  let t := forAll (List.range 24) (fun k u =>
    (u.put (F.GDR_STAT_BSOK k) (s.get (F.GDR_STAT_BSOK k))).updLeg k (fun _ => (s.leg k).driver)) t
  let t := forAll (List.range 8) (fun g u => u.updGrp g (fun h => { h with mirror := false, relWait := false })) t
  let t := { t with hwm := { t.hwm with rxq := [] } }
  settleSupplies (forAll (List.range 8) vdsEndFree ((loadChid t).put F.HWM_RXSTAT_WDRAW 0))

/-- The core domain loses its supply: what its memories held is lost; flash, always-on memory and the log stay. -/
def coreOff (s : State) : State :=
  let kept := fun a => decide (0x10000000 ≤ a ∧ a < 0x11000000) || decide (0x60000000 ≤ a ∧ a < 0x60010000)
  { s with mem := mkeep kept s.mem, ecc := mkeep kept s.ecc }

/-- The entry to BOOT by a reset: PREV keeps the mode that the reset ended (R29). -/
def toBoot (sb : Sub) (s : State) : State := enterMode .boot sb s

/-- The safety parameters that a loss of supply leaves: each write whose commit it cut short is undone, the newest first (R355). -/
def spbUndone (s : State) : State :=
  s.hwm.commits.foldr (fun c t => t.setReg (R.HWM_SPB c.idx) c.old) s

/-! ### Power-on and loss -/

/-- VBAT rises through its power-on threshold (R37, R39): everything is reset but the safety parameters as last committed (R355), the
change log, the life counter as last saved (R361), the count of password mismatches with a running lockout (R360), and flash. The
wake delay starts. -/
def powerOn (at_ : Nat) (s : State) : State :=
  let s := (spbUndone s).setReg R.HWM_LIFE s.hwm.lifeSaved
  let nv := fun a => decide (0x70000800 ≤ a ∧ a < 0x70000C00) || a == R.HWM_LIFE || a == R.HWM_LOGSTAT
  let kept := fun a => decide (0x10000000 ≤ a ∧ a < 0x11000000) || decide (logBase ≤ a ∧ a < logBase + 0x800)
  let t : State := { State.reset with
    now := max s.now at_, draws := s.draws, regs := mkeep nv s.regs, mem := mkeep kept s.mem, ecc := mkeep kept s.ecc,
    pending := s.pending, pwr := { wakeAt := at_, supRaw := s.pwr.supRaw },
    hwm := {
      spbSeq := s.hwm.spbSeq, logSeq := s.hwm.logSeq, spbSlot := s.hwm.spbSlot, logSlot := s.hwm.logSlot,
      lifeSaved := s.hwm.lifeSaved } }
  let t := (t.put F.HWM_PWSTAT_WRONG (s.get F.HWM_PWSTAT_WRONG)).put F.HWM_PWSTAT_LOCKOUT (s.get F.HWM_PWSTAT_LOCKOUT)
  let t := t.putB F.HWM_STAT_DEFPW (t.spb 4 == 0 && t.spb 5 == 0)
  wlogNew 1 (loadChid t)

/-- VBAT_POWER_ON -/
def execVbatPowerOn (at_ : Nat) (s : State) : Out := .next (powerOn at_ s)

/-- VBAT_POWER_LOSS (R69, R73): every domain loses supply. The non-volatile array and flash keep what they hold; what else the
device held has no reader until the next VBAT power-on resets it. The gate balls go low (R399). -/
def execVbatPowerLoss (s : State) : Out :=
  .next (settleGroups { coreOff s with
    pwr := { seq := .asleep, vbat := false, wakeAt := s.pwr.wakeAt, supRaw := s.pwr.supRaw }, mode := .dormant, sub := .none,
    bist := {} })

/-! ### The sequencer (R40–R43) -/

/-- The supervisors come on (R40): each condition that they find is raised. PWR.SUPSTAT shows it once the bridge has trained. -/
def supervise (s : State) : State := forAll ((List.range 6).filter (supLive s)) (fun b t => raise (121 + b) 0xFF (supShow b t)) s

/-- PWRSEQ_STEP1: the HWM oscillator, the supervisors and the analog domain turn on, the HWM holds every group, FAULTn is asserted. -/
def execPwrseqStep1 (s : State) : Out :=
  if s.pwr.seq = .delay then
    let s := (seqStep 1 s).updPwr (fun p => { p with hwmOn := true })
    .next (settle (supervise (settleSupplies s)))
  else .next s

/-- PWRSEQ_STEP2: VID is driven to 0b10100, VCEN rises and the 2 ms PGOOD_CORE timer starts (R70). -/
def execPwrseqStep2 (s : State) : Out :=
  if s.pwr.seq = .steps 1 then
    .next (((seqStep 2 s).updPwr (fun p => { p with vcen := true, pgTimer := true })).put F.MGN_VIDP_CUR 20)
  else .next s

/-- PWRSEQ_STEP3: SPB[2] is read; the crystal oscillator and its 10 ms timer start, unless the PLL is referenced to the
internal RC (R64, R65). -/
def execPwrseqStep3 (s : State) : Out :=
  if s.pwr.seq = .steps 2 then
    let ext := bitOf (s.spb 2) 0
    .next ((seqStep 3 s).updPwr (fun p => { p with extref := ext, xtalTimer := !s.flag F.CLK_STAT_RCREF }))
  else .next s

/-- PGOOD_CORE_RISE -/
def execPgoodCoreRise (s : State) : Out :=
  .next ((s.updPwr (fun p => { p with pgood := true })).put F.PWR_SUPSTAT_PGLOW 0)

/-- PWRSEQ_STEP4: the core domain switches on with the D-die held in reset; PGRETRY records the retries of this attempt. -/
def execPwrseqStep4 (s : State) : Out :=
  if s.pwr.seq = .steps 3 ∧ s.pwr.pgood = true then
    .next (((seqStep 4 s).updPwr (fun p => { p with pgTimer := false, dcore := true })).put F.SYS_BOOTSTAT_PGRETRY s.pwr.retries)
  else .next s

/-- PWRSEQ_STEP5: the flash die is powered. -/
def execPwrseqStep5 (s : State) : Out :=
  if s.pwr.seq = .steps 4 then .next ((seqStep 5 s).updPwr (fun p => { p with flashOn := true })) else .next s

/-- PWRSEQ_STEP6: the I/O and PHY domain is enabled with the PHYs in power-down. -/
def execPwrseqStep6 (s : State) : Out :=
  if s.pwr.seq = .steps 5 then .next ((seqStep 6 s).updPwr (fun p => { p with ioOn := true })) else .next s

/-- CRYSTAL_READY (R41): the reference is ready, while its timer runs. -/
def execCrystalReady (s : State) : Out :=
  if s.pwr.xtalTimer then .next (s.updPwr (fun p => { p with crystal := true })) else .next s

/-- The PLL has locked to a reference: the crystal, once it is ready, or the internal RC. -/
def pllRef (s : State) : Bool := s.pwr.crystal || s.flag F.CLK_STAT_RCREF

/-- PLL_LOCK (R41, R63, R67): the dividers restart together. After a heartbeat reset the first HBEAT toggle follows and arms
the supervision outside LIMP (R16), also while the start-up test that the reset cut short runs again, and in a device reset that has
come since. -/
def execPllLock (s : State) : Out :=
  let locked := fun (t : State) => (t.put F.CLK_STAT_PLLLOCK 1).putB F.CLK_STAT_EXTREF t.pwr.extref
  let back := fun (t : State) =>
    if t.pwr.hbWait then (locked t).updPwr (fun p => { p with hbWait := false, hbLost := false, hbArmed := t.mode != .limp }) else t
  match s.pwr.seq with
  | .steps _ => if pllRef s then .next ((locked s).updPwr (fun p => { p with xtalTimer := false })) else .next s
  | .lbist _ => .next (back s)
  | .done => .next (back s)
  | .held => if s.pwr.hbReset then .next s else .next (back s)
  | _ => .next s

/-- CRYSTAL_TIMEOUT (R41): the PLL takes the internal RC, XTALFAIL is set, the PHYs stay powered down, as
their DOMCTL bits are at every reset. -/
def execCrystalTimeout (s : State) : Out :=
  if s.pwr.xtalTimer then
    let s := s.updPwr (fun p => { p with xtalTimer := false, xtalFail := true })
    .next ((s.put F.CLK_STAT_RCREF 1).put F.SYS_BOOTSTAT_XTALFAIL 1)
  else .next s

/-- The D-die leaves reset: the bridge trains (R19), and the D-die takes what the supervisors report. -/
def bridgeTrain (s : State) : State := forAll [0, 1, 2, 3, 4, 5, 7] supShow { s.put F.SYS_BRGSTAT_UP 1 with brg := {} }

/-- The start-up logic BIST begins with wave 0 (R366). -/
def startLbist (at_ : Nat) (s : State) : State :=
  let s := s.updPwr (fun p => { p with seq := .lbist 0, relbist := false })
  let s := (((s.put F.BST_STAT_RUN 1).put F.BST_STAT_ORIGIN 1).put F.BST_STAT_REGION 0).put F.BST_STAT_COPY 0
  { s with bist := { startAt := at_ } }

/-- PWRSEQ_STEP7: the D-die reset is released to the logic BIST controller; HBEAT supervision is armed (R16); supervision of
the reference starts (R65); the wake log takes the time since the wake event (R86). -/
def execPwrseqStep7 (at_ : Nat) (s : State) : Out :=
  if s.pwr.seq = .steps 6 ∧ s.flag F.CLK_STAT_PLLLOCK = true then
    let s := seqStep 7 s
    let s := s.put (F.AON_WLOG_TIME 0) (satTo 0xFFFF ((at_ - s.pwr.wakeAt) / 3000))
    let s := bridgeTrain (s.updPwr (fun p => { p with hbArmed := true, hbLost := false }))
    let s := s.putB F.CLK_STAT_XTALOK (!s.flag F.CLK_STAT_RCREF)
    .next (startLbist at_ { wlogStep 8 s with now := max s.now at_ })
  else .next s

/-- WAKEFAIL, with the D-die unpowered or running on the internal RC; LIMP where its trigger is enabled (R42, R43, R349). -/
def wakefail (s : State) : State := limpTrigger 1 (settle (wlogStep 9 (subTo .wakefail s)))

/-- An attempt of the power sequence fails (R42): the regulator is disabled and the D-die is in reset with its domains off, in the
substate PWRSEQ (R29). A new attempt follows, or after two retries WAKEFAIL with the D-die unpowered. In a BOOT that a device reset has
entered, the retries of the last power sequence count on (DESIGN CHOICE, log 112). -/
def attemptFails (s : State) : State :=
  let s := subTo .pwrseq (coreOff (dieReset s))
  let s := ((s.put F.CLK_STAT_PLLLOCK 0).put F.CLK_STAT_XTALOK 0).put F.CLK_STAT_EXTREF 0
  let s := s.updPwr (fun p => { p with
        pgTimer := false, xtalTimer := false, pgood := false, crystal := false, vcen := false,
        dcore := false, flashOn := false, ioOn := false, hbArmed := false, hbDue := false, hbWait := false,
        hbReset := false, rstDue := none })
  if s.pwr.retries < 2 then s.updPwr (fun p => { p with seq := .retryWait })
  else wakefail (s.updPwr (fun p => { p with seq := .failed }))

/-- PGOOD_CORE_TIMEOUT (R42) -/
def execPgoodCoreTimeout (s : State) : Out :=
  if s.pwr.pgTimer ∧ s.pwr.pgood = false then .next (attemptFails s) else .next s

/-- PWRSEQ_RETRY (R42, R36, R72): a new attempt at step 2, 20 ms after the failure. After a core supply loss it is the first
attempt of a new sequence. -/
def execPwrseqRetry (s : State) : Out :=
  if s.pwr.seq = .retryWait then
    let n := s.pwr.retries + 1
    let s := s.updPwr (fun p => { p with retries := n, vcen := true, pgTimer := true })
    .next (((seqStep 2 s).put (F.AON_WLOG_RETRY 0) n).put F.MGN_VIDP_CUR 20)
  else if s.pwr.seq = .held ∧ s.pwr.vcen = false then
    let s := s.updPwr (fun p => { p with vcen := true, pgTimer := true })
    .next ((seqStep 2 s).put F.MGN_VIDP_CUR 20)
  else .next s

/-- The core supply loss of R72 as the HWM handles it: Halt, VCEN low, the D-die held in reset, BOOT by the heartbeat-reset
row, a fresh retry count and a wake-log entry. The new sequence starts 20 ms later at step 2. -/
def coreLoss (cause at_ : Nat) (old : Mode) (s : State) : State :=
  let s := s.put F.SYS_RSTCAUSE_HBEAT 1
  let s := toBoot .pwrseq (coreOff (dieReset s))
  let s := ((s.put F.CLK_STAT_PLLLOCK 0).put F.CLK_STAT_XTALOK 0).put F.CLK_STAT_EXTREF 0
  let s := s.updPwr (fun p => { p with
        seq := .held, retries := 0, pgTimer := false, xtalTimer := false, pgood := false,
        crystal := false, vcen := false, dcore := false, flashOn := false, ioOn := false, hbArmed := false,
        hbDue := false, hbWait := false, hbReset := false, rstDue := none, wakeAt := at_ })
  wlogNew cause (s.put F.SYS_MODE_PREV old.code)

/-- PGOOD_CORE is low: the live bit of PGLOW rises, with its latch, where the bridge carries it (R74, R19). -/
def pglowFlag (s : State) : State :=
  let s := s.updPwr (fun p => { p with pgood := false })
  if s.flag F.SYS_BRGSTAT_UP then (s.put F.PWR_SUPSTAT_PGLOW 1).putBit F.PWR_SUPSTAT_LATCH 6 true else s

/-- The modes in which PGOOD_CORE low is a core supply loss with its entry to BOOT (R72). -/
def Mode.losesCore : Mode → Bool
  | .service => true
  | .integrate => true
  | .standby => true
  | .active => true
  | .safe => true
  | _ => false

/-- PGOOD_CORE_LOW (R42, R72): low for more than 10 µs. In BOOT the attempt fails; in DORMANT and LIMP nothing follows; in every
other mode it is a core supply loss, ahead of what a trigger of a lower rank has done in its cycle (R33). -/
def pgoodLow (at_ : Nat) (s : State) : State :=
  let s := outrank 2 Mode.losesCore (advanceTo at_ s)
  match s.mode with
  | .dormant => s
  | .limp => hwmEvent 79 (pglowFlag s)
  | .boot =>
    if s.pwr.vcen ∧ s.pwr.pgood = true ∧ s.pwr.entry = 0 then
      attemptFails (raiseAs 138 138 0 0 (pglowFlag (logicCut 7 s)))
    else s
  | _ => turned 2 s (coreLoss 7 at_ s.mode (raiseAs 138 138 3 0xFF (pglowFlag (analogCut 7 (logicCut 7 s)))))

/-- PGOOD_CORE_LOW -/
def execPgoodCoreLow (at_ : Nat) (s : State) : Out := .next (pgoodLow at_ s)

/-! ### Start-up logic BIST (R44, R366, R368) -/

/-- A copy's result: 1 PASS, 2 FAIL, 3 INCOMPLETE (R368). -/
def bistResult (s : State) (r : Nat) (e : BistEnd) : Nat :=
  let ref := s.reg (R.BST_REFSIG (if r = 0 then 0 else if r ≤ 8 then 1 else 2))
  if e.patterns < bistTerminal r then 3 else if e.misr = ref then 1 else 2

/-- Record the end of copy `c` of region `r`. -/
def bistRecord (r c origin : Nat) (e : BistEnd) (s : State) : State :=
  let res := bistResult s r e
  let s := s.setReg (R.BST_SIG r c) e.misr
  let s := if c = 0 then (s.put (F.BST_RES_RES0 r) res).put (F.BST_RES_PCNT0 r) e.patterns
           else (s.put (F.BST_RES_RES1 r) res).put (F.BST_RES_PCNT1 r) e.patterns
  s.put (F.BST_RES_ORIGIN r) origin

/-- The ends of the copies of one wave: wave 0 has both copies of the CP pair, waves 1 and 2 a copy of each facet. -/
def bistWave (wave : Nat) (s : State) : Nat → List BistEnd → State
  | _, [] => s
  | i, e :: l => bistWave wave (if wave = 0 then bistRecord 0 i 1 e s else bistRecord (i + 1) (wave - 1) 1 e s) (i + 1) l

/-- The ROM reads the words of `[base, base + len)`: the errors among them are corrected or reported as any read does (R102). The
flag says that no word was uncorrectable. -/
def romRead (base len : Nat) (s : State) : Bool × State :=
  ((s.ecc.map Prod.fst).filter (fun a => decide (base < a + 8 ∧ a < base + len))).foldl
    (fun q a => let r := eccRead a a q.2; (q.1 && !r.1, r.2)) (true, s)

/-- A flash slot of R362 as the ROM reads it: valid where every word can be read and its CRC-32 covers the image and the sequence
number (DEDUCED, log 50). -/
def slotRead (base len : Nat) (s : State) : Bool × State :=
  let q := romRead base (len + 8) s
  (q.1 && crc32 (s.bytes base (len + 4)) == s.word (base + len + 4), q.2)

/-- The newest valid SPB copy in flash: its base (R362). -/
def newestSpb (s : State) : Option Nat × State :=
  (List.range 32).foldl (fun best k =>
    let b := 0x10C20000 + 0x800 * k
    let q := slotRead b 0x400 best.2
    if q.1 then
      match best.1 with
      | none => (some b, q.2)
      | some o => if (s.word (o + 0x400)).toNat < (s.word (b + 0x400)).toNat then (some b, q.2) else (best.1, q.2)
    else (best.1, q.2)) (none, s)

/-- Does the newest valid SPB copy differ from the HWM's SPB (R45)? With no valid copy it does (DEDUCED, log 12). -/
def spbMismatch (s : State) : Bool × State :=
  let q := newestSpb s
  (match q.1 with
   | none => true
   | some b => (List.range 256).any (fun i => s.word (b + 4 * i) != s.spb i), q.2)

/-- The boot ROM starts (R45, steps 1–3): it checks the channel ID, compares the SPB copy and opens the LISTEN window. -/
def romStart (s : State) : State :=
  let s := subTo .rom s
  let s := s.putB F.SYS_BOOTSTAT_XTALFAIL (s.pwr.xtalFail || s.flag F.CLK_STAT_RCREF)
  let id := s.get F.SYS_CHID_CHID
  if id = 0 ∨ id = 7 then settle (subTo .idfail (s.put F.SYS_BOOTSTAT_IDINV 1))
  else
    let q := spbMismatch s
    subTo .listen (q.2.putB F.SYS_BOOTSTAT_SPBMISM q.1)

/-- How many bits of a number below 2⁸ are set. -/
def popcount (n v : Nat) : Nat := (bitsIn n v).length

/-- The outcome of R44, from CPFAIL, FACETFAIL and the facets retired before: BISTFAIL, or the boot ROM. Where the CP pair and one facet
pair fail together the facet stands in FACETFAIL and is not retired (DESIGN CHOICE, log 90). -/
def bistOutcome (s : State) : State :=
  let ff := s.get F.SYS_BOOTSTAT_FACETFAIL ||| s.get F.MIR_RETIRED_FACET
  let s := s.put F.SYS_BOOTSTAT_FACETFAIL ff
  if s.flag F.SYS_BOOTSTAT_CPFAIL then limpTrigger 0 (settle (subTo .bistfail s))
  else if 2 ≤ popcount 8 ff then settle (subTo .bistfail s)
  else romStart (s.put F.MIR_RETIRED_FACET ff)

/-- The start-up test has ended: the controller is idle, and the results decide (R44). -/
def startupDone (s : State) : State :=
  let bad := fun r => !(s.get (F.BST_RES_RES0 r) == 1 && s.get (F.BST_RES_RES1 r) == 1)
  let ff := (List.range 8).foldl (fun m n => if bad (n + 1) then withBit m n true else m) 0
  let s := ((s.put F.BST_STAT_RUN 0).put F.BST_STAT_ORIGIN 0).put F.BST_STAT_REGION 0x1F
  let s := (s.put F.BST_STAT_COPY 0).putB F.SYS_BOOTSTAT_CPFAIL (bad 0)
  let s := (s.put F.SYS_BOOTSTAT_FACETFAIL ff).updPwr (fun p => { p with seq := .done })
  bistOutcome s

/-- What follows wave `w`: the next one without a gap, 1,934.4 µs after the last (R366), or the end of the test. -/
def waveNext (w : Nat) (s : State) : State :=
  if w < 2 then
    let s := (s.updPwr (fun p => { p with seq := .lbist (w + 1) })).put F.BST_STAT_REGION 1
    let s := s.put F.BST_STAT_COPY w
    { s with bist := { s.bist with startAt := s.bist.startAt + 580320 } }
  else startupDone s

/-- A wave ends. -/
def waveDone (w : Nat) (ends : List BistEnd) (s : State) : State := waveNext w (bistWave w s 0 ends)

/-! ### Device resets and the heartbeat (R16, R36, R37) -/

/-- The D-die reset of a device reset is asserted: RSTCAUSE, PREV, BOOT (R29, R37, R38). The HWM's own heartbeat reset takes the PLL with
it and disarms the supervision; any other leaves a heartbeat reset that is due, and the wait for the first toggle after one, as they
are (R16, R36). -/
def resetAssert (cause : ResetCause) (s : State) : State :=
  let s := match cause with
    | .modeReq => s.put F.SYS_RSTCAUSE_SWRST 1
    | .spp => s.put F.SYS_RSTCAUSE_SPPRST 1
    | .heartbeat => s.put F.SYS_RSTCAUSE_HBEAT 1
  let again := (match s.pwr.seq with
    | .lbist _ => true
    | _ => s.pwr.relbist)
  let s := dieReset s
  let old := s.mode
  let s := toBoot .pwrseq s
  let s := s.put F.SYS_MODE_PREV old.code
  let s := s.updPwr (fun p => { p with seq := .held, rstDue := none, hbReset := cause == .heartbeat, relbist := again })
  if cause = .heartbeat then
    (((s.put F.CLK_STAT_PLLLOCK 0).put F.CLK_STAT_XTALOK 0).put F.CLK_STAT_EXTREF 0).updPwr
      (fun p => { p with hbArmed := false, hbDue := false, hbWait := false })
  else s

/-- The modes that the device reset's row of R32 leaves. -/
def Mode.resettable : Mode → Bool
  | .boot => true
  | .service => true
  | .integrate => true
  | .standby => true
  | .safe => true
  | _ => false

/-- The modes that the heartbeat reset's row of R32 leaves. -/
def Mode.beating (m : Mode) : Bool := m != .limp && m != .dormant

/-- The heartbeat reset (R33, R36): from every powered mode but LIMP, ahead of what a trigger of a lower rank has done in its cycle. -/
def heartbeatReset (s : State) : State :=
  let s := outrank 2 Mode.beating s
  if s.pwr.hbDue = true ∧ s.mode.beating = true then turned 2 s (resetAssert .heartbeat s) else s

/-- A requested device reset is asserted, where the mode still has its row (R32); else the request has lapsed, and the service port's
command with it (R61). -/
def requestedReset (cause : ResetCause) (s : State) : State :=
  if s.mode.resettable then resetAssert cause s
  else
    let s := s.updPwr (fun p => { p with rstDue := none })
    if cause = .spp then s.put F.SPP_STAT_BUSY 0 else s

/-- DEVICE_RESET: the reset that a request or the HWM has asked for is asserted. -/
def execDeviceReset (cause : ResetCause) (at_ : Nat) (s : State) : Out :=
  let s := advanceTo at_ s
  if cause = .heartbeat then .next (heartbeatReset s)
  else if s.pwr.rstDue = some cause then .next (requestedReset cause s)
  else .next s

/-- The D-die leaves the reset of R37: the bridge trains, the table of R44 is applied to what CPFAIL and FACETFAIL retain, and
the boot ROM runs, without LBIST and without a power step. A start-up test that the reset cut short runs again (R369). -/
def resetRelease (s : State) : State :=
  let s := bridgeTrain (s.updPwr (fun p => { p with seq := .done, hbReset := false }))
  if s.pwr.relbist then startLbist s.now s else bistOutcome s

/-- HBEAT_LOSS (R16, R36, R349): Halt, FAULTn, HBLOST; the supervision stays armed. A second loss within HBWIN fires trigger 3, outside
SERVICE: LIMP is entered from the mode that the loss found (R33). Else the HWM will assert the D-die reset. -/
def hbeatLoss (at_ : Nat) (s : State) : State :=
  if s.pwr.hbArmed then
    let s := advanceTo at_ s
    let win := bitsOf (s.spb 12) 31 16 * 300000
    let again := match s.pwr.lastHbLoss with
      | none => false
      | some t => decide (at_ - t ≤ win)
    let s := s.updPwr (fun p => { p with hbLost := true, lastHbLoss := some at_ })
    let s := recordRaise 137 137 3 (s.put F.HWM_STAT_HBLOST 1)
    if again && s.mode != .service && limpEnabled s 3 then settle (limpTrigger 3 (s.put F.HWM_RXSTAT_HALT 1))
    else (settle (haltNow s)).updPwr (fun p => { p with hbDue := true })
  else s

/-- HBEAT_LOSS -/
def execHbeatLoss (at_ : Nat) (s : State) : Out := .next (hbeatLoss at_ s)

/-- HEARTBEAT_RESET (R36): 1 ms after the last valid toggle, the D-die reset with the PLL and its dividers. -/
def execHeartbeatReset (at_ : Nat) (s : State) : Out := .next (heartbeatReset (advanceTo at_ s))

/-- HBEAT_RESTORE_TIMEOUT (R36): no toggle within 2 ms of the release: a core supply loss with CAUSE 0x8, which changes nothing in LIMP
(R72). -/
def execHbeatRestoreTimeout (at_ : Nat) (s : State) : Out :=
  if s.pwr.hbWait then
    let s := outrank 2 Mode.beating (advanceTo at_ s)
    if s.mode.beating then .next (turned 2 s (coreLoss 8 at_ s.mode s)) else .next s
  else .next s

end Sys2Proof.Machine
end

