-- ==== Sys2Proof/Machine/Modes.lean ====
section
/-! DEFINITION. Firmware's mode requests and the integrate timeout (R29–R33), and what
the service port may do in a mode (R58). DORMANT is entered in Dormant.lean. -/

namespace Sys2Proof.Machine

/-- A refused request: REFUSED, REFCODE, source 71 (R31, R99). -/
def refuse (code : Nat) (s : State) : State := icuEvent 71 ((s.put F.SYS_MODE_REFUSED 1).put F.SYS_MODE_REFCODE code)

/-- What R32 says of a request in the current mode: no row, a row with a guard that fails, or a row that is taken. -/
inductive Row where
  | absent | guarded | taken
deriving DecidableEq, Repr

/-- A row whose guards are `b`. -/
def Row.of (b : Bool) : Row := if b then .taken else .guarded

/-- Does the live placement use a retired facet (R32, R46)? -/
def placeRetired (s : State) : Bool := (s.get F.CFG_PLACE_MASK &&& s.get F.MIR_RETIRED_FACET) != 0

/-- The guards of STANDBY to ACTIVE (R32, R73). -/
def activeGuard (s : State) : Bool :=
  s.flag F.HWM_STAT_ENABLE && !haltLatch s && !supLive s 2 && !supLive s 3 && !placeRetired s

/-- The guards of BOOT (FIRMWARE) to INTEGRATE (R32). -/
def integrateGuard (s : State) : Bool :=
  !s.flag F.SYS_BOOTSTAT_XTALFAIL && !s.flag F.SYS_BOOTSTAT_SPBMISM && !s.flag F.SYS_BOOTSTAT_CPFAIL
    && decide (popcount 8 (s.get F.SYS_BOOTSTAT_FACETFAIL) ≤ 1) && s.flag F.SYS_BRGSTAT_UP

/-- The guards of DORMANT (R32). -/
def dormantGuard (s : State) : Bool :=
  !s.pwr.wakePin && (List.range 8).all (fun g => (s.grp g).gate != .shortLow && (s.grp g).gate != .shortHigh)

/-- The row of R32 for a requested mode in the current one. An entry to DORMANT cannot be left by a request (R77). -/
def rowOf (s : State) (target : Mode) : Row :=
  if s.pwr.entry ≠ 0 then .absent
  else match target with
  | .boot => match s.mode with
    | .boot => .taken
    | .service => .taken
    | .integrate => .taken
    | .standby => .taken
    | .safe => .taken
    | _ => .absent
  | .service => match s.mode with
    | .boot => if s.sub = .firmware then .taken else .absent
    | .standby => .taken
    | _ => .absent
  | .integrate => match s.mode with
    | .boot => if s.sub = .firmware then .of (integrateGuard s) else .absent
    | _ => .absent
  | .standby => if s.mode = .active then .taken else .absent
  | .active => if s.mode = .standby then .of (activeGuard s) else .absent
  | .safe => match s.mode with
    | .integrate => .taken
    | .standby => .taken
    | .active => .taken
    | _ => .absent
  | .dormant => match s.mode with
    | .standby => .of (dormantGuard s)
    | .safe => .of (dormantGuard s)
    | _ => .absent
  | .limp => .absent

/-- A request of the cycle that `cyc` names (R31, R33): behind another request, behind a hardware trigger, or alone; a cycle of its own
is a new one. -/
def inCycle (cyc : ReqCycle) (no : Nat → State → State) (alone : State → State) (s : State) : State :=
  match cyc with
  | .afterRequest => no 5 s
  | .afterTrigger => no 4 s
  | .alone => newCycle (alone (newCycle s))

/-- A keyed request is decided by its row (R31, R32). -/
def decideRequest (target : Mode) (take : State → State) (s : State) : State :=
  match rowOf s target with
  | .absent => refuse 2 s
  | .guarded => refuse 3 s
  | .taken => take s

/-- A write of SYS.MODEREQ (R31): the key, the order within the CLK_PER cycle, the row, its guards; then what the row does. -/
def modeRequest (target : Mode) (key : BitVec 16) (cyc : ReqCycle) (take : State → State) (s : State) : State :=
  if key ≠ 0xC3A5 then refuse 1 s else inCycle cyc refuse (decideRequest target take) s

/-- The same as a write on the bus, whose cycle the block itself knows: the first keyed request of a cycle is decided, behind a
hardware trigger it is superseded (R31, R33). -/
def busRequest (target : Mode) (key : BitVec 16) (take : State → State) (s : State) : State :=
  if key ≠ 0xC3A5 then refuse 1 s
  else if s.fresh.req then refuse 5 s
  else
    let late := superseded s
    let s := { s with fresh := { s.fresh with req := true } }
    if late then refuse 4 s else decideRequest target take s

/-- A device reset is requested (R37): DEVICE_RESET asserts it. -/
def requestReset (cause : ResetCause) (s : State) : State := s.updPwr (fun p => { p with rstDue := some cause })

/-- MODEREQ_BOOT -/
def execModereqBoot (key : BitVec 16) (cyc : ReqCycle) (s : State) : Out :=
  .next (modeRequest .boot key cyc (requestReset .modeReq) s)

/-- MODEREQ_INTEGRATE -/
def execModereqIntegrate (key : BitVec 16) (cyc : ReqCycle) (s : State) : Out :=
  .next (modeRequest .integrate key cyc (enterMode .integrate .none) s)

/-- MODEREQ_STANDBY -/
def execModereqStandby (key : BitVec 16) (cyc : ReqCycle) (s : State) : Out :=
  .next (modeRequest .standby key cyc (enterMode .standby .none) s)

/-- MODEREQ_ACTIVE -/
def execModereqActive (key : BitVec 16) (cyc : ReqCycle) (s : State) : Out :=
  .next (modeRequest .active key cyc (enterMode .active .none) s)

/-- MODEREQ_SAFE -/
def execModereqSafe (key : BitVec 16) (cyc : ReqCycle) (s : State) : Out :=
  .next (modeRequest .safe key cyc (enterMode .safe .none) s)

/-- MODEREQ_LIMP: no row of R32 has firmware's request of LIMP as its trigger, so it is refused. -/
def execModereqLimp (key : BitVec 16) (cyc : ReqCycle) (s : State) : Out :=
  .next (modeRequest .limp key cyc id s)

/-- INTEGRATE_TIMEOUT (R32): 4,096 ring cycles in INTEGRATE without catch-up. -/
def execIntegrateTimeout (s : State) : Out :=
  let s := outrank 9 (fun m => m == .integrate) s
  if s.mode = .integrate then .next (enterBy 9 .safe .none s) else .next s

/-! ### What the service port may do in a mode (R58) -/

/-- SPP is powered (R58). -/
def sppOn (s : State) : Bool := decide (s.pwr.seq = .done) && s.mode != .dormant

/-- The column of R58's table. -/
inductive SppCol where
  | boot | idfail | fail | service | ring | drive | safe
deriving DecidableEq, Repr

/-- The column of the present mode and substate. -/
def sppCol (s : State) : SppCol :=
  match s.mode with
  | .boot => match s.sub with
    | .idfail => .idfail
    | .wakefail => .fail
    | .bistfail => .fail
    | _ => .boot
  | .service => .service
  | .integrate => .ring
  | .standby => .ring
  | .safe => .safe
  | _ => .drive

/-- May the port write these words? -/
def sppWrites (s : State) (l : List Nat) : Bool :=
  match sppCol s with
  | .boot => true
  | .service => true
  | .idfail => l.all (fun a => decide (0x70000800 ≤ a ∧ a < 0x70000C00))
  | _ => false

/-- May a command of a requester write the register at an address: the CP, and the service port where its mode accepts it (R58, R100). -/
def mayWrite (s : State) (who : Requester) (a : Nat) : Bool :=
  match who with
  | .cp => true
  | .spp => sppOn s && sppWrites s [a]
  | _ => false

end Sys2Proof.Machine
end

