-- ==== Sys2Proof/Machine/Hwm.lean ====
section
/-! DEFINITION. The hard-wired monitor: reaction frames, releases, ENABLE, supplies, overvoltage stage 2, phase isolation, the
direct pedal path, the safety parameters, the password and the change log (R73, R74, R211, R213, R327–R329, R339–R364). -/

namespace Sys2Proof.Machine

/-- Change the HWM record. -/
def State.updHwm (s : State) (f : Hwm → Hwm) : State := { s with hwm := f s.hwm }

/-! ### Reaction frames and releases -/

/-- REACTION_FRAME_ARRIVAL (R340): the oldest request of a D-die detector reaches the HWM, while the bridge carries frames. -/
def execReactionFrameArrival (s : State) : Out :=
  match s.hwm.rxq with
  | [] => .next s
  | r :: l =>
    if s.flag F.SYS_BRGSTAT_UP then .next (raiseAs r.det r.pos r.cls r.groups (s.updHwm (fun h => { h with rxq := l }))) else .next s

/-- Is the live condition of the input at map position `p` present (R344)? -/
def liveInput (s : State) (p : Nat) : Bool :=
  if p < 24 then false
  else if p < 48 then !s.flag (F.GDR_STAT_BSOK (p - 24))
  else if p < 72 then false
  else if p < 78 then s.bit F.PWM_TRIP_TRIP (p - 72)
  else if p < 86 then false
  else if p < 94 then !s.flag (F.PWM_DLCAL_LOCK (p - 86))
  else if p < 102 then
    s.flag (F.FBK_STAT_AMPFLT (p - 94)) || s.flag (F.FBK_STAT_PEND (p - 94)) || s.flag (F.FBK_STAT_UNRES (p - 94))
  else if p < 106 then s.flag (F.FBK_WSPER_OPEN (p - 102)) || s.flag (F.FBK_WSPER_SHORT (p - 102))
  else if p < 110 then false
  else if p < 118 then s.bit F.MIR_RETIRED_PWMGRP (p - 110)
  else if p = 118 then s.bit F.PRS_GFLAG_FLAG 0
  else if p = 119 then !s.flag F.SYS_BRGSTAT_UP
  else if p = 120 then s.flag F.CLK_STAT_RCREF
  else if 121 ≤ p ∧ p ≤ 127 then supLive s (if p = 127 then 7 else p - 121)
  else if p = 131 then !s.flag F.LNK_STAT_INSTEP
  else if p = 133 then !s.krg.timeValid || injHeld s 133 0
  else if p = 134 then s.flag F.HWM_STAT_PDLFLT || injHeld s 134 0
  else if 140 ≤ p ∧ p ≤ 170 then s.bit F.PRS_GFLAG_FLAG (p - 139)
  else false

/-- An empty mask acts on G0–G7 (R342). -/
def maskOrAll (m : Nat) : Nat := if m % 256 = 0 then 0xFF else m % 256

/-- The groups of GFLAGk (R342). -/
def gflagGroups (s : State) (k : Nat) : Nat := maskOrAll (bitsOf (s.spb (120 + k)) 7 0)

/-- The groups that the input at map position `p` is bound to (R344). -/
def boundGroups (s : State) (p : Nat) : Nat :=
  if p < 72 then 2 ^ (p % 24 / 3)
  else if p < 78 then maskOrAll (s.get (F.PWM_FLTCFG_MASK (p - 72)))
  else if p < 86 then 2 ^ (p - 78)
  else if p < 94 then 2 ^ (p - 86)
  else if p < 102 then 2 ^ (p - 94)
  else if p < 110 then 0xFF
  else if p < 118 then 2 ^ (p - 110)
  else if p = 118 then gflagGroups s 0
  else if 140 ≤ p ∧ p ≤ 170 then gflagGroups s (p - 139)
  else 0xFF

/-- Is the position one of a mapped input (R343)? -/
def mappedPos (p : Nat) : Bool := decide (p < 135) || decide (140 ≤ p ∧ p ≤ 170)

/-- May the release of Gn be accepted (R345)? -/
def releaseOk (s : State) (g : Nat) : Bool :=
  (List.range 171).all (fun p =>
    !(mappedPos p && (classOf s p == 1 || classOf s p == 2) && (boundGroups s p).testBit g && liveInput s p))
  && ((s.grp g).soft == 0 || (s.grp g).soft == 3)
  && !s.bit F.MIR_RETIRED_PWMGRP g && !(s.grp g).stage2

/-- In ACTIVE a released group keeps its forced state to the next valley of its carrier (R345, R232). -/
def releaseWaits (s : State) (g : Nat) : Bool := s.mode == .active && s.flag (F.PWM_GCFG_EN g) && (s.grp g).gate != .pass

/-- Release the Soft-off and Short latches of one group, or refuse. -/
def releaseOne (g : Nat) (s : State) : State :=
  if releaseOk s g then
    let w := releaseWaits s g
    (vdsEnd g ((s.putBit F.HWM_RXSTAT_SOFT g false).putBit F.HWM_RXSTAT_SHORT g false)).updGrp g
      (fun h => { h with soft := 0, relWait := w })
  else s.put F.HWM_RXSTAT_RELREF 1

/-- A write of HWM.RXREL.GRP: each release that it names is judged on its own (R345). -/
def releaseGroups (mask : Nat) (s : State) : State :=
  let ok := (bitsIn 8 mask).filter (releaseOk s)
  let no := (bitsIn 8 mask).filter (fun g => !releaseOk s g)
  settle (forAll no releaseOne (forAll ok releaseOne s))

/-- May the Halt release be accepted (R345, R348)? The fixed detectors of class Halt count with their live conditions. -/
def haltReleaseOk (s : State) : Bool :=
  s.mode != .active && s.flag F.HWM_STAT_ENABLE && !s.cp.debug && !injHeld s 135 0 && !s.pwr.hbLost
    && (List.range 171).all (fun p => !(mappedPos p && classOf s p == 3 && liveInput s p))

/-- A write of HWM.RXREL.HALT. -/
def releaseHaltNow (s : State) : State :=
  if haltReleaseOk s then settle (forAll (List.range 8) vdsEndFree (s.put F.HWM_RXSTAT_HALT 0)) else s.put F.HWM_RXSTAT_RELREF 1

/-- ENABLE_CHANGE (R348): the filtered level; a fall in ACTIVE applies Halt. -/
def execEnableChange (level : Bool) (s : State) : Out :=
  let was := s.flag F.HWM_STAT_ENABLE
  let s := s.putB F.HWM_STAT_ENABLE level
  if was ∧ level = false ∧ s.mode = .active then .next (settle (haltNow s)) else .next s

/-! ### Supplies (R73, R74, R346) -/

/-- The bit of a supervisor in PWR.SUPSTAT. -/
def supBit : Supervisor → Nat
  | .vbatUv => 0
  | .vbatOv => 1
  | .vgdUv => 2
  | .vgdOv => 3
  | .v5Out => 4
  | .v33Out => 5

/-- A sensor supply shuts down (R73, R75): VSFLT is raised; on the D-die, while the bridge carries it, the supply's DOMCTL bit clears and
VSFLT is flagged. -/
def sensorOver (vsb : Bool) (s : State) : State :=
  let f := if vsb then F.PWR_DOMCTL_VSB else F.PWR_DOMCTL_VSA
  if s.flag f && !(if vsb then s.hwm.vsOff.getD 1 false else s.hwm.vsOff.headD false) then
    let s := s.updHwm (fun h => { h with vsOff := if vsb then [h.vsOff.headD false, true] else [true, h.vsOff.getD 1 false] })
    let s :=
      if s.flag F.SYS_BRGSTAT_UP then icuEvent 79 (((s.put f 0).put F.PWR_SUPSTAT_VSFLT 1).putBit F.PWR_SUPSTAT_LATCH 7 true) else s
    raise 127 0xFF (settleSupplies s)
  else s

/-- SENSOR_SUPPLY_OVERCURRENT -/
def execSensorSupplyOvercurrent (vsb : Bool) (s : State) : Out := .next (sensorOver vsb s)

/-! ### Overvoltage stage 2 (R211) -/

/-- The groups that stage 2 shorts: an empty mask names every group (R342). -/
def ovMask (s : State) : Nat := maskOrAll (bitsOf (s.spb 34) 7 0)

/-- The DC link exceeds the on threshold: every group of SPB[34] is shorted; source 77. -/
def stage2On (s : State) : State :=
  let s := s.updHwm (fun h => { h with dcLow := false })
  let s := forAll (bitsIn 8 (ovMask s)) (fun g t => t.updGrp g (fun h => { h with stage2 := true, stage2Rel := false })) s
  settle (hwmEvent 77 (recordRaise 136 136 2 s))

/-- OVERVOLTAGE_STAGE2 -/
def execOvervoltageStage2 (s : State) : Out := .next (stage2On s)

/-- A group's stage-2 short ends: it passes into the state that another forcing selects, or it is released at its next period
boundary, at once while the group's carrier is stopped. -/
def stage2Off (g : Nat) (s : State) : State :=
  if (s.grp g).stage2 then
    let s := s.updGrp g (fun h => { h with stage2 := false, stage2Rel := false })
    if forced s g = none then s.updGrp g (fun h => { h with stage2Rel := s.flag (F.PWM_GCFG_EN g) }) else s
  else s

/-- STAGE2_RELEASE_TIMER: the DC link has stayed below the off threshold for 1 ms. -/
def execStage2ReleaseTimer (s : State) : Out :=
  if s.hwm.dcLow then .next (settle (forAll (List.range 8) stage2Off s)) else .next s

/-- DC_LINK_OFF_CROSSING: it starts or restarts the 1 ms interval. -/
def execDcLinkOffCrossing (below : Bool) (s : State) : Out := .next (s.updHwm (fun h => { h with dcLow := below }))

/-! ### Speed and phase isolation (R213, R327–R329) -/

/-- VDS_SIGN_CHANGE: an edge of the speed measurement while the group is shorted or its commands pass, and the zero crossing
that a waiting open request may use. -/
def execVdsSignChange (k : Fin 24) (at_ : Nat) (s : State) : Out :=
  let g := k.val / 3
  let s := advanceTo at_ s
  if (s.grp g).gate = .off then .next s else .next (pisIfWaiting g (speedEdge g at_ s))

/-- The all-off condition of a group comes to hold: it may go all-off, and a waiting open request may act. -/
def alloffMet (g : Nat) (s : State) : State :=
  let s := settleFault (settleGroup g (s.updGrp g (fun h => { h with slow := true, above := false })))
  if (s.grp g).gate = .off then pisIfWaiting g s else s

/-- ALLOFF_CONDITION_MET -/
def execAlloffConditionMet (g : Fin 8) (s : State) : Out := .next (alloffMet g.val s)

/-- PIS_OPEN (R328): the moment comes for a waiting request. -/
def execPisOpen (g : Fin 8) (moment : PisMoment) (s : State) : Out :=
  match moment with
  | .allOff => if (s.grp g.val).gate = .off ∧ (s.grp g.val).slow = true then .next (pisIfWaiting g.val s) else .next s
  | .zeroCrossing => .next (pisIfWaiting g.val s)
  | .elapsed20ms => .next (pisIfWaiting g.val s)

/-- A request to close PISn (R329). A group with a switch that a GATE step drives is not all-off (R373). -/
def pisClose (g : Nat) (s : State) : State :=
  let driven := match s.bist.drive with
    | none => false
    | some (k, _) => k / 3 == g
  if (s.mode = .service ∨ s.mode = .standby) ∧ (s.grp g).gate = .off ∧ (s.grp g).slow = true ∧ driven = false then
    (s.putBit F.HWM_PISCTL_OPEN g false).updGrp g (fun h => { h with pisReq := false, pisHwm := false })
  else s.putBit F.HWM_PISSTAT_CLREF g true

/-! ### Direct pedal path (R350–R353) -/

/-- The pedal position of a mean raw value (R350). With PHI = PLO the quotient is open. -/
def pedalPos (s : State) (r : Nat) : Nat :=
  let hi : Int := (bitsOf (s.spb 10) 31 16 : Nat)
  let lo : Int := (bitsOf (s.spb 10) 15 0 : Nat)
  if hi = lo then (Config.pedalFlat r).toNat
  else
    let num := if lo < hi then ((r : Int) - lo) * 65536 else (lo - (r : Int)) * 65536
    let den := if lo < hi then hi - lo else lo - hi
    (clampInt (num / den) 0 65535).toNat

/-- The pedal window's raw value is in range (R350). -/
def pedalValid (s : State) (raw : Option (BitVec 16)) : Bool :=
  match raw with
  | none => false
  | some r => decide (bitsOf (s.spb 9) 15 0 ≤ r.toNat ∧ r.toNat ≤ bitsOf (s.spb 9) 31 16)

/-- PDLFLT rises or falls; source 76. -/
def pedalFault (live : Bool) (s : State) : State := hwmEvent 76 (s.putB F.HWM_STAT_PDLFLT live)

/-- The demand shows in LIMPSTAT.Y; while it is zero no group is driven, and driving starts again with a chopping period (R351,
R353). -/
def pedalApply (s : State) : State :=
  let s := s.put F.HWM_LIMPSTAT_Y (pedalDemand s)
  let s := if pedalDemand s = 0 then
      forAll [2, 3, 4, 5] (fun g t => t.updGrp g (fun h => { h with driving := false, chopOn := false })) s
    else s
  forAll [2, 3, 4, 5] settleLegs s

/-- A pedal window ends. -/
def pedalWindow (raw : Option (BitVec 16)) (s : State) : State :=
  if pedalValid s raw then
    let r := (raw.getD 0).toNat
    let s := s.updHwm (fun h => { h with pdl := (r :: h.pdl).take 4, pdlBad := 0, pdlGood := h.pdlGood + 1 })
    let s := if s.flag F.HWM_STAT_PDLFLT ∧ 8 ≤ s.hwm.pdlGood then pedalFault false s else s
    let mean := s.hwm.pdl.foldl (· + ·) 0 / s.hwm.pdl.length
    let s := if s.flag F.HWM_STAT_PDLFLT then s else (s.put F.HWM_PDL_RAW mean).put F.HWM_PDL_X (pedalPos s mean)
    pedalApply s
  else
    let s := s.updHwm (fun h => { h with pdlBad := h.pdlBad + 1, pdlGood := 0 })
    let s := if s.flag F.HWM_STAT_PDLFLT = false ∧ 2 ≤ s.hwm.pdlBad then raise 134 0xFF (pedalFault true s) else s
    pedalApply s

/-- PEDAL_WINDOW: while a form is selected and the HWM runs. -/
def execPedalWindow (raw : Option (BitVec 16)) (s : State) : Out :=
  if bitsOf (s.spb 8) 1 0 ≠ 0 ∧ s.pwr.hwmOn = true then .next (pedalWindow raw s) else .next s

/-- The sensor sector of the three comparators (R352); 7 is invalid. -/
def sensorSector (ha hb hc : Bool) : Nat :=
  match ha, hb, hc with
  | true, false, true => 0
  | true, false, false => 1
  | true, true, false => 2
  | false, true, false => 3
  | false, true, true => 4
  | false, false, true => 5
  | _, _, _ => 7

/-- SOFSn of SPB[11] (R356). -/
def sofs (s : State) (g : Nat) : Nat := bitsOf (s.spb 11) (3 * g) (3 * g - 2)

/-- The electrical sector of G2–G5 for a sensor sector. -/
def elecSector (s : State) (g q : Nat) : Nat := if q = 7 then 7 else (q + sofs s g) % 6

/-- The switch that stays on from one sector to the next: the one leg that both name, of those that are on (3 none). -/
def keeps (now_ : Option Nat) (next : Option Nat) : Nat := if now_ = next then next.getD 3 else 3

/-- A driven group's sector changes (R353): the leaving switches turn off, and the new ones wait for 1 µs. A switch of both sectors
stays as it is. -/
def sectorTurn (g e : Nat) (s : State) : State :=
  let h := s.grp g
  let neg := bitOf (s.spb 11) (g - 2)
  let old := sectorLegs h.sector neg
  let new := sectorLegs e neg
  let onH := if h.turning then (if h.keepH = 3 then none else some h.keepH) else old.map Prod.fst
  let onL := if h.turning then (if h.keepL = 3 then none else some h.keepL) else old.map Prod.snd
  settleLegs g (s.updGrp g (fun h => { h with
    sector := e, turning := limpDrives s g, keepH := keeps onH (new.map Prod.fst), keepL := keeps onL (new.map Prod.snd) }))

/-- A group's sector follows its comparators and SPB[11]: it is noted; in a driven group the switches turn over. A change within the
same sector changes nothing. -/
def sectorSettle (g : Nat) (s : State) : State :=
  let e := elecSector s g (s.grp g).hall
  let n := g - 2
  let w := s.get F.HWM_LIMPSTAT_SECT
  let s := s.put F.HWM_LIMPSTAT_SECT (w - (w >>> (3 * n)) % 8 * 2 ^ (3 * n) + e * 2 ^ (3 * n))
  if e = (s.grp g).sector then s else sectorTurn g e s

/-- LIMP_SECTOR_CHANGE (R352, R353) -/
def execLimpSectorChange (g : Fin 8) (ha hb hc : Bool) (s : State) : Out :=
  if 2 ≤ g.val ∧ g.val ≤ 5 then
    .next (sectorSettle g.val (s.updGrp g.val (fun h => { h with hall := sensorSector ha hb hc })))
  else .next s

/-- LIMP_SECTOR_DELAY_END: the new sector's switches may turn on. -/
def execLimpSectorDelayEnd (g : Fin 8) (s : State) : Out :=
  .next (settleLegs g.val (s.updGrp g.val (fun h => { h with turning := false, keepH := 3, keepL := 3 })))

/-- A high side whose bootstrap supply is back may turn on again with the direct path's next command (R245). -/
def bsRelease (g : Nat) (s : State) : State :=
  forAll [3 * g, 3 * g + 1, 3 * g + 2] (fun k t => t.updLeg k (fun l => { l with bsHold := l.bsHold && !s.flag (F.GDR_STAT_BSOK k) })) s

/-- LIMP_CHOP_PERIOD: the sector's high side turns on, its low side stays on, unless the demand is zero or the sector invalid. Driving
begins with the first period of LIMP (R349). While a turn-over waits, a new switch turns on at its end. -/
def execLimpChopPeriod (g : Fin 8) (s : State) : Out :=
  if limpDrives s g.val ∧ (s.grp g.val).gate = .limp then
    let on := decide (pedalDemand s ≠ 0)
    .next (settleLegs g.val (bsRelease g.val (s.updGrp g.val (fun h => { h with driving := on, chopOn := on && h.sector != 7 }))))
  else .next s

/-- LIMP_CURRENT_LIMIT (R351, R353): where the low-side shunt's voltage, in 10 µV at the amplifier's gain, exceeds the threshold, the
high side turns off for the rest of the period. -/
def execLimpCurrentLimit (g : Fin 8) (v : Nat) (s : State) : Out :=
  if limpThreshold s < v * limpGain s then
    .next (settleLegs g.val (s.updGrp g.val (fun h => { h with chopOn := false })))
  else .next s

/-- WAKE_FALL -/
def execWakeFall (s : State) : Out := .next (s.updPwr (fun p => { p with wakePin := false }))

/-! ### Safety parameters (R355–R357, R361, R362) -/

/-- The code of a requester as the change log's source: 0 CP, 1 SPP (R361). -/
def logSource (who : Requester) : Nat := if who = .spp then 1 else 0

/-- The bits that R356 and R376 list for a parameter; unlisted bits are reserved and read 0. -/
def spbMask (i : Nat) : Nat :=
  if i = 1 then 7
  else if i = 2 ∨ i = 3 then 1
  else if i = 4 ∨ i = 5 then 0xFFFFFFFF
  else if i = 8 then 0x80FF0703
  else if i = 9 ∨ i = 10 then 0xFFFFFFFF
  else if i = 11 then 0xFFFFF
  else if i = 12 then 0xFFFF000F
  else if 16 ≤ i ∧ i ≤ 31 then 0xFFFFFFFF
  else if i = 32 ∨ i = 33 then 0xFFFF
  else if i = 34 then 0xFF
  else if 40 ≤ i ∧ i ≤ 47 then 0xFFFF0003
  else if i = 48 then 0xFF
  else if 64 ≤ i ∧ i ≤ 71 then 0xFFFFFFFF
  else if 72 ≤ i ∧ i ≤ 79 then 0xFFFF1F1F
  else if i = 80 then 0x1F1F
  else if i = 81 then 0xFFFFFFFF
  else if 82 ≤ i ∧ i ≤ 84 then 0xFFFF
  else if i = 85 then 0xFFFFFFFF
  else if 96 ≤ i ∧ i ≤ 117 then 0xFFFFFFFF
  else if 120 ≤ i ∧ i ≤ 151 then 0xFF
  else 0

/-- The floor of the class map at a position (R343, R344). -/
def classFloor (p : Nat) : Nat :=
  if p < 24 then 1 else if 110 ≤ p ∧ p ≤ 117 then 1 else if p = 119 then 3 else 0

/-- Does field `[hi:lo]` of the new word hold an encoding that the parameter accepts (R4)? -/
def spbField (i hi lo v : Nat) : Bool :=
  if i = 8 ∧ hi = 23 then decide (9 ≤ v)
  else if i = 8 ∧ hi = 10 then decide (v ≤ 4)
  else if i = 12 ∧ hi = 31 then decide (1 ≤ v)
  else if 40 ≤ i ∧ i ≤ 47 ∧ hi = 1 then decide (v ≠ 3)
  else if 64 ≤ i ∧ i ≤ 71 then decide (v < 8192 ∨ 57344 ≤ v)
  else if 96 ≤ i ∧ i ≤ 117 then
    let p := 8 * (i - 96) + lo / 4
    mappedPos p && decide (classFloor p ≤ v ∧ v ≤ 4)
  else true

/-- The fields of a parameter that R4 judges one by one. -/
def spbFields (i : Nat) : List (Nat × Nat) :=
  if i = 8 then [(31, 31), (23, 16), (10, 8), (1, 0)]
  else if i = 12 then [(31, 16), (3, 0)]
  else if 40 ≤ i ∧ i ≤ 47 then [(31, 16), (1, 0)]
  else if 64 ≤ i ∧ i ≤ 71 then [(31, 16), (15, 0)]
  else if 96 ≤ i ∧ i ≤ 117 then [(3, 0), (7, 4), (11, 8), (15, 12), (19, 16), (23, 20), (27, 24), (31, 28)]
  else [(31, 0)]

/-- The word that a write of `v` to parameter `i` stores: reserved bits 0, and each field that would take a reserved encoding
keeps its value. -/
def spbStore (i : Nat) (old v : Word) : Word :=
  let w := (spbFields i).foldl (fun (w : Word) f =>
    if spbField i f.1 f.2 (bitsOf v f.1 f.2) then putBits w f.1 f.2 (bitsOf v f.1 f.2) else w) old
  w &&& BitVec.ofNat 32 (spbMask i)

/-- May an SPB write be accepted (R357)? -/
def spbOpen (s : State) : Bool :=
  s.flag F.HWM_PWSTAT_UNLK && (s.mode == .boot || s.mode == .service || s.mode == .integrate || s.mode == .standby)

/-- QUEUE and BUSY follow the waiting writes. -/
def spbQueue (s : State) : State :=
  (s.put F.HWM_SPBSTAT_QUEUE s.hwm.commits.length).putB F.HWM_SPBSTAT_BUSY (!s.hwm.commits.isEmpty)

/-- A write to HWM.SPBi: accepted into the commit queue with its value in effect at once (R355; SPB[11] in the sectors, R352), FULL, or
refused and logged.
SPB[0] is read-only. -/
def spbWrite (who : Requester) (i : Nat) (v : Word) (s : State) : State :=
  if i = 0 then s
  else if spbOpen s = false then logRefused 2 (logSource who) i 0 v (s.put F.HWM_SPBSTAT_REFUSED 1)
  else if 8 ≤ s.hwm.commits.length then s.put F.HWM_SPBSTAT_FULL 1
  else
    let old := s.spb i
    let new := spbStore i old v
    let c : Commit := { idx := i, src := logSource who, author := s.get F.HWM_PWCTL_AUTHOR, old := old, new := new }
    let s := (s.setReg (R.HWM_SPB i) new).updHwm (fun h => { h with commits := h.commits ++ [c] })
    let s := s.putB F.HWM_STAT_DEFPW (s.spb 4 == 0 && s.spb 5 == 0)
    let s := if i = 11 then forAll [2, 3, 4, 5] sectorSettle s else s
    settle (spbQueue s)

/-- HWM.LIFE is saved in the non-volatile array (R361). -/
def lifeSave (s : State) : State := s.updHwm (fun h => { h with lifeSaved := s.reg R.HWM_LIFE })

/-- SPB_COMMIT (R355, R361): the oldest waiting write is committed and logged, with AUTHOR as it was at the write; LIFE is saved. A
loss of supply has cut the commit short. -/
def execSpbCommit (s : State) : Out :=
  if s.pwr.vbat = false then .next s
  else match s.hwm.commits with
  | [] => .next s
  | c :: l =>
    let now := s.get F.HWM_PWCTL_AUTHOR
    let s := logNew 1 c.src c.idx c.old c.new (s.put F.HWM_PWCTL_AUTHOR c.author)
    let s := (s.put F.HWM_PWCTL_AUTHOR now).updHwm (fun h => { h with commits := l })
    .next (lifeSave (spbQueue s))

/-- Write an image, its sequence number and the CRC-32 over both to a flash slot (R362). -/
def flashSlot (base : Nat) (image : List Byte) (seq : Nat) (s : State) : State :=
  let body := image ++ leBytes (BitVec.ofNat 32 seq)
  s.setBytes base (body ++ leBytes (crc32 body))

/-- Erase a 64 KiB sector of flash: every byte reads 0xFF. -/
def eraseSector (base : Nat) (s : State) : State :=
  { s with mem := mkeep (fun a => !(decide (base ≤ a ∧ a < base + 0x10000))) s.mem }

/-- SPB_FLASH_COPY (R362): the SPB image into the next free 2 KiB slot, the log image into the next free 4 KiB slot; a full
area is erased first. -/
def execSpbFlashCopy (s : State) : Out :=
  if s.hwm.copyDue then
    let spbImage := (List.range 256).flatMap (fun i => leBytes (s.spb i))
    let logImage := s.bytes logBase 0x800
    let k := s.hwm.spbSlot
    let m := s.hwm.logSlot
    let s := if 32 ≤ k then eraseSector 0x10C20000 s else s
    let s := if 16 ≤ m then eraseSector 0x10C30000 s else s
    let k := if 32 ≤ k then 0 else k
    let m := if 16 ≤ m then 0 else m
    let s := flashSlot (0x10C20000 + 0x800 * k) spbImage s.hwm.spbSeq s
    let s := flashSlot (0x10C30000 + 0x1000 * m) logImage s.hwm.logSeq s
    .next (s.updHwm (fun h => { h with
      copyDue := false, spbSlot := k + 1, logSlot := m + 1, spbSeq := h.spbSeq + 1, logSeq := h.logSeq + 1 }))
  else .next s

/-- LIFE_SECOND -/
def execLifeSecond (s : State) : Out :=
  if s.pwr.vbat then .next (s.put F.HWM_LIFE_SEC (s.get F.HWM_LIFE_SEC + 1)) else .next s

/-! ### Password (R358–R360) -/

/-- The four words of an entry, first word highest, against SPB[5]:SPB[4]. -/
def pwMatches (s : State) (ws : List (BitVec 16)) : Bool :=
  ws.foldl (fun a w => a * 65536 + w.toNat) 0 == (s.spb 5).toNat * 2 ^ 32 + (s.spb 4).toNat

/-- NEXT follows the words entered. -/
def pwNext (ws : List (BitVec 16)) (at_ : Nat) (s : State) : State :=
  (s.updHwm (fun h => { h with words := ws, wordAt := at_ })).put F.HWM_PWSTAT_NEXT ws.length

/-- The fourth word has come: unlock, or count a mismatch and start a lockout at 4 or more. -/
def pwCompare (src : Nat) (ws : List (BitVec 16)) (s : State) : State :=
  if pwMatches s ws then
    hwmEvent 74 (logNew 5 src 0 0 0 ((s.put F.HWM_PWSTAT_UNLK 1).put F.HWM_PWSTAT_WRONG 0))
  else
    let s := logNew 6 src 0 0 0 (s.bump F.HWM_PWSTAT_WRONG 1)
    if 4 ≤ s.get F.HWM_PWSTAT_WRONG then (s.put F.HWM_PWSTAT_LOCKOUT 1).updHwm (fun h => { h with lockLogged := false }) else s

/-- A password word arrives at HWM.PWENT. A word more than 1 s after the previous one starts a new entry. -/
def passwordEntry (who : Requester) (w : BitVec 16) (at_ : Nat) (s : State) : State :=
  if s.flag F.HWM_PWSTAT_UNLK then s
  else if s.flag F.HWM_PWSTAT_LOCKOUT then
    (if s.hwm.lockLogged then s else (logNew 6 (logSource who) 0 0 0 s).updHwm (fun h => { h with lockLogged := true }))
  else
    let old := if s.hwm.wordAt + 300000000 < at_ then [] else s.hwm.words
    let ws := old ++ [w]
    if ws.length < 4 then pwNext ws at_ s else pwCompare (logSource who) ws (pwNext [] at_ s)

/-- PASSWORD_TIMEOUT -/
def execPasswordTimeout (s : State) : Out := .next (pwLock 2 1 s)

/-- PASSWORD_LOCKOUT_END: the 60 s run on the HWM RC (R360). -/
def execPasswordLockoutEnd (s : State) : Out := if s.pwr.hwmOn then .next (s.put F.HWM_PWSTAT_LOCKOUT 0) else .next s

end Sys2Proof.Machine
end

