-- ==== Sys2Proof/Machine/Gdr.lean ====
section
/-! DEFINITION. The gate drivers' detectors: VDS events with the two-step turn-off, handshake time-outs, bootstrap supplies
(R236–R245). -/

namespace Sys2Proof.Machine

/-- The flag of a detection in GDR.STATk (R241). -/
def vdsFlag (k : Nat) (high gross : Bool) : Fld :=
  match high, gross with
  | true, true => F.GDR_STAT_GROSSHS k
  | false, true => F.GDR_STAT_GROSSLS k
  | true, false => F.GDR_STAT_VDSHS k
  | false, false => F.GDR_STAT_VDSLS k

/-- The two-step turn-off of R242 starts in a group, unless one runs already, the group's latch held it before (R341) or stage 2
holds it (R211). -/
def twoStep (latched : Bool) (g : Nat) (s : State) : State :=
  let h := s.grp g
  if !h.stage2 && (h.soft = 0 || (h.soft = 3 && !latched)) then softBegin g s else s

/-- A detection: its flag, the group's fault record, the event it opens or joins, the raise, the two-step turn-off, and the
isolation of a set that no safe state can stop (R214, R241, R242, R327). The event is that of the lowest leg among those detected in
the HWM RC cycle that opens it. -/
def vdsDetect (k : Nat) (high gross : Bool) (same : List Nat) (s : State) : State :=
  let g := k / 3
  let s := s.put (vdsFlag k high gross) 1
  let s := s.updGrp g (fun h => if high then { h with vdsH := true } else { h with vdsL := true })
  let latched := softLatch s g || shortLatch s g
  let s :=
    if s.hwm.vdsWindow then
      let s := s.putBit F.GDR_EVLEGS_LEGS k true
      settle (applyClass (classOf s s.hwm.vdsLeg) (2 ^ g) (twoStep latched g s))
    else
      let first := same.foldl min k
      let s := s.updHwm (fun h => { h with vdsWindow := true, vdsLeg := first })
      let s := (s.bump F.GDR_EVT_COUNT 1).put F.GDR_EVLEGS_LEGS (2 ^ k)
      raise first (2 ^ g) (twoStep latched g s)
  let h := s.grp g
  if h.vdsH && h.vdsL && !h.slow then pisAuto g s else s

/-- Does a VDSCMP step hold this comparator off its ball (R372)? ARG names the leg, [5] the side, [6] gross. -/
def vdsTaken (s : State) (k : Nat) (high gross : Bool) : Bool :=
  stepOn s 6 k && s.bist.stepArg.testBit 5 == high && s.bist.stepArg.testBit 6 == gross

/-- VDS_DETECTION (R239–R241): the monitor of a switch finds `mv` across it. It is a detection while the monitor is armed and the
voltage exceeds its threshold. `same` are the other legs with a detection in this HWM RC cycle. -/
def execVdsDetection (k : Fin 24) (high gross : Bool) (mv : Nat) (gateUp : Bool) (same : List (Fin 24)) (at_ : Nat) (s : State) : Out :=
  let s := advanceTo at_ s
  if vdsArmed s k.val high gross gateUp at_ && vdsOver s k.val high gross mv && !vdsTaken s k.val high gross then
    .next (vdsDetect k.val high gross (same.map Fin.val) s)
  else .next s

/-- VDS_EVENT_WINDOW_END -/
def execVdsEventWindowEnd (s : State) : Out := .next (s.updHwm (fun h => { h with vdsWindow := false }))

/-- The strong sink of step 2 takes over in every leg of a group. -/
def strongSink (g : Nat) (s : State) : State :=
  forAll [3 * g, 3 * g + 1, 3 * g + 2] (fun k t => t.updLeg k (fun l => { l with weakH := false, weakL := false })) s

/-- SOFT_OFF_STEP2: the weak-sink time of WTIME × 0.2 µs is over. -/
def execSoftOffStep2 (g : Fin 8) (at_ : Nat) (s : State) : Out :=
  let s := advanceTo at_ s
  if (s.grp g.val).soft = 1 ∧ (s.grp g.val).softAt + 60 * s.get (F.GDR_SOFT_WTIME g.val) ≤ at_ then
    .next (strongSink g.val (s.updGrp g.val (fun h => { h with soft := 2, softAt := at_ })))
  else .next s

/-- SOFT_OFF_SAFE_STATE: the safe state of R214 is applied, at least 1 µs after step 2 began. -/
def execSoftOffSafeState (g : Fin 8) (at_ : Nat) (s : State) : Out :=
  let s := advanceTo at_ s
  if (s.grp g.val).soft = 2 ∧ (s.grp g.val).softAt + 300 ≤ at_ then
    .next (settle (s.updGrp g.val (fun h => { h with soft := 3, softAt := at_ })))
  else .next s

/-- The opposite gate does not fall in time (R237): the turn-on is withheld and HSTOk raised. -/
def handshakeOut (k : Nat) (high : Bool) (s : State) : State :=
  let s := s.put (if high then F.GDR_STAT_HSTOHS k else F.GDR_STAT_HSTOLS k) 1
  let s := s.updLeg k (fun l => if high then { l with heldH := true } else { l with heldL := true })
  raise (48 + k) (2 ^ (k / 3)) (settleLeg s.now none k s)

/-- Does a turn-on still wait for the opposite gate, (HSTMO + 1) × 0.5 µs past its command (R237)? -/
def handshakeLate (s : State) (k : Nat) (high : Bool) (t : Nat) : Bool :=
  let l := s.leg k
  match (if high then l.cmdH else l.cmdL), (if high then l.onH else l.onL) with
  | some c, none => (if high then (gateGo s k).1 else (gateGo s k).2) && decide (c + handshakeLimit s ≤ t)
  | _, _ => false

/-- HANDSHAKE_TIMEOUT: the opposite gate has not reported within the time of HSCFG.HSTMO. -/
def execHandshakeTimeout (k : Fin 24) (high : Bool) (at_ : Nat) (s : State) : Out :=
  let s := advanceTo at_ s
  if handshakeLate s k.val high at_ then .next (handshakeOut k.val high s) else .next s

/-- The bootstrap undervoltage threshold of leg `k`, in mV (R245). -/
def bsThreshold (s : State) (k : Nat) : Nat := 6000 + 1000 * s.get (F.GDR_DRV_BSUV k)

/-- A bootstrap undervoltage (R245): the high side is off, BSUV, BSUVk; a high-side short of the group becomes a low-side one
(R214). -/
def bsUnder (k : Nat) (s : State) : State :=
  let s := (s.put (F.GDR_STAT_BSUV k) 1).put (F.GDR_STAT_BSOK k) 0
  raise (24 + k) (2 ^ (k / 3)) (settleLeg s.now none k (s.updLeg k (fun l => { l with bsHold := true })))

/-- The undervoltage comparator of leg `k` is on its ball: the HWM domain is on, and no BSCMP step runs on it (R372). -/
def bsWatched (s : State) (k : Nat) : Bool := s.pwr.hwmOn && !stepOn s 7 k

/-- What an injection into BSUVk covers, where one is held (R384, R385). -/
def bsCovered (ok : Bool) (s : State) : State := { s with inj := { s.inj with before := ok } }

/-- BOOTSTRAP_UNDERVOLTAGE: VBS has stayed at or below `vbs` mV for 2 µs, measured on the HWM RC. -/
def execBootstrapUndervoltage (k : Fin 24) (vbs : Nat) (s : State) : Out :=
  if bsWatched s k.val && decide (vbs < bsThreshold s k.val) then
    .next (if injHeld s (24 + k.val) 0 then bsCovered false s else bsUnder k.val s)
  else .next s

/-- BOOTSTRAP_OK: VBS rises to `vbs` mV, above the threshold with its hysteresis. BSOK returns, unless an injection forces the comparator
(R384); the high side waits for its command line to rise again. -/
def execBootstrapOk (k : Fin 24) (vbs : Nat) (s : State) : Out :=
  if bsWatched s k.val && decide (bsThreshold s k.val + 500 < vbs) then
    .next (if injHeld s (24 + k.val) 0 then bsCovered true s else settle (s.put (F.GDR_STAT_BSOK k.val) 1))
  else .next s

/-- THREFF = clamp(THR + THRADJ, 0, 31) (R239). -/
def settleThreff (k : Nat) (s : State) : State :=
  s.put (F.GDR_VDS_THREFF k) (clampInt ((s.get (F.GDR_VDS_THR k) : Int) + s.getS (F.GDR_VDS_THRADJ k)) 0 31).toNat

end Sys2Proof.Machine
end

