-- ==== Sys2Proof/Machine/Margin.lean ====
section
/-! DEFINITION. The margin planner (R375–R381): its measurements, its evaluations, held proposals and the VID steps of R71. -/

namespace Sys2Proof.Machine

/-- Change the planner's record. -/
def State.updMgn (s : State) (f : Margin → Margin) : State := { s with mgn := f s.mgn }

/-- The planner measures. -/
def mgnOn (s : State) : Bool := s.flag F.MGN_CTL_EN

/-- The planner measures what the A-die reports: not while the bridge is down (R19, log 113). -/
def mgnSees (s : State) : Bool := mgnOn s && s.flag F.SYS_BRGSTAT_UP

/-- A limit or a bound is exhausted: the EXH bit and source 81 (R380). -/
def exhaust (bit : Nat) (s : State) : State := icuEvent 81 (s.putBit F.MGN_STAT_EXH bit true)

/-! ### Averages (R375) -/

/-- A sample joins a running sum; after `n` of them the sum is handed to `use` and starts anew, and the measurement is complete
(source 82, R99; DESIGN CHOICE, log 95). -/
def mgnSum (key n : Nat) (x : Int) (use : Int → State → State) (s : State) : State :=
  let e := mget (fun _ => ((0, 0) : Nat × Int)) s.mgn.sums key
  if n ≤ e.1 + 1 then
    icuEvent 82 <| use (e.2 + x) (s.updMgn (fun m => { m with sums := mset (fun _ => (0, 0)) m.sums key (0, 0) }))
  else s.updMgn (fun m => { m with sums := mset (fun _ => (0, 0)) m.sums key (e.1 + 1, e.2 + x) })

/-- A turn-off delay of a switch in LSB: the register holds the mean of the last 1,024. -/
def mgnToff (k : Nat) (high : Bool) (d : Nat) (s : State) : State :=
  if mgnSees s then
    let key := 2 * k + high.toNat
    let l := (d :: mget (fun _ => []) s.mgn.toff key).take 1024
    let s := s.updMgn (fun m => { m with toff := mset (fun _ => []) m.toff key l })
    s.put (if high then F.MGN_TOFF_HS k else F.MGN_TOFF_LS k) (satTo 0xFFFF (l.foldl (· + ·) 0 / l.length))
  else s

/-- An accepted on-resistance sample in 1/256 of 10 µΩ: the mean of 256, and its limit. -/
def mgnRon (k : Nat) (high : Bool) (x : Nat) (s : State) : State :=
  if mgnSees s then
    mgnSum (2 * k + high.toNat) 256 x (fun sum u =>
      let v := satTo 0xFFFE (sum.toNat / 65536)
      let u := u.put (if high then F.MGN_RON_HS k else F.MGN_RON_LS k) v
      if bitsOf (u.spb 83) 15 0 < v then exhaust 3 u else u) s
  else s

/-- A bootstrap droop sample × 0.1 mV/ms: the mean of 64, and its limit. -/
def mgnDroop (k : Nat) (x : Int) (s : State) : State :=
  if mgnSees s then
    mgnSum (64 + k) 64 x (fun sum u =>
      let v := clampInt (sum / 64) (-32768) 32767
      let u := u.putS (F.MGN_DROOP_DROOP k) v
      if ((bitsOf (u.spb 84) 15 0 : Nat) : Int) < v then exhaust 4 u else u) s
  else s

/-- An amplifier-offset sample of phase `ph` of ADC `k`: the mean of 16, and its limit in codes from 8,192. -/
def mgnOffset (k ph code : Nat) (s : State) : State :=
  mgnSum (128 + 4 * k + ph) 16 code (fun sum u =>
    let v := sum.toNat / 16
    let u := match ph with
      | 0 => u.put (F.MGN_OFS_OFSU k) v
      | 1 => u.put (F.MGN_OFS_OFSV k) v
      | _ => u.put (F.MGN_OFSW_OFSW k) v
    if bitsOf (u.spb 85) 15 0 < ((v : Int) - 8192).natAbs then exhaust 5 u else u) s

/-- A sample of the 1.000 V reference: 4,000 codes of 250 µV above 8,192 (R404), so a code is 250 ppm. The mean of 16. -/
def mgnGain (k code : Nat) (s : State) : State :=
  mgnSum (128 + 4 * k + 3) 16 (((code : Int) - 12192) * 250) (fun sum u =>
    let v := clampInt (sum / 16) (-32768) 32767
    let u := u.putS (F.MGN_OFSW_GAINERR k) v
    if bitsOf (u.spb 85) 31 16 < (sum / 16).natAbs then exhaust 6 u else u) s

/-- MGN_OFFSET_SLOT: the slot's turn; a slot near a sampling instant is not run, and its result needs the bridge. -/
def execMgnOffsetSlot (k : Fin 8) (code : BitVec 14) (near : Bool) (s : State) : Out :=
  if mgnOn s then
    let t := mget (fun _ => 0) s.mgn.turn k.val
    let s := s.updMgn (fun m => { m with turn := mset (fun _ => 0) m.turn k.val ((t + 1) % 4) })
    .next (if near || !mgnSees s then s else if t = 3 then mgnGain k.val code.toNat s else mgnOffset k.val t code.toNat s)
  else .next s

/-! ### Proposals (R380) -/

/-- HELD of MGN.STAT shows whether a proposal of each class is held. -/
def settleHeld (s : State) : State :=
  let dt := (List.range 24).any (fun k => s.flag (F.MGN_DTP_HELD k))
  let thr := (List.range 24).any (fun k => s.flag (F.MGN_THRP_HELD k))
  s.put F.MGN_STAT_HELD (dt.toNat + 2 * thr.toNat + 4 * (s.flag F.MGN_VIDP_HELD).toNat)

/-- What a proposal does: the parameter's new value, and whether it is held. Outside its bounds the parameter moves to the bound, but for
an approved value, which stays until a proposal inside the bounds comes (R380, R381). -/
def propose (approved : Bool) (cur prop lo hi : Int) : Int × Bool :=
  if lo ≤ prop ∧ prop ≤ hi then (prop, false) else (if approved then cur else clampInt prop lo hi, true)

/-- Does a parameter hold an approved value? -/
def isApproved (s : State) (key : Nat) : Bool := s.mgn.approved.contains key

/-- A proposal of a parameter has come: inside the bounds it ends an approval. -/
def approvalEnd (key : Nat) (held : Bool) (s : State) : State :=
  if held then s else s.updMgn (fun m => { m with approved := m.approved.filter (· != key) })

/-- An evaluation that proposes the value `cur` as it is: no proposal inside the bounds, nor over an approved value. -/
def quiet (approved : Bool) (cur prop lo hi : Int) : Bool := prop == cur && (approved || decide (lo ≤ prop ∧ prop ≤ hi))

/-- A proposal applied: source 80. -/
def proposalApplied (s : State) : State := evcCount 0x71 1 (icuEvent 80 s)

/-- A proposal held: the class's EXH bit, source 81. -/
def proposalHeld (bit : Nat) (s : State) : State := evcCount 0x72 1 (exhaust bit s)

/-- The bounds of DTADJ of leg `k`. -/
def dtBounds (s : State) (k : Nat) : Int × Int :=
  let b := s.spb (64 + k / 3)
  (signed 16 (bitsOf b 15 0), signed 16 (bitsOf b 31 16))

/-- The dead-time proposal of leg `k`. DTADJ and PROP hold −8,192 to 8,191 (R220, log 113). -/
def proposeDt (k : Nat) (prop : Int) (s : State) : State :=
  let b := dtBounds s k
  let r := propose (isApproved s k) (s.getS (F.PWM_DT_DTADJ k)) prop b.1 b.2
  let s := ((noteOld (R.PWM_DT k) s).putS (F.PWM_DT_DTADJ k) (clampInt r.1 (-8192) 8191)).putB (F.MGN_DTP_HELD k) r.2
  let s := approvalEnd k r.2 s
  settleHeld (if r.2 then proposalHeld 0 (s.putS (F.MGN_DTP_PROP k) (clampInt prop (-8192) 8191)) else proposalApplied s)

/-- The dead-time evaluation of one leg (R377). -/
def dtEvaluate (k : Nat) (s : State) : State :=
  let hs := s.get (F.MGN_TOFF_HS k)
  let ls := s.get (F.MGN_TOFF_LS k)
  if mgnOn s && s.flag F.MGN_CTL_DTEN && hs != 0 && ls != 0 then
    let target : Int := (max hs ls + bitsOf (s.spb 82) 15 0 : Nat) - (s.get (F.PWM_DT_DTBASE k) : Int)
    let cur := s.getS (F.PWM_DT_DTADJ k)
    let prop := cur + clampInt (target - cur) (-64) 64
    let b := dtBounds s k
    if quiet (isApproved s k) cur prop b.1 b.2 then
      (if isApproved s k then s else settleHeld (s.put (F.MGN_DTP_HELD k) 0))
    else proposeDt k prop s
  else s

/-- MGN_DT_EVALUATION -/
def execMgnDtEvaluation (k : Fin 24) (s : State) : Out := .next (dtEvaluate k.val s)

/-- The smallest code whose threshold reaches Vt, given as KTHR × IPK × RON; where none does, the target is open. -/
def thrTarget (v : Nat) : Nat :=
  match (List.range 32).find? (fun c => decide (v ≤ thrMv c * 1600)) with
  | some c => c
  | none => (Config.thrBeyond v).toNat

/-- The VID proposal (R379, R380). -/
def proposeVid (prop : Nat) (s : State) : State :=
  let b := s.spb 80
  let cur := s.get F.MGN_VIDP_CUR
  let r := propose (isApproved s 64) cur prop (bitsOf b 4 0 : Nat) (bitsOf b 12 8 : Nat)
  let s := approvalEnd 64 r.2 (s.putB F.MGN_VIDP_HELD r.2)
  let s := if r.1 = (cur : Int) then s else s.updPwr (fun p => { p with vidTarget := some r.1.toNat })
  settleHeld (if r.2 then proposalHeld 2 (s.put F.MGN_VIDP_PROP prop) else proposalApplied s)

/-- The slack of a window is taken: the sensors, WIN and WORST (R375). -/
def slackTake (slacks : List Int) (s : State) : State :=
  let s := forAll (List.range 16) (fun j u => u.putS (F.MGN_PDS_SLK j) (clampInt (slacks.getD j 0) (-32768) 32767)) s
  let m := (List.range 16).foldl (fun a j => min a (clampInt (slacks.getD j 0) (-32768) 32767)) 32767
  icuEvent 82 ((s.putS F.MGN_SLACK_WIN m).putS F.MGN_SLACK_WORST (min m (s.getS F.MGN_SLACK_WORST)))

/-- A window counts in the run of windows above SLKHI, or ends it (R379). -/
def slackRun (s : State) : State :=
  let above := decide (((bitsOf (s.spb 81) 31 16 : Nat) : Int) < s.getS F.MGN_SLACK_WIN)
  s.updMgn (fun g => { g with high := if above then g.high + 1 else 0 })

/-- The evaluation at the end of a window (R379); a proposal of VID − 1 begins a new run. -/
def slackEvaluate (s : State) : State :=
  if s.getS F.MGN_SLACK_WIN < ((bitsOf (s.spb 81) 15 0 : Nat) : Int) then proposeVid (s.get F.MGN_VIDP_CUR + 1) s
  else if 100 ≤ s.mgn.high ∧ 0 < s.get F.MGN_VIDP_CUR then
    proposeVid (s.get F.MGN_VIDP_CUR - 1) (s.updMgn (fun g => { g with high := 0 }))
  else s

/-- MGN_SLACK_WINDOW: a window runs while the planner measures and no VID step is under way. The run counts windows, evaluated or not
(DEDUCED, log 113). -/
def execMgnSlackWindow (slacks : List Int) (s : State) : Out :=
  if mgnOn s && s.pwr.vidTarget.isNone then
    let s := slackRun (slackTake slacks s)
    .next (if s.flag F.MGN_CTL_VIDEN then slackEvaluate s else s)
  else .next s

/-- VID_STEP_DONE (R71, R379): the code has moved by one step toward the target; source 83. While the BIST controller runs the
planner makes no step (R371). -/
def execVidStepDone (s : State) : Out :=
  if s.flag F.BST_STAT_RUN then .next s
  else match s.pwr.vidTarget with
  | none => .next s
  | some v =>
    let cur := s.get F.MGN_VIDP_CUR
    let n := if cur < v then cur + 1 else if v < cur then cur - 1 else cur
    let s := s.put F.MGN_VIDP_CUR n
    .next (icuEvent 83 (s.updPwr (fun p => { p with vidTarget := if n = v then none else some v })))

end Sys2Proof.Machine
end

