-- ==== Sys2Proof/Machine/Fp.lean ====
section
/-! DEFINITION. Binary32 arithmetic by exact integers: unpacking, exact sums, products, quotients and roots, and one rounding
step. The Prism engine's rules (R130) and the control processor's (R87) are built on it. -/

namespace Sys2Proof

/-- A number: its sign, and `m + st` units of `2 ^ e`, where a set `st` stands for some fraction of a unit above 0. -/
structure Fp where
  neg : Bool
  m : Nat
  e : Int
  st : Bool := false
deriving DecidableEq, Repr

/-- Is the pattern a NaN? -/
def fpNaN (w : Word) : Bool := decide (0x7F800000 < w.toNat % 0x80000000)

/-- Is the pattern an infinity? -/
def fpInf (w : Word) : Bool := w.toNat % 0x80000000 == 0x7F800000

/-- Is the pattern finite? -/
def fpFinite (w : Word) : Bool := decide (w.toNat % 0x80000000 < 0x7F800000)

/-- Is the sign bit set? -/
def fpNeg (w : Word) : Bool := bitOf w 31

/-- The number of a finite pattern, subnormals included. -/
def fpOf (w : Word) : Fp :=
  let x := bitsOf w 30 23
  let f := bitsOf w 22 0
  if x = 0 then { neg := fpNeg w, m := f, e := -149 } else { neg := fpNeg w, m := 2 ^ 23 + f, e := (x : Int) - 150 }

/-- A rounded result: the magnitude's pattern before overflow handling, and what the rounding did. -/
structure FpRounded where
  bits : Nat
  inexact : Bool
  ovf : Bool
deriving DecidableEq, Repr

/-- Does rounding add a unit? Modes: 0 nearest even, 1 toward zero, 2 down, 3 up, 4 nearest away. `c` is the dropped part against
half a unit: 0 nothing, 1 below, 2 a tie, 3 above. -/
def roundUp (rm : Nat) (neg odd : Bool) (c : Nat) : Bool :=
  match rm with
  | 0 => c == 3 || (c == 2 && odd)
  | 2 => c != 0 && neg
  | 3 => c != 0 && !neg
  | 4 => c == 3 || c == 2
  | _ => false

/-- The part of `m` below bit `k`, against half of `2 ^ k`. -/
def lowPart (m k : Nat) (st : Bool) : Nat :=
  if k = 0 then (if st then 1 else 0)
  else
    let r := m % 2 ^ k
    let h := 2 ^ (k - 1)
    if r = 0 ∧ st = false then 0 else if r < h then 1 else if r = h ∧ st = false then 2 else 3

/-- Round a number's magnitude to binary32. `over` says that it exceeds the largest finite number; `bits` then is at or above
0x7F800000. -/
def fpRound (rm : Nat) (a : Fp) : FpRounded :=
  if a.m = 0 ∧ a.st = false then { bits := 0, inexact := false, ovf := false }
  else
    let top : Int := a.e + Nat.log2 a.m
    let t : Int := max (top - 23) (-149)
    let k := (t - a.e).toNat
    let q := if a.e < t then a.m / 2 ^ k else a.m * 2 ^ (a.e - t).toNat
    let c := if a.e < t then lowPart a.m k a.st else lowPart 0 0 a.st
    let q := if roundUp rm a.neg (q % 2 == 1) c then q + 1 else q
    let n := if q < 2 ^ 23 then q else (q + ((t + 149).toNat) * 2 ^ 23)
    { bits := n, inexact := c != 0, ovf := decide (0x7F800000 ≤ n) }

/-- The exact sum of two numbers without a sticky part, with the sign of an exact zero under rounding mode `rm`. -/
def fpAddX (rm : Nat) (a b : Fp) : Fp :=
  if a.m = 0 ∧ b.m = 0 then { neg := if a.neg == b.neg then a.neg else rm == 2, m := 0, e := 0 }
  else
    let e := min a.e b.e
    let x : Int := ((a.m * 2 ^ (a.e - e).toNat : Nat) : Int)
    let y : Int := ((b.m * 2 ^ (b.e - e).toNat : Nat) : Int)
    let s := (if a.neg then -x else x) + (if b.neg then -y else y)
    if s = 0 then { neg := rm == 2, m := 0, e := 0 } else { neg := decide (s < 0), m := s.natAbs, e := e }

/-- The exact product. -/
def fpMulX (a b : Fp) : Fp := { neg := a.neg != b.neg, m := a.m * b.m, e := a.e + b.e }

/-- The quotient to more bits than any rounding needs; the divisor is not 0. -/
def fpDivX (a b : Fp) : Fp :=
  let k := 26 + Nat.log2 b.m
  let n := a.m * 2 ^ k
  { neg := a.neg != b.neg, m := n / b.m, e := a.e - b.e - k, st := n % b.m != 0 }

/-- The integer square root, one bit at a time from bit `k - 1`. -/
def isqrtFrom : Nat → Nat → Nat → Nat
  | 0, _, r => r
  | k + 1, n, r => let t := r + 2 ^ k; isqrtFrom k n (if t * t ≤ n then t else r)

/-- The integer square root of a number below 2 ^ 128. -/
def isqrt (n : Nat) : Nat := isqrtFrom 64 n 0

/-- The square root of a number that is not negative. -/
def fpSqrtX (a : Fp) : Fp :=
  if a.m = 0 then a
  else
    let k := 60
    let odd := a.e % 2 != 0
    let n := a.m * 2 ^ (if odd then k + 1 else k)
    let e := if odd then a.e - 1 else a.e
    let r := isqrt n
    { neg := false, m := r, e := e / 2 - 30, st := r * r != n }

/-- Nearest integer to a number, by rounding mode, and whether it is inexact. -/
def fpToInt (rm : Nat) (a : Fp) : Int × Bool :=
  let k := (-a.e).toNat
  let q := if a.e < 0 then a.m / 2 ^ k else a.m * 2 ^ a.e.toNat
  let c := if a.e < 0 then lowPart a.m k a.st else 0
  let q := if roundUp rm a.neg (q % 2 == 1) c then q + 1 else q
  (if a.neg then -(q : Int) else (q : Int), c != 0)

/-- Is `a < b`, as numbers (−0 equals +0)? -/
def fpLt (a b : Fp) : Bool :=
  let e := min a.e b.e
  let x : Int := ((a.m * 2 ^ (a.e - e).toNat : Nat) : Int)
  let y : Int := ((b.m * 2 ^ (b.e - e).toNat : Nat) : Int)
  decide ((if a.neg then -x else x) < (if b.neg then -y else y))

/-- An integer as a number. -/
def fpInt (i : Int) : Fp := { neg := decide (i < 0), m := i.natAbs, e := 0 }

/-! ### The engine's arithmetic (R130) -/

/-- A value on the engine's FP path: its word, and whether an operation that led to it exceeded the largest number. -/
structure Ev where
  w : Word
  sat : Bool := false
deriving DecidableEq, Repr

/-- An input word: a subnormal is a zero of its sign (R130). -/
def Ev.val (x : Ev) : Fp :=
  let a := fpOf x.w
  if bitsOf x.w 30 23 = 0 then { a with m := 0 } else a

/-- Join the saturation of another value. -/
def Ev.also (x y : Ev) : Ev := { x with sat := x.sat || y.sat }

/-- Round a number to nearest even, flush a subnormal, hold an overflow at ±MAX with SAT (R130). -/
def evRound (a : Fp) (sat : Bool) : Ev :=
  let r := fpRound 0 a
  let s := if a.neg then 0x80000000 else 0
  if r.ovf then { w := BitVec.ofNat 32 (s + 0x7F7FFFFF), sat := true }
  else if r.bits < 0x800000 then { w := BitVec.ofNat 32 s, sat := sat }
  else { w := BitVec.ofNat 32 (s + r.bits), sat := sat }

/-- x + y -/
def evAdd (x y : Ev) : Ev := evRound (fpAddX 0 x.val y.val) (x.sat || y.sat)

/-- −x: the sign of the number, a subnormal taken as zero. -/
def evNeg (x : Ev) : Ev := evRound { x.val with neg := !x.val.neg } x.sat

/-- |x| -/
def evAbs (x : Ev) : Ev := evRound { x.val with neg := false } x.sat

/-- x − y -/
def evSub (x y : Ev) : Ev :=
  evRound (fpAddX 0 x.val { y.val with neg := !y.val.neg }) (x.sat || y.sat)

/-- x × y -/
def evMul (x y : Ev) : Ev := evRound (fpMulX x.val y.val) (x.sat || y.sat)

/-- fma(x, y, z) = x × y + z, rounded once -/
def evFma (x y z : Ev) : Ev := evRound (fpAddX 0 (fpMulX x.val y.val) z.val) (x.sat || y.sat || z.sat)

/-- x / y for y other than 0 -/
def evDiv (x y : Ev) : Ev := evRound (fpDivX x.val y.val) (x.sat || y.sat)

/-- √x for x not below 0 -/
def evSqrt (x : Ev) : Ev := evRound (fpSqrtX x.val) x.sat

/-- Is the value a zero? -/
def evZero (x : Ev) : Bool := x.val.m == 0

/-- x < y as numbers -/
def evLt (x y : Ev) : Bool := fpLt x.val y.val

/-- x ≤ y as numbers -/
def evLe (x y : Ev) : Bool := !fpLt y.val x.val

/-- Does x precede y in the order of FMIN and FMAX, where −0 is less than +0? -/
def evBefore (x y : Ev) : Bool :=
  evLt x y || (evZero x && evZero y && x.val.neg && !y.val.neg)

/-- min(x, y) as a value of the engine, a subnormal taken as zero. The macro-operations take −0 below +0 as FMIN and FMAX do (DESIGN
CHOICE, log 100). -/
def evMin (x y : Ev) : Ev := evRound (if evBefore y x then y.val else x.val) (x.sat || y.sat)

/-- max(x, y) -/
def evMax (x y : Ev) : Ev := evRound (if evBefore x y then y.val else x.val) (x.sat || y.sat)

/-- A word as a value. -/
def ev (w : Word) : Ev := { w := w }

/-- +0.0 -/
def evZ : Ev := ev 0

/-- 0.5 -/
def evHalf : Ev := ev 0x3F000000

/-- 1.0 -/
def evOne : Ev := ev 0x3F800000

/-- 2.0 -/
def evTwo : Ev := ev 0x40000000

/-! ### Sine and cosine (R140) -/

/-- π / 2 in units of 2⁻⁶⁰. -/
def halfPi60 : Int := 1811004864519280710

/-- Taylor terms of the sine from x, in units of 2⁻⁶⁰: `k` more terms from the term `t` of degree `n`. -/
def sinTerms : Nat → Int → Int → Int → Int → Int
  | 0, _, _, _, acc => acc
  | k + 1, n, t, x2, acc =>
    let t' := -(t * x2 / 2 ^ 60) / ((n + 1) * (n + 2))
    sinTerms k (n + 2) t' x2 (acc + t')

/-- The sine of r × (π/2) / 2³⁰ for 0 ≤ r ≤ 2³⁰, in units of 2⁻⁶⁰, to within 2⁻⁵⁰. -/
def sinQuarter (r : Nat) : Int :=
  let x := (r : Int) * halfPi60 / 2 ^ 30
  sinTerms 12 1 x (x * x / 2 ^ 60) x

/-- The sine of an angle word (R132) in units of 2⁻⁶⁰. -/
def sin60 (q : Nat) : Int :=
  let u := q % 2 ^ 32
  let r := u % 2 ^ 30
  match u / 2 ^ 30 with
  | 0 => sinQuarter r
  | 1 => sinQuarter (2 ^ 30 - r)
  | 2 => -sinQuarter r
  | _ => -sinQuarter (2 ^ 30 - r)

/-- A number in units of 2⁻⁶⁰ as a value. -/
def ev60 (i : Int) : Ev := evRound { neg := decide (i < 0), m := i.natAbs, e := -60 } false

/-- A value in units of 2⁻⁶⁰, rounded toward zero. -/
def to60 (x : Ev) : Int :=
  let a := x.val
  let n : Nat := if a.e + 60 < 0 then a.m / 2 ^ (-(a.e + 60)).toNat else a.m * 2 ^ (a.e + 60).toNat
  if a.neg then -(n : Int) else (n : Int)

/-- A table's result: the device's word where it keeps the bound of R140, an absolute error of at most 2⁻²² against the exact
value `x`; the manual gives no more of it. A word outside the bound stands for the rounded exact value. -/
def within22 (c : Word) (x : Int) : Ev :=
  if fpFinite c && decide ((to60 (ev c) - x).natAbs ≤ 2 ^ 38) && !(bitsOf c 30 23 == 0 && bitsOf c 22 0 != 0) then ev c
  else ev60 x

/-- The table's sine. -/
def evSin (q : Word) : Ev := within22 (Config.sinWord q) (sin60 q.toNat)

/-- The table's cosine. -/
def evCos (q : Word) : Ev := within22 (Config.cosWord q) (sin60 (q.toNat + 2 ^ 30))

end Sys2Proof
end

