-- ==== Sys2Proof/Machine/Loupe.lean ====
section
/-! DEFINITION. The Loupe (R177–R180): captures, sample events, trigger conditions and the staging FIFO. The six relations of
QCMP (R139) stand here, since a trigger condition uses them too. -/

namespace Sys2Proof.Machine

/-! ### Relations (R139) -/

/-- A relation code applied to "less" and "equal": 0 EQ, 1 NE, 2 LT, 3 LE, 4 GT, 5 GE. -/
def relOf (code : Nat) (lt eq : Bool) : Bool :=
  match code with
  | 0 => eq
  | 1 => !eq
  | 2 => lt
  | 3 => lt || eq
  | 4 => !(lt || eq)
  | _ => !lt

/-- QCMP and signed ICMP. -/
def relSigned (code : Nat) (a b : Word) : Bool := relOf code (decide (a.toInt < b.toInt)) (a == b)

/-- Unsigned ICMP. -/
def relUnsigned (code : Nat) (a b : Word) : Bool := relOf code (decide (a.toNat < b.toNat)) (a == b)

/-- FCMP: a NaN or an infinity compares unordered; −0 equals +0; a subnormal is a zero. -/
def relFp (code : Nat) (a b : Word) : Bool :=
  if fpFinite a && fpFinite b then relOf code (evLt (ev a) (ev b)) (!evLt (ev a) (ev b) && !evLt (ev b) (ev a))
  else code == 1

/-! ### Buffers -/

/-- One buffer's record. -/
def State.loupe (s : State) (b : Nat) : Loupe := mget (fun _ => {}) s.lup b

/-- Change one buffer's record. -/
def State.updLoupe (s : State) (b : Nat) (f : Loupe → Loupe) : State := { s with lup := mupd (fun _ => {}) s.lup b f }

/-- The enabled channels, in ascending order (R177). -/
def lupChans (s : State) (b : Nat) : List Nat := (List.range 8).filter (fun c => s.flag (F.LUP_CH_MODE b c))

/-- The capacity in records; 0 with no channel. -/
def lupCap (s : State) (b : Nat) : Nat := 4096 / (lupChans s b).length

/-- The buffer's first byte. -/
def lupBase (s : State) (b : Nat) : Nat := s.get (F.LUP_BASE_BASE b) * 0x4000

/-- A capture ends (R179, R180). -/
def lupEnd (b : Nat) (cut : Bool) (s : State) : State :=
  let s := s.putB (F.LUP_STAT_INCOMPLETE b) (cut || s.flag (F.LUP_STAT_LOST b))
  icuEvent (60 + b) ((s.put (F.LUP_STAT_RUN b) 0).put (F.LUP_STAT_DONE b) 1)

/-- A write of 1 to START: a capture begins or CFGERR is set. The divider counts from START (DESIGN CHOICE, log 111). -/
def lupStart (b : Nat) (s : State) : State :=
  if s.flag (F.LUP_STAT_RUN b) then s
  else
    let n := (lupChans s b).length
    let base := lupBase s b
    if n = 0 ∨ lupCap s b ≤ s.get (F.LUP_PRE_PRE b) ∨ ¬ (0x20000000 ≤ base ∧ base + 0x4000 ≤ 0x20400000) then
      s.put (F.LUP_STAT_CFGERR b) 1
    else
      let s := ((s.put (F.LUP_STAT_RUN b) 1).put (F.LUP_STAT_INCOMPLETE b) 0).put (F.LUP_STAT_TRIGD b) 0
      (s.put (F.LUP_STAT_LOST b) 0).updLoupe b (fun _ => {})

/-- An event that makes the next sample record the trigger record; it is ignored before PRE records have been taken. -/
def lupArm (b : Nat) (s : State) : State :=
  if s.flag (F.LUP_STAT_RUN b) ∧ s.get (F.LUP_PRE_PRE b) ≤ (s.loupe b).taken then
    s.updLoupe b (fun l => { l with armed := true })
  else s

/-- A write of 1 to ABORT, or another cause that stops a running capture (R180). -/
def lupStop (b : Nat) (s : State) : State := if s.flag (F.LUP_STAT_RUN b) then lupEnd b true s else s

/-- What channel `c` records. -/
def lupWord (s : State) (b c : Nat) : Word :=
  if s.get (F.LUP_CH_MODE b c) = 1 then s.operand (s.get (F.LUP_CH_IDX b c))
  else mget (fun _ => 0) (s.loupe b).hold c

/-- The comparison of TRGSEL 0b01. -/
def lupCompare (s : State) (b : Nat) : Bool :=
  let c := s.get (F.LUP_CTL_TRGCH b)
  let rel := s.get (F.LUP_CTL_REL b)
  let x := lupWord s b c
  let y := s.reg (R.LUP_THR b)
  (lupChans s b).contains c &&
    (match s.get (F.LUP_CTL_TFMT b) with
    | 0 => relSigned rel x y
    | 1 => relFp rel x y
    | _ => relUnsigned rel x y)

/-- A record joins the buffer: its words enter the staging FIFO, and the capture moves on. -/
def lupRecord (b t : Nat) (s : State) : State :=
  let ch := lupChans s b
  let cap := lupCap s b
  let l := s.loupe b
  let idx := l.taken % cap
  let base := lupBase s b + 4 * ch.length * idx
  let words := (ch.map (lupWord s b)).zipIdx.map (fun e => (base + 4 * e.2, e.1))
  let pre := s.get (F.LUP_PRE_PRE b)
  let trgd := s.flag (F.LUP_STAT_TRIGD b)
  let hit := !trgd && decide (pre ≤ l.taken) && (l.armed || (s.get (F.LUP_CTL_TRGSEL b) == 1 && lupCompare s b))
  let after := if trgd then l.after + 1 else 0
  let s := { s with fifo := s.fifo ++ words }
  let s := s.updLoupe b (fun l =>
    { l with taken := l.taken + 1, after := after, armed := l.armed && !hit, last := some t })
  let s := if hit then (s.put (F.LUP_STAT_TRIGD b) 1).put (F.LUP_STAT_TRIGIDX b) idx else s
  if (trgd || hit) ∧ after = cap - pre - 1 then lupEnd b false s else s

/-- A sample event that the divider passes at cycle `t` (R178, R180). -/
def lupSample (b t : Nat) (s : State) : State :=
  let soon := match (s.loupe b).last with
    | none => false
    | some l => decide (t < l + 8)
  if soon || decide (64 < s.fifo.length + (lupChans s b).length) then s.bump (F.LUP_STAT_LOST b) 1
  else lupRecord b t s

/-- An event that may be a buffer's sample event: `kind` 0 a trigger source, 1 a flow's completion. -/
def lupEventOne (kind src t b : Nat) (s : State) : State :=
  if s.flag (F.LUP_STAT_RUN b) ∧ s.get (F.LUP_SMP_KIND b) = kind ∧ s.get (F.LUP_SMP_SRC b) = src then
    let n := (s.loupe b).div
    if s.get (F.LUP_SMP_DIV b) ≤ n then lupSample b t (s.updLoupe b (fun l => { l with div := 0 }))
    else s.updLoupe b (fun l => { l with div := n + 1 })
  else s

/-- An event for every buffer. -/
def lupEvent (kind src t : Nat) (s : State) : State := forAll [0, 1, 2, 3] (lupEventOne kind src t) s

/-- A graph flag rises, or a flow overruns: the buffers whose TRGSEL waits for it. -/
def lupCause (sel arg : Nat) (s : State) : State :=
  forAll [0, 1, 2, 3] (fun b t =>
    if t.get (F.LUP_CTL_TRGSEL b) = sel ∧ t.get (F.LUP_CTL_TRGARG b) = arg then lupArm b t else t) s

/-- TRACE offers a word to a channel (R159). -/
def lupTrace (b c : Nat) (w : Word) (s : State) : State :=
  if s.flag (F.LUP_STAT_RUN b) ∧ s.get (F.LUP_CH_MODE b c) = 2 then
    s.updLoupe b (fun l => { l with hold := mset (fun _ => 0) l.hold c w })
  else s

/-- LUP_START -/
def execLupStart (b : Fin 4) (s : State) : Out := .next (access 0 (R.LUP_CTL b.val) (lupStart b.val) s)

/-- LUP_SWTRG -/
def execLupSwtrg (b : Fin 4) (s : State) : Out := .next (access 0 (R.LUP_CTL b.val) (lupArm b.val) s)

/-- LUP_ABORT -/
def execLupAbort (b : Fin 4) (s : State) : Out := .next (access 0 (R.LUP_CTL b.val) (lupStop b.val) s)

end Sys2Proof.Machine
end

