-- ==== Sys2Proof/Machine/Prs.lean ====
section
/-! DEFINITION. The Prism scheduler (R121–R136, R161–R176) and the flip of the configuration set (R330, R331): triggers,
instances, ready lists, tokens, exceptions, suspension, scans and monitors. -/

namespace Sys2Proof.Machine

/-! ### Node table and placement (R126, R127, R171) -/

/-- The live node-table half: false H0, true H1 (R330). -/
def liveHalf (s : State) : Bool := s.flag F.CFG_STAT_LIVE

/-- Where node `n` of a half lies. -/
def nodeAddr (half : Bool) (n : Nat) : Nat := (if half then 0x30020000 else 0x30000000) + 16 * n

/-- The 128 bits of a node word. -/
def nodeBits (s : State) (half : Bool) (n : Nat) : Nat :=
  let a := nodeAddr half n
  (s.word a).toNat + (s.word (a + 4)).toNat * 2 ^ 32 + (s.word (a + 8)).toNat * 2 ^ 64 + (s.word (a + 12)).toNat * 2 ^ 96

/-- Bits `[hi:lo]` of a node word. -/
def nfld (w hi lo : Nat) : Nat := (w >>> lo) % 2 ^ (hi + 1 - lo)

/-- A node's OPC. -/
def nOpc (w : Nat) : Nat := nfld w 127 120

/-- A node's FLOW. -/
def nFlow (w : Nat) : Nat := nfld w 119 114

/-- A node's ARITY. -/
def nArity (w : Nat) : Nat := nfld w 113 112

/-- A node's SRC0, SRC1, SRC2. -/
def nSrc (w i : Nat) : Nat := nfld w (111 - 14 * i) (98 - 14 * i)

/-- A node's DST. -/
def nDst (w : Nat) : Nat := nfld w 69 56

/-- A node's SUCC0, SUCC1. -/
def nSucc (w i : Nat) : Nat := nfld w (55 - 14 * i) (42 - 14 * i)

/-- A node's PARAM. -/
def nParam (w : Nat) : Nat := nfld w 27 0

/-- The facet on which node `n` of a half is placed. -/
def placeOf (s : State) (half : Bool) (n : Nat) : Nat :=
  let a := R.PRS_PLACE (n / 8)
  bitsOf (if half == liveHalf s then s.reg a else s.shd a) (4 * (n % 8) + 2) (4 * (n % 8))

/-! ### Ready lists (R168, R169, R176) -/

/-- The order of a ready list: priority, cycle of entry, node index. -/
def readyBefore (x y : Ready) : Bool :=
  decide (y.prio < x.prio) || (x.prio == y.prio && (decide (x.entry < y.entry) || (x.entry == y.entry && decide (x.node < y.node))))

/-- Put a node in its place. -/
def readyInsert (x : Ready) : List Ready → List Ready
  | [] => [x]
  | y :: l => if readyBefore x y then x :: y :: l else y :: readyInsert x l

/-- QDEPTH and QMAX follow the list. -/
def queueShow (f : Nat) (s : State) : State :=
  let n := (s.facet f).ready.length
  let s := s.put (F.PRS_FQ_QDEPTH f) n
  s.putMax (F.PRS_FQ_QMAX f) n

/-- A node becomes ready: it enters the list, or is held while the list is full. -/
def readyEnter (f t : Nat) (x : Ready) (s : State) : State :=
  let c := s.facet f
  if c.ready.length < 256 then queueShow f (s.updFacet f (fun c => { c with ready := readyInsert x c.ready }))
  else
    s.updFacet f (fun c => { c with held := c.held ++ [x], heldFrom := if c.held.isEmpty then t else c.heldFrom })

/-- Held nodes enter as far as places are free, the one held first ahead (DESIGN CHOICE, log 110). -/
def readyRefill (f : Nat) (s : State) : State :=
  let c := s.facet f
  let k := 256 - c.ready.length
  let s := s.updFacet f (fun c =>
    { c with ready := (c.held.take k).foldl (fun l x => readyInsert x l) c.ready, held := c.held.drop k })
  queueShow f s

/-! ### Instances (R164–R167, R172, R174) -/

/-- The instance of a flow in service. -/
def instOf (s : State) (n : Nat) : Option Inst := s.prs.insts.find? (fun i => i.flow == n)

/-- The instance with a number. -/
def instId (s : State) (id : Nat) : Option Inst := s.prs.insts.find? (fun i => i.id == id)

/-- Change the instance with a number. -/
def updInst (id : Nat) (f : Inst → Inst) (s : State) : State :=
  s.updPrs (fun p => { p with insts := p.insts.map (fun i => if i.id = id then f i else i) })

/-- DRAIN shows whether an instance of the old half is in service. -/
def settleDrain (s : State) : State := s.putB F.PRS_STAT_DRAIN (s.prs.insts.any (fun i => i.half != liveHalf s))

/-- RUNNING is RUN without STOPPED. -/
def settleRunning (s : State) : State := s.putB F.PRS_STAT_RUNNING (s.flag F.PRS_CTL_RUN && !s.flag F.PRS_STAT_STOPPED)

/-- SCAN shows a running scan. -/
def settleScan (s : State) : State := s.putB F.PRS_STAT_SCAN (s.prs.runScan || s.prs.flipScan)

/-- An instance ends without completing (R135): its nodes leave the lists, its tokens are discarded; issued nodes go on. -/
def instEnd (i : Inst) (s : State) : State :=
  let s := s.updPrs (fun p => { p with
    insts := p.insts.filter (fun j => j.id != i.id), toks := p.toks.filter (fun k => k.id != i.id) })
  let s := forAll (List.range 8) (fun f u =>
    readyRefill f (u.updFacet f (fun c => { c with
      ready := c.ready.filter (fun r => r.id != i.id), held := c.held.filter (fun r => r.id != i.id) }))) s
  settleDrain (s.put (F.PRS_FLOWST_INSV i.flow) 0)

/-- An instance of flow `n` starts with trigger cycle `t`, on the half that is live (R162, R174). It keeps the priority of that cycle over
a flip (DESIGN CHOICE, log 110). -/
def instStart (n t : Nat) (s : State) : State :=
  let info := mget (fun _ => {}) s.prs.info n
  let i : Inst := { id := s.prs.nextId, flow := n, trig := t, half := liveHalf s, prio := s.get (F.PRS_FLOWCFG_PRIO n)
                    nodes := info.nodes, roots := info.roots }
  let s := s.updPrs (fun p => { p with nextId := p.nextId + 1, insts := p.insts ++ [i] })
  evcCount 0x18 1 (s.put (F.PRS_FLOWST_INSV n) 1)

/-- An overrun or a deadline miss is counted and reported (R165, R166). -/
def overCount (n : Nat) (s : State) : State :=
  let s := (s.bump (F.PRS_FLOWST_OVRCNT n) 1).putBit (F.PRS_OVRSUM_OVR (n / 32)) (n % 32) true
  lupCause 3 n (evcCount 0x19 1 (icuEvent 56 s))

/-- Can a flow be triggered: not suspended, not with more than eight roots (R163, R172)? -/
def flowOpen (s : State) (n : Nat) : Bool :=
  !s.flag (F.PRS_FLOWST_SUSP n) && (mget (fun _ => {}) s.prs.info n).nroot != 0xF

/-- A held trigger starts its instance at cycle `t`. -/
def startPending (n t : Nat) (s : State) : State :=
  if s.flag (F.PRS_FLOWST_PEND n) ∧ (instOf s n).isNone then
    let s := s.put (F.PRS_FLOWST_PEND n) 0
    if s.flag F.PRS_STAT_RUNNING && flowOpen s n then instStart n t s else s
  else s

/-- A source's event is on its way to the scheduler. -/
def present (src : Nat) (s : State) : State :=
  s.updPrs (fun p => { p with events := p.events ++ [{ src := src, time := s.now }] })

/-- May the instance complete (R164)? Not before its roots have entered, also where it has none (DESIGN CHOICE, log 110). -/
def canComplete (s : State) (i : Inst) : Bool :=
  i.rooted && !s.prs.toks.any (fun k => k.id == i.id) && !s.prs.flights.any (fun k => k.id == i.id)
    && (List.range 8).all (fun f =>
      !(s.facet f).ready.any (fun r => r.id == i.id) && !(s.facet f).held.any (fun r => r.id == i.id))

/-- An instance completes in cycle `t`. -/
def complete (i : Inst) (t : Nat) (s : State) : State :=
  let n := i.flow
  let s := if i.fired < i.nodes then s.put (F.PRS_FLOWST_UNFIRED n) 1 else s
  let r := satTo 0xFFFF (t - i.trig)
  let s := (s.put (F.PRS_FRESP_RLAST n) r).putMax (F.PRS_FRESP_RMAX n) r
  let s := instEnd i s
  let s := if s.flag (F.PRS_FLOWCFG_CIRQ n) then icuEvent 57 s else s
  let s := if s.flag F.PRS_CHAIN_ENA && s.get F.PRS_CHAIN_FLOWA == n then present 22 s else s
  let s := if s.flag F.PRS_CHAIN_ENB && s.get F.PRS_CHAIN_FLOWB == n then present 23 s else s
  startPending n t (lupEvent 1 n t s)

/-- An instance of flow `n` whose completion cycle has come is no longer in service (R164). -/
def settleDone (n t : Nat) (s : State) : State :=
  match instOf s n with
  | none => s
  | some i => if canComplete s i then complete i t s else s

/-- A trigger of flow `n` in cycle `t` (R163, R165, R167, R172). In the completion cycle a held trigger starts first, and this one is its
overrun (DESIGN CHOICE, log 110). -/
def trigger (n t : Nat) (s : State) : State :=
  if s.flag F.PRS_STAT_RUNNING = false then s
  else if s.flag (F.PRS_FLOWST_SUSP n) then s
  else if s.prs.runScan then s.put (F.PRS_FLOWST_PEND n) 1
  else if flowOpen s n = false then s
  else
    let s := settleDone n t s
    match instOf s n with
    | none => instStart n t s
    | some _ =>
      let s := overCount n (s.put (F.PRS_FLOWST_TRIGOVR n) 1)
      if s.flag (F.PRS_FLOWCFG_POL n) then s else s.put (F.PRS_FLOWST_PEND n) 1

/-- One event of a flow's source passes its divider or is counted by it (R162). -/
def divide (n t : Nat) (s : State) : State :=
  let c := mget (fun _ => 0) s.prs.divs n
  if s.get (F.PRS_FLOWCFG_DIV n) ≤ c then
    trigger n t (s.updPrs (fun p => { p with divs := mset (fun _ => 0) p.divs n 0 }))
  else s.updPrs (fun p => { p with divs := mset (fun _ => 0) p.divs n (c + 1) })

/-- The scheduler takes an event of a source in cycle `t`: every enabled flow on that source, and the Loupe. -/
def takeEvent (src t : Nat) (s : State) : State :=
  let s := forAll (List.range 64) (fun n u =>
    if u.flag (F.PRS_FLOWCFG_EN n) && u.get (F.PRS_FLOWCFG_SRC n) == src then divide n t u else u) s
  lupEvent 0 src t s

/-- The deadline of R166: the period-boundary load of group `g`. -/
def deadline (g : Nat) (s : State) : State :=
  forAll (List.range 64) (fun n u =>
    if u.flag (F.PRS_FLOWCFG_DLEN n) && u.get (F.PRS_FLOWCFG_DLGRP n) == g then
      let u := settleDone n u.now u
      if (instOf u n).isSome then overCount n (u.put (F.PRS_FLOWST_DLMISS n) 1) else u
    else u) s

/-! ### Exceptions and saturation (R134–R136) -/

/-- A node raises a cause: NEXC, the count, source 58; under ABORT its instance ends, and a held trigger of its flow starts the next
one at once (DESIGN CHOICE, log 68). -/
def nodeExc (cause facet flow node id t : Nat) (s : State) : State :=
  let s :=
    if s.flag F.PRS_NEXC_VALID then s.put F.PRS_NEXC_OVR 1
    else ((((s.put F.PRS_NEXC_VALID 1).put F.PRS_NEXC_CAUSE cause).put F.PRS_NEXC_FACET facet).put F.PRS_NEXC_FLOW flow).put
      F.PRS_NEXC_NODE node
  let s := evcCount 0x1A 1 (icuEvent 58 (s.bump F.PRS_NEXCCNT_COUNT 1))
  if bitOf (s.reg R.PRS_EXCPOL) cause then
    match instId s id with
    | some i => startPending i.flow t (instEnd i s)
    | none => s
  else s

/-- The flow's SAT bit. -/
def satFlow (flow : Nat) (s : State) : State :=
  evcCount 0x1B 1 (s.putBit (F.PRS_SATFLOW_SAT (flow / 32)) (flow % 32) true)

/-! ### Suspension (R172) -/

/-- The flows with a node on a facet of `mask` in the live set. -/
def flowsOn (s : State) (mask : Nat) : Nat :=
  if mask = 0 then 0
  else (List.range 8192).foldl (fun m i =>
    if mask.testBit (placeOf s (liveHalf s) i) then m ||| 2 ^ nFlow (nodeBits s (liveHalf s) i) else m) 0

/-- The facets whose pair is frozen or retired. -/
def facetsOut (s : State) : Nat :=
  (List.range 8).foldl (fun m f =>
    if s.mir.frozen.contains (f + 1) || s.mir.stuck.contains (f + 1) || s.bit F.MIR_RETIRED_FACET f then m ||| 2 ^ f else m) 0

/-- Flow `n` is suspended or resumes. -/
def suspend (mask n : Nat) (s : State) : State :=
  let on := mask.testBit n
  let s := (s.putB (F.PRS_FLOWST_SUSP n) on).putBit (F.PRS_SUSP_SUSP (n / 32)) (n % 32) on
  if on then
    let s := s.put (F.PRS_FLOWST_PEND n) 0
    match instOf s n with
    | some i => instEnd i s
    | none => s
  else s

/-- The suspended flows follow the facets that are out. -/
def settleSusp (s : State) : State :=
  let m := flowsOn s (facetsOut s)
  if m = 0 ∧ s.reg (R.PRS_SUSP 0) = 0 ∧ s.reg (R.PRS_SUSP 1) = 0 then s else forAll (List.range 64) (suspend m) s

/-- A CP mismatch stops the scheduler (R117, R167): every instance in service ends. -/
def stopScheduler (s : State) : State :=
  let s := settleRunning (s.put F.PRS_STAT_STOPPED 1)
  let s := s.prs.insts.foldl (fun u i => instEnd i u) s
  forAll (List.range 64) (fun n u => u.put (F.PRS_FLOWST_PEND n) 0) s

/-- The verdict "neither copy faulty" for the CP pair clears STOPPED. -/
def resumeScheduler (s : State) : State := settleRunning (s.put F.PRS_STAT_STOPPED 0)

/-! ### Scans and flips (R163, R173, R330–R332) -/

/-- One node of a scan. -/
def scanNode (s : State) (half : Bool) (m : List (Nat × FlowInfo)) (i : Nat) : List (Nat × FlowInfo) :=
  let w := nodeBits s half i
  mupd (fun _ => {}) m (nFlow w) (fun c =>
    let c := { c with nodes := c.nodes + 1, grps := if nOpc w = 0x51 then c.grps ||| 2 ^ (nParam w % 8) else c.grps }
    if nArity w = 0 then
      if c.roots.length < 8 ∧ c.nroot ≠ 0xF then { c with nroot := c.nroot + 1, roots := c.roots ++ [i] }
      else { c with nroot := 0xF, roots := [] }
    else c)

/-- The scan of a half. -/
def scanHalf (s : State) (half : Bool) : List (Nat × FlowInfo) := (List.range 8192).foldl (scanNode s half) []

/-- FINFO and ROOTOVF show the scan. -/
def showScan (m : List (Nat × FlowInfo)) (s : State) : State :=
  let s := forAll (List.range 64) (fun n u =>
    let c := mget (fun _ => ({} : FlowInfo)) m n
    (u.put (F.PRS_FINFO_NNODES n) c.nodes).put (F.PRS_FINFO_NROOT n) c.nroot) s
  if m.any (fun e => e.2.nroot == 0xF) then s.put F.PRS_STAT_ROOTOVF 1 else s

/-- The RWS bits of a register (R6). -/
def rwsMask (a : Nat) : Nat :=
  match Regs.spec a with
  | none => 0
  | some r => r.fields.foldl (fun m f => if f.acc = .rws then m + (2 ^ (f.hi + 1) - 2 ^ f.lo) else m) 0

/-- Exchange the RWS bits of one register. -/
def swapReg (a : Nat) (s : State) : State :=
  let m := BitVec.ofNat 32 (rwsMask a)
  let l := s.reg a
  let h := s.shd a
  (s.setReg a ((l &&& ~~~m) ||| (h &&& m))).setShd a ((h &&& ~~~m) ||| (l &&& m))

/-- The registers in which either copy differs from its reset value. -/
def listedRegs (s : State) : List Nat :=
  (s.regs.map (·.1)).filter (fun a => rwsMask a != 0)
    ++ (s.shadow.map (·.1)).filter (fun a => rwsMask a != 0 && !(s.regs.any (fun e => e.1 == a)))

/-- A flow whose EN has risen counts its events anew (R162). -/
def dividersAfter (old : State) (s : State) : State :=
  forAll (List.range 64) (fun n u =>
    if u.flag (F.PRS_FLOWCFG_EN n) && !old.flag (F.PRS_FLOWCFG_EN n) then
      u.updPrs (fun p => { p with divs := mset (fun _ => 0) p.divs n 0 })
    else u) s

/-- The forcing of the Mirror follows its entries: the gating points of every group that a pair holds, and the command lines of
the groups that a CP or facet pair holds, which stay at their last compared value until the next resume point (R117, R416). -/
def settleMirror (s : State) : State :=
  let all := s.mir.hold.foldl (fun m e => m ||| e.2) 0
  let lines := (s.mir.hold.filter (fun e => decide (e.1 < 9))).foldl (fun m e => m ||| e.2) 0
  settle (forAll (List.range 8) (fun g t =>
    let t := t.updGrp g (fun h => { h with mirror := all.testBit g })
    if lines.testBit g && !(t.pg g).frozen then
      forAll [3 * g, 3 * g + 1, 3 * g + 2] (fun k u => u.updLeg k (fun l => { l with edges := [] }))
        (t.updPg g (fun p => { p with frozen := true }))
    else if !lines.testBit g && (t.pg g).frozen then t.updPg g (fun p => { p with frozen := false, held := true })
    else t) s)

/-- MIR.STATE shows a pending flip no longer. -/
def phaseIdle (s : State) : State :=
  if s.get F.MIR_STATE_PHASE = 3 then (s.put F.MIR_STATE_PHASE 0).put F.MIR_STATE_PAIR 0x1F else s

/-- A flip takes effect for the retired facets that waited for one: their groups return to service (R119). -/
def mirrorReturn (s : State) : State :=
  if s.mir.flipFor.isEmpty then s
  else
    let wait := s.mir.flipFor
    let s := { s with mir := { s.mir with flipFor := [], hold := s.mir.hold.filter (fun e => !wait.contains e.1) } }
    settleMirror (phaseIdle s)

/-- The flip (R331): live and shadow copies of every RWS field and the roles of H0 and H1 are exchanged; the new root lists take
effect; SHRDY is 0, FLIPCNT rises. The groups that waited for this flip return to service (R119). -/
def flipNow (s : State) : State :=
  let t := (listedRegs s).foldl (fun u a => swapReg a u) s
  let t := t.putB F.CFG_STAT_LIVE (!liveHalf s)
  let t := t.updPrs (fun p => { p with info := p.next, next := [], flipScan := false })
  let t := ((t.put F.CFG_CTL_SHRDY 0).bump F.CFG_STAT_FLIPCNT 1).put F.CFG_STAT_ARMED 0
  let t := { t with lnk := { t.lnk with lflip := false } }
  settle (mirrorReturn (settleSusp (settleDrain (settleScan (dividersAfter s t)))))

/-- A write to the shadow half or the shadow placement is refused now (R174). -/
def shadowHeld (s : State) : Bool :=
  s.prs.flipScan || s.lnk.lflip || s.flag F.CFG_STAT_ARMED || s.flag F.PRS_STAT_DRAIN

/-- A pending flip is cancelled with its scan (R334). -/
def flipCancel (s : State) : State :=
  settleScan ({ (s.updPrs (fun p => { p with flipScan := false, next := [] })) with lnk := { s.lnk with lflip := false } })

/-- A scan of the shadow half starts for a flip (R173). -/
def flipScanStart (s : State) : State := settleScan (s.updPrs (fun p => { p with flipScan := true }))

/-! ### The scheduler's rows -/

/-- FLOW_TRIGGER (R161, R162): the scheduler takes the oldest presented event of a source. -/
def execFlowTrigger (src : Fin 32) (at_ : Nat) (s : State) : Out :=
  let s := advanceTo at_ s
  if s.prs.events.any (fun e => e.src == src.val) then
    .next (takeEvent src.val at_ (s.updPrs (fun p => { p with events := p.events.eraseP (fun e => e.src == src.val) })))
  else .next s

/-- One root enters its facet's list. -/
def rootEnter (i : Inst) (t n : Nat) (s : State) : State :=
  let s := updInst i.id (fun j => { j with fired := j.fired + 1 }) s
  readyEnter (placeOf s i.half n) t { id := i.id, flow := i.flow, node := n, half := i.half, entry := t, prio := i.prio } s

/-- FLOW_ROOT_ENTRY: the roots enter in cycle T + 2. -/
def execFlowRootEntry (n : Fin 64) (at_ : Nat) (s : State) : Out :=
  let s := advanceTo at_ s
  match instOf s n.val with
  | none => .next s
  | some i =>
    if i.rooted then .next s
    else .next (forAll i.roots (rootEnter i at_) (updInst i.id (fun j => { j with rooted := true }) s))

/-- A token reaches its target (R121, R134, R168). -/
def tokenArrive (k : Tok) (t : Nat) (s : State) : State :=
  match instId s k.id with
  | none => s
  | some i =>
    let w := nodeBits s i.half k.node
    let c := mget (fun _ => 0) i.counts k.node
    if nArity w ≤ c then
      if k.quiet then s
      else
        let s := s.updPrs (fun p => { p with toks := p.toks.map (fun j => if j.id = k.id ∧ j.src = k.src then { j with quiet := true } else j) })
        nodeExc 6 k.facet i.flow k.src i.id t s
    else
      let full := c + 1 == nArity w
      let s := updInst i.id (fun j =>
        { j with counts := mset (fun _ => 0) j.counts k.node (c + 1), fired := if full then j.fired + 1 else j.fired }) s
      if full then
        readyEnter (placeOf s i.half k.node) t
          { id := i.id, flow := i.flow, node := k.node, half := i.half, entry := t, prio := i.prio } s
      else s

/-- TOKEN_ARRIVAL -/
def execTokenArrival (node : BitVec 14) (at_ : Nat) (s : State) : Out :=
  let s := advanceTo at_ s
  match s.prs.toks.find? (fun k => k.node == node.toNat) with
  | none => .next s
  | some k => .next (tokenArrive k at_ (s.updPrs (fun p => { p with toks := p.toks.erase k })))

/-- FLOW_COMPLETE -/
def execFlowComplete (n : Fin 64) (at_ : Nat) (s : State) : Out :=
  let s := advanceTo at_ s
  match instOf s n.val with
  | none => .next s
  | some i => if canComplete s i then .next (complete i at_ s) else .next s

/-- A write of PRS.CTL.RUN (R163, R167). A write of 0 during the scan that RUN started cancels it: FINFO stays as it was (DESIGN
CHOICE, log 97). -/
def prsRunWrite (run : Bool) (s : State) : State :=
  let was := s.flag F.PRS_CTL_RUN
  let s := settleRunning (s.putB F.PRS_CTL_RUN run)
  if run && !was then settleScan (s.updPrs (fun p => { p with runScan := true }))
  else if run then s
  else
    let s := settleScan (s.updPrs (fun p => { p with runScan := false }))
    forAll (List.range 64) (fun n u => u.put (F.PRS_FLOWST_PEND n) 0) s

/-- PRS_RUN -/
def execPrsRun (run : Bool) (s : State) : Out := .next (prsRunWrite run s)

/-- A write of 1 to MONCLR (R176): a maximum that rises in the same cycle takes the new value. -/
def monClear (s : State) : State :=
  let s := forAll (List.range 8) (fun f u =>
    ((u.clearMax (F.PRS_FQ_QMAX f)).clearMax (F.PRS_FW_WMAX f)).clearMax (F.PRS_FL_LMAX f)) s
  forAll (List.range 64) (fun n u => u.clearMax (F.PRS_FRESP_RMAX n)) s

/-- PRS_MONCLR -/
def execPrsMonclr (at_ : Nat) (s : State) : Out := .next (monClear (advanceTo at_ s))

/-- The scan for a flip ends; a local flip takes effect with it (R173, R334). -/
def flipScanEnd (s : State) : State :=
  let m := scanHalf s (!liveHalf s)
  let s := settleScan (showScan m (s.updPrs (fun p => { p with next := m, flipScan := false })))
  if s.lnk.lflip then flipNow s else s

/-- SCAN_COMPLETE: the RUN scan ends, which tells the groups that have a graph (R24), and the held triggers start; or the scan for a flip ends, and a local flip takes effect. -/
def execScanComplete (at_ : Nat) (s : State) : Out :=
  let s := advanceTo at_ s
  if s.prs.runScan then
    let m := scanHalf s (liveHalf s)
    let s := settleScan (showScan m (s.updPrs (fun p => { p with info := m, runScan := false })))
    .next (forAll (List.range 64) (fun n u => startPending n at_ u) (settleSusp (settle s)))
  else if s.prs.flipScan then .next (flipScanEnd s)
  else .next s

/-- MONITOR_WINDOW_END (R176): the averages of the window that ends at cycle `at_`; slots still occupied count in the next one.
WAVG saturates (DESIGN CHOICE, log 110). -/
def execMonitorWindowEnd (f : Fin 8) (at_ : Nat) (s : State) : Out :=
  let s := advanceTo at_ s
  let c := s.facet f.val
  let spill := c.free - at_
  let busy := c.busy - spill
  let len := 2 ^ (12 + s.get F.PRS_MONCTL_WIN)
  let load := min 1024 (busy * 1024 / len)
  let s := s.put (F.PRS_FW_WAVG f.val) (if c.issues = 0 then 0 else satTo 0xFFFF (c.waits * 16 / c.issues))
  let s := (s.put (F.PRS_FL_LOAD f.val) load).putMax (F.PRS_FL_LMAX f.val) load
  let s := s.updFacet f.val (fun c => { c with waits := 0, issues := 0, busy := min spill c.busy })
  let a := s.get F.PRS_MONCTL_ALARM
  .next (if a ≠ 0 ∧ a ≤ load then icuEvent 59 (s.put (F.PRS_FL_ALARM f.val) 1) else s)

/-- PRS_TIMER_EXPIRY -/
def execPrsTimerExpiry (n : Fin 4) (s : State) : Out :=
  if s.flag (F.PRS_TMR_EN n.val) then .next (present (18 + n.val) s) else .next s

/-- A write of PRS.SWTRIG: every named source in the next CLK_ENG cycle. -/
def swTrig (set : Nat) (s : State) : State := forAll (bitsIn 8 set) (fun k => present (24 + k)) s

/-- PRS_SWTRIG -/
def execPrsSwtrig (set : BitVec 8) (s : State) : Out := .next (swTrig set.toNat s)

/-- NEXCCNT_CLR -/
def execNexccntClr (s : State) : Out := .next (s.put F.PRS_NEXCCNT_COUNT 0)

/-- WCOLL_CLR -/
def execWcollClr (s : State) : Out := .next (s.put F.PRS_WCOLL_COUNT 0)

/-- FLOWST_CLR -/
def execFlowstClr (n : Fin 64) (s : State) : Out := .next (s.put (F.PRS_FLOWST_OVRCNT n.val) 0)

end Sys2Proof.Machine
end

