-- ==== Sys2Proof/Machine/Pwm.lean ====
section
/-! DEFINITION. The pattern generators (R215–R234, R416): carriers, edges, carry and refresh, synchronisation, delay lines, trips
from fault inputs, and lead-only groups. An LSB is 156.25 ps: 64 of them are 3 CLK_ENG cycles. -/

namespace Sys2Proof.Machine

/-- The legs of a group (R23). -/
def legsOf (g : Nat) : List Nat := [3 * g, 3 * g + 1, 3 * g + 2]

/-! ### Holds (R224, R230, R234, R416) -/

/-- A latched trip maps to the group. -/
def tripped (s : State) (g : Nat) : Bool :=
  (List.range 6).any (fun m => s.bit F.PWM_TRIP_TRIP m && (s.get (F.PWM_FLTCFG_MASK m)).testBit g)

/-- The group is lead-only and the device holds neither the token nor the ring lead (R224, R323). -/
def leadHeld (s : State) (g : Nat) : Bool :=
  s.bit F.PWM_LEADGRP_GRP g && !s.flag F.LNK_STAT_TOKEN && !s.flag F.LNK_STAT_RLEAD

/-- The group's own pair is out (R117, R119). -/
def pairOut (s : State) (g : Nat) : Bool :=
  s.mir.frozen.contains (9 + g) || s.mir.stuck.contains (9 + g) || s.bit F.MIR_RETIRED_PWMGRP g

/-- The group's lines must stay low. -/
def linesBlocked (s : State) (g : Nat) : Bool :=
  !s.flag (F.PWM_GCFG_EN g) || tripped s g || leadHeld s g || s.flag F.PWM_STAT_DBGHALT || pairOut s g

/-- TRIPPED follows the latches. -/
def settleTripped (s : State) : State := forAll (List.range 8) (fun g t => t.putB (F.PWM_GSTAT_TRIPPED g) (tripped t g)) s

/-! ### Duties (R155, R156, R216) -/

/-- A finite duty clamped to 0.0–1.0; none for a NaN or an infinity. -/
def dutyClamp (w : Word) : Option Word :=
  if !fpFinite w then none
  else if fpLt (fpOf w) (fpOf 0) then some 0
  else if fpLt (fpOf 0x3F800000) (fpOf w) then some 0x3F800000
  else some w

/-- Write the compare shadow of leg `k` in cycle `t`. In one cycle the CP's write stands over every PWMWR, and that of a higher
facet over that of a lower one. -/
def dutyStore (k : Nat) (w : Word) (by_ t : Nat) (s : State) : State :=
  let l := s.leg k
  let same := l.dutyAt == some t
  if same && decide (by_ < l.dutyBy) then s
  else
    let old := if same then l.dutyOld else s.reg (R.PWM_DUTY k)
    (s.updLeg k (fun l => { l with dutyOld := old, dutyAt := some t, dutyBy := by_ })).setReg (R.PWM_DUTY k) w

/-- DUTY_WRITE: the CP writes a duty (R216). -/
def dutyWrite (k : Nat) (v : Word) (s : State) : State :=
  match dutyClamp v with
  | none => s
  | some w => dutyStore k w 8 s.now s

/-- DUTY_WRITE -/
def execDutyWrite (k : Fin 24) (v : Word) (s : State) : Out := .next (dutyWrite k.val v s)

/-- The duty that loads at a boundary in cycle `t`: a write that takes effect in that cycle goes to the following one. -/
def dutyAtLoad (s : State) (k t : Nat) : Word :=
  if (s.leg k).dutyAt = some t then (s.leg k).dutyOld else s.reg (R.PWM_DUTY k)

/-- round(d × P), ties upward (R219), for a duty in 0.0–1.0. -/
def highTime (d : Word) (p : Nat) : Nat :=
  let a := fpOf d
  let n := 2 * a.m * p
  let den := 2 ^ (-a.e).toNat
  (n + den) / (2 * den)

/-! ### Command lines (R219, R236, R237, R245, R375) -/

/-- A line takes a level at instant `t`, and the leg's driver follows (R236): `fall` as `settleLeg` has it. A high-side turn-on with the
bootstrap supply back ends a bootstrap hold (R245). -/
def lineSet (t : Nat) (fall : Option Nat) (k : Nat) (high level : Bool) (x : Int) (s : State) : State :=
  let bs := s.flag (F.GDR_STAT_BSOK k)
  settleLeg t fall k (s.updLeg k (fun l =>
    match high, level with
    | true, true => { l with lineH := true, bsHold := l.bsHold && !bs }
    | true, false => { l with lineH := false }
    | false, true => { l with lineL := true, lowFrom := x }
    | false, false => { l with lineL := false }))

/-- An edge of the pattern happens; a line held at its last compared value stays (R117). -/
def edgeFire (t : Nat) (fall : Option Nat) (g k : Nat) (e : Edge) (s : State) : State :=
  if (s.pg g).frozen then s else lineSet t fall k e.high e.level e.time s

/-- A turn-off delay in LSB, in whole CLK_ENG cycles. -/
def lsbCycles (d : Nat) : Nat := (3 * d + 63) / 64

/-- What a turn-off of leg `k` tells the planner (R375): the turn-off delay of a switch that was on, and the droop of a high side that was
on for 10 µs. `before` is the leg as it was. -/
def turnOffMeasured (k : Nat) (high : Bool) (before : Leg) (toff : Option (BitVec 14)) (droop : Option (BitVec 16)) (s : State) : State :=
  match (if high then before.onH else before.onL) with
  | none => s
  | some a =>
    if s.now < a then s
    else
      let s := match toff with
        | some d => mgnToff k high d.toNat s
        | none => s
      match high, droop with
      | true, some d => if a + 3000 ≤ s.now then mgnDroop k d.toInt s else s
      | _, _ => s

/-- COMMAND_LINE_EDGE: the edge that the pattern has still to make, and the measurements at a turn-off. -/
def execCommandLineEdge (k : Fin 24) (high level : Bool) (toff : Option (BitVec 14)) (droop : Option (BitVec 16)) (at_ : Nat)
    (s : State) : Out :=
  let s := advanceTo at_ s
  let g := k.val / 3
  let before := s.leg k.val
  match before.edges.find? (fun e => e.high == high && e.level == level) with
  | none => .next s
  | some e =>
    let s := edgeFire s.now (toff.map (fun d => lsbCycles d.toNat)) g k.val e
      (s.updLeg k.val (fun l => { l with edges := l.edges.erase e }))
    let stays := if high then (s.leg k.val).onH.isSome else (s.leg k.val).onL.isSome
    .next (if level || stays then s else turnOffMeasured k.val high before toff droop s)

/-- The instant of an edge of the pattern that no command has reported, not after now. -/
def edgeInstant (s : State) (g : Nat) (e : Edge) : Nat := min s.now ((((s.pg g).pos : Int) + e.time).toNat * 3 / 64)

/-- The edges before the end of the period happen, in order; what is left moves to the new period's time. -/
def drainEdges (g k : Nat) (p : Int) (s : State) : State :=
  let l := s.leg k
  let due := l.edges.filter (fun e => decide (e.time < p))
  let s := due.foldl (fun t e => edgeFire (edgeInstant s g e) none g k e t) s
  s.updLeg k (fun l =>
    { l with edges := (l.edges.filter (fun e => !decide (e.time < p))).map (fun e => { e with time := e.time - p })
             lowFrom := max (l.lowFrom - p) (-10000000) })

/-! ### The period (R215, R219–R223) -/

/-- The loads of R216 for a group in cycle `t`. -/
def loadGroup (g t : Nat) (s : State) : State :=
  let refn := s.loaded t (F.PWM_GCFG_REFN g)
  let chop := g == 7 && s.loaded t (F.PWM_GCFG_CHOP g) == 1
  let half := s.loaded t (F.PWM_PRD_HALF g)
  let frac := s.loaded t (F.PWM_PRD_FRAC g)
  let tmin := s.loaded t (F.PWM_MINP_TMIN g) * 32
  let refw := s.loaded t (F.PWM_GCFG_REFW g) * 320
  s.updPg g (fun p =>
    { p with half := half, frac := frac, tmin := tmin, refw := refw, chop := chop,
             refn := refn, refc := if refn = p.refn then p.refc + 1 else 1 })

/-- What a valley takes of the delay-line calibration (R218): the new map, and placement by it again once TAPS is back in range. -/
def loadMap (g : Nat) (s : State) : State :=
  let s := if !(s.pg g).fine && !(s.pg g).tapsBad then s.put (F.PWM_DLCAL_LOCK g) 1 else s
  s.updPg g (fun p => { p with fine := !p.tapsBad, map := p.nextMap })

/-- The length of the next period (R215): the exact valley time accumulates in 1/128 LSB, and the valley is placed at the nearest
LSB, ties upward; a correction changes this period alone (R226). -/
def nextPeriod (g : Nat) (s : State) : State :=
  s.updPg g (fun p =>
    let x := p.err + (256 * p.half + p.frac : Nat)
    let n := (x + 64) / 128
    { p with p := (n + p.corr).toNat, err := x - 128 * n, corr := 0 })

/-- The effective dead time that loads in cycle `t`, and whether the clamp acted (R220). -/
def deadTime (s : State) (k t : Nat) : Nat × Bool :=
  let adj := F.PWM_DT_DTADJ k
  let x := (s.loaded t (F.PWM_DT_DTBASE k) : Int) + signed (adj.hi + 1 - adj.lo) (s.loaded t adj)
  ((clampInt x 0 12800).toNat, decide (x < 0 ∨ 12800 < x))

/-- The outcome of R221 for one leg. -/
structure Pulse where
  h : Nat
  c : Int
  droph : Bool
  dropl : Bool
  refcap : Bool
deriving DecidableEq, Repr

/-- The steps of R221. -/
def pulseOf (p hd : Nat) (c : Int) (lmin refw : Nat) (refresh : Bool) : Pulse :=
  let hreq : Int := (hd : Int) + c
  let x : Pulse :=
    if hreq < lmin then { h := 0, c := hreq, droph := true, dropl := false, refcap := false }
    else if (p : Int) - hreq < lmin then { h := p, c := hreq - p, droph := false, dropl := true, refcap := false }
    else { h := hreq.toNat, c := 0, droph := false, dropl := false, refcap := false }
  let cap : Int := (p : Int) - (max refw lmin : Nat)
  if refresh && decide (cap < (x.h : Int)) then { x with h := cap.toNat, refcap := true } else x

/-- An edge time at 5 ns resolution where the delay bits are ignored (R218). -/
def place (p : Pgrp) (x : Int) : Int := if p.fine then x else (p.pos + x) / 32 * 32 - p.pos

/-- The edges of a leg's new period from R219, after those still to come of the one before. `wasP`: the high side stayed on through
the period before. A turn-on at or after the turn-off that follows it on its line is cancelled with it. -/
def edgesOf (p : Pgrp) (prev : List Edge) (wasP : Bool) (oldTdk h tdk : Nat) : List Edge :=
  let r := (p.p - h) / 2
  let e := fun (x : Int) (high level : Bool) => ({ time := place p x, high := high, level := level } : Edge)
  let full := h = p.p
  let tail := if wasP && !full then [e 0 true false, e oldTdk false true] else prev
  let rise := tail.find? (fun a => !a.high && a.level)
  let low :=
    if h = 0 then tail
    else if full && wasP then tail
    else
      let f := e r false false
      match rise with
      | none => tail ++ [f]
      | some a => if f.time ≤ a.time then tail.erase a else tail ++ [f]
  let high :=
    if h = 0 ∨ (full ∧ wasP = true) then []
    else if full then [e (r + tdk) true true]
    else if h ≤ tdk then []
    else [e (r + tdk) true true, e (r + h) true false]
  let last := if h = 0 ∨ full then [] else [e (r + h + tdk) false true]
  low ++ high ++ last

/-- The edges of the chopper on L21 (R223): the low-side line is on for h about the peak. -/
def chopEdges (p : Pgrp) (wasP : Bool) (h : Nat) : List Edge :=
  let r := (p.p - h) / 2
  let e := fun (x : Int) (level : Bool) => ({ time := place p x, high := false, level := level } : Edge)
  if h = 0 then (if wasP then [e 0 false] else [])
  else if h = p.p then (if wasP then [] else [e 0 true])
  else (if wasP then [e 0 false] else []) ++ [e r true, e (r + h) false]

/-- What a leg contributes to its period: 0 the chopper's leg, 1 a leg that keeps both lines low in chopper mode, 2 any other. -/
def legRole (p : Pgrp) (g k : Nat) : Nat := if p.chop then (if k = 3 * g then 0 else 1) else 2

/-- The lines of a leg at its resume point (R416), before the new edges: high where R219 has them on across the boundary. -/
def resumeLeg (p : Pgrp) (g k h : Nat) (s : State) : State :=
  let s := lineSet s.now none k true false 0 (lineSet s.now none k false false 0 s)
  match legRole p g k with
  | 0 => if h = p.p then lineSet s.now none k false true 0 s else s
  | 1 => s
  | _ => if h = p.p then lineSet s.now none k true true 0 s else lineSet s.now none k false true 0 s

/-- One leg's new period: the pulse, the registers APP and CARRY, the lines at a resume point, the edges. `stay` keeps the lines
as they are held. -/
def legPeriod (g : Nat) (refresh resume stay : Bool) (t k : Nat) (s : State) : State :=
  let p := s.pg g
  let role := legRole p g k
  let l := s.leg k
  let dt := deadTime s k t
  let tdk := if role = 2 then dt.1 else 0
  let hd := highTime (dutyAtLoad s k t) p.p
  let c := if resume then 0 else signed 32 (s.reg (R.PWM_CARRY k)).toNat
  let x := if role = 1 then { h := 0, c := 0, droph := false, dropl := false, refcap := false }
           else pulseOf p.p hd c (max p.tmin tdk) p.refw refresh
  let s := s.setReg (R.PWM_APP k) 0
  let s := ((s.putB (F.PWM_APP_REFCAP k) x.refcap).putB (F.PWM_APP_DROPL k) x.dropl).putB (F.PWM_APP_DROPH k) x.droph
  let s := ((s.putB (F.PWM_APP_DTCLAMP k) (dt.2 && role == 2)).put (F.PWM_APP_H k) x.h).putS (F.PWM_CARRY_C k) x.c
  let s := evcCount (0x30 + g) (x.droph.toNat + x.dropl.toNat) (evcCount (0x38 + g) x.refcap.toNat s)
  let s := s.updLeg k (fun l => { l with h := x.h, tdk := tdk, r := (p.p - x.h) / 2, peakOn := 0, dutyAt := if l.dutyAt = some t then l.dutyAt else none })
  if stay then s
  else
    let s := if resume then resumeLeg p g k x.h s else s
    let full := x.h == p.p
    s.updLeg k (fun a => { a with edges :=
      match role with
      | 0 => chopEdges p (if resume then full else l.lineL) x.h
      | 1 => []
      | _ => edgesOf p (if resume then [] else l.edges) (if resume then full else l.lineH) l.tdk x.h tdk })

/-- The start of a period: the loads, its length, and each leg's pulse. The group leaves a hold here where nothing blocks it. -/
def periodStart (g t : Nat) (s : State) : State :=
  let chopBefore := (s.pg g).chop
  let s := nextPeriod g (loadGroup g t s)
  let p := s.pg g
  let refresh := p.refn != 0 && p.refc % p.refn == 0
  let blocked := linesBlocked s g
  let resume := (p.held && !blocked) || p.chop != chopBefore
  let s := s.updPg g (fun p => { p with held := blocked, time := t })
  let s := if leadHeld s g then s else s.put (F.PWM_GSTAT_LEADBLK g) 0
  forAll (legsOf g) (legPeriod g refresh resume (blocked || p.frozen) t) s

/-- What a group loads at its valleys counts as written before its first period: the writes so far came while EN = 0 (R216). -/
def writesBefore (g : Nat) (s : State) : State :=
  let regs := R.PWM_GCFG g :: R.PWM_PRD g :: R.PWM_MINP g :: (legsOf g).map R.PWM_DT
  let s := { s with fresh := { s.fresh with wrote := s.fresh.wrote.filter (fun e => !regs.contains e.1) } }
  forAll (legsOf g) (fun k u => u.updLeg k (fun l => { l with dutyAt := none })) s

/-- PWM_GROUP_ENABLE (R216, R217): the first period begins at the next CLK_PWM edge, with the loads and the lines of R416. That start is
no valley: the delay-line map stays as it is. -/
def groupEnable (g : Nat) (s : State) : State :=
  if s.flag (F.PWM_GSTAT_RUN g) then s
  else
    let s := writesBefore g s
    let s := (s.put (F.PWM_GCFG_EN g) 1).put (F.PWM_GSTAT_RUN g) 1
    let pos := (s.now * 64 / 3 / 32 + 1) * 32
    let s := s.updPg g (fun p => { p with err := 0, corr := 0, held := true, pos := pos, refn := 0, refc := 0 })
    settle (periodStart g s.now (forAll (legsOf g) (fun k u => (u.put (F.PWM_CARRY_C k) 0).updLeg k (fun l => { l with edges := [] })) s))

/-- PWM_GROUP_ENABLE -/
def execPwmGroupEnable (g : Fin 8) (s : State) : Out := .next (groupEnable g.val s)

/-- PWM_GROUP_DISABLE (R217, R234): the counter stops, both lines of each leg are low. A release that waited for the next
boundary takes effect. -/
def groupDisable (g : Nat) (s : State) : State :=
  let s := linesLow g ((s.put (F.PWM_GCFG_EN g) 0).put (F.PWM_GSTAT_RUN g) 0)
  settle (boundaryRelease g s)

/-- PWM_GROUP_DISABLE -/
def execPwmGroupDisable (g : Fin 8) (s : State) : Out := .next (groupDisable g.val s)

/-! ### Synchronisation (R225–R228) -/

/-- At a valley the group emits its synchronising pulse (R217, R228), and the first valley after a KRing cycle start is one at which
ring mode corrects (R226). -/
def valleyPulse (g : Nat) (s : State) : State :=
  s.updPg g (fun p => { p with pulse := some p.pos, ringDue := p.ringDue || p.cycStart, cycStart := false })

/-- SYNCO is high for 100 ns from a pulse of G7 (R228). -/
def synco (s : State) : Bool :=
  s.flag (F.PWM_GCFG_SYNCOEN 7) && (match (s.pg 7).pulse with
    | some t => decide (t ≤ s.now * 64 / 3 ∧ s.now * 64 / 3 < t + 640)
    | none => false)

/-- The carrier epoch modulo the period: ring time 0, in LSB (R286). -/
def ringEpoch (s : State) : Int := s.krg.start - ((s.get F.KRG_CYC_CYC32 * s.get F.KRG_CYCLEN_LEN * 64 : Nat) : Int)

/-- The reference event of a group that is there to be used, in LSB: in chain mode the pulse of the group before, or for G0 the
timestamp of a rising edge on SYNCI; in ring mode the epoch, at the first valley after a cycle start while ring time is valid. -/
def syncReference (s : State) (g synci : Nat) : Option Int :=
  if s.get (F.PWM_GCFG_SYNC g) = 1 then
    (if g = 0 then some (synci : Int) else (s.pg (g - 1)).pulse.map (fun t => (t : Int)))
  else if s.get (F.PWM_GCFG_SYNC g) = 2 ∧ (s.pg g).ringDue = true ∧ s.krg.timeValid = true then some (ringEpoch s)
  else none

/-- The phase error of R226, rounded to an LSB: the next valley less the nearest target, wrapped into (−T/2, T/2]. Times in 1/384
LSB. -/
def phaseError (s : State) (g : Nat) (reference : Int) : Int :=
  let p := s.pg g
  let t : Int := 3 * ((256 * p.half + p.frac : Nat) : Int)
  let ofs : Int := if s.get (F.PWM_GCFG_SYNC g) = 1 then 384 * (s.get (F.PWM_SDLY_SDLY g) : Int)
                   else ((s.get F.SYS_CHID_CHID : Int) - 1) * t / 3
  let d := ((p.pos + p.p : Nat) - reference) * 384 - ofs
  let m := if t = 0 then 0 else d % t
  let e := if t < 2 * m then m - t else m
  (2 * e + 384) / 768

/-- The correction, PHERR and LOCKED. -/
def syncEvent (g : Nat) (reference : Int) (s : State) : State :=
  let e := phaseError s g reference
  let slew := (s.get (F.PWM_LOCK_SLEW g) : Int)
  let good := decide (e.natAbs ≤ s.get (F.PWM_LOCK_LOCKWIN g))
  let s := s.putS (F.PWM_PHERR_ERR g) e
  let s := s.updPg g (fun p => { p with corr := clampInt (-e) (-slew) slew, good := if good then p.good + 1 else 0, ringDue := false })
  if good then (if 8 ≤ (s.pg g).good then s.put (F.PWM_GSTAT_LOCKED g) 1 else s) else s.put (F.PWM_GSTAT_LOCKED g) 0

/-- Is the group synchronised to a reference? -/
def syncOn (s : State) (g : Nat) : Bool :=
  s.flag (F.PWM_GSTAT_RUN g) && (s.get (F.PWM_GCFG_SYNC g) == 1 || s.get (F.PWM_GCFG_SYNC g) == 2)

/-- SYNC_REFERENCE_EVENT: a pulse of the group before is used once. -/
def execSyncReferenceEvent (g : Fin 8) (synci : Nat) (s : State) : Out :=
  match (if syncOn s g.val then syncReference s g.val synci else none) with
  | none => .next s
  | some r =>
    let s := syncEvent g.val r s
    .next (if s.get (F.PWM_GCFG_SYNC g.val) = 1 ∧ g.val ≠ 0 then s.updPg (g.val - 1) (fun p => { p with pulse := none }) else s)

/-- The reference of a group is lost (R227). -/
def syncLost (g : Nat) (s : State) : State :=
  let s := ((s.put (F.PWM_GSTAT_LOCKED g) 0).put (F.PWM_GSTAT_REFLOST g) 1).updPg g (fun p => { p with good := 0 })
  if g = 0 ∧ s.get (F.PWM_GCFG_SYNC g) = 1 then icuEvent 90 s else s

/-- SYNC_REFERENCE_LOSS -/
def execSyncReferenceLoss (g : Fin 8) (s : State) : Out := if syncOn s g.val then .next (syncLost g.val s) else .next s

/-- Ring time turns invalid: the groups in ring mode lose their reference (R227). -/
def syncRingLost (s : State) : State :=
  forAll (List.range 8) (fun g t => if syncOn t g && t.get (F.PWM_GCFG_SYNC g) == 2 then syncLost g t else t) s

/-- A KRing cycle starts: the next valley of every group is its first one in that cycle (R226). -/
def syncCycleStart (s : State) : State := forAll (List.range 8) (fun g t => t.updPg g (fun p => { p with cycStart := true })) s

/-! ### Delay lines (R218) -/

/-- The map of a calibration: for each fraction f the tap nearest to f × TAPS / 32, a tie upward (DESIGN CHOICE, log 98). -/
def tapMap (taps : Nat) : List Nat := (List.range 32).map (fun f => (2 * f * taps + 32) / 64)

/-- The place of an edge as the Mirror compares it: the CLK_PWM cycle, and the tap that the map in use selects (R218). -/
def edgeCode (p : Pgrp) (e : Edge) : Int × Nat :=
  let x := (p.pos : Int) + e.time
  (x / 32, if p.fine then p.map.getD (x % 32).toNat 0 else 0)

/-- The delay bits of a group are ignored from now on, those of the edges still to come included. -/
def coarseNow (g : Nat) (s : State) : State :=
  let s := s.updPg g (fun p => { p with tapsBad := true, fine := false })
  let p := s.pg g
  forAll (legsOf g) (fun k u => u.updLeg k (fun l => { l with edges := l.edges.map (fun e => { e with time := place p e.time }) })) s

/-- DELAY_LINE_CALIBRATION: TAPS and the new map, which the next valley takes, the first map at once (DESIGN CHOICE, log 98). Out of range
the delay bits are ignored at once; back in range LOCK returns with the placement, at a valley. -/
def calibrate (g taps : Nat) (s : State) : State :=
  let s := s.put (F.PWM_DLCAL_TAPS g) (satTo 63 taps)
  if 32 ≤ taps ∧ taps ≤ 63 then
    (if (s.pg g).fine then s.put (F.PWM_DLCAL_LOCK g) 1 else s).updPg g
      (fun p => { p with tapsBad := false, nextMap := tapMap taps, map := if p.map.isEmpty then tapMap taps else p.map })
  else if (s.pg g).tapsBad then s
  else sendRaise (86 + g) (86 + g) (2 ^ g) (coarseNow g ((s.put (F.PWM_DLCAL_LOCK g) 0).put (F.PWM_DLCAL_ERR g) 1))

/-- DELAY_LINE_CALIBRATION. An injection into DLERRg reads TAPS as 0 (R384). -/
def execDelayLineCalibration (g : Fin 8) (taps : Fin 65) (s : State) : Out :=
  match injDue s (86 + g.val) with
  | some _ => .next (calibrate g.val 0 (injPop (86 + g.val) s))
  | none => .next (calibrate g.val taps.val s)

/-! ### Trips (R229–R233) -/

/-- The active level of fault input `m` (R229). -/
def fltLevel (s : State) (m : Nat) : Bool := s.flag (F.PWM_FLTCFG_POL m)

/-- Has the glitch filter of input `m` completed over a run of `n` samples (R229)? -/
def fltDone (s : State) (m n : Nat) : Bool := decide (s.get (F.PWM_FLTCFG_FILT m) + 1 ≤ n)

/-- The filtered input becomes active; with EN it latches a trip, its groups' lines fall, and FLTm is raised (R230). -/
def fltActive (m : Nat) (s : State) : State :=
  if s.bit F.PWM_TRIP_ACT m then s
  else
    let s := s.putBit F.PWM_TRIP_ACT m true
    if s.flag (F.PWM_FLTCFG_EN m) then
      let gs := bitsIn 8 (s.get (F.PWM_FLTCFG_MASK m))
      let s := forAll gs linesLow (s.putBit F.PWM_TRIP_TRIP m true)
      let s := forAll gs (fun n t => icuEvent (8 + n) t) (settleTripped s)
      sendRaise (72 + m) (72 + m) (maskOrAll (s.get (F.PWM_FLTCFG_MASK m))) s
    else s

/-- FLT_ACTIVE: the raw input has been at `level` for `n` samples. -/
def execFltActive (m : Fin 6) (level : Bool) (n at_ : Nat) (s : State) : Out :=
  let s := advanceTo at_ s
  .next (if level = fltLevel s m.val ∧ fltDone s m.val n = true then fltActive m.val s else s)

/-- FLT_INACTIVE -/
def execFltInactive (m : Fin 6) (level : Bool) (n at_ : Nat) (s : State) : Out :=
  let s := advanceTo at_ s
  .next (if level ≠ fltLevel s m.val ∧ fltDone s m.val n = true then s.putBit F.PWM_TRIP_ACT m.val false else s)

/-- A write of 1 to one TRIP bit (R231). -/
def tripClearOne (m : Nat) (s : State) : State :=
  if s.bit F.PWM_TRIP_TRIP m = false then s
  else if s.bit F.PWM_TRIP_ACT m then (s.put F.PWM_STAT_CLRREF 1).bump (F.PWM_FLTCNT_REFCNT m) 1
  else s.putBit F.PWM_TRIP_TRIP m false

/-- A write of PWM.TRIP. -/
def tripClear (bits : Nat) (s : State) : State := settleTripped (forAll (bitsIn 6 bits) tripClearOne s)

/-- TRIP_CLEAR -/
def execTripClear (bits : BitVec 6) (s : State) : Out := .next (tripClear bits.toNat s)

/-- A write of PWM.FLTCFGm (R233). -/
def fltcfgWrite (m : Nat) (v : Word) (s : State) : State :=
  if s.bit F.PWM_TRIP_TRIP m then s.put F.PWM_STAT_CFGREF 1 else s.setReg (R.PWM_FLTCFG m) (v &&& 0xC0FF00FF)

/-- FLTCFG_WRITE -/
def execFltcfgWrite (m : Fin 6) (v : Word) (s : State) : Out := .next (fltcfgWrite m.val v s)

/-- A write of 1 to PWM.FLTCNTm.CLR. -/
def fltcntClear (m : Nat) (s : State) : State := (s.put (F.PWM_FLTCNT_REFCNT m) 0).put (F.PWM_FLTCNT_GLITCH m) 0

/-- FLTCNT_CLR -/
def execFltcntClr (m : Fin 6) (s : State) : Out := .next (fltcntClear m.val s)

/-- FLT_ABSORBED_TOGGLE: a run of `n` samples at the active level ends before the filter completes. -/
def execFltAbsorbedToggle (m : Fin 6) (level : Bool) (n at_ : Nat) (s : State) : Out :=
  let s := advanceTo at_ s
  .next (if level = fltLevel s m.val ∧ fltDone s m.val n = false then
    evcCount (0x60 + m.val) 1 (s.bump (F.PWM_FLTCNT_GLITCH m.val) 1) else s)

/-- A write of PWM.LEADGRP (R224): a group newly named without the token falls; one that is freed resumes at its next valley. -/
def leadgrpWrite (v : Word) (s : State) : State := leadBlock (s.put F.PWM_LEADGRP_GRP (bitsOf v 7 0))

/-- LEADGRP_WRITE -/
def execLeadgrpWrite (v : Word) (s : State) : Out := .next (leadgrpWrite v s)

/-- The CP enters debug halt: every line falls (R234). -/
def debugLines (s : State) : State := forAll (List.range 8) linesLow (s.put F.PWM_STAT_DBGHALT 1)

end Sys2Proof.Machine
end

