-- ==== Sys2Proof/Machine/Adc.lean ====
section
/-! DEFINITION. The valley of a group with its sampling instant (R184–R193, R217), the sequencer's counters, and the crossing
measurement (R203, R204). -/

namespace Sys2Proof.Machine

/-- One converter's record. -/
def State.conv (s : State) (k : Nat) : Adc := mget (fun _ => {}) s.adc k

/-! ### Which shunts are sampled (R186–R188) -/

/-- A time after the valley, at CLK_PWM resolution with delay bits truncated. -/
def gridTime (p : Pgrp) (x : Int) : Int := ((p.pos : Int) + x) / 32 * 32 - p.pos

/-- The sampling instant after the valley: the first CLK_CAN edge (80 LSB) at or after it. -/
def instant (p : Pgrp) : Int := ((80 - p.pos % 80) % 80 : Nat)

/-- R187 for one leg. -/
def lowLongEnough (s : State) (g k tset : Nat) : Bool :=
  let p := s.pg g
  let l := s.leg k
  let i := instant p
  l.lineL && decide (gridTime p l.lowFrom ≤ i - ((tset * 80 + 640 : Nat) : Int))
    && (match l.edges.find? (fun e => !e.high && !e.level) with
        | none => true
        | some e => decide (i + 160 ≤ gridTime p e.time))

/-- The legs sampled at the instant, as a mask, by the group's state as last reported (R188). -/
def sampled (s : State) (g tset : Nat) : Nat :=
  match reportedGate s g s.now with
  | .pass =>
    (lowLongEnough s g (3 * g) tset).toNat + 2 * (lowLongEnough s g (3 * g + 1) tset).toNat
      + 4 * (lowLongEnough s g (3 * g + 2) tset).toNat
  | .shortLow => 7
  | _ => 0

/-- SEQCFG as it applies at an instant: a write within 250 ns before it applies from the next one. -/
def seqcfgAt (s : State) (k t : Nat) : Word :=
  match (s.conv k).cfgAt with
  | some w => if t ≤ w + 75 then (s.conv k).cfgOld else s.reg (R.ADC_SEQCFG k)
  | none => s.reg (R.ADC_SEQCFG k)

/-- A write of SEQCFG that takes effect now. -/
def seqcfgWrite (k : Nat) (v : Word) (s : State) : State :=
  let old := seqcfgAt s k s.now
  (s.updConv k (fun a => { a with cfgOld := old, cfgAt := some s.now })).setReg (R.ADC_SEQCFG k) v

/-! ### Classes (R189, R191) -/

/-- A predicted sample: the run, its maximum, PREDLIM at the fifth. -/
def predicted (k n : Nat) (s : State) : State :=
  let s := (s.put (F.ADC_STAT_PREDRUN k) (satTo 15 n)).put (F.ADC_STAT_PREDMAX k) (max (satTo 15 n) (s.get (F.ADC_STAT_PREDMAX k)))
  if 5 ≤ n ∧ (s.conv k).raised = false then
    sendRaise (78 + k) (78 + k) (2 ^ k) ((s.put (F.ADC_STAT_PREDLIM k) 1).updConv k (fun a => { a with raised := true }))
  else s

/-- The class of a period sample, by the number of shunt samples skipped. -/
def classify (k skipped : Nat) (s : State) : State :=
  let s :=
    if skipped = 0 then s
    else if skipped = 1 then evcCount (0x28 + k) 1 (s.bump (F.ADC_SKIPCNT_SKIP1 k) 1)
    else evcCount (0x20 + k) 1 (s.bump (F.ADC_SKIPCNT_SKIP2 k) 1)
  let forced := (injDue s (78 + k)).isSome
  let run := if forced then 5 else if 2 ≤ skipped then s.get (F.ADC_STAT_PREDRUN k) + 1 else 0
  let s := (if forced then injPop (78 + k) s else s).updConv k (fun a => { a with raised := a.raised && run != 0 })
  predicted k run s

/-! ### On-resistance (R375) -/

/-- Amplifier gain × shunt resistance of a leg: one code is 250 / this A. In LIMP the HWM forces SPB[8].LGAIN onto the legs of G2–G5
(R351). -/
def gainShunt (s : State) (k : Nat) : Nat :=
  (if s.mode = .limp ∧ 2 ≤ k / 3 ∧ k / 3 ≤ 5 then limpGain s else 5 * 2 ^ s.get (F.CSA_CFG_GAIN k)) * Config.shunt k

/-- An on-resistance sample from |VDS| in mV and a current of `x` codes; none below 5.0 A. -/
def ronSample (s : State) (k vds x : Nat) : Option Nat :=
  let q := gainShunt s k
  if x = 0 ∨ 250 * x < 5 * q then none else some (vds * 25600 * q / (250 * x))

/-- The low-side and high-side samples of one leg at a sampling instant: `onTime` is how long the high side
was on about the carrier peak between them, in CLK_ENG cycles. -/
def ronMeasure (g i vl vh onTime : Nat) (now : AdcSeq) (s : State) : State :=
  let k := 3 * g + i
  let b := (s.conv g).before
  let x : Int := ((now.codes.getD i 0).toNat : Int) - 8192
  let y : Int := ((b.codes.getD i 0).toNat : Int) - 8192
  let s := if now.conv.testBit i then
      match ronSample s k vl x.natAbs with
      | some r => mgnRon k false r s
      | none => s
    else s
  if now.conv.testBit i && b.conv.testBit i && decide (600 ≤ onTime) && decide (0 < x * y) then
    match ronSample s k vh ((x + y).natAbs / 2) with
    | some r => mgnRon k true r s
    | none => s
  else s

/-! ### The valley (R217) -/

/-- The period sample of ADCk is settled: clipping, class, on-resistances. -/
def sampleEnd (k : Nat) (s : State) : State :=
  match (s.conv k).busy with
  | none => s
  | some q =>
    let s := s.updConv k (fun a => { a with busy := none })
    let s := forAll [0, 1, 2] (fun i u =>
      let c := (q.codes.getD i 0).toNat
      if q.conv.testBit i && (c == 0 || c == 16383) then u.putBit F.CSA_CLIP_CLIP (3 * k + i) true else u) s
    let s := classify k (3 - popcount 3 q.conv) s
    let s := forAll [0, 1, 2] (fun i u => ronMeasure k i (q.vl.getD i 0) (q.vh.getD i 0) (q.on.getD i 0) q u) s
    s.updConv k (fun a => { a with before := q })

/-- The sampling instant of ADCk at the valley. A sequence whose end has not been reported is settled first. -/
def adcSample (g t : Nat) (codes : List (BitVec 14)) (vl vh : List (BitVec 10)) (onTimes : List Nat) (s : State) : State :=
  let s := sampleEnd g s
  let cfg := seqcfgAt s g t
  let at_ := (s.pg g).pos + (instant (s.pg g)).toNat
  if bitOf cfg 31 then
    let legs := sampled s g (bitsOf cfg 7 0)
    let seq := ((s.conv g).seq + 1) % 65536
    let q : AdcSeq := { codes := (List.range 4).map (fun i => codes.getD i 0), seq := seq
                        conv := legs + (if bitsOf cfg 27 24 = 0xF then 0 else 8)
                        lines := reportedGate s g s.now == .pass, until_ := at_ + 160
                        vl := vl.map (·.toNat), vh := vh.map (·.toNat), on := onTimes }
    s.updConv g (fun a => { a with busy := some q, seq := seq, inst := some at_ })
  else s.updConv g (fun a => { a with before := {} })

/-- A valley of a running group: the edges still due in the period that ends, the releases that waited for the boundary, the deadline, the new period,
the period event, and the sampling instant. -/
def valley (g t : Nat) (codes : List (BitVec 14)) (vl vh : List (BitVec 10)) (s : State) : State :=
  let p := (s.pg g).p
  let s := forAll (legsOf g) (fun k u => drainEdges g k p u) s
  let on := (legsOf g).map (fun k => onAtPeak s k s.now)
  let s := valleyPulse g (s.updPg g (fun q => { q with pos := q.pos + p }))
  let s := boundaryRelease g s
  let s := periodStart g t (loadMap g (deadline g s))
  let s := present g (icuEvent g s)
  adcSample g t codes vl vh on s

/-- PWM_VALLEY -/
def execPwmValley (g : Fin 8) (codes : List (BitVec 14)) (vdsL vdsH : List (BitVec 10)) (at_ : Nat) (s : State) : Out :=
  let s := advanceTo at_ s
  if s.flag (F.PWM_GSTAT_RUN g.val) then .next (valley g.val at_ codes vdsL vdsH s) else .next s

/-- ADC_SEQUENCE_COMPLETE (R184): the results are valid on the D-die; repeats of their bridge frame mark them late and count
(R19). -/
def execAdcSequenceComplete (k : Fin 8) (repeats : Fin 3) (s : State) : Out :=
  match (s.conv k.val).busy with
  | none => .next s
  | some q =>
    let s := sampleEnd k.val s
    if s.flag F.SYS_BRGSTAT_UP then
      let s := if repeats.val = 0 then s else icuEvent 93 (s.put F.SYS_BRGSTAT_CRCERR 1)
      let s := evcCount 0x55 repeats.val (s.bump F.SYS_BRGERRCNT_COUNT repeats.val)
      let s := s.updConv k.val (fun a => { a with res := { q with late := repeats.val != 0 } })
      .next (present (8 + k.val) (icuEvent (16 + k.val) s))
    else .next s

/-- A write of 1 to ADC.STATk.CLR. -/
def adcStatClear (k : Nat) (s : State) : State :=
  ((s.put (F.ADC_STAT_PREDMAX k) 0).put (F.ADC_STAT_BGSKIP k) 0).setReg (R.ADC_SKIPCNT k) 0

/-! ### Crossing measurement (R203, R204) -/

/-- A write of 1 to ADC.ZXCFGk.EN: a measurement starts on an all-off group. -/
def zxStart (k : Nat) (s : State) : State :=
  if (s.grp k).gate = .off then
    ((s.put (F.ADC_ZXCFG_EN k) 1).put (F.ADC_ZX_NOMOTION k) 0).updConv k (fun a => { a with edges := [] })
  else s

/-- A result: DIR, CODE, the time and the two intervals. -/
def zxResult (k : Nat) (up : Bool) (code t i0 i1 : Nat) (s : State) : State :=
  let s := zxStop k ((s.put (F.ADC_ZX_DONE k) 1).putB (F.ADC_ZX_DIR k) up)
  let s := ((s.put (F.ADC_ZX_NOMOTION k) 0).put (F.ADC_ZX_CODE k) code).put (F.ADC_ZXT_TIME k) t
  (s.put (F.ADC_ZXI0_INT k) i0).put (F.ADC_ZXI1_INT k) i1

/-- An edge of the measurement at time `t` of CPT.MTIME[31:0]: accepted, or the measurement restarts from it. -/
def zxEdge (k code t : Nat) (s : State) : State :=
  let restart := s.updConv k (fun a => { a with edges := [(code, t)] })
  match (s.conv k).edges with
  | [] => restart
  | [(c0, t0)] =>
    let d := (code + 6 - c0) % 6
    if d = 1 ∨ d = 5 then s.updConv k (fun a => { a with edges := [(code, t), (c0, t0)] }) else restart
  | (c1, t1) :: (c0, t0) :: _ =>
    let d := (code + 6 - c1) % 6
    let i0 := (t + 2 ^ 32 - t1) % 2 ^ 32
    let i1 := (t1 + 2 ^ 32 - t0) % 2 ^ 32
    if (d = 1 ∨ d = 5) ∧ d = (c1 + 6 - c0) % 6 ∧ 4 * i1 ≤ 5 * i0 ∧ 4 * i0 ≤ 5 * i1 then zxResult k (d == 1) code t i0 i1 s
    else restart

/-- BEMF_EDGE: the HWM's speed measurement while the group is all-off (R213), and the crossing measurement; none of them while a BEMF
step holds the comparators off their balls (R372). -/
def execBemfEdge (k : Fin 8) (code : Fin 6) (at_ : Nat) (s : State) : Out :=
  let s := advanceTo at_ s
  let s := if (s.grp k.val).gate = .off ∧ stepOn s 8 k.val = false then speedEdge k.val at_ s else s
  .next (if stepOn s 8 k.val then s else if s.flag (F.ADC_ZXCFG_EN k.val) then zxEdge k.val code.val (mtime s % 2 ^ 32) s else s)

/-- ZX_TIMEOUT -/
def execZxTimeout (k : Fin 8) (s : State) : Out :=
  .next (if s.flag (F.ADC_ZXCFG_EN k.val) then
    zxStop k.val ((s.put (F.ADC_ZX_DONE k.val) 1).put (F.ADC_ZX_NOMOTION k.val) 1) else s)

end Sys2Proof.Machine
end

