-- ==== Sys2Proof/Machine/Lock.lean ====
section
/-! DEFINITION. The bank locks of the arbiter as every requester meets them (R110–R113), and the moves between a DMA engine and
system SRAM under them (R102, R103, R112). -/

namespace Sys2Proof.Machine

/-- The codes of R105. -/
def reqCode : Requester → Nat
  | .cp => 0
  | .facet n => 1 + n.val
  | .kringDma => 9
  | .canDma => 10
  | .loupe => 11
  | .spp => 12

/-- One bank's arbiter. -/
def State.bank (s : State) (b : Nat) : Bank := mget (fun _ => {}) s.banks b

/-- Change one bank's arbiter. -/
def State.updBank (s : State) (b : Nat) (f : Bank → Bank) : State := { s with banks := mupd (fun _ => {}) s.banks b f }

/-! ### Locks (R110–R113) -/

/-- The field of a bank's lock owner. -/
def lkField (b : Nat) : Fld := ⟨R.ARB_LKST, 4 * b + 3, 4 * b⟩

/-- The owner of bank `b`'s lock, 15 where it is free. -/
def lockOwner (s : State) (b : Nat) : Nat := s.get (lkField b)

/-- Does requester `rq` hold a lock on a bank numbered above `b`? -/
def holdsAbove (s : State) (rq b : Nat) : Bool := (List.range 8).any (fun c => decide (b < c) && lockOwner s c == rq)

/-- May requester `rq` have a transfer on bank `b` now (R112)? -/
def lockOpen (s : State) (rq b : Nat) : Bool := lockOwner s b == 15 || lockOwner s b == rq

/-- Record an arbitration fault: its bit, the requester and bank of the first event, its source. -/
def arbFault (f : Fld) (src rq b : Nat) (s : State) : State :=
  let first := bitsOf (s.reg R.ARB_ERR) 4 0 == 0
  let s := if first then (s.put F.ARB_ERR_OWNER rq).put F.ARB_ERR_BANK b else s
  icuEvent src (s.put f 1)

/-- The transfer, acquisition or release of a requester on bank `b` ends in a bus error, or without one. -/
def arbEnd (b : Nat) (err : Option Nat) (s : State) : State := s.updBank b (fun k => { k with err := err })

/-- A refused access (R112). -/
def lockRefuse (rq b : Nat) (s : State) : State :=
  arbEnd b (some rq) (evcCount 0x54 1 (arbFault F.ARB_ERR_LKREFUSE 67 rq b s))

/-! ### Moves between a DMA engine and system SRAM (R102, R103, R112) -/

/-- Is a word of system SRAM at this address? -/
def inSram (a : Nat) : Bool := decide (0x20000000 ≤ a ∧ a < 0x20400000)

/-- The bank of an SRAM address. -/
def bankOf (a : Nat) : Nat := (a - 0x20000000) / 0x80000

/-- Words that do not fill their 64-bit word: each is a read-modify-write. Does the engine end in error? A word outside SRAM is
dropped. -/
def dmaNarrow (a : Nat) : List Word → State → Bool × State
  | [], s => (true, s)
  | w :: l, s =>
    if inSram a then
      let q := eccWritePart a a s
      if q.1 then dmaNarrow (a + 4) l (q.2.setWord a w) else (false, q.2)
    else dmaNarrow (a + 4) l s

/-- Words into system SRAM: two that fill a 64-bit word are written whole, without a read part (R103). -/
def dmaWrite (a : Nat) : List Word → State → Bool × State
  | [], s => (true, s)
  | [w], s => dmaNarrow a [w] s
  | w :: v :: l, s =>
    if a % 8 = 0 then
      dmaWrite (a + 8) l (if inSram a then (((s.setErrs a 0).setWord a w).setWord (a + 4) v) else s)
    else
      let q := dmaNarrow a [w] s
      if q.1 then dmaWrite (a + 4) (v :: l) q.2 else q

/-- Words out of system SRAM. -/
def dmaRead (a n : Nat) (s : State) : Option (List Word) × State :=
  let r := eccReadAll s (((List.range n).map (fun i => (a + 4 * i) / 8 * 8)).eraseDups.filter inSram)
  if r.1 then (none, r.2) else (some ((List.range n).map (fun i => if inSram (a + 4 * i) then r.2.word (a + 4 * i) else 0)), r.2)

/-- The banks that `n` words at `a` lie in. -/
def dmaBanks (a n : Nat) : List Nat :=
  (((List.range n).map (fun i => a + 4 * i)).filter inSram).map bankOf |>.eraseDups

/-- The first of these banks that a lock keeps from a requester. -/
def dmaShut (rq a n : Nat) (s : State) : Option Nat := (dmaBanks a n).find? (fun b => !lockOpen s rq b)

/-- A move of an engine over `n` words at `a`: behind a move of its own that waits, or on a locked bank, it waits; where it holds
a lock above that bank it is refused and ends in error (R112). -/
def dmaMove (job : DmaJob) (a n : Nat) (act : State → State) (s : State) : State :=
  let rq := job.engine
  let queued := { s with dma := s.dma ++ [job] }
  if s.dma.any (fun j => j.engine == rq) then queued
  else match dmaShut rq a n s with
    | none => act s
    | some b => if holdsAbove s rq b then lockRefuse rq b s else queued

end Sys2Proof.Machine
end

