-- ==== Sys2Proof/Machine/Link.lean ====
section
/-! DEFINITION. The triplex link (R305–R324): the status slot, the comparison and agreement, catch-up, the lead token; and the
requests for a flip (R330–R334). -/

namespace Sys2Proof.Machine

/-- Change the link's record. -/
def State.updLnk (s : State) (f : Link → Link) : State := { s with lnk := f s.lnk }

/-- Change KRing's record. -/
def State.updKrg (s : State) (f : Ring → Ring) : State := { s with krg := f s.krg }

/-- The own node ID (R25, R279). -/
def ownId (s : State) : Nat := s.get F.SYS_CHID_CHID

/-- Bytes as little-endian words. -/
def wordsOf : Nat → List Byte → List Word
  | 0, _ => []
  | n + 1, l => leWord l :: wordsOf n (l.drop 4)

/-! ### The status slot (R306–R308) -/

/-- The slot of channel `c`, if it exists in the cascade. -/
def chSlot (s : State) (c : Nat) : Option Nat :=
  if s.flag (F.LNK_CH_EN (c - 1)) then some (s.get (F.LNK_CH_SLOT (c - 1))) else none

/-- Is channel `c` in the own set? -/
def chMember (s : State) (c : Nat) : Bool := s.flag (F.LNK_CH_EN (c - 1)) && s.flag (F.LNK_CH_MEMBER (c - 1))

/-- Does the HWM force a state on Gn (R307), the mode hold of R415 among them? -/
def groupForced (s : State) (g : Nat) : Bool := (forced s g).isSome

/-- GRPOK bit n (R307). -/
def grpOk (s : State) (g : Nat) : Bool :=
  s.flag (F.PWM_GCFG_EN g) && !groupForced s g && !s.flag (F.PWM_GSTAT_TRIPPED g) && !s.bit F.HWM_PISCTL_OPEN g
    && (List.range 64).all (fun n =>
      !(s.flag (F.PRS_FLOWCFG_DLEN n) && s.get (F.PRS_FLOWCFG_DLGRP n) == g && s.flag (F.PRS_FLOWST_SUSP n)))

/-- A mask of the groups that pass a test. -/
def groupMask (p : Nat → Bool) : Nat := ((List.range 8).filter p).foldl (fun m g => m + 2 ^ g) 0

/-- STS at the payload fetch. -/
def stsWord (s : State) : Word :=
  BitVec.ofNat 32 (s.mode.code * 2 ^ 29
    + (s.flag F.LNK_STAT_TOKEN || s.flag F.LNK_STAT_RLEAD).toNat * 2 ^ 28
    + s.get F.LNK_STAT_INSTEP * 2 ^ 27 + s.get F.LNK_STAT_SL * 2 ^ 24 + groupMask (grpOk s) * 2 ^ 16
    + s.get F.LNK_SHCLAMP_MASK * 2 ^ 8 + ownId s % 8 * 2 ^ 5 + s.lnk.xmin.toNat * 2 ^ 4)

/-- XFER at the payload fetch: word (c mod NSNAP) of the last snapshot (R315). -/
def xferWord (s : State) : Word :=
  let n := s.get F.LNK_XCFG_NSNAP
  if n = 0 then 0 else s.lnk.snap.getD (s.get F.KRG_CYC_CYC32 % n) 0

/-- HWST at the payload fetch. -/
def hwstWord (s : State) : Word := BitVec.ofNat 32 (s.get F.HWM_PISCTL_OPEN + groupMask (groupForced s) * 2 ^ 8)

/-- The payload of the own status slot: STS, XFER and HWST over what the buffer holds. -/
def statusPayload (s : State) (l : List Word) : List Word :=
  (stsWord s :: (l.drop 1).take 13) ++ [xferWord s, hwstWord s] ++ l.drop 16

/-- The status words of channel `c` in the running cycle. -/
def statusOf (s : State) (c : Nat) : Option (List Word) :=
  if c = ownId s then s.lnk.sent
  else match chSlot s c with
    | none => none
    | some n => (s.krg.got.find? (fun e => e.1 == n)).map (fun e => wordsOf 16 e.2)

/-- Word `i` of a status payload. -/
def stWord (l : List Word) (i : Nat) : Word := l.getD i 0

/-- STS.MODE -/
def stMode (l : List Word) : Nat := bitsOf (stWord l 0) 31 29
/-- STS.LEADF -/
def stLead (l : List Word) : Bool := bitOf (stWord l 0) 28
/-- STS.INSTEP -/
def stStep (l : List Word) : Bool := bitOf (stWord l 0) 27
/-- STS.GRPOK bit `g` -/
def stOk (l : List Word) (g : Nat) : Bool := bitOf (stWord l 0) (16 + g)
/-- The compared block, bytes 4–39. -/
def stBlock (l : List Word) : List Word := (l.drop 1).take 9

/-- The members of the own set with a status slot in this cycle. -/
def members (s : State) : List (Nat × List Word) :=
  (List.range 6).filterMap (fun i => if chMember s (i + 1) then (statusOf s (i + 1)).map (fun l => (i + 1, l)) else none)

/-- Is a channel with this status a voter (R308)? -/
def isVoter (l : List Word) : Bool := (stMode l == 4 || stMode l == 5) && stStep l

/-! ### Comparison (R309–R315, R322–R324) -/

/-- The reference block among candidates, and whether rule 1 chose it. -/
def reference (c : List (Nat × List Word)) : Option (List Word × Bool) :=
  match c.find? (fun e => decide (c.length < 2 * (c.filter (fun x => stBlock x.2 == stBlock e.2)).length)) with
  | some e => some (e.2, true)
  | none => ((c.find? (fun e => stLead e.2)).orElse (fun _ => c.head?)).map (fun e => (e.2, false))

/-- The own channel is the minority (R310). -/
def minorityNow (t : Nat) (s : State) : State :=
  let s := (s.put F.LNK_EVT_XMIN 1).bump F.LNK_CNT_XMINCNT 1
  let s := sendRaise 131 131 0xFF (tokenRelease (instepFall s))
  let l := t :: s.lnk.xminAt.filter (fun x => decide (t < x + 300000000))
  let s := s.updLnk (fun k => { k with xminAt := l.take 15 })
  if s.get F.LNK_XCFG_XMAXN ≤ l.length then sendRaise 132 132 0xFF s else s

/-- The order of agreed values: signed, or FP32. -/
def measLe (fp : Bool) (a b : Word) : Bool := if fp then !fpLt (fpOf b) (fpOf a) else decide (a.toInt ≤ b.toInt)

/-- Put a value in its place. -/
def measInsert (fp : Bool) (x : Word) : List Word → List Word
  | [] => [x]
  | y :: l => if measLe fp x y then x :: y :: l else y :: measInsert fp x l

/-- The agreed value of a measurement (R311): the values come in the order of their channels. -/
def agreed (fp : Bool) (l : List Word) : Option Word :=
  let v := if fp then l.filter fpFinite else l
  match v with
  | [] => none
  | [a] => some a
  | [a, _] => some a
  | _ => (v.foldl (fun m x => measInsert fp x m) [])[v.length / 2]?

/-- LNK.AGRj of one measurement. -/
def agreeOne (m : List (Nat × List Word)) (j : Nat) (s : State) : State :=
  match agreed (s.bit F.LNK_CFG_MFMT j) (m.map (fun e => stWord e.2 (10 + j))) with
  | none => s
  | some w => s.setReg (R.LNK_AGR j) w

/-- LNK.NIN.NINg -/
def ninField (g : Nat) : Fld := ⟨R.LNK_NIN, 2 * g + 1, 2 * g⟩

/-- The service level: the least Nin over SLMASK (R324). -/
def serviceLevel (s : State) : Nat :=
  match bitsIn 8 (s.get F.LNK_CFG_SLMASK) with
  | [] => Config.slEmpty.toNat
  | g :: l => l.foldl (fun m k => min m (s.get (ninField k))) (s.get (ninField g))

/-- Nin of every group, and the service level (R313, R324). -/
def countService (inSet : List (Nat × List Word)) (s : State) : State :=
  let s := forAll (List.range 8) (fun g t =>
    t.put (ninField g) (min 3 (inSet.filter (fun e => stOk e.2 g)).length)) s
  let sl := serviceLevel s
  if sl = s.get F.LNK_STAT_SL then s else icuEvent 91 ((s.put F.LNK_STAT_SL sl).put F.LNK_EVT_SLCHG 1)

/-- Is the own channel catching up (R314)? -/
def catchingUp (s : State) : Bool :=
  !s.flag F.LNK_STAT_INSTEP && (s.mode == .integrate || s.mode == .standby || s.mode == .active)

/-- INSTEP rises; in INTEGRATE that is the catch-up completion of R32. -/
def instepRise (lone : Bool) (s : State) : State :=
  let s := (s.put F.LNK_STAT_INSTEP 1).put F.LNK_EVT_CATCHDONE 1
  let s := if lone then s.put F.LNK_EVT_ALONE 1 else s
  let s := s.updLnk (fun k => { k with agree := 0 })
  let s := outrank 7 (fun m => m == .integrate) s
  if s.mode = .integrate then enterBy 7 .standby .none s else s

/-- A comparison in a cycle that does not follow that of the last one starts the counts of R314 anew. -/
def cmpGap (s : State) : State :=
  let c := s.get F.KRG_CYC_CYC32
  s.updLnk (fun k =>
    let k := if k.cmpCyc.map (· + 1) = some c then k else { k with agree := 0, alone := 0 }
    { k with cmpCyc := some c })

/-- The catch-up counts of R314. -/
def catchUp (equal partner : Bool) (s : State) : State :=
  let up := catchingUp s
  let s := s.updLnk (fun k => { k with
    agree := if up && equal then k.agree + 1 else 0
    alone := if partner then 0 else min 4096 (k.alone + 1) })
  let cyc := s.get F.LNK_ALONE_CYC
  if up = false then s
  else if s.get F.LNK_XCFG_CATCHN ≤ s.lnk.agree then instepRise false s
  else if cyc ≠ 0 ∧ cyc ≤ s.lnk.alone then instepRise true s
  else s

/-- Word (`cyc` mod NSNAP) of a snapshot is stored; the last one of a gapless row of words completes it. -/
def snapStore (cyc : Nat) (x : Word) (s : State) : State :=
  let n := max 1 (s.get F.LNK_XCFG_NSNAP)
  let i := cyc % n
  let a := (s.reg R.LNK_SNAPRX).toNat + 4 * i
  dmaMove (.snapWord cyc x) a 1 (fun t =>
    let q := dmaWrite a [x] t
    let ok := q.1 && (i == 0 || (i == t.lnk.rxNext && cyc == t.lnk.rxCyc + 1))
    let t := q.2.updLnk (fun k => { k with rxNext := if ok then i + 1 else 0, rxCyc := cyc })
    if ok ∧ i + 1 = n then (t.put F.LNK_STAT_SNAPOK 1).setReg R.LNK_SNAPCYC (BitVec.ofNat 32 (cyc - i)) else t) s

/-- A catching-up channel stores the XFER word of the voter named by MAJSRC (R315). -/
def storeXfer (w : Option Word) (s : State) : State :=
  let n := s.get F.LNK_XCFG_NSNAP
  match w with
  | none => s.updLnk (fun k => { k with rxNext := 0 })
  | some x =>
    if n = 0 ∨ catchingUp s = false then s.updLnk (fun k => { k with rxNext := 0 })
    else
      snapStore (s.get F.KRG_CYC_CYC32) x s

/-- The lowest channel of the cascade that may be the ring lead (R323); `out` is the minority of the own set. -/
def ringLead (out : List Nat) (s : State) : Option Nat :=
  ((List.range 6).map (· + 1)).find? (fun c =>
    (c == ownId s || (chSlot s c).isSome) && !out.contains c && (match statusOf s c with
      | none => false
      | some l => stMode l == 5 && stStep l))

/-- The holder that the cycle's status slots name: the own channel, else the lowest that shows LEADF. -/
def knownLead (s : State) : Option Nat :=
  if s.flag F.LNK_STAT_TOKEN then some (ownId s)
  else ((List.range 6).map (· + 1)).find? (fun c => c != ownId s && (match statusOf s c with
    | none => false
    | some l => stLead l))

/-- RLEAD and LEADID while the LEAD line is faulted: the ring lead of the previous cycle's slots (R323). -/
def settleRlead (s : State) : State :=
  if s.flag F.LNK_STAT_LINEFLT && s.flag F.LNK_CTL_RLEADEN then
    let s := s.put F.LNK_STAT_LEADID (s.lnk.lead.getD 0)
    if s.lnk.lead == some (ownId s) && s.krg.timeValid then settleDci (s.put F.LNK_STAT_RLEAD 1) else ringLeadDrop s
  else ringLeadDrop s

/-- LEADID while it is not: the holder where a status slot names it. -/
def settleLeadid (s : State) : State :=
  if s.flag F.LNK_STAT_LINEFLT && s.flag F.LNK_CTL_RLEADEN then s
  else match knownLead s with
    | some c => s.put F.LNK_STAT_LEADID c
    | none => s

/-- A cycle starts: what the slots of the one before named holds now. -/
def leadCycle (s : State) : State := settleRlead (s.updLnk (fun k => { k with lead := k.leadNew, leadNew := none }))

/-- A second holder (R322): the one with the higher ID releases. -/
def leadDup (s : State) : State :=
  if s.flag F.LNK_STAT_TOKEN
      && (List.range 6).any (fun i => decide (i + 1 < ownId s) && (match statusOf s (i + 1) with
        | none => false
        | some l => stLead l)) then
    (tokenRelease s).put F.LNK_EVT_LEADDUP 1
  else s

/-- CMPRES (R309). -/
def cmpRes (own : Option (List Word)) (alone : Bool) (ref : Option (List Word × Bool)) : Nat :=
  match own, ref with
  | some l, some (r, maj) =>
    if isVoter l = false ∨ alone = true then 3 else if stBlock l == stBlock r then (if maj then 0 else 2) else 1
  | _, _ => 3

/-- The comparison at NITOFS + 2 µs. -/
def compareNow (t : Nat) (s : State) : State :=
  let own := statusOf s (ownId s)
  let m := members s
  let v := m.filter (fun e => isVoter e.2)
  let cand := if v.isEmpty then m.filter (fun e => decide (3 ≤ stMode e.2 ∧ stMode e.2 ≤ 5)) else v
  let ref := reference cand
  let holds := fun (l : List Word) => (match ref with
    | none => false
    | some r => stBlock l == stBlock r.1)
  let out := (v.filter (fun e => !holds e.2)).map (·.1)
  let maj := ((v.filter (fun e => holds e.2)).map (·.1)).headD 0
  let xfer := (v.find? (fun e => e.1 == maj)).map (fun e => stWord e.2 14)
  let s := (s.put F.LNK_STAT_MAJSRC maj).put F.LNK_STAT_CMPRES (cmpRes own (decide (v.length ≤ 1)) ref)
  let s := if (match ref with
    | some (_, b) => !b
    | none => false) then s.put F.LNK_EVT_NOMAJ 1 else s
  let s := forAll [0, 1, 2, 3] (agreeOne (m.filter (fun e => stMode e.2 == 4 || stMode e.2 == 5))) s
  let s := s.updLnk (fun k => { k with
    setp := if v.isEmpty then k.setp else (match ref with
      | some r => (r.1.drop 1).take 8
      | none => k.setp)
    xmin := out.contains (ownId s) })
  let s := storeXfer xfer s
  let partner := m.any (fun e => e.1 != ownId s)
  let s := if out.contains (ownId s) then minorityNow t s else s
  let s := cmpGap s
  let s := catchUp (match own with
    | some l => holds l
    | none => false) partner s
  let s := leadDup s
  let s := countService (v.filter (fun e => stMode e.2 == 5 && !out.contains e.1)) s
  let next := ringLead out s
  settleLeadid (s.updLnk (fun k => { k with leadNew := next }))

/-- LNK_COMPARISON -/
def execLnkComparison (at_ : Nat) (s : State) : Out :=
  let s := advanceTo at_ s
  if s.flag F.LNK_CTL_EN && s.krg.timeValid then .next (compareNow at_ s) else .next s

/-! ### The lead frame (R318–R323) -/

/-- A sampled level is dominant. -/
def dom (bits : BitVec 9) (k : Nat) : Bool := !bits.getLsbD k

/-- The three ID bits of a frame, or their complement, the first as the most significant. -/
def leadBits (bits : BitVec 9) (k : Nat) : Nat :=
  (bits.getLsbD k).toNat * 4 + (bits.getLsbD (k + 1)).toNat * 2 + (bits.getLsbD (k + 2)).toNat

/-- Bit `j` (0 the first) of an ID as sent: recessive for 1. -/
def idBit (id j : Nat) : Bool := id.testBit (2 - j)

/-- Does the own channel claim in a frame with these levels (R319)? -/
def claims (s : State) (bits : BitVec 9) : Bool :=
  !dom bits 0 && s.flag F.LNK_CTL_CLAIMEN && s.mode == .active && s.flag F.LNK_STAT_INSTEP && !s.flag F.LNK_STAT_LINEFLT

/-- The first ID bit at which a claimant sends recessive and reads dominant. -/
def lostAt (id : Nat) (bits : BitVec 9) : Option Nat := [0, 1, 2].find? (fun j => idBit id j && dom bits (2 + j))

/-- Does the own channel read recessive in a bit that it drives dominant (R321)? -/
def misread (s : State) (bits : BitVec 9) (claim : Bool) : Bool :=
  let id := ownId s
  (s.flag F.LNK_STAT_TOKEN && !dom bits 0)
    || (claim &&
      (let stop := (lostAt id bits).getD 3
       [0, 1, 2].any (fun j => decide (j < stop) && !idBit id j && !dom bits (2 + j))
        || ((lostAt id bits).isNone && [0, 1, 2].any (fun j => idBit id j && !dom bits (5 + j)))))

/-- A claim stands in bits 2–4 of a free frame. -/
def claimed (bits : BitVec 9) : Bool := !dom bits 0 && leadBits bits 2 != 7

/-- Bits 5–7 are the complement of bits 2–4. -/
def complementOk (bits : BitVec 9) : Bool := leadBits bits 2 + leadBits bits 5 == 7

/-- A faulted frame (R321). -/
def frameFaulted (s : State) (bits : BitVec 9) : Bool :=
  dom bits 1 || dom bits 8 || misread s bits (claims s bits) || (claimed bits && !complementOk bits)

/-- Count the frame for R321: the line fault rises, or clears; the ring lead then holds the token. -/
def countFrame (bad : Bool) (s : State) : State :=
  let s := s.updLnk (fun k => { k with
    faulted := if bad then min 2 (k.faulted + 1) else 0, clean := if bad then 0 else min 16 (k.clean + 1) })
  let s := if bad then s.bump F.LNK_CNT_LFCNT 1 else s
  if 2 ≤ s.lnk.faulted ∧ s.flag F.LNK_STAT_LINEFLT = false then
    settleRlead (tokenRelease (icuEvent 89 ((s.put F.LNK_STAT_LINEFLT 1).put F.LNK_EVT_LINEFLT 1)))
  else if 16 ≤ s.lnk.clean ∧ s.flag F.LNK_STAT_LINEFLT = true then
    let was := s.flag F.LNK_STAT_RLEAD
    let s := (s.put F.LNK_STAT_LINEFLT 0).put F.LNK_STAT_RLEAD 0
    settleDci (if was then (s.put F.LNK_STAT_TOKEN 1).put F.LNK_STAT_LEADID (ownId s) else s)
  else s

/-- A LEAD frame with valid ring time. -/
def leadFrame (bits : BitVec 9) (s : State) : State :=
  let id := ownId s
  let claim := claims s bits
  let lost := claim && (lostAt id bits).isSome
  let bad := frameFaulted s bits
  let s := if lost then s.put F.LNK_EVT_CLAIMLOST 1 else s
  let s := countFrame bad s
  if bad ∨ dom bits 0 = true ∨ s.flag F.LNK_STAT_LINEFLT = true ∨ s.flag F.LNK_STAT_TOKEN = true then s
  else if claimed bits then
    let s := s.put F.LNK_STAT_LEADID (leadBits bits 2)
    if claim ∧ lost = false then settleDci (icuEvent 87 ((s.put F.LNK_STAT_TOKEN 1).put F.LNK_EVT_WON 1)) else s
  else s.put F.LNK_STAT_LEADID 0

/-- LEAD_FRAME -/
def execLeadFrame (bits : BitVec 9) (s : State) : Out :=
  if s.flag F.LNK_CTL_EN && s.krg.timeValid then .next (leadFrame bits s) else .next s

/-- LNK_RELEASE -/
def execLnkRelease (s : State) : Out := .next (tokenRelease s)

/-! ### The action instant's part (R312, R315) -/

/-- The snapshot of R315 is taken. -/
def snapTake (s : State) : State :=
  let n := s.get F.LNK_XCFG_NSNAP
  let a := (s.reg R.LNK_SNAPSRC).toNat
  dmaMove .snapTake a n (fun t =>
    let r := dmaRead a n t
    match r.1 with
    | none => r.2
    | some l => r.2.updLnk (fun k => { k with snap := l })) s

/-- The set-points of the last reference apply, and in a snapshot cycle a member in step takes its snapshot. -/
def lnkAction (s : State) : State :=
  let s := s.updLnk (fun k => { k with applied := k.setp })
  let n := s.get F.LNK_XCFG_NSNAP
  if s.flag F.LNK_STAT_INSTEP ∧ n ≠ 0 ∧ s.get F.KRG_CYC_CYC32 % n = 0 then snapTake s else s

/-! ### Flips (R330–R334) -/

/-- The sent INT bit (R295). -/
def sendsInt (s : State) : Bool := !(s.mode == .standby || s.mode == .active)

/-- The shadow placement mask, which counts as every facet while SHRDY = 0 (R332). -/
def shadowPlace (s : State) : Nat := if s.flag F.CFG_CTL_SHRDY then bitsOf (s.shd R.CFG_PLACE) 7 0 else 0xFF

/-- Does the shadow placement omit every retired facet? -/
def shadowOmits (s : State) : Bool := (shadowPlace s &&& s.get F.MIR_RETIRED_FACET) == 0

/-- The conditions of arming (R333). -/
def canArm (s : State) : Bool := s.flag F.CFG_CTL_SHRDY && shadowOmits s && !sendsInt s

/-- A flip is armed: ARMED, and the scan starts. -/
def arm (s : State) : State := if s.flag F.CFG_STAT_ARMED then s else flipScanStart (s.put F.CFG_STAT_ARMED 1)

/-- A write of FLIPREQ by firmware: the request stands until its first voting cycle starts, or is refused with ARMREF. A request
already armed serves it as well. -/
def flipRequest (s : State) : State :=
  if s.flag F.CFG_STAT_ARMED || canArm s then s.put F.KRG_VOTE_FLIPREQ 1
  else (s.putB F.KRG_VOTE_FLIPREQ s.krg.flipMirror).put F.CFG_STAT_ARMREF 1

/-- KRG_FLIPREQ -/
def execKrgFlipreq (s : State) : Out := .next (flipRequest s)

/-- A request of the Mirror (R119, R333): it waits while INT = 1. -/
def mirrorFlip (s : State) : State := (s.put F.KRG_VOTE_FLIPREQ 1).updKrg (fun k => { k with flipMirror := true })

/-- FLIPFAIL cancels the flip (R334); one that the Mirror requested ends in Withdraw. -/
def flipFailed (s : State) : State :=
  let mirror := s.krg.flipMirror
  let s := (s.put F.KRG_VOTESTAT_FLIPFAIL 1).put F.KRG_VOTE_FLIPREQ 0
  let s := s.updKrg (fun k => { k with flipVote := false, flipWait := 0, flipMirror := false })
  let s := flipCancel ((s.put F.CFG_STAT_ARMED 0).put F.CFG_STAT_CANCEL 1)
  if mirror then withdrawNow (phaseIdle s) else s

/-- A request of the Mirror that has waited and fails the placement check at its turn: R120 applies (R333). -/
def mirrorFlipRefused (s : State) : State :=
  let s := ((s.put F.KRG_VOTE_FLIPREQ 0).put F.MIR_RETIRED_NOSHADOW 1).updKrg (fun k => { k with flipMirror := false })
  withdrawNow (phaseIdle s)

/-- The turn of a waiting request of the Mirror: the first cycle with INT = 0 (R333). -/
def mirrorTurn (s : State) : State :=
  if s.krg.flipMirror = false ∨ s.flag F.CFG_STAT_ARMED = true ∨ sendsInt s = true then s
  else if canArm s then arm s
  else mirrorFlipRefused s

/-- The turn of firmware's request: it is armed at the start of its first voting cycle (R296), or refused. -/
def flipTurn (s : State) : State :=
  if s.flag F.KRG_VOTE_FLIPREQ = false ∨ s.krg.flipMirror = true ∨ s.flag F.CFG_STAT_ARMED = true then s
  else if canArm s then arm s
  else (s.put F.KRG_VOTE_FLIPREQ 0).put F.CFG_STAT_ARMREF 1

/-- CFG_LFLIP (R334) -/
def localFlip (s : State) : State :=
  if s.mode = .boot ∨ s.mode = .service then
    if s.lnk.lflip then s else flipScanStart (s.updLnk (fun k => { k with lflip := true }))
  else s.put F.CFG_STAT_ARMREF 1

/-- CFG_LFLIP -/
def execCfgLflip (s : State) : Out := .next (localFlip s)

/-- A write of CFG.SHADDR (R330). -/
def shaddrWrite (v : Word) (s : State) : State :=
  let s := s.put F.CFG_SHADDR_ADDR (v.toNat / 4)
  if rwsMask (v.toNat / 4 * 4) = 0 then s.put F.CFG_STAT_NOTSH 1 else s

/-- What CFG.SHDATA reads. -/
def shdata (s : State) : Word :=
  let a := s.get F.CFG_SHADDR_ADDR * 4
  if rwsMask a = 0 then 0 else s.shd a

/-- CFG_SHADDR_WRITE -/
def execCfgShaddrWrite (v : Word) (s : State) : Out := .next (shaddrWrite v s)

end Sys2Proof.Machine
end

