-- ==== Sys2Proof/Machine/Can.lean ====
section
/-! DEFINITION. CAN FD (R299–R301, R304): transmit elements, filters and receive queues, error states, bus-off, and the
configuration state. -/

namespace Sys2Proof.Machine

/-- A controller's record. -/
def State.canOf (s : State) (c : Nat) : Can := mget (fun _ => {}) s.can c

/-- Change a controller's record. -/
def State.updCan (s : State) (c : Nat) (f : Can → Can) : State := { s with can := mupd (fun _ => {}) s.can c f }

/-- The receive source is held while a queue holds an element (R301). -/
def settleRx (c : Nat) (s : State) : State :=
  icuSetLine (48 + 4 * c) (s.flag (F.CAN_RXPTR_Q0FILL c) || s.flag (F.CAN_RXPTR_Q1FILL c)) s

/-- The error source (R301). -/
def canErrSource (c : Nat) (s : State) : State := icuEvent (50 + 4 * c) s

/-! ### Transmission (R300) -/

/-- Where transmit element `b` lies. -/
def txElement (s : State) (c b : Nat) : Nat := s.get (F.CAN_TXTBL_BASE c) * 16 + 80 * b

/-- The identifier of a transmit element. -/
def txIdent (s : State) (c b : Nat) : Nat := bitsOf (s.word (txElement s c b)) 28 0

/-- May an element go? A CAN FD frame waits while FDON = 0 (R304; what becomes of it is a DESIGN CHOICE, log 103). -/
def txMay (s : State) (c b : Nat) : Bool := s.flag (F.CAN_MCTL_FDON c) || !bitOf (s.word (txElement s c b)) 29

/-- The data bytes of a DLC (ISO 11898-1). -/
def canLength (fd : Bool) (dlc : Nat) : Nat :=
  if dlc ≤ 8 then dlc else if fd then [12, 16, 20, 24, 32, 48, 64].getD (dlc - 9) 64 else 8

/-- The frame that an element makes: the controller's own error state as ESI, the bit-rate switch where BRSON allows it (R300, R304). -/
def txImage (s : State) (c : Nat) (l : List Word) : CanFrame :=
  let w0 := l.getD 0 0
  let w1 := l.getD 1 0
  let ext := bitOf w0 31
  let fd := bitOf w0 29
  let rmt := bitOf w0 30 && !fd
  { ext := ext, rmt := rmt, fd := fd
    ident := BitVec.ofNat 29 (if ext then bitsOf w0 28 0 else bitsOf w0 10 0)
    brs := fd && bitOf w1 31 && s.flag (F.CAN_MCTL_BRSON c)
    esi := fd && s.flag (F.CAN_STAT_ERRPAS c)
    dlc := BitVec.ofNat 4 (bitsOf w1 3 0)
    data := if rmt then [] else ((l.drop 3).flatMap leBytes).take (canLength fd (bitsOf w1 3 0)) }

/-- The pending element that goes next: the lowest identifier, or the lowest number. -/
def txNext (s : State) (c : Nat) : Option Nat :=
  let l := (bitsIn 32 (s.get (F.CAN_TXBUSY_BUSY c))).filter (txMay s c)
  if s.flag (F.CAN_MCTL_TXORD c) then l.head?
  else l.foldl (fun m b => match m with
    | none => some b
    | some x => if txIdent s c b < txIdent s c x then some b else some x) none

/-- The frame on the bus, as ACT shows it. -/
def setOnBus (c : Nat) (b : Option Nat) (s : State) : State :=
  (s.updCan c (fun k => { k with onBus := b, frame := none })).putB (F.CAN_STAT_ACT c) b.isSome

/-- A controller that is clocked (R68), on the bus, in a mode that sends, and has no frame under way starts its next one; the DMA fetches the
element, and waits where another requester holds its bank's lock. -/
def txStart (c : Nat) (s : State) : State :=
  if !s.flag F.CLK_GATE_CAN || s.flag (F.CAN_MCTL_CONF c) || s.flag (F.CAN_STAT_BUSOFF c) || s.get (F.CAN_MCTL_OPMODE c) == 1
      || s.get (F.CAN_MCTL_OPMODE c) == 2 || (s.canOf c).onBus.isSome then s
  else match txNext s c with
    | none => s
    | some b =>
      let a := txElement s c b
      match dmaShut 10 a 20 s with
      | some k => if holdsAbove s 10 k then lockRefuse 10 k s else s
      | none =>
        let r := dmaRead a 19 s
        match r.1 with
        | none => r.2
        | some l =>
          let sof := r.2.reg (R.CPT_MTIME 0)
          (setOnBus c (some b) r.2).updCan c (fun k => { k with frame := some (txImage s c l), sof := sof })

/-- A write of CAN.TXGOc. -/
def txGo (c : Nat) (v : Word) (s : State) : State :=
  txStart c (s.setReg (R.CAN_TXBUSY c) (s.reg (R.CAN_TXBUSY c) ||| v))

/-- CAN_TXGO -/
def execCanTxgo (c : Fin 2) (v : Word) (s : State) : Out := .next (access 0 (R.CAN_TXGO c.val) (txGo c.val v) s)

/-- A write of CAN.TXABORTc: the named elements go, but for the one on the bus. -/
def txAbort (c : Nat) (v : Word) (s : State) : State :=
  let keep : Word := match (s.canOf c).onBus with
    | none => 0
    | some b => 1#32 <<< b
  s.setReg (R.CAN_TXBUSY c) (s.reg (R.CAN_TXBUSY c) &&& (~~~v ||| keep))

/-- CAN_TXABORT -/
def execCanTxabort (c : Fin 2) (v : Word) (s : State) : Out := .next (access 0 (R.CAN_TXABORT c.val) (txAbort c.val v) s)

/-- The end of a frame lets a waiting write of CONF = 1 take effect (R301), else the next frame starts. -/
def frameEnd (c : Nat) (s : State) : State :=
  let s := setOnBus c none s
  if (s.canOf c).confDue then (s.put (F.CAN_MCTL_CONF c) 1).updCan c (fun k => { k with confDue := false }) else txStart c s

/-! ### Reception (R300) -/

/-- Does filter `f` accept the frame? -/
def filterAccepts (s : State) (c f : Nat) (fr : CanFrame) : Bool :=
  let id := s.get (F.CAN_ACPT_ID c f)
  let m := s.get (F.CAN_ACPM_MASK c f)
  s.flag (F.CAN_ACPT_EN c f) && s.flag (F.CAN_ACPT_EXT c f) == fr.ext
    && (if s.flag (F.CAN_ACPT_KIND c f) then decide (id ≤ fr.ident.toNat ∧ fr.ident.toNat ≤ m)
        else (fr.ident.toNat &&& m) == (id &&& m))

/-- The queue and the filter index of a frame: none where no filter and no no-match rule takes it. -/
def rxPlace (s : State) (c : Nat) (fr : CanFrame) : Option (Nat × Nat) :=
  match (List.range 64).find? (fun f => filterAccepts s c f fr) with
  | some f => some (s.get (F.CAN_ACPM_Q c f), f)
  | none => if s.flag (F.CAN_RXQ_NOMATCH c) then some (1, 0x3F) else none

/-- SIZE, HEAD, FILL, POL and DROP of a queue. -/
def qSize (c q : Nat) : Fld := if q = 0 then F.CAN_RXQ_Q0SIZE c else F.CAN_RXQ_Q1SIZE c
/-- HEAD -/
def qHead (c q : Nat) : Fld := if q = 0 then F.CAN_RXPTR_Q0HEAD c else F.CAN_RXPTR_Q1HEAD c
/-- FILL -/
def qFill (c q : Nat) : Fld := if q = 0 then F.CAN_RXPTR_Q0FILL c else F.CAN_RXPTR_Q1FILL c
/-- POL -/
def qPol (c q : Nat) : Fld := if q = 0 then F.CAN_RXQ_Q0POL c else F.CAN_RXQ_Q1POL c
/-- DROP -/
def qDrop (c q : Nat) : Fld := if q = 0 then F.CAN_RXDROP_Q0DROP c else F.CAN_RXDROP_Q1DROP c

/-- Where element `i` of a queue lies. -/
def rxElement (s : State) (c q i : Nat) : Nat :=
  s.get (F.CAN_RXBASE_BASE c) * 16 + 80 * ((if q = 0 then 0 else s.get (F.CAN_RXQ_Q0SIZE c)) + i)

/-- Data bytes as words; the bytes of the last word beyond them stay as they are. -/
def dataWords (s : State) (a : Nat) : Nat → List Byte → List Word
  | 0, _ => []
  | _, [] => []
  | n + 1, l =>
    let old := (leBytes (s.word a)).drop l.length
    leWord (l.take 4 ++ old) :: dataWords s (a + 4) n (l.drop 4)

/-- Store a frame at element `i` of a queue: does the DMA succeed? -/
def rxStoreAt (c q i idx : Nat) (fr : CanFrame) (sof : Word) (s : State) : Bool × State :=
  let a := rxElement s c q i
  let seq := (Config.canSeq c).toNat + (s.canOf c).seq
  let w0 := BitVec.ofNat 32 (fr.ext.toNat * 2 ^ 31 + fr.rmt.toNat * 2 ^ 30 + fr.fd.toNat * 2 ^ 29 + fr.ident.toNat)
  let w1 := BitVec.ofNat 32 (fr.brs.toNat * 2 ^ 31 + fr.esi.toNat * 2 ^ 30 + idx * 2 ^ 24 + fr.dlc.toNat)
  let l := [w0, w1, sof] ++ dataWords s (a + 12) 16 fr.data
  let n := (12 + fr.data.length) / 8 * 2
  let r := dmaWrite a (l.take n) s
  let r := if r.1 then dmaNarrow (a + 4 * n) (l.drop n) r.2 else r
  if r.1 then dmaNarrow (a + 76) [BitVec.ofNat 32 (seq % 2 ^ 16)] r.2 else r

/-- A stored frame counts. -/
def rxStored (c q head fill : Nat) (s : State) : State :=
  settleRx c (((s.updCan c (fun k => { k with seq := (k.seq + 1) % 2 ^ 16 })).put (qHead c q) head).put (qFill c q) fill)

/-- The element of a queue that the next frame takes: the next free one, or under overflow the oldest. -/
def rxSlot (s : State) (c q : Nat) : Nat :=
  let head := s.get (qHead c q)
  let fill := s.get (qFill c q)
  if fill < s.get (qSize c q) then (head + fill) % s.get (qSize c q) else head

/-- A frame that filter `idx` puts into queue `q`: into the next free element, or under DROP and the overflow policy. -/
def rxInto (c q idx : Nat) (fr : CanFrame) (sof : Word) (s : State) : State :=
  let size := s.get (qSize c q)
  let head := s.get (qHead c q)
  let fill := s.get (qFill c q)
  if fill < size then
    let r := rxStoreAt c q ((head + fill) % size) idx fr sof s
    if r.1 then rxStored c q head (fill + 1) r.2 else r.2
  else
    let s := canErrSource c (s.bump (qDrop c q) 1)
    if s.flag (qPol c q) then
      let r := rxStoreAt c q head idx fr sof s
      if r.1 then rxStored c q ((head + 1) % size) fill r.2 else r.2
    else s

/-- A received frame, whose SOF came at MTIME `sof`. -/
def rxFrame (c : Nat) (fr : CanFrame) (sof : Word) (s : State) : State :=
  if s.flag (F.CAN_MCTL_CONF c) || s.flag (F.CAN_STAT_BUSOFF c) || (fr.fd && !s.flag (F.CAN_MCTL_FDON c)) then s
  else match rxPlace s c fr with
    | none => s
    | some (q, idx) =>
      dmaMove (.canRx c fr sof) (rxElement s c q (rxSlot s c q)) 20 (rxInto c q idx fr sof) s

/-- A frame under way that is not sent ends: it is tried again, or under ONESHOT it is not (R299). -/
def txFailed (c : Nat) (s : State) : State :=
  match (s.canOf c).onBus with
  | none => s
  | some b => frameEnd c (if s.flag (F.CAN_MCTL_ONESHOT c) then s.putBit (F.CAN_TXBUSY_BUSY c) b false else s)

/-- A frame of another node on the bus: a frame of the controller's own that was under way has lost arbitration to it. In internal
loop-back the controller does not hear the bus. -/
def busFrame (c : Nat) (fr : CanFrame) (sof : Word) (s : State) : State :=
  if s.get (F.CAN_MCTL_OPMODE c) = 3 then s else txFailed c (rxFrame c fr sof s)

/-- CAN_FRAME_RECEIVE: `at_` is the SOF. The frame is stored at its end, in a CLK_PER cycle that ends with it: an acknowledgement of that
cycle came before (R300; DESIGN CHOICE, log 106). -/
def execCanFrameReceive (c : Fin 2) (fr : CanFrame) (at_ : Nat) (s : State) : Out :=
  let s := advanceTo at_ s
  .next (newCycle (clocked (R.CAN_MCTL c.val) (busFrame c.val fr (s.reg (R.CPT_MTIME 0))) s))

/-- The frame of the element on the bus has been sent; in a loop-back mode the controller receives it too (R299). -/
def txSent (c b meas : Nat) (s : State) : State :=
  if (s.canOf c).onBus = some b then
    let fr := (s.canOf c).frame
    let s := match fr with
      | some f => if 3 ≤ s.get (F.CAN_MCTL_OPMODE c) then rxFrame c f (s.canOf c).sof s else s
      | none => s
    let s := (s.putBit (F.CAN_TXBUSY_BUSY c) b false).putBit (F.CAN_TXEND_END c) b true
    let s := if fr.any (·.fd) then s.put (F.CAN_SSP_MEAS c) meas else s
    icuEvent (49 + 4 * c) (frameEnd c s)
  else s

/-- CAN_FRAME_SENT: a frame that loops back is stored as `execCanFrameReceive` has it. -/
def execCanFrameSent (c : Fin 2) (elem : Fin 32) (meas : BitVec 7) (s : State) : Out :=
  .next (newCycle (clocked (R.CAN_MCTL c.val) (txSent c.val elem.val meas.toNat) s))

/-- Release `n` elements of a queue. -/
def rxRelease (c q n : Nat) (s : State) : State :=
  let fill := s.get (qFill c q)
  let k := min n fill
  let s := (s.put (qHead c q) ((s.get (qHead c q) + k) % max 1 (s.get (qSize c q)))).put (qFill c q) (fill - k)
  if fill < n then canErrSource c (s.put (F.CAN_STAT_ACKERR c) 1) else s

/-- A write of CAN.RXACKc. -/
def rxAck (c : Nat) (v : Word) (s : State) : State :=
  settleRx c (rxRelease c 1 (bitsOf v 22 16) (rxRelease c 0 (bitsOf v 6 0) s))

/-- CAN_RXACK -/
def execCanRxack (c : Fin 2) (v : Word) (s : State) : Out := .next (access 0 (R.CAN_RXACK c.val) (rxAck c.val v) s)

/-! ### Errors, bus-off and configuration (R299, R301) -/

/-- LASTERR's code. -/
def canErrCode : CanErrKind → Nat
  | .stuff => 1
  | .form => 2
  | .ack => 3
  | .bit1 => 4
  | .bit0 => 5
  | .crc => 6
  | .protocolException => 2

/-- The error counters and the states that follow from them. -/
def canCounters (c tec rec : Nat) (s : State) : State :=
  let s := ((s.put (F.CAN_ECNT_TEC c) tec).put (F.CAN_ECNT_REC c) (min 127 rec)).putB (F.CAN_ECNT_RPAS c) (decide (128 ≤ rec))
  let pas := decide (128 ≤ tec) || decide (128 ≤ rec)
  let warn := decide (96 ≤ tec) || decide (96 ≤ rec)
  let changed := s.flag (F.CAN_STAT_ERRPAS c) != pas || s.flag (F.CAN_STAT_WARN c) != warn
  let s := (s.putB (F.CAN_STAT_ERRPAS c) pas).putB (F.CAN_STAT_WARN c) warn
  if changed then canErrSource c s else s

/-- A protocol exception is an error only under PEXOFF; else PEX shows it. -/
def canError (c : Nat) (kind : CanErrKind) (tec rec : Nat) (s : State) : State :=
  let pex := kind = .protocolException ∧ s.flag (F.CAN_MCTL_PEXOFF c) = false
  let s := canErrSource c (if pex then s.put (F.CAN_STAT_PEX c) 1 else s.put (F.CAN_STAT_LASTERR c) (canErrCode kind))
  let s := canCounters c tec rec s
  if pex then s else txFailed c s

/-- CAN_ERROR -/
def execCanError (c : Fin 2) (kind : CanErrKind) (tec rec : BitVec 8) (s : State) : Out :=
  .next (clocked (R.CAN_MCTL c.val) (canError c.val kind tec.toNat rec.toNat) s)

/-- Bus-off, with CONF = 1 while AUTOREC = 0 (R299). -/
def busOff (c : Nat) (s : State) : State :=
  let s := icuEvent (51 + 4 * c) (setOnBus c none (s.put (F.CAN_STAT_BUSOFF c) 1))
  if s.flag (F.CAN_MCTL_AUTOREC c) ∧ (s.canOf c).confDue = false then s
  else (s.put (F.CAN_MCTL_CONF c) 1).updCan c (fun k => { k with confDue := false })

/-- CAN_BUS_OFF -/
def execCanBusOff (c : Fin 2) (s : State) : Out := .next (clocked (R.CAN_MCTL c.val) (busOff c.val) s)

/-- Error active again with both counters 0 (ISO 11898-1, PRESUMED, log 41). -/
def busRecover (c : Nat) (s : State) : State :=
  if s.flag (F.CAN_STAT_BUSOFF c) = true ∧ s.flag (F.CAN_MCTL_CONF c) = false ∧ s.pwr.entry = 0 then
    txStart c (canCounters c 0 0 (s.put (F.CAN_STAT_BUSOFF c) 0))
  else s

/-- CAN_BUS_OFF_RECOVERY -/
def execCanBusOffRecovery (c : Fin 2) (s : State) : Out := .next (clocked (R.CAN_MCTL c.val) (busRecover c.val) s)

/-- A write of CAN.MCTLc: CONF leaves at once and enters at the end of a frame under way; the other fields are accepted in the
configuration state only. -/
def mctlWrite (c : Nat) (v : Word) (s : State) : State :=
  if s.flag (F.CAN_MCTL_CONF c) then
    let old := s.reg (R.CAN_MCTL c)
    let op := if bitsOf v 30 28 ≤ 4 then bitsOf v 30 28 else bitsOf old 30 28
    txStart c (s.setReg (R.CAN_MCTL c) (BitVec.ofNat 32 (bitsOf v 31 31 * 2 ^ 31 + op * 2 ^ 28 + bitsOf v 27 22 * 2 ^ 22)))
  else if bitOf v 31 then
    if (s.canOf c).onBus.isSome then s.updCan c (fun k => { k with confDue := true }) else s.put (F.CAN_MCTL_CONF c) 1
  else s.updCan c (fun k => { k with confDue := false })

/-- CAN_CONF_WRITE -/
def execCanConfWrite (c : Fin 2) (v : Word) (s : State) : Out := .next (access 0 (R.CAN_MCTL c.val) (mctlWrite c.val v) s)

end Sys2Proof.Machine
end

