-- ==== Sys2Proof/Machine/Ring.lean ====
section
/-! DEFINITION. KRing (R274–R298) and the HWM's guardian (R290, R291, R303): ports and links, relay and frame checks, ring time,
start-up, votes, and the data buffers. Ring times are in the units of the registers, 10 ns, unless a name says otherwise. -/

namespace Sys2Proof.Machine

/-! ### States, ports and wires -/

/-- KRG.STAT.STATE -/
def ringState (s : State) : Nat := s.get F.KRG_STAT_STATE

/-- The node counts as synchronised: SYNCED, or in a cold start (R294). -/
def ringSynced (s : State) : Bool := ringState s == 5 || ringState s == 2

/-- The node has a ring time of its own: synchronised or integrating. -/
def ringRuns (s : State) : Bool := ringSynced s || ringState s == 4

/-- The number of nodes that bounds a frame's relays: HMAX = 2 N − 3 (R276). -/
def hmax (s : State) : Nat := 2 * (s.get F.KRG_SYNCCFG_NNODES + 1) - 3

/-- One port's record. -/
def State.port (s : State) (p : Nat) : Port := mget (fun _ => {}) s.krg.ports p

/-- Change one port's record. -/
def State.updPort (s : State) (p : Nat) (f : Port → Port) : State :=
  s.updKrg (fun k => { k with ports := mupd (fun _ => {}) k.ports p f })

/-- The PWR.DOMCTL bits of the four PHYs, KX-E first (R75). -/
def phyField : Fld := ⟨R.PWR_DOMCTL, 3, 0⟩

/-- The port's PHY is in power-down: by its DOMCTL bit (R65, R75), or by an entry to DORMANT (R77). -/
def portOff (s : State) (p : Nat) : Bool := !s.bit phyField p || s.pwr.entry != 0

/-- A transmission leaves on a port, unless its PHY is in power-down. -/
def transmit (p : Nat) (l : List Byte) (s : State) : State :=
  if portOff s p then s else s.updKrg (fun k => { k with wire := mset (fun _ => []) k.wire p l })

/-- A port is down (R277): its PHY has no link, or LOOP shows that it went down and has not come up again. -/
def portIsDown (s : State) (p : Nat) : Bool := s.flag (F.KRG_PORTSTAT_LOOP p) || !s.flag (F.KRG_PORTSTAT_LINK p) || portOff s p

/-- All four ports are down or in power-down. -/
def allDown (s : State) : Bool := (List.range 4).all (portIsDown s)

/-- Is the device in a mode that joins a ring (R26)? -/
def mayJoin (s : State) : Bool := s.mode != .boot && s.mode != .service

/-- Ring time becomes invalid: the token goes (R320), and in STANDBY and ACTIVE KRLOSS is raised (R326). -/
def ringTimeInvalid (s : State) : State :=
  if s.krg.timeValid then
    let s := tokenRelease (s.updKrg (fun k => { k with timeValid := false }))
    let s := syncRingLost (ringLeadDrop s)
    if s.mode = .standby ∨ s.mode = .active then sendRaise 133 133 0xFF s else s
  else s

/-- The records of a running cycle end. -/
def freshCycle (k : Ring) : Ring :=
  { k with devs := [], seen := [], got := [], heard := [], rejects := [], ownSent := false, ownBack := false, ownFold := false
           ownSw := none, ownFlip := false, asked := false, replied := [] }

/-- Key words and TXKEY take effect (R283). -/
def takeKeys (s : State) : State :=
  let on := s.flag F.KRG_CTL_TXKEY
  s.updKrg (fun k => { k with
    keys := k.keysNext.foldl (fun m e => mset (fun _ => 0) m e.1 e.2) k.keys, keysNext := [], txkey := on })

/-- The node leaves the ring and listens (R292). What depends on the cycle before, or on the session, starts anew (R296, R306, R308,
R315); key words that wait take effect, because no cycle start follows (DESIGN CHOICE, log 121). -/
def ringLeave (s : State) : State :=
  let s := ringTimeInvalid (s.put F.KRG_STAT_STATE 1)
  let s := forAll [0, 1, 2, 3] (fun p t => t.updPort p (fun q => { q with miss := 0, run := 0 })) s
  let s := s.updLnk (fun l => { l with
    cmpCyc := none, lead := none, leadNew := none, sent := none, xmin := false, rxNext := 0 })
  let s := s.put F.KRG_VOTESTAT_VOTERS 0
  takeKeys (s.updKrg (fun k => { freshCycle k with
    payload := none, adopt := false, good := 0, cold := none, cs := false, csRun := 0, prev := [], ownMiss := 0
    swVote := none, flipVote := false }))

/-- Ring time becomes valid (R289). -/
def ringTimeValid (s : State) : State := s.updKrg (fun k => { k with timeValid := true })

/-- A port goes down: LOOP, source 47; with all four down the node leaves (R277, R292). -/
def portDown (p : Nat) (s : State) : State :=
  if s.flag (F.KRG_PORTSTAT_LOOP p) then s
  else
    let s := s.updKrg (fun k => { k with relays := k.relays.filter (fun e => e.1 != p && e.2.out != p) })
    let s := evcCount 0x48 1 (icuEvent 47 ((s.put (F.KRG_PORTSTAT_LOOP p) 1).bump (F.KRG_PORTCNT_DOWN p) 1))
    let s := s.updPort p (fun q => { q with run := 0 })
    if allDown s ∧ ringRuns s = true then ringLeave s else s

/-- A PHY reports link FAIL. -/
def phyFail (p : Nat) (s : State) : State := portDown p (s.put (F.KRG_PORTSTAT_LINK p) 0)

/-- PHY_LINK_FAIL -/
def execPhyLinkFail (p : Fin 4) (s : State) : Out := .next (phyFail p.val s)

/-- PHY_LINK_UP -/
def execPhyLinkUp (p : Fin 4) (s : State) : Out :=
  if portOff s p.val then .next s else .next ((s.put (F.KRG_PORTSTAT_LINK p.val) 1).updPort p.val (fun q => { q with run := 0 }))

/-- PHY_SQI_UPDATE: SQIMIN is the lowest since the last read. -/
def execPhySqiUpdate (p : Fin 4) (sqi : BitVec 3) (s : State) : Out :=
  let s := s.put (F.KRG_PORTSTAT_SQI p.val) sqi.toNat
  .next (s.put (F.KRG_PORTSTAT_SQIMIN p.val) (min sqi.toNat (s.get (F.KRG_PORTSTAT_SQIMIN p.val))))

/-- The effect of a read of KRG.PORTSTATp (R391): SQIMIN starts anew at SQI. -/
def portstatRead (p : Nat) (s : State) : State := s.put (F.KRG_PORTSTAT_SQIMIN p) (s.get (F.KRG_PORTSTAT_SQI p))

/-- PORTSTAT_READ -/
def execPortstatRead (p : Fin 4) (s : State) : Out := .next (portstatRead p.val s)

/-! ### Headers (R279) -/

/-- SLOT -/
def hSlot (h : List Byte) : Nat := (at8 h 0).toNat % 64
/-- VER -/
def hVer (h : List Byte) : Nat := (at8 h 0).toNat / 64
/-- SRC -/
def hSrc (h : List Byte) : Nat := (at8 h 1).toNat / 16
/-- RING -/
def hRing (h : List Byte) : Nat := (at8 h 1).toNat / 8 % 2
/-- MODE -/
def hMode (h : List Byte) : Nat := (at8 h 1).toNat % 8
/-- CYC32, from CYCLE and CYCH -/
def hCyc (h : List Byte) : Nat :=
  (at8 h 6).toNat * 2 ^ 24 + (at8 h 7).toNat * 2 ^ 16 + (at8 h 2).toNat * 2 ^ 8 + (at8 h 3).toNat
/-- CS -/
def hCs (h : List Byte) : Bool := (at8 h 4).getLsbD 7
/-- KEYID -/
def hKey (h : List Byte) : Nat := (at8 h 4).toNat / 64 % 2
/-- HOPS -/
def hHops (h : List Byte) : Nat := (at8 h 4).toNat % 32
/-- SWV with SWMODE -/
def hSw (h : List Byte) : Option Nat := if (at8 h 5).getLsbD 7 then some ((at8 h 5).toNat / 16 % 8) else none
/-- FLIPV or FLIPOK: consent to a flip (R296) -/
def hFlip (h : List Byte) : Bool := (at8 h 5).getLsbD 3 || (at8 h 5).getLsbD 2
/-- INT -/
def hInt (h : List Byte) : Bool := (at8 h 5).getLsbD 1

/-- The header with LB and HOPS as a relay sends it. -/
def relayed (h : List Byte) (lb : Bool) (hops : Nat) : List Byte :=
  h.set 4 (BitVec.ofNat 8 ((at8 h 4).toNat / 64 * 64 + (if lb || (at8 h 4).getLsbD 5 then 32 else 0) + hops % 32))

/-- The header over which the MAC is computed: LB and HOPS 0 (R282). -/
def macHeader (h : List Byte) : List Byte := h.set 4 (BitVec.ofNat 8 ((at8 h 4).toNat / 64 * 64))

/-- The 16 bytes of a key slot in force. -/
def keyBytes (s : State) (slot : Nat) : List Byte :=
  [0, 1, 2, 3].flatMap (fun w => beBytes (mget (fun _ => 0) s.krg.keys (4 * slot + w)))

/-- The MAC of a frame (R282). -/
def macOf (s : State) (h payload : List Byte) : List Byte :=
  (cmac (keyBytes s (hKey h)) (beBytes (s.reg R.KRG_SESS) ++ macHeader h ++ payload)).take 4

/-- RLYTOL in ns. -/
def rlytol (s : State) : Nat := s.get F.KRG_SYNCCFG_RLYTOL * 10

/-- The link delay of a port in 1/8 ns: LDLYINIT until 16 values exist (R287). -/
def ldly (s : State) (p : Nat) : Nat :=
  if (s.port p).delays.length < 16 then s.get (F.KRG_PORTCFG_LDLYINIT p) else s.get (F.KRG_PORTSTAT_LDLY p)

/-- The time of the cycle, in 1/8 ns, at which a frame is expected on port `p` in mode `m` (R284): START + HOPS × HT + LDLY. -/
def expectedAt (s : State) (p m : Nat) (h : List Byte) : Int :=
  80 * s.get (F.KRG_APT_START m (hSlot h)) + 12800 * hHops h + ldly s p

/-- How far a SOF lies from it. -/
def deviation (s : State) (p m : Nat) (h : List Byte) (sof : Int) : Int := sof - expectedAt s p m h

/-- The slot is enabled in mode `m`. -/
def slotOn (s : State) (m k : Nat) : Bool := s.flag (F.KRG_APT_EN m k)

/-- The slot's owner in mode `m`. -/
def slotOwner (s : State) (m k : Nat) : Nat := s.get (F.KRG_APT_OWNER m k)

/-- The slot's payload length in bytes. -/
def slotLen (s : State) (m k : Nat) : Nat := 8 * s.get (F.KRG_APT_PLEN m k)

/-- The schedule mode in force. -/
def ringMode (s : State) : Nat := s.get F.KRG_STAT_MODE

/-! ### The guardian (R290, R291) -/

/-- The HWM stage enforces its windows. -/
def guardOn (s : State) : Bool := s.flag F.HWM_GCFG_EN && s.flag F.HWM_GSTAT_CAL

/-- The line drivers are enabled. -/
def driversOn (s : State) : Bool := !guardOn s || s.grd.wide

/-- ORIG lets the own frame of slot `k` out at instant `t` (in CLK_ENG cycles), of `len` payload bytes. In LIMP the controller sends
status slots alone (R26). -/
def origOk (s : State) (k t len : Nat) : Bool :=
  if s.mode = .safe ∨ s.mode = .boot ∨ s.mode = .service ∨ s.mode = .dormant then false
  else if guardOn s then
    let m := s.get F.HWM_GSTAT_GMODE
    s.grd.windows.any (fun k => s.flag (F.HWM_GAPT_OWN m k) && (s.mode != .limp || s.flag (F.HWM_GAPT_STAT m k)))
  else
    decide (len ≤ 240) && (s.mode != .limp || s.flag (F.KRG_APT_STAT (ringMode s) k)) && (match s.grd.lastOwn with
      | none => true
      | some l => decide (95 * (3 * s.get F.HWM_GCFG_CYCLEN) ≤ 100 * (t - l)))

/-- The stage loses its calibration. -/
def guardLost (s : State) : State :=
  { ((s.put F.HWM_GSTAT_CAL 0).put F.HWM_GSTAT_CSTERR 1) with grd := { s.grd with intervals := [] } }

/-- GUARDIAN_CSTART: while ring time is valid, GMODE latches the schedule mode; eight consecutive intervals within ±6 % calibrate the
stage. -/
def execGuardianCstart (interval : Option Nat) (s : State) : Out :=
  let t := s.put F.HWM_GSTAT_GMODE (ringMode s)
  let c := s.get F.HWM_GCFG_CYCLEN
  match s.krg.timeValid, interval with
  | false, _ => .next s
  | true, none => .next t
  | true, some i =>
    if 100 * i ≤ 106 * c ∧ 94 * c ≤ 100 * i then
      let l := (i :: s.grd.intervals).take 8
      let t := { t with grd := { t.grd with intervals := l } }
      .next (if l.length = 8 then t.put F.HWM_GSTAT_CAL 1 else t)
    else .next (guardLost t)

/-- GUARDIAN_CSTART_TIMEOUT -/
def execGuardianCstartTimeout (s : State) : Out := .next (guardLost s)

/-- Is an instant of the cycle inside a window that may wrap across the cycle start (R291)? -/
def inWindow (op cl x : Nat) : Bool := if op ≤ cl then decide (op ≤ x ∧ x < cl) else decide (op ≤ x) || decide (x < cl)

/-- The windows of the enabled entries of GMODE that are open at ring offset `x`, in 10 ns units, by the guardian's copy. -/
def guardOpen (s : State) (x : Nat) : List Nat :=
  let m := s.get F.HWM_GSTAT_GMODE
  (List.range 64).filter (fun k => s.flag (F.HWM_GAPT_EN m k)
    && inWindow (10 * s.get (F.HWM_GAPT_OPEN m k)) (10 * s.get (F.HWM_GAPT_CLOSE m k)) x)

/-- Is `x` in a window that is widened by `g` at both ends, in a cycle of `c`? -/
def inWide (c g op cl x : Nat) : Bool := inWindow ((op + c - g) % c) ((cl + g) % c) x

/-- Does a line-driver window stand open at ring offset `x` (R290): every slot's, and that of the link exchange from NITOFS + 20 µs to
NITOFS + 30 µs, each widened by KRG.GMARGIN (DEDUCED, log 101: the stage has no copy of it)? -/
def guardWide (s : State) (x : Nat) : Bool :=
  let m := s.get F.HWM_GSTAT_GMODE
  let c := s.get F.HWM_GCFG_CYCLEN
  let g := s.get F.KRG_GMARGIN_GM
  let n := 10 * s.get F.HWM_GCFG_NITOFS
  inWide c g (n + 2000) (n + 3000) x || (List.range 64).any (fun k => s.flag (F.HWM_GAPT_EN m k)
    && inWide c g (10 * s.get (F.HWM_GAPT_OPEN m k)) (10 * s.get (F.HWM_GAPT_CLOSE m k)) x)

/-- GUARDIAN_WINDOW_EDGE: at an edge at ring offset `off`, by the guardian's own timing, windows open or close. -/
def execGuardianWindowEdge (off : Nat) (s : State) : Out :=
  .next { s with grd := { s.grd with windows := guardOpen s off, wide := guardWide s off } }

/-! ### Relay (R276, R280) -/

/-- The other port of the same ring. -/
def otherPort (p : Nat) : Nat := if p % 2 = 0 then p + 1 else p - 1

/-- A header that names a slot of the schedule by its owner. -/
def headerFits (s : State) (h : List Byte) : Bool :=
  hVer h == 1 && slotOn s (ringMode s) (hSlot h) && hSrc h == slotOwner s (ringMode s) (hSlot h)

/-- The SOF lies within ±RLYTOL of its expected time. -/
def onTime (s : State) (dev : Int) : Bool := decide (dev.natAbs ≤ 8 * rlytol s)

/-- The ports of W are 1 and 3. -/
def isWest (p : Nat) : Bool := p % 2 == 1

/-- Where a frame that arrives on `p` is relayed, and whether it is folded. -/
def relayTo (s : State) (p : Nat) : Option (Nat × Bool) :=
  if isWest p then (if portIsDown s (p - 1) then some (p, true) else some (p - 1, false))
  else if portIsDown s (p + 1) then none else some (p + 1, false)

/-- A frame in relay on port `p`. -/
def relayOf (s : State) (p : Nat) : Option Relay := (s.krg.relays.find? (fun e => e.1 == p)).map (·.2)

/-- The relay of port `p` is this one, or over. -/
def setRelay (p : Nat) (r : Option Relay) (s : State) : State :=
  s.updKrg (fun k => { k with relays := (r.map (fun x => (p, x))).toList ++ k.relays.filter (fun e => e.1 != p) })

/-- A frame goes on, with HOPS one higher, through an enabled line driver. Its SOF leaves at HT less the delay of the link on which it
arrived, 100 ns at most (R284, R287). -/
def relayFrame (p : Nat) (h : List Byte) (sof : Int) (s : State) : State :=
  if hmax s ≤ hHops h then s
  else match relayTo s p with
    | none => s
    | some (q, lb) =>
      let h' := relayed h lb (hHops h + 1)
      if driversOn s then
        setRelay p (some { out := q, header := h', sof := sof + 12800 - (min (ldly s p) 800 : Nat) }) (transmit q h' s)
      else s

/-- The rest of a frame in relay: the CRC-32 over the bytes sent, inverted where the incoming one is wrong (R280). -/
def relayEnd (p : Nat) (frame : Option RingFrame) (s : State) : State :=
  match relayOf s p, frame with
  | none, _ => s
  | some _, none => setRelay p none s
  | some r, some f =>
    let b := r.header ++ f.payload ++ f.mac
    let c := if crc32 (f.header ++ f.payload ++ f.mac) == f.crc then crc32 b else ~~~(crc32 b)
    setRelay p none (if driversOn s then transmit r.out (b ++ leBytes c) s else s)

/-- A TIMING reject: source 46, its count; the second sender of a cycle makes the node leave (R292). -/
def timingRejected (p : Nat) (h : List Byte) (dev : Int) (s : State) : State :=
  let r := p / 2
  let k := hSlot h
  let s := evcCount 0x46 1 (icuEvent 46 (s.bump (if dev < 0 then F.KRG_SCNT_EARLY r k else F.KRG_SCNT_LATE r k) 1))
  let src := hSrc h
  if s.krg.rejects.any (fun n => n != src) then ringLeave s
  else s.updKrg (fun k => { k with rejects := if k.rejects.contains src then k.rejects else k.rejects ++ [src] })

/-- The relay decision at byte 4, for a SOF at `sof` of the own cycle, in 1/8 ns. -/
def frameStart (p : Nat) (h : List Byte) (sof : Int) (s : State) : State :=
  let own := hSrc h == ownId s
  let dev := deviation s p (ringMode s) h sof
  if s.flag F.KRG_CTL_EN = false ∨ ringState s = 0 then s
  else if isWest p && own then s.updKrg (fun k => { k with ownBack := true })
  else
    let s := if own then s.updKrg (fun k => { k with ownFold := true }) else s
    if ringSynced s = false then relayFrame p h sof s
    else if headerFits s h = false then s
    else if onTime s dev then relayFrame p h sof s
    else timingRejected p h dev s

/-- KRING_FRAME_START -/
def execKringFrameStart (p : Fin 4) (header : List Byte) (sof : Int) (s : State) : Out := .next (frameStart p.val header sof s)

/-! ### Frame checks (R284, R298) -/

/-- The bytes over which the CRC-32 runs. -/
def crcOk (f : RingFrame) : Bool := crc32 (f.header ++ f.payload ++ f.mac) == f.crc

/-- The mode in which a frame's slot is read: the frame's own while the node has none. -/
def checkMode (s : State) (h : List Byte) : Nat := if ringRuns s then ringMode s else hMode h

/-- Does a SOF lie inside the slot's window at this node (R285)? A node without ring time, or a slot that is not enabled, knows no
window. -/
def sofInWindow (s : State) (m slot : Nat) (sof : Int) : Bool :=
  let a : Int := s.get (F.KRG_APT_START m slot)
  let g : Int := s.get F.KRG_GMARGIN_GM
  !ringRuns s || !slotOn s m slot
    || decide (80 * (a - g) ≤ sof ∧ sof ≤ 80 * (a + (24 + slotLen s m slot) * 8 + hmax s * 160 + g))

/-- The result of R284: 0 VALID, 1 EMPTY, 2 FORMAT, 3 CRC, 4 AUTH, 5 FRESH, 6 TIMING. -/
def frameResult (s : State) (p slot : Nat) (frame : Option RingFrame) (sof : Int) : Nat :=
  match frame with
  | none => 1
  | some f =>
    let h := f.header
    let m := checkMode s h
    if sofInWindow s m slot sof = false then 1
    else if !(h.length == 8 && hVer h == 1 && hRing h == p / 2 && hSlot h == slot && slotOn s m slot
        && hSrc h == slotOwner s m slot && f.payload.length == slotLen s m slot) then 2
    else if crcOk f = false then 3
    else if ringSynced s = true ∧ onTime s (deviation s p m h sof) = false then 6
    else if f.mac ≠ macOf s h f.payload then 4
    else if ringRuns s = true ∧ hCyc h ≠ s.get F.KRG_CYC_CYC32 then 5
    else 0

/-- The trailer's status word. -/
def trailer (res hops : Nat) : Word := BitVec.ofNat 32 ((if res = 0 then 2 ^ 31 else 0) + res * 2 ^ 28 + hops)

/-- The receive buffer of a slot. -/
def rxBuffer (s : State) (r slot : Nat) : Nat := s.get F.KRG_RXBASE_BASE * 0x8000 + 256 * (64 * r + slot)

/-- What a result leaves in its buffer at `a`: payload and trailer of a VALID frame, the status word alone of another. -/
def rxResult (a res : Nat) (frame : Option RingFrame) (s : State) : State :=
  match frame with
  | some f =>
    if res = 0 then
      let q := dmaWrite a (wordsOf (f.payload.length / 4) f.payload) s
      let q := if q.1 then dmaWrite (a + 0xF8) [BitVec.ofNat 32 (hCyc f.header), trailer 0 (hHops f.header)] q.2 else q
      q.2
    else (dmaWrite (a + 0xFC) [trailer res (hHops f.header)] s).2
  | none => (dmaWrite (a + 0xFC) [trailer res 0] s).2

/-- The DMA writes a result. -/
def rxStore (r slot res : Nat) (frame : Option RingFrame) (s : State) : State :=
  let a := rxBuffer s r slot
  dmaMove (.ringRx r slot res frame) a 64 (rxResult a res frame) s

/-- The counts of KRG.SCNTr,s, of the port and of the event counters (R387). -/
def rxCount (p r slot res : Nat) (s : State) : State :=
  match res with
  | 0 => evcCount (0x40 + r) 1 s
  | 1 => evcCount (0x42 + r) 1 (s.bump (F.KRG_SCNT_EMPTY r slot) 1)
  | 2 => s.bump (F.KRG_SCNT_INVAL r slot) 1
  | 3 => evcCount 0x44 1 ((s.bump (F.KRG_SCNT_INVAL r slot) 1).bump (F.KRG_PORTCNT_CRCERR p) 1)
  | 4 => evcCount 0x45 1 (s.bump (F.KRG_SCNT_AUTH r slot) 1)
  | 5 => evcCount 0x45 1 (s.bump (F.KRG_SCNT_AUTH r slot) 1)
  | _ => s

/-- The node adopts ring time, CYC32 and mode from its first VALID frame (R293). -/
def ringAdopt (h : List Byte) (s : State) : State :=
  let s := ((s.put F.KRG_STAT_STATE 4).put F.KRG_STAT_MODE (hMode h)).put F.KRG_CYC_CYC32 (hCyc h)
  let s := s.put F.KRG_VOTESTAT_VOTERS 0
  s.updKrg (fun k => { freshCycle k with payload := none, adopt := true, good := 0, cold := none, cs := false, csRun := 0, prev := [], rate := 0
                                         rateRun := 0, ownMiss := 0 })

/-- What a VALID frame tells: its payload, its votes, its deviation. -/
def rxValid (r slot : Nat) (f : RingFrame) (dev : Int) (s : State) : State :=
  let h := f.header
  let src := hSrc h
  let sync := (s.flag (F.KRG_APT_SYNC (checkMode s h) slot) && !hInt h) || hCs h
  s.updKrg (fun k => { k with
    seen := k.seen ++ [64 * r + slot]
    got := if k.got.any (fun e => e.1 == slot) then k.got else k.got ++ [(slot, f.payload)]
    heard := if k.heard.any (fun e => e.src == src && e.swv == hSw h && e.flip == hFlip h) then k.heard
             else k.heard ++ [{ src := src, int := hInt h, mode := hMode h, swv := hSw h, flip := hFlip h }]
    devs := if sync then k.devs ++ [(src, (r, dev))] else k.devs })

/-- A cold-starting node has collided (R294). -/
def collision (s : State) : State :=
  let s := ringLeave (s.put F.KRG_STAT_COLL 1)
  s.put F.KRG_STAT_STATE 3

/-- Does this frame collide with a running cold start: another node's CS frame, or a CRC error, in the first two cycles? -/
def collides (s : State) (f : RingFrame) : Bool :=
  (match s.krg.cold with
    | some n => decide (n < 2)
    | none => false)
  && (!crcOk f || (hCs f.header && hSrc f.header != ownId s))

/-- A frame that comes home on W is stripped (R276). -/
def stripped (s : State) (p : Nat) (frame : Option RingFrame) : Bool :=
  isWest p && (match frame with
    | some f => hSrc f.header == ownId s
    | none => false)

/-- The verdict of a frame. A frame that is stripped, and a copy of a slot that has been delivered in this cycle, add nothing (R276), unless
a cold start collides with them (R294). -/
def frameDone (p slot : Nat) (frame : Option RingFrame) (sof : Int) (s : State) : State :=
  let r := p / 2
  let s := relayEnd p frame s
  if s.flag F.KRG_CTL_EN = false ∨ ringState s = 0 then s
  else if stripped s p frame || s.krg.seen.contains (64 * r + slot) then
    match frame with
    | some f => if collides s f then collision s else s
    | none => s
  else
    let res := frameResult s p slot frame sof
    let s := rxCount p r slot res (rxStore r slot res frame s)
    let s := if s.bit (F.KRG_RXIEN_IEN (slot / 32)) (slot % 32) then icuEvent 42 s else s
    match frame with
    | none => s
    | some f =>
      if collides s f then collision s
      else if res = 0 then
        let dev := if ringRuns s then deviation s p (ringMode s) f.header sof else 0
        if ringRuns s then rxValid r slot f dev s
        else if mayJoin s then rxValid r slot f dev (ringAdopt f.header s) else s
      else if res = 5 ∧ ringState s = 4 then ringLeave s
      else s

/-- FRAME_CHECK_DONE -/
def execFrameCheckDone (p : Fin 4) (slot : Fin 64) (frame : Option RingFrame) (sof : Int) (s : State) : Out :=
  .next (frameDone p.val slot.val frame sof s)

/-! ### Own frames (R276, R298, R306) -/

/-- The own slot `k` of mode `m`. -/
def ownSlot (s : State) (m k : Nat) : Bool := slotOn s m k && slotOwner s m k == ownId s

/-- The words fetched for own slot `k`: LNK lays its words over those of the status slot. An injection into XCMP inverts bit 0 of
SETP0 (R384). -/
def txFetched (k : Nat) (l : List Word) (s : State) : State :=
  let own := decide (chSlot s (ownId s) = some k)
  let l := if own then (statusPayload s l).take l.length else l
  let bad := own && (injDue s 131).isSome
  let l := if bad then l.set 2 (l.getD 2 0 ^^^ 1) else l
  let s := if bad then injPop 131 s else s
  s.updKrg (fun q => { q with payload := some (k, l.flatMap leBytes) })

/-- The DMA fetches the payload of an own slot. -/
def txFetch (k : Nat) (s : State) : State :=
  let m := ringMode s
  if ringSynced s = false ∨ ownSlot s m k = false then s
  else if s.bit (F.KRG_TXRDY_RDY (k / 32)) (k % 32) = false then s.bump F.KRG_NRDY_COUNT 1
  else
    let a := s.get F.KRG_TXBASE_BASE * 0x4000 + 256 * k
    let n := slotLen s m k / 4
    dmaMove (.ringTx k) a n (fun t =>
      let r := dmaRead a n (t.putBit (F.KRG_TXRDY_RDY (k / 32)) (k % 32) false)
      match r.1 with
      | none => r.2
      | some l => txFetched k l r.2) s

/-- TX_PAYLOAD_FETCH -/
def execTxPayloadFetch (slot : Fin 64) (s : State) : Out := .next (txFetch slot.val s)

/-- The header of an own frame. -/
def ownHeader (s : State) (k ring : Nat) (sw : Option Nat) (flip : Bool) : List Byte :=
  let c := s.get F.KRG_CYC_CYC32
  [BitVec.ofNat 8 (64 + k), BitVec.ofNat 8 (ownId s * 16 + ring * 8 + ringMode s), BitVec.ofNat 8 (c / 256), BitVec.ofNat 8 c,
   BitVec.ofNat 8 (s.krg.cs.toNat * 128 + s.krg.txkey.toNat * 64),
   BitVec.ofNat 8 ((match sw with
      | some m => 128 + m * 16
      | none => 0) + flip.toNat * 8 + s.get F.KRG_VOTE_FLIPOK * 4 + (sendsInt s).toNat * 2),
   BitVec.ofNat 8 (c / 2 ^ 24), BitVec.ofNat 8 (c / 2 ^ 16)]

/-- The frame on the wire after the preamble. -/
def frameBytes (s : State) (h payload : List Byte) : List Byte :=
  let b := h ++ payload ++ macOf s h payload
  b ++ leBytes (crc32 b)

/-- An own frame leaves on the E port of a ring, or on W with E down. -/
def sendOn (k ring : Nat) (payload : List Byte) (sw : Option Nat) (flip : Bool) (s : State) : State :=
  let e := 2 * ring
  transmit (if portIsDown s e then e + 1 else e) (frameBytes s (ownHeader s k ring sw flip) payload) s

/-- ORIG is low: no bit leaves; ORIGBLK, CUTCNT, source 78, detector KRGUARD (R291). -/
def origBlocked (s : State) : State :=
  raise 130 0xFF (hwmEvent 78 ((s.put F.HWM_GSTAT_ORIGBLK 1).bump F.HWM_GSTAT_CUTCNT 1))

/-- The own frame of slot `k` at instant `t`. An injection into KRGUARD holds ORIG low (R384). -/
def sendOwn (k t : Nat) (s : State) : State :=
  match s.krg.payload with
  | none => { s with dma := s.dma.filter (fun j => j != .ringTx k) }
  | some (n, payload) =>
    if n ≠ k ∨ ringSynced s = false ∨ ownSlot s (ringMode s) k = false then s
    else
      let s := s.updKrg (fun q => { q with payload := none })
      if (injDue s 130).isSome then origBlocked (injPop 130 s)
      else if origOk s k t payload.length = false then origBlocked s
      else
        let sw := if sendsInt s then none else s.krg.swVote
        let flip := s.krg.flipVote && s.flag F.CFG_STAT_ARMED && !sendsInt s
        let s := sendOn k 1 payload sw flip (sendOn k 0 payload sw flip s)
        let s := { (s.updKrg (fun q => { q with ownSent := true, ownSw := sw, ownFlip := flip })) with
                   grd := { s.grd with lastOwn := some t } }
        let s := if chSlot s (ownId s) = some k then s.updLnk (fun l => { l with sent := some (wordsOf 16 payload) }) else s
        evcCount 0x47 1 (icuEvent 43 s)

/-- OWN_FRAME_SEND -/
def execOwnFrameSend (slot : Fin 64) (at_ : Nat) (s : State) : Out :=
  let s := advanceTo at_ s
  .next (sendOwn slot.val at_ s)

/-! ### Start-up (R293, R294) -/

/-- The first own slot of a mode. -/
def firstSlot (s : State) (m : Nat) : Option Nat := (List.range 64).find? (ownSlot s m)

/-- A cold start: the voters of its first cycle are the node alone (R296). -/
def coldStart (t : Nat) (s : State) : State :=
  let m := s.get F.KRG_CTL_CSMODE
  match firstSlot s m with
  | none => s.put F.KRG_STAT_STATE 1
  | some k =>
    if allDown s ∨ mayJoin s = false then s.put F.KRG_STAT_STATE 1
    else
      let s := ((s.put F.KRG_CYC_CYC32 0).put F.KRG_STAT_MODE m).put F.KRG_STAT_STATE 2
      let s := s.put F.KRG_VOTESTAT_VOTERS (if sendsInt s then 0 else 2 ^ (ownId s % 16))
      let s := s.updKrg (fun q => { freshCycle q with payload := none, cold := some 0, cs := true, csRun := 0, prev := [], rate := 0, rateRun := 0
                                                      ownMiss := 0, adopt := false, good := 0
                                                      start := (t * 64 / 3 : Nat) - 64 * s.get (F.KRG_APT_START m k) })
      sendOwn k t (txFetch k (takeKeys (ringTimeValid s)))

/-- LISTEN_TIMEOUT -/
def execListenTimeout (at_ : Nat) (s : State) : Out :=
  let s := advanceTo at_ s
  if ringState s = 1 ∧ s.flag F.KRG_CTL_CSEN = true then .next (coldStart at_ s) else .next s

/-- BACKOFF_EXPIRY -/
def execBackoffExpiry (at_ : Nat) (s : State) : Out :=
  let s := advanceTo at_ s
  if ringState s = 3 then .next (coldStart at_ s) else .next s

/-- The enabled slots of a mode as (START, END of D(PLEN)), in the order of START. -/
def windowsOf (s : State) (m : Nat) : List (Nat × Nat) :=
  ((List.range 64).filter (slotOn s m)).foldl
    (fun l k =>
      let a := s.get (F.KRG_APT_START m k)
      let e := (a, a + (24 + slotLen s m k) * 8)
      l.filter (fun x => decide (x.1 ≤ a)) ++ e :: l.filter (fun x => decide (a < x.1))) []

/-- The layout of R285 over a mode's windows. -/
def layoutFrom (s : State) : List (Nat × Nat) → Bool
  | [] => true
  | [a] => decide (a.2 + hmax s * 160 + s.get F.KRG_GMARGIN_GM + 96 ≤ s.get F.KRG_NITOFS_OFS)
  | a :: b :: l =>
    decide (a.2 + hmax s * 160 + s.get F.KRG_GMARGIN_GM + 96 + s.get F.KRG_GMARGIN_GM ≤ b.1) && layoutFrom s (b :: l)

/-- Every mode's layout holds. -/
def layoutOk (s : State) : Bool := (List.range 8).all (fun m => layoutFrom s (windowsOf s m))

/-- A write of KRG.CTL: EN turns the controller on, where the layout holds, or off. -/
def krgCtlWrite (v : Word) (s : State) : State :=
  let was := s.flag F.KRG_CTL_EN
  let s := s.setReg R.KRG_CTL (BitVec.ofNat 32 (bitsOf v 31 29 * 2 ^ 29 + s.get F.KRG_CTL_NODEID * 16 + bitsOf v 2 0))
  let on := bitOf v 31
  if on && !was then
    if layoutOk s then s.put F.KRG_STAT_STATE 1 else (s.put F.KRG_STAT_APTERR 1).put F.KRG_CTL_EN 0
  else if was && !on then ((ringLeave s).updKrg (fun k => { k with relays := [] })).put F.KRG_STAT_STATE 0
  else s

/-- KRG_ENABLE -/
def execKrgEnable (v : Word) (s : State) : Out := .next (krgCtlWrite v s)

/-- KRG_SWREQ -/
def execKrgSwreq (swmode : BitVec 3) (s : State) : Out :=
  .next ((s.put F.KRG_VOTE_SWREQ 1).put F.KRG_VOTE_SWMODE swmode.toNat)

/-- A word of a key slot, in force from the next cycle start (R283); of a node without ring time, at once (DESIGN CHOICE, log 121). -/
def keyWrite (slot w : Nat) (v : Word) (s : State) : State :=
  let s := s.updKrg (fun k => { k with keysNext := k.keysNext.filter (fun e => e.1 != 4 * slot + w) ++ [(4 * slot + w, v)] })
  if ringRuns s then s else takeKeys s

/-- KRG_KEY_WRITE -/
def execKrgKeyWrite (slot : Fin 2) (w : Fin 4) (v : Word) (s : State) : Out := .next (keyWrite slot.val w.val v s)

/-- Every KRG.SCNT and KRG.PORTCNT is cleared. -/
def krgCntClear (s : State) : State :=
  { s with regs := mkeep (fun a =>
      !(decide (0x40080400 ≤ a ∧ a < 0x40080600) || a == R.KRG_PORTCNT 0 || a == R.KRG_PORTCNT 1 || a == R.KRG_PORTCNT 2
        || a == R.KRG_PORTCNT 3)) s.regs }

/-- KRG_CNTCLR -/
def execKrgCntclr (s : State) : Out := .next (krgCntClear s)

/-! ### Clock synchronisation (R287, R288) -/

/-- A value at a resolution: `n / d`, to the step below or above (`Config.roundUp`). -/
def roundTo (n : Int) (d : Nat) : Int := if n % d ≠ 0 ∧ Config.roundUp n d = true then n / d + 1 else n / d

/-- The deviations of a cycle by sender, in 1/16 ns: the mean of both rings, or the one that exists; the own one is 0. -/
def devMeans (s : State) : List (Nat × Int) :=
  let l := s.krg.devs.filter (fun e => e.1 != ownId s)
  let srcs := (l.map (·.1)).eraseDups
  let means := srcs.map (fun c =>
    let x := fun r => (l.find? (fun e => e.1 == c && e.2.1 == r)).map (fun e => e.2.2)
    (c, match x 0, x 1 with
      | some a, some b => a + b
      | some a, none => 2 * a
      | none, some b => 2 * b
      | none, none => 0))
  let own := (List.range 64).any (fun k => ownSlot s (ringMode s) k && s.flag (F.KRG_APT_SYNC (ringMode s) k))
  if own && ringSynced s then means ++ [(ownId s, 0)] else means

/-- Put a number in its place. -/
def insertInt (x : Int) : List Int → List Int
  | [] => [x]
  | y :: l => if x ≤ y then x :: y :: l else y :: insertInt x l

/-- Minimum plus maximum of the values kept. -/
def midpoint (l : List Int) : Int :=
  let v := l.foldl (fun m x => insertInt x m) []
  let f := if v.length ≤ 2 then 0 else if v.length ≤ 6 then 1 else 2
  let w := (v.drop f).take (v.length - 2 * f)
  w.headD 0 + w.getLastD 0

/-- The correction at NITOFS. -/
def correct (s : State) : State :=
  let d := devMeans s
  let off := -(midpoint (d.map (·.2)))
  let both := d.filterMap (fun e => (s.krg.prev.find? (fun q => q.1 == e.1)).map (fun q => e.2 - q.2))
  let lim : Int := s.get F.KRG_SYNCCFG_RATELIM * 1000
  let step := roundTo (-(midpoint both) * 1000000000) (32 * (s.get F.KRG_CYCLEN_LEN * 10))
  let rate := clampInt (s.krg.rate + step) (-lim) lim
  let run := if rate = lim ∨ rate = -lim then s.krg.rateRun + 1 else 0
  if 32 * (s.get F.KRG_SYNCCFG_OFSLIM * 10) < off.natAbs ∨ 16 ≤ run then ringLeave (s.put F.KRG_STAT_CLKERR 1)
  else
    let s := (s.putS F.KRG_CORR_OFS (roundTo off 32)).putS F.KRG_CORR_RATE (roundTo rate 10)
    s.updKrg (fun k => { k with prev := d, rate := rate, rateRun := run
                                good := if k.adopt then 0 else if d.isEmpty then 0 else k.good + 1 })

/-- Own frames that do not return: OWNLOST in the second cycle of an intact ring (R292). An own frame that comes back folded shows that a
ring is broken somewhere. -/
def ownReturn (s : State) : State :=
  let intact := (List.range 4).all (fun p => !portIsDown s p) && !s.krg.ownFold
  let miss := intact && s.krg.ownSent && !s.krg.ownBack
  let s := s.updKrg (fun k => { k with ownMiss := if miss then k.ownMiss + 1 else 0 })
  if 2 ≤ s.krg.ownMiss then ringLeave (s.put F.KRG_STAT_OWNLOST 1) else s

/-- CLOCK_CORRECTION -/
def execClockCorrection (s : State) : Out :=
  if ringRuns s then
    let s := if ringSynced s then ownReturn s else s
    .next (if ringRuns s then correct s else s)
  else .next s

/-- The 16 bytes of a link-exchange frame after the preamble: four, and their CRC. -/
def linkFrame (s : State) : List Byte :=
  let b : List Byte := [0xC0, BitVec.ofNat 8 (ownId s), 0, 0]
  b ++ leBytes (crc32 b)

/-- LINK_EXCHANGE_REQUEST -/
def execLinkExchangeRequest (at_ns : Nat) (s : State) : Out :=
  let s := advanceTo (at_ns * 3 / 10) s
  if ringSynced s then
    .next (forAll [0, 1, 2, 3] (fun p t => if driversOn t then transmit p (linkFrame t) t else t) (s.updKrg (fun k => { k with asked := true, replied := [] })))
  else .next s

/-- LINK_EXCHANGE_REPLY -/
def execLinkExchangeReply (p : Fin 4) (s : State) : Out :=
  if s.flag F.KRG_CTL_EN && ringState s != 0 && driversOn s then .next (transmit p.val (linkFrame s) s) else .next s

/-- A reply gives the port's link delay, averaged over 16 (R287). -/
def linkDelay (p req rep : Nat) (s : State) : State :=
  let d := (rep - req - 24000) / 2
  let s := s.updKrg (fun k => { k with replied := if k.replied.contains p then k.replied else k.replied ++ [p] })
  let s := s.updPort p (fun q => { q with delays := (d :: q.delays).take 16 })
  let l := (s.port p).delays
  if l.length < 16 then s
  else
    let a := l.foldl (· + ·) 0 / 16
    let s := s.put (F.KRG_PORTSTAT_LDLY p) (satTo 1023 a)
    if 800 < a then s.put (F.KRG_PORTSTAT_LONG p) 1 else s

/-- LINK_EXCHANGE_RECEIVE -/
def execLinkExchangeReceive (p : Fin 4) (reqTime repTime : Nat) (s : State) : Out :=
  if s.krg.asked ∧ s.krg.replied.contains p.val = false then .next (linkDelay p.val reqTime repTime s) else .next s

/-! ### The cycle start (R283, R286, R293, R294, R296, R297) -/

/-- V_n as a mask: the register shows it. -/
def voters (s : State) : Nat := s.get F.KRG_VOTESTAT_VOTERS

/-- V_(n+1): the senders of VALID frames with INT = 0, and the node itself with INT = 0. -/
def nextVoters (s : State) : Nat :=
  let l := (s.krg.heard.filter (fun e => !e.int)).map (·.src)
  let l := if sendsInt s then l else l ++ [ownId s]
  l.eraseDups.foldl (fun m n => m + 2 ^ (n % 16)) 0

/-- Did node `n` vote in the running cycle as `p` says, the node itself as `own` says? -/
def voted (s : State) (p : Heard → Bool) (own : Bool) (n : Nat) : Bool :=
  (n == ownId s && own) || s.krg.heard.any (fun e => e.src == n && p e)

/-- Every node of V_n has. -/
def allVoted (s : State) (p : Heard → Bool) (own : Bool) : Bool :=
  voters s != 0 && (bitsIn 16 (voters s)).all (voted s p own)

/-- The modes voted for in the running cycle. -/
def modesVoted (s : State) : List Nat := (s.krg.heard.filterMap (·.swv) ++ s.krg.ownSw.toList).eraseDups

/-- A vote of another node, received in the ending cycle, for a mode of AUTOMASK is a request for the next one (R296); of several the
lowest mode (DESIGN CHOICE, log 102). -/
def autoVote (s : State) : State :=
  match (List.range 8).find? (fun m => s.bit F.KRG_VOTE_AUTOMASK m
      && s.krg.heard.any (fun e => e.src != ownId s && e.swv == some m)) with
  | some m => s.updKrg (fun k => { k with swAuto := some m })
  | none => s

/-- The schedule switch of an ending cycle. -/
def switchVotes (s : State) : State :=
  let l := modesVoted s
  let done (t : State) : State :=
    (t.put F.KRG_VOTE_SWREQ 0).updKrg (fun k => { k with swVote := none, swAuto := none, swWait := 0 })
  match l with
  | [m] =>
    if allVoted s (fun e => e.swv == some m) (s.krg.ownSw == some m) then
      done (icuEvent 44 ((s.put F.KRG_STAT_MODE m).put F.KRG_VOTESTAT_SWDONE 1))
    else autoVote s
  | [] => s
  | _ => autoVote (s.put F.KRG_VOTESTAT_SWCONF 1)

/-- A vote that has been repeated SWTMO times fails. -/
def switchTimeout (s : State) : State :=
  if s.krg.swVote.isNone then s
  else
    let n := s.krg.swWait + 1
    if s.get F.KRG_VOTE_SWTMO ≤ n then
      ((s.put F.KRG_VOTESTAT_SWFAIL 1).put F.KRG_VOTE_SWREQ 0).updKrg (fun k =>
        { k with swVote := none, swAuto := none, swWait := 0 })
    else s.updKrg (fun k => { k with swWait := n })

/-- A withdrawn flip request ends its arming (R296, R332). -/
def flipWithdrawn (s : State) : State :=
  flipCancel (((s.put F.CFG_STAT_ARMED 0).put F.CFG_STAT_CANCEL 1).updKrg (fun k => { k with flipVote := false, flipWait := 0 }))

/-- What follows a write `v` of KRG.VOTE whose fields have been stored over the state `old` (R296, R333): a new flip request is
armed or refused; a withdrawal before the own slot takes the vote back, one after it lets the vote of this cycle stand. -/
def voteAfter (old : State) (v : Word) (s : State) : State :=
  let s := if bitOf v 31 = false ∧ s.krg.ownSw = none then s.updKrg (fun k => { k with swVote := k.swAuto }) else s
  let was := old.flag F.KRG_VOTE_FLIPREQ
  if bitOf v 15 && !was then flipRequest s
  else if !bitOf v 15 && was then
    if s.krg.flipMirror then s.put F.KRG_VOTE_FLIPREQ 1
    else if s.krg.ownFlip || !s.flag F.CFG_STAT_ARMED then s
    else flipWithdrawn s
  else s

/-- The flip of an ending cycle: it takes effect, or it fails after FLIPTMO cycles. -/
def flipVotes (s : State) : State :=
  if s.krg.flipVote = false then s
  else if s.krg.ownFlip && allVoted s Heard.flip s.krg.ownFlip then
    let s := (s.put F.KRG_VOTESTAT_FLIPDONE 1).put F.KRG_VOTE_FLIPREQ 0
    let s := s.updKrg (fun k => { k with flipVote := false, flipWait := 0, flipMirror := false })
    icuEvent 45 (flipNow s)
  else if s.flag F.KRG_VOTE_FLIPREQ = false then flipWithdrawn s
  else
    let n := s.krg.flipWait + 1
    if s.get F.KRG_VOTE_FLIPTMO ≤ n then flipFailed s else s.updKrg (fun k => { k with flipWait := n })

/-- The minority mode of R297: more senders with another mode than agree, the node itself included. -/
def modeMinority (s : State) : Bool :=
  let l := ((s.krg.heard.filter (fun e => e.src != ownId s)).map (fun e => (e.src, e.mode))).eraseDups
  let same := (l.filter (fun e => e.2 == ringMode s)).length + 1
  decide (same < (l.filter (fun e => e.2 != ringMode s)).length)

/-- One port at the cycle start: four cycles in a row without a reply while synchronised take it down, sixteen in a row with one and a
good link bring it up (R277). -/
def portCycle (p : Nat) (s : State) : State :=
  if ringSynced s = false then s.updPort p (fun q => { q with miss := 0, run := 0 })
  else
    let got := s.krg.replied.contains p
    let s := s.updPort p (fun q =>
      { q with miss := if got then 0 else min 4 (q.miss + 1), run := if got then min 16 (q.run + 1) else 0 })
    let q := s.port p
    if 4 ≤ q.miss then portDown p s
    else if s.flag (F.KRG_PORTSTAT_LOOP p) && s.flag (F.KRG_PORTSTAT_LINK p) && decide (16 ≤ q.run) then
      evcCount 0x48 1 (s.put (F.KRG_PORTSTAT_LOOP p) 0)
    else s

/-- A cold start's progress: CS ends after four cycles in a row with a VALID frame of another node with INT = 0 (R294). -/
def coldCycle (s : State) : State :=
  match s.krg.cold with
  | none => s
  | some n =>
    let run := if s.krg.heard.any (fun e => !e.int && e.src != ownId s) then s.krg.csRun + 1 else 0
    if 4 ≤ run then
      (s.updKrg (fun k => { k with cold := none, cs := false, csRun := 0 })).put F.KRG_STAT_STATE 5
    else s.updKrg (fun k => { k with cold := some (n + 1), csRun := run })

/-- An integrating node that has made four counted corrections in a row is SYNCED (R293). -/
def syncCycle (s : State) : State :=
  if ringState s = 4 ∧ 4 ≤ s.krg.good then ringTimeValid ((s.put F.KRG_STAT_STATE 5).updKrg (fun k => { k with good := 0 })) else s

/-- The votes that take part in the cycle that begins (R296). A request for a flip is armed now; one of the Mirror that has waited has
its turn (R333). -/
def takeVotes (s : State) : State :=
  let s := flipTurn (mirrorTurn s)
  let sw := if s.flag F.KRG_VOTE_SWREQ then some (s.get F.KRG_VOTE_SWMODE) else s.krg.swAuto
  let flip := s.flag F.KRG_VOTE_FLIPREQ && s.flag F.CFG_STAT_ARMED
  s.updKrg (fun k => { k with swVote := sw, swWait := if sw.isNone then 0 else k.swWait, flipVote := flip
                              flipWait := if flip then k.flipWait else 0 })

/-- The next cycle's presence: its count, its instant, its sources; XMIN is that of the cycle that ends (R306); every group's next valley is its first one in it (R226). -/
def nextCycle (lsb : Nat) (s : State) : State :=
  let ended := s.get F.KRG_CYC_CYC32
  let s := syncCycleStart (s.updKrg (fun k => { k with start := lsb }))
  let s := s.put F.KRG_CYC_CYC32 (s.get F.KRG_CYC_CYC32 + 1)
  let s := leadCycle (s.updLnk (fun l => { l with sent := none, xmin := l.xmin && l.cmpCyc == some ended }))
  present 17 (evcCount 3 1 (icuEvent 40 (s.updKrg (fun k => { freshCycle k with adopt := false }))))

/-- A cycle ends and the next one starts, at `lsb`, in LSB of 156.25 ps. -/
def cycleStart (lsb : Nat) (s : State) : State :=
  if s.get F.KRG_CYC_CYC32 = 0xFFFFFFFF then ringLeave (s.put F.KRG_STAT_FVEXH 1)
  else if modeMinority s then ringLeave (s.put F.KRG_STAT_MODEERR 1)
  else
    let v := nextVoters s
    let s := switchTimeout (switchVotes s)
    let s := flipVotes s
    let s := s.put F.KRG_VOTESTAT_VOTERS v
    let s := forAll [0, 1, 2, 3] portCycle s
    if ringRuns s then takeVotes (takeKeys (nextCycle lsb (syncCycle (coldCycle s)))) else s

/-- CYCLE_START -/
def execCycleStart (lsb : Nat) (s : State) : Out :=
  let s := advanceTo (lsb * 3 / 64) s
  if ringRuns s then .next (cycleStart lsb s) else .next s

/-- SERVICE is entered by a request: the device is not joined to a ring there (R26). -/
def enterService (s : State) : State :=
  let s := enterMode .service .none s
  if ringState s = 0 then s else ringLeave s

/-- ACTION_INSTANT -/
def execActionInstant (s : State) : Out :=
  if ringRuns s then .next (lnkAction (present 16 (evcCount 4 1 (icuEvent 41 s)))) else .next s

end Sys2Proof.Machine
end

