-- ==== Sys2Proof/Machine/Arb.lean ====
section
/-! DEFINITION. The bank arbiters and their locks (R105–R113), the scrubber (R104) and the software interrupt sources (R99). -/

namespace Sys2Proof.Machine

/-! ### Decisions (R106, R107, R109) -/

/-- A requester's level. -/
def level (s : State) (rq : Nat) : Nat := s.get (F.ARB_RQCFG_PRIO rq)

/-- How far a code stands after the last winner in the cyclic order of R109. -/
def afterLast (last rq : Nat) : Nat := (rq + 12 - last) % 13

/-- Does transfer `x` win over transfer `y`? -/
def wins (s : State) (last : Nat) (x y : Xfer) : Bool :=
  decide (level s y.rq < level s x.rq) || (level s x.rq == level s y.rq && decide (afterLast last x.rq < afterLast last y.rq))

/-- The transfer that the next decision grants. -/
def arbPick (s : State) (b : Nat) : Option Xfer :=
  let k := s.bank b
  (k.wait.filter (fun x => lockOpen s x.rq b)).foldl (fun best x =>
    match best with
    | none => some x
    | some y => if wins s k.last x y then some x else some y) none

/-- Grant the bank to a transfer: the decision of the present cycle. -/
def arbGrant (b : Nat) (x : Xfer) (s : State) : State :=
  s.updBank b (fun k => { k with cur := some x, wait := k.wait.erase x, last := x.rq, prev := k.last, dec := some s.now })

/-- The decision for an idle bank. -/
def arbNext (b : Nat) (s : State) : State :=
  match (s.bank b).cur, arbPick s b with
  | none, some x => arbGrant b x s
  | _, _ => s

/-- A move of a DMA engine; one of the CAN controllers waits for their clock (R68). -/
def runJob (t : State) : DmaJob → State
  | .ringRx r slot res frame => rxStore r slot res frame t
  | .ringTx slot => txFetch slot t
  | .snapTake => snapTake t
  | .snapWord cyc w => snapStore cyc w t
  | .canRx c fr sof => if t.flag F.CLK_GATE_CAN then rxFrame c fr sof t else { t with dma := t.dma ++ [.canRx c fr sof] }

/-- The moves that wait are tried again, in their order; so are the CAN controllers' next frames. -/
def dmaAgain (s : State) : State := forAll [0, 1] txStart (s.dma.foldl runJob { s with dma := [] })

/-- After a change of the locks: a waiting access that R112 refuses is refused, and an idle bank takes its next transfer. -/
def lockSettle (s : State) : State :=
  dmaAgain <| forAll (List.range 8) (fun b t =>
    let bad := (t.bank b).wait.filter (fun x => !lockOpen t x.rq b && holdsAbove t x.rq b)
    let t := t.updBank b (fun k => { k with wait := k.wait.filter (fun x => !bad.contains x) })
    arbNext b (bad.foldl (fun u x => lockRefuse x.rq b u) t)) s

/-- The pre-emption of R107: the transfer in progress is abandoned and waits to restart. -/
def preempt (b : Nat) (c x : Xfer) (s : State) : State :=
  evcCount 0x52 1 (s.updBank b (fun k => { k with cur := some x, last := x.rq, prev := k.last, dec := some s.now
                                                  wait := k.wait ++ [{ c with preempted := c.preempted + 1 }] }))

/-- A request that comes in the very cycle in which the bank's grant has been decided takes part in that decision (R106, R109). -/
def redecide (b : Nat) (c x : Xfer) (s : State) : State :=
  if wins s (s.bank b).prev x c then s.updBank b (fun k => { k with cur := some x, last := x.rq, wait := k.wait ++ [c] })
  else s.updBank b (fun k => { k with wait := k.wait ++ [x] })

/-- A transfer is presented to its bank. -/
def arbPresent (b : Nat) (x : Xfer) (lastBeat : Bool) (s : State) : State :=
  if lockOpen s x.rq b = false then
    (if holdsAbove s x.rq b then lockRefuse x.rq b s else s.updBank b (fun k => { k with wait := k.wait ++ [x] }))
  else match (s.bank b).cur with
    | none => arbGrant b x s
    | some c =>
      if (s.bank b).dec = some s.now then redecide b c x s
      else if level s c.rq < level s x.rq ∧ lastBeat = false ∧ s.flag (F.ARB_RQCFG_NOPRE c.rq) = false ∧ c.preempted < 4 then
        preempt b c x s
      else s.updBank b (fun k => { k with wait := k.wait ++ [x] })

/-- ARB_REQUEST -/
def execArbRequest (b : Fin 8) (rq : Requester) (wr : Bool) (word : Fin 65536) (beats : List (BitVec 64)) (last : Bool)
    (at_ : Nat) (s : State) : Out :=
  .next (arbPresent b.val { rq := reqCode rq, wr := wr, word := word.val, beats := beats, preempted := 0 } last (advanceTo at_ s))

/-! ### Completion (R102, R105) -/

/-- The first byte of a 64-bit word of a bank. -/
def bankPlace (b w : Nat) : Nat := 0x20000000 + b * 0x80000 + 8 * w

/-- Commit the beats of a write. -/
def beatsWrite (a : Nat) : List (BitVec 64) → State → State
  | [], s => s
  | d :: l, s =>
    beatsWrite (a + 8) l (((s.setErrs a 0).setWord a (d.extractLsb' 0 32)).setWord (a + 4) (d.extractLsb' 32 32))

/-- Read `n` beats: does one fail, and the data. -/
def beatsRead (a : Nat) : Nat → State → Bool × List (BitVec 64) × State
  | 0, s => (false, [], s)
  | n + 1, s =>
    let r := eccRead a a s
    let d : BitVec 64 := if r.1 then 0 else BitVec.ofNat 64 ((r.2.word a).toNat + (r.2.word (a + 4)).toNat * 2 ^ 32)
    let q := beatsRead (a + 8) n r.2
    (r.1 || q.1, d :: q.2.1, q.2.2)

/-- A write of the Loupe commits the words of its staging FIFO that belong into the range, and they leave the FIFO (R180). -/
def fifoDrain (a n : Nat) (s : State) : State :=
  let mine := fun (e : Nat × Word) => decide (a ≤ e.1 ∧ e.1 < a + 8 * n)
  let t := (s.fifo.filter mine).foldl (fun u e => (dmaNarrow e.1 [e.2] u).2) s
  { t with fifo := s.fifo.filter (fun e => !mine e) }

/-- The transfer in progress has its last beat accepted; the next one is granted. -/
def arbDone (b : Nat) (x : Xfer) (s : State) : State :=
  let a := bankPlace b x.word
  let s :=
    if x.wr then
      arbEnd b none (if x.rq = 11 then fifoDrain a x.beats.length s else beatsWrite a x.beats s)
    else
      let r := beatsRead a x.beats.length s
      r.2.2.updBank b (fun k => { k with rdata := r.2.1, err := if r.1 then some x.rq else none })
  arbNext b (s.updBank b (fun k => { k with cur := none }))

/-- ARB_TRANSFER_COMPLETE -/
def execArbTransferComplete (b : Fin 8) (at_ : Nat) (s : State) : Out :=
  let s := advanceTo at_ s
  match (s.bank b.val).cur with
  | none => .next s
  | some x => .next (arbDone b.val x s)

/-- A grant is cut off (R108). -/
def arbCut (b : Nat) (x : Xfer) (s : State) : State :=
  let s := arbFault F.ARB_ERR_CUTOFF 66 x.rq b (s.putBit F.ARB_CUTSTAT_CUT x.rq true)
  arbNext b ((arbEnd b (some x.rq) (evcCount 0x53 1 s)).updBank b (fun k => { k with cur := none }))

/-- ARB_GRANT_CUTOFF -/
def execArbGrantCutoff (b : Fin 8) (s : State) : Out :=
  match (s.bank b.val).cur with
  | none => .next s
  | some x => .next (arbCut b.val x s)

/-! ### Acquisition and release -/

/-- The register that holds a bank's PREVLOST, pending for the next owner. -/
def prevLost (s : State) (b : Nat) : Bool := s.flag (F.ARB_ACQ_PREVLOST b)

/-- The word of a read that owns the lock after it. -/
def gotWord (lost : Bool) (rq : Nat) : Word := BitVec.ofNat 32 (2 ^ 31 + lost.toNat * 2 ^ 30 + rq)

/-- The lock of bank `b` goes to a requester. -/
def lockTake (rq b : Nat) (s : State) : State := lockSettle ((s.put (lkField b) rq).put (F.ARB_ACQ_PREVLOST b) 0)

/-- A read of ARB.ACQb by a requester: whether it ends in a bus error, the word, and the state. -/
def acquire (rq b : Nat) (s : State) : Bool × Word × State :=
  let o := lockOwner s b
  if o = rq ∨ (o = 15 ∧ holdsAbove s rq b = false) then (false, gotWord (prevLost s b) rq, lockTake rq b s)
  else if holdsAbove s rq b then
    (true, 0, evcCount 0x54 1 (arbFault F.ARB_ERR_LKORDER 67 rq b s))
  else (false, BitVec.ofNat 32 o, s)

/-- What a requester's read of ARB.ACQb returned, in the end. -/
def acqPut (rq b : Nat) (w : Word) (s : State) : State :=
  s.updBank b (fun k => { k with acq := mset (fun _ => 0) k.acq rq w })

/-- The acquisitions of a bank in the present cycle; those of an earlier one are over. -/
def acqCycle (b : Nat) (s : State) : State :=
  s.updBank b (fun k => if k.lkAt = some s.now then k
    else { k with lkAt := some s.now, lkWon := none, lkLost := false, lkTries := [] })

/-- Does requester `x` come before `y` in the order of R105 and R109? -/
def before (s : State) (b x y : Nat) : Bool :=
  decide (level s y < level s x)
    || (level s x == level s y && decide (afterLast (s.bank b).last x < afterLast (s.bank b).last y))

/-- The lock that `won` took in this cycle goes to `rq`, which comes before it (R111); `won` has read GOT = 0. -/
def acqOvertake (rq won b : Nat) (s : State) : State :=
  let s := acqPut won b (BitVec.ofNat 32 rq) (acqPut rq b (gotWord (s.bank b).lkLost rq) s)
  lockTake rq b (s.updBank b (fun k => { k with lkWon := some rq, lkTries := won :: k.lkTries }))

/-- An acquisition among those of its cycle. -/
def acqNow (rq b : Nat) (s : State) : State :=
  let o := lockOwner s b
  let k := s.bank b
  if k.lkWon = some o ∧ o ≠ rq ∧ holdsAbove s rq b = false ∧ before s b rq o = true then acqOvertake rq o b s
  else
    let r := acquire rq b s
    let t := acqPut rq b r.2.1 (arbEnd b (if r.1 then some rq else none) r.2.2)
    if r.1 then t
    else if o = 15 then t.updBank b (fun q => { q with lkWon := some rq, lkLost := prevLost s b })
    else if o = rq then t
    else t.updBank b (fun q => { q with lkTries := q.lkTries ++ [rq] })

/-- ARB_ACQUIRE -/
def execArbAcquire (rq : Requester) (b : Fin 8) (at_ : Nat) (s : State) : Out :=
  .next (acqNow (reqCode rq) b.val (acqCycle b.val (advanceTo at_ s)))

/-- A release takes effect before the acquisitions of its cycle (R110): the first of those that found the lock held has it. -/
def acqAfter (b : Nat) (s : State) : State :=
  let k := s.bank b
  match k.lkTries with
  | [] => s
  | x :: l =>
    let rq := l.foldl (fun m y => if before s b y m then y else m) x
    let s := s.updBank b (fun q => { q with lkWon := some rq, lkTries := q.lkTries.filter (· != rq) })
    let s := (s.bank b).lkTries.foldl (fun u y => acqPut y b (BitVec.ofNat 32 rq) u) s
    lockTake rq b (acqPut rq b (gotWord (prevLost s b) rq) s)

/-- A write of 1 to ARB.RELb: false where it is dropped with a bus error. -/
def releaseWrite (rq b : Nat) (s : State) : Bool × State :=
  let s := acqCycle b s
  if lockOwner s b = rq then
    (true, lockSettle (acqAfter b (arbEnd b none ((s.put (lkField b) 15).updBank b (fun k => { k with lkWon := none })))))
  else (false, arbEnd b (some rq) s)

/-- ARB_RELEASE -/
def execArbRelease (rq : Requester) (b : Fin 8) (at_ : Nat) (s : State) : Out :=
  .next (releaseWrite (reqCode rq) b.val (advanceTo at_ s)).2

/-- ARB_LOCK_HOLD_EXPIRY (R113): the lock is released by hardware. -/
def execArbLockHoldExpiry (b : Fin 8) (s : State) : Out :=
  let o := lockOwner s b.val
  if o = 15 then .next s
  else
    let s := arbFault F.ARB_ERR_HOLDEXP 67 o b.val s
    .next (lockSettle ((s.put (lkField b.val) 15).put (F.ARB_ACQ_PREVLOST b.val) 1))

/-- A requester that is frozen or retired loses every lock (R113). -/
def locksLost (rq : Nat) (s : State) : State :=
  match (List.range 8).filter (fun b => lockOwner s b == rq) with
  | [] => s
  | b :: l =>
    let s := arbFault F.ARB_ERR_LKLOST 67 rq b s
    lockSettle (forAll (b :: l) (fun c t => (t.put (lkField c) 15).put (F.ARB_ACQ_PREVLOST c) 1) s)

/-! ### Scrubbing (R104) -/

/-- A memory's number, first byte and count of 64-bit words. -/
def scrubArea : ScrubMem → Nat × Nat × Nat
  | .sram b => (b.val, 0x20000000 + b.val * 0x80000, 65536)
  | .itcm => (8, 0x01000000, 32768)
  | .dtcm => (9, 0x01400000, 32768)
  | .nodeTable => (10, 0x30000000, 32768)
  | .operandStore => (11, 0x30040000, 8192)
  | .flash => (12, 0x10000000, 2097152)

/-- Is the address in a memory of R101? -/
def inCoded (a : Nat) : Bool :=
  decide (0x01000000 ≤ a ∧ a < 0x01040000) || decide (0x01400000 ≤ a ∧ a < 0x01440000) || inFlash a || inSram a
    || decide (0x30000000 ≤ a ∧ a < 0x30050000) || decide (0x60001000 ≤ a ∧ a < 0x60002000)

/-- What has come about in the word at an address since the last command (R101): `flips` more bits have flipped, and where `stray` is not 0,
its reads resolve from now on to a word whose address differs in `stray` bits, until the word is written anew (log 115). Such reads are
uncorrectable: the word counts as one with 4 wrong bits. -/
def upset (u : Word × Fin 4 × Fin 4) (s : State) : State :=
  let a := u.1.toNat
  if inCoded a then (if u.2.2.val = 0 then eccFlip a u.2.1.val s else s.setErrs a 4) else s

/-- One turn of the scrubber in a memory: the next word is read, corrected and written back, unless a requester writes it in the
same cycle. A read that resolves to a word whose address differs in `stray` bits is uncorrectable (R101). The always-on memory
is left out, as the pass table does (DESIGN CHOICE, log 94). -/
def scrub (m : ScrubMem) (late clash : Bool) (flips stray : Nat) (s : State) : State :=
  let (i, base, n) := scrubArea m
  if m ≠ .flash ∧ s.flag F.ARB_SCRUB_EN = false then s
  else
    let w := mget (fun _ => 0) s.scrub i
    let a := base + 8 * w
    let s := { s with scrub := mset (fun _ => 0) s.scrub i ((w + 1) % n) }
    let s := if late then s.put F.ARB_ECCSTAT_SCRLATE 1 else s
    if clash then s
    else
      let s := eccFlip a flips s
      evcCount 0x51 1 (if stray = 0 then (eccRead a (nodePlace s a) s).2 else eccFailed (nodePlace s a) s)

/-- SCRUB_READ -/
def execScrubRead (m : ScrubMem) (late : Bool) (clash : Bool) (flips stray : Fin 4) (upsets : List (Word × Fin 4 × Fin 4))
    (s : State) : Out :=
  .next (scrub m late clash flips.val stray.val (upsets.foldl (fun t u => upset u t) s))

/-! ### Software sources (R99) -/

/-- A write of ICU.SWSET. -/
def swSet (v : Nat) (s : State) : State := forAll (bitsIn 28 v) (fun k => icuEvent (100 + k)) s

/-- ICU_SWSET -/
def execIcuSwset (v : BitVec 28) (s : State) : Out := .next (swSet v.toNat s)

end Sys2Proof.Machine
end

