-- ==== Sys2Proof/Machine/Mirror.lean ====
section
/-! DEFINITION. The Mirror (R114–R120) and the logic BIST controller's sequence of copies, which its discriminating tests share
with the on-demand tests (R118, R365–R371). Pairs and regions have the codes of MIR.STATE.PAIR. -/

namespace Sys2Proof.Machine

/-- Change the Mirror's record. -/
def State.updMir (s : State) (f : Mirror → Mirror) : State := { s with mir := f s.mir }

/-! ### The controller (R118, R365) -/

/-- The controller takes up copy `c` of region `r`: its logic BIST begins after the save step of 23 µs. -/
def copyStart (r c origin : Nat) (s : State) : State :=
  let s := (((s.put F.BST_STAT_RUN 1).put F.BST_STAT_ORIGIN origin).put F.BST_STAT_REGION r).put F.BST_STAT_COPY c
  let s := if origin = 3 then (s.put F.MIR_STATE_PAIR r).put F.MIR_STATE_PHASE (c + 1) else s
  { s with bist := { s.bist with startAt := s.now + 6900 } }

/-- The controller is idle; MIR.STATE then shows a flip that a retirement waits for. -/
def controllerIdle (s : State) : State :=
  let s := (((s.put F.BST_STAT_RUN 0).put F.BST_STAT_ORIGIN 0).put F.BST_STAT_REGION 0x1F).put F.BST_STAT_COPY 0
  match (if s.krg.flipMirror then s.mir.flipFor else []) with
  | [] => (s.put F.MIR_STATE_PAIR 0x1F).put F.MIR_STATE_PHASE 0
  | r :: _ => (s.put F.MIR_STATE_PAIR r).put F.MIR_STATE_PHASE 3

/-- The next frozen pair is tested: the CP first, then the facets, then the PWM pairs. A pair whose copy 0 has been judged goes
on with copy 1. -/
def mirrorNext (s : State) : State :=
  match s.mir.frozen with
  | [] => controllerIdle s
  | r :: _ => copyStart r (s.mir.copy0.any (fun e => e.1 == r)).toNat 3 s

/-- A number into its place of a rising list. -/
def insertNat (x : Nat) : List Nat → List Nat
  | [] => [x]
  | y :: l => if x < y then x :: y :: l else y :: insertNat x l

/-! ### Verdicts (R119, R120) -/

/-- A pair stays frozen until a reset; what it holds stays forced. -/
def pairStays (r : Nat) (s : State) : State := settleSusp (s.updMir (fun m => { m with stuck := r :: m.stuck }))

/-- A pair goes on: its groups return to service, and the scheduler with the CP pair. -/
def pairReturns (r : Nat) (s : State) : State :=
  let s := settleMirror (s.updMir (fun m => { m with hold := m.hold.filter (fun e => e.1 != r) }))
  settleSusp (if r = 0 then resumeScheduler s else s)

/-- Neither copy is faulty: the state resumes, and in STANDBY and ACTIVE the device integrates anew; in INTEGRATE catch-up
restarts. A pair whose restore failed stays frozen (R365). -/
def verdictGood (r : Nat) (s : State) : State :=
  let s := if s.mir.broken.contains r then pairStays r s else pairReturns r s
  let s := outrank 5 (fun m => m == .standby || m == .active) s
  match s.mode with
  | .standby => (enterBy 5 .integrate .none (instepFall s)).updLnk (fun k => { k with agree := 0 })
  | .active => (enterBy 5 .integrate .none (instepFall s)).updLnk (fun k => { k with agree := 0 })
  | .integrate => (instepFall s).updLnk (fun k => { k with agree := 0 })
  | _ => s

/-- A copy of the CP pair is faulty. SAFE entered by this verdict is trigger 2 of R349. -/
def verdictCp (s : State) : State :=
  let s := outrank 4 Mode.toSafe (pairStays 0 s)
  match s.mode with
  | .standby => limpTrigger 2 (enterBy 4 .safe .none s)
  | .active => limpTrigger 2 (enterBy 4 .safe .none s)
  | .integrate => limpTrigger 2 (withdrawNow s)
  | _ => s

/-- Is the retirement of facet `n` refused (R120)? -/
def retireRefused (s : State) (n : Nat) : Bool :=
  s.flag F.MIR_RETIRED_FACET || s.flag F.SYS_BOOTSTAT_FACETFAIL || (shadowPlace s).testBit n

/-- A copy of a facet pair is faulty: the facet is retired and, where the mode has a flip, the flip requested; or the retirement
is refused with Withdraw. -/
def verdictFacet (r : Nat) (s : State) : State :=
  let n := r - 1
  if retireRefused s n then settle (withdrawNow (pairStays r (s.put F.MIR_RETIRED_NOSHADOW 1)))
  else
    let s := (s.putBit F.MIR_RETIRED_FACET n true).updMir (fun m => { m with flipFor := m.flipFor ++ [r] })
    match s.mode with
    | .integrate => mirrorFlip s
    | .standby => mirrorFlip s
    | .active => mirrorFlip s
    | _ => s

/-- A copy of a PWM pair is faulty: Gn stays in its safe state until the next VBAT power-on, and MIRPWMk is raised. -/
def verdictPwm (r : Nat) (s : State) : State :=
  let k := r - 9
  sendRaise (110 + k) (110 + k) (2 ^ k) (s.putBit F.MIR_RETIRED_PWMGRP k true)

/-- What a faulty verdict does, by mode. -/
def verdictBad (r : Nat) (s : State) : State :=
  if r = 0 then verdictCp s
  else if s.mode = .limp then pairStays r s
  else if r ≤ 8 then verdictFacet r s
  else verdictPwm r s

/-- The codes of MIR.VERDICT.RESULT. -/
def verdictCode (f0 f1 : Bool) : Nat :=
  match f0, f1 with
  | false, false => 1
  | true, false => 2
  | false, true => 3
  | true, true => 4

/-- Is a fault-log entry due: both copies faulty, where R119 names one? -/
def faultEntry (s : State) (r : Nat) : Bool :=
  match s.mode with
  | .standby => true
  | .active => true
  | .limp => false
  | _ => r != 0

/-- The verdict on pair `r`, from what its copies showed: faulty, cut short. -/
def verdict (r : Nat) (a b : Bool × Bool) (s : State) : State :=
  let code := verdictCode a.1 b.1
  let s := (s.put F.MIR_VERDICT_PAIR r).put F.MIR_VERDICT_RESULT code
  let s := icuEvent 64 ((s.putB F.MIR_VERDICT_INC0 a.2).putB F.MIR_VERDICT_INC1 b.2)
  let log := code == 4 && faultEntry s r
  let s := s.updMir (fun m => { m with
    frozen := m.frozen.filter (fun p => p != r), copy0 := m.copy0.filter (fun e => e.1 != r)
    faultLog := if log then r :: m.faultLog else m.faultLog })
  if code = 1 then verdictGood r s else verdictBad r s

/-- Copy `c` of pair `r` has been judged in a discriminating test. -/
def copyJudged (r c : Nat) (faulty cut : Bool) (s : State) : State :=
  if c = 0 then s.updMir (fun m => { m with copy0 := m.copy0 ++ [(r, (faulty, cut))] })
  else
    let a := match s.mir.copy0.find? (fun e => e.1 == r) with
      | some e => e.2
      | none => (false, false)
    verdict r a (faulty, cut) s

/-! ### The ends of copies (R118, R369, R370) -/

/-- A discriminating test goes on after copy `c` of pair `r`. -/
def mirrorGoesOn (r c : Nat) (s : State) : State := if c = 0 then copyStart r 1 3 s else mirrorNext s

/-- An on-demand test goes on after copy `c` of region `r`: copy 1, the next region, or DONE with source 84. -/
def demandGoesOn (r c : Nat) (s : State) : State :=
  if c = 0 then copyStart r 1 2 s
  else
    let l := s.bist.regions.drop 1
    let s := { s with bist := { s.bist with regions := l } }
    match l with
    | [] => icuEvent 84 ((controllerIdle s).put F.BST_STAT_DONE 1)
    | q :: _ => copyStart q 0 2 s

/-- An on-demand test stops before its end. -/
def demandStops (s : State) : State := controllerIdle { s with bist := { s.bist with regions := [] } }

/-- A restore read that is uncorrectable: ECCUE, and the pair stays frozen (R365). -/
def restoreEnd (r : Nat) (e : BistEnd) (s : State) : State :=
  if e.restored then s else sendRaise 128 128 0xFF (s.updMir (fun m => { m with broken := r :: m.broken }))

/-- The logic BIST of the copy under test has ended. -/
def copyDone (e : BistEnd) (s : State) : State :=
  let r := s.get F.BST_STAT_REGION
  let c := s.get F.BST_STAT_COPY
  let o := s.get F.BST_STAT_ORIGIN
  let s := restoreEnd r e (bistRecord r c o e s)
  if o = 3 then mirrorGoesOn r c (copyJudged r c (bistResult s r e != 1) (decide (e.patterns < bistTerminal r)) s)
  else demandGoesOn r c (if e.restored then s else pairStays r s)

/-- BIST_COPY_DONE -/
def execBistCopyDone (e : BistEnd) (s : State) : Out :=
  if s.flag F.BST_STAT_RUN ∧ 2 ≤ s.get F.BST_STAT_ORIGIN then .next (copyDone e s) else .next s

/-- A start-up wave is cut short: each of its copies is INCOMPLETE, and the next wave follows. -/
def startupCut (cause w : Nat) (s : State) : State := settleSusp (waveNext w (logicCut cause s))

/-- STARTUP_LBIST_WAVE_DONE: flows placed on a facet that R44 retires are suspended (R172). -/
def execStartupLbistWaveDone (ends : List BistEnd) (s : State) : Out :=
  match s.pwr.seq with
  | .lbist w => .next (settleSusp (waveDone w ends s))
  | _ => .next s

/-- The test under way is cut short (R369): the copy is INCOMPLETE. A discriminating test judges it faulty and goes on; an
on-demand test ends, but for a copy that the watchdog cut. -/
def testCut (cause : Nat) (s : State) : State :=
  let r := s.get F.BST_STAT_REGION
  let c := s.get F.BST_STAT_COPY
  if s.flag F.BST_STAT_RUN = false then s
  else match s.get F.BST_STAT_ORIGIN, s.pwr.seq with
    | 1, .lbist w => startupCut cause w s
    | 2, _ => if cause = 8 then demandGoesOn r c (logicCut cause s) else demandStops (logicCut cause s)
    | 3, _ => mirrorGoesOn r c (copyJudged r c true true (logicCut cause s))
    | _, _ => s

/-! ### Mismatch (R116, R117) -/

/-- The groups that a pair affects. -/
def affected (s : State) (r : Nat) : Nat :=
  if r = 0 then 0xFF else if r ≤ 8 then s.get (F.MIR_FGRP_GRP (r - 1)) else 2 ^ (r - 9)

/-- Is the pair out of the comparison: frozen, retired, or in a test on demand? -/
def pairIdle (s : State) (r : Nat) : Bool :=
  s.mir.frozen.contains r || s.mir.stuck.contains r
    || (decide (1 ≤ r ∧ r ≤ 8) && s.bit F.MIR_RETIRED_FACET (r - 1))
    || (decide (9 ≤ r) && s.bit F.MIR_RETIRED_PWMGRP (r - 9))
    || (s.flag F.BST_STAT_RUN && s.get F.BST_STAT_ORIGIN == 2 && s.get F.BST_STAT_REGION == r)

/-- The results of the regions that a cut on-demand test leaves untested read as not run (R371). -/
def untested (s : State) : State :=
  let s := if s.get F.BST_STAT_COPY = 0 then s.put (F.BST_RES_RES1 (s.get F.BST_STAT_REGION)) 0 else s
  forAll (s.bist.regions.drop 1) (fun r t => (t.put (F.BST_RES_RES0 r) 0).put (F.BST_RES_RES1 r) 0) s

/-- The discriminating test of a newly frozen pair starts, waits its turn, or cuts a running test (R118, R371). -/
def mirrorTest (r : Nat) (s : State) : State :=
  if s.flag F.BST_STAT_RUN = false then mirrorNext s
  else if s.get F.BST_STAT_ORIGIN = 2 then mirrorNext (demandStops (untested (logicCut 4 s)))
  else if r = 0 then
    mirrorNext (copyJudged (s.get F.BST_STAT_REGION) (s.get F.BST_STAT_COPY) true true (logicCut 3 s))
  else s

/-- What the freeze stops inside the pair: the scheduler with the CP pair, the nodes under way on a facet, the lines of a PWM
pair. -/
def freeze (r : Nat) (s : State) : State :=
  if r = 0 then stopScheduler s
  else if r ≤ 8 then s.updPrs (fun p => { p with flights := p.flights.filter (fun k => k.facet != r - 1) })
  else linesLow (r - 9) s

/-- The outputs of pair `r` differ. -/
def mismatch (r : Nat) (s : State) : State :=
  let s := (s.put ⟨R.MIR_MMSTAT, r, r⟩ 1).bump F.MIR_MMCNT_MISMATCH 1
  let g := affected s r
  let s := s.updMir (fun m => { m with frozen := insertNat r m.frozen, hold := m.hold ++ [(r, g)] })
  let s := freeze r (if r < 9 then locksLost r s else s)
  let s := recordRaise 139 139 0 (settleMirror (settleSusp s))
  mirrorTest r s

/-- MIRROR_MISMATCH -/
def execMirrorMismatch (pair : Fin 17) (s : State) : Out :=
  if s.pwr.seq = .done ∧ pairIdle s pair.val = false then .next (mismatch pair.val s) else .next s

/-- SYNC_PARITY_ERROR (R115): SYNCPAR, the count, source 65, the detector. -/
def syncParity (s : State) : State :=
  let s := (s.put F.MIR_MMSTAT_SYNCPAR 1).bump F.MIR_MMCNT_SYNCPAR 1
  sendRaise 129 129 0xFF (evcCount 0x56 1 (icuEvent 65 s))

/-- SYNC_PARITY_ERROR -/
def execSyncParityError (s : State) : Out := .next (syncParity s)

/-! ### The end of a device reset (R36, R37) -/

/-- The D-die leaves its reset: flows placed on a retired facet are suspended (R172). -/
def releaseDie (s : State) : State := settleSusp (resetRelease s)

/-- DEVICE_RESET_RELEASE -/
def execDeviceResetRelease (s : State) : Out :=
  if s.pwr.seq = .held ∧ s.pwr.vcen = true ∧ s.pwr.hbReset = false then .next (releaseDie s) else .next s

/-- HEARTBEAT_RESET_RELEASE (R36): the PLL relocks to the reference it used before and the device enters BOOT ROM. -/
def execHeartbeatResetRelease (s : State) : Out :=
  if s.pwr.seq = .held ∧ s.pwr.hbReset = true then
    let s := (s.put F.CLK_STAT_PLLLOCK 1).putB F.CLK_STAT_XTALOK (!s.flag F.CLK_STAT_RCREF)
    let s := s.putB F.CLK_STAT_EXTREF s.pwr.extref
    .next ((releaseDie s).updPwr (fun p => { p with hbWait := true }))
  else .next s

end Sys2Proof.Machine
end

