-- ==== Sys2Proof/Machine/Bist.lean ====
section
/-! DEFINITION. The commands of the self-test: on-demand logic BIST (R369–R371) and the analog BIST (R372, R373). -/

namespace Sys2Proof.Machine

/-! ### Logic BIST on demand -/

/-- A write of 1 to BST.CTL.START: refused outside SERVICE, with an empty mask or during a discriminating test; ignored while
another test runs; else the regions of MASK are tested in the order of R118. -/
def bistStart (s : State) : State :=
  if s.flag F.BST_STAT_RUN ∧ s.get F.BST_STAT_ORIGIN ≠ 3 then s
  else match bitsIn 17 (s.get F.BST_CTL_MASK) with
    | [] => s.put F.BST_STAT_REFUSED 1
    | r :: l =>
      if s.flag F.BST_STAT_RUN = true ∨ s.mode ≠ .service then s.put F.BST_STAT_REFUSED 1
      else copyStart r 0 2 { s with bist := { s.bist with regions := r :: l } }

/-- BST_START -/
def execBstStart (s : State) : Out := .next (bistStart s)

/-- BST_ABORT: cause 0x1. -/
def execBstAbort (s : State) : Out := .next (testCut 1 s)

/-- BIST_WATCHDOG: cause 0x8. -/
def execBistWatchdog (s : State) : Out := .next (testCut 8 s)

/-! ### Analog BIST -/

/-- Is the step's target a leg? -/
def onLeg (step : Nat) : Bool := step == 3 || step == 4 || step == 6 || step == 7 || step == 9

/-- May a GATE step run: PISn of the leg's group open, the opposite switch off (R373)? -/
def gateAllowed (s : State) (k : Nat) (high : Bool) : Bool :=
  s.bit F.HWM_PISCTL_OPEN (k / 3) && !(if high then (gatePoint s k).2 else (gatePoint s k).1)

/-- May a step run on a target? `[4:0]` of ARG names its leg, [5] its side. A code without a step, or a leg that does not exist, is refused
(DEDUCED, log 42). -/
def anAllowed (step arg : Nat) (s : State) : Bool :=
  s.mode == .service && decide (1 ≤ step ∧ step ≤ 9) && (!onLeg step || decide (arg % 32 < 24))
    && (step != 9 || gateAllowed s (arg % 32) (arg.testBit 5))

/-- The window of a step on leg `k`: lower and upper limit; none where it is exact. The gain of the leg's shunt amplifier is 5 to 80
(R185). -/
def anWindow (s : State) (step k : Nat) : Option (Nat × Nat) :=
  let gain := 5 * 2 ^ s.get (F.CSA_CFG_GAIN k)
  match step with
  | 1 => some (12192 - 20, 12192 + 20)
  | 2 => some (8192 - 8, 8192 + 8)
  | 3 => some (8192 - 24, 8192 + 24)
  | 4 =>
    let d := 3 * gain / 5 + 24
    some (8192 + 40 * gain - d, 8192 + 40 * gain + d)
  | 5 => some (8692 - 40, 8692 + 40)
  | 9 => some (0, 1000)
  | _ => none

/-- The limits of a step go to AEXP. -/
def showWindow (w : Option (Nat × Nat)) (s : State) : State :=
  match w with
  | some (lo, hi) => (s.put F.BST_AEXP_HI hi).put F.BST_AEXP_LO lo
  | none =>
    let d := draw s
    d.2.setReg R.BST_AEXP (Config.exactWindow d.1)

/-- A write of 1 to BST.ACTL.START: the step that ACTL names begins, with its target and window as they are now. While a step runs it is
ignored. -/
def analogStart (s : State) : State :=
  let step := s.get F.BST_ACTL_STEP
  let arg := s.get F.BST_ACTL_ARG
  if s.bist.step then s
  else if anAllowed step arg s then
    let w := anWindow s step (arg % 32)
    let s := showWindow w (s.put F.BST_ARES_RUN 1)
    let s := { s with bist := { s.bist with
      step := true, stepNo := step, stepArg := arg, window := w
      drive := if step = 9 then some (arg % 32, arg.testBit 5) else none } }
    if step = 9 then settleLeg s.now none (arg % 32) s else s
  else s.put F.BST_ARES_REFUSED 1

/-- ANALOG_STEP_START -/
def execAnalogStepStart (s : State) : Out := .next (analogStart s)

/-- ANALOG_STEP_ABORT: cause 0x1. -/
def execAnalogStepAbort (s : State) : Out := .next (analogCut 1 s)

/-- The comparisons that an exact step expects. -/
def anExpected (step : Nat) : List Nat :=
  match step with
  | 6 => [0, 1]
  | 7 => [1, 0]
  | _ => [0, 1, 2, 3, 4, 5]

/-- The result of the running step (R368, R372): 1 PASS, 2 FAIL, 3 INCOMPLETE. ADCREF judges the mean of its 64 conversions; GATE the
times at which VGS passes 7.0 V and then 1.5 V, in 10 ns units. -/
def anResult (s : State) (results : List Nat) (value : Nat) : Nat :=
  match s.bist.stepNo, s.bist.window with
  | 1, some (lo, hi) =>
    let m := results.foldl (· + ·) 0
    if results.length < 64 then 3 else if 64 * lo ≤ m ∧ m ≤ 64 * hi then 1 else 2
  | 9, some (lo, hi) =>
    if results.length < 2 then 3 else if results.all (fun x => decide (lo ≤ x ∧ x ≤ hi)) then 1 else 2
  | _, some (lo, hi) => if results.isEmpty then 3 else if lo ≤ value ∧ value ≤ hi then 1 else 2
  | n, none => if results.length < (anExpected n).length then 3 else if results = anExpected n then 1 else 2

/-- A step ends with its conversions or comparisons. -/
def analogDone (results : List Nat) (value : Nat) (s : State) : State :=
  let r := anResult s results value
  let s := ((stepEnd s).put F.BST_ARES_RESULT r).put F.BST_ARES_VALUE value
  icuEvent 84 ((s.put F.BST_ARES_RUN 0).put F.BST_ARES_DONE 1)

/-- ANALOG_STEP_DONE -/
def execAnalogStepDone (results : List Nat) (value : BitVec 16) (s : State) : Out :=
  if s.bist.step then .next (analogDone results value.toNat s) else .next s

end Sys2Proof.Machine
end

