-- ==== Sys2Proof/Machine/Fbk.lean ====
section
/-! DEFINITION. Position and speed feedback (R247–R273): the pulse-train decoder, the sine and cosine path, the privileged index,
the tracking observer, wheel-speed inputs and SENT receivers. -/

namespace Sys2Proof.Machine

/-- One port's record. -/
def State.fb (s : State) (n : Nat) : Fbport := mget (fun _ => {}) s.fbp n

/-- Change one port. -/
def State.updFb (s : State) (n : Nat) (f : Fbport → Fbport) : State := { s with fbp := mupd (fun _ => {}) s.fbp n f }

/-- ICU source 24 + n is active while a selected flag is set (R266). -/
def settleFbk (n : Nat) (s : State) : State :=
  let st := bitsOf (s.reg (R.FBK_STAT n)) 12 0
  let ien := s.get (F.FBK_CFG_IEN n)
  icuSetLine (24 + n) ((st &&& ien) != 0 || (ien.testBit 3 && s.flag (F.FBK_IDX_DONE n))) s

/-- FBFLTn is raised. -/
def fbRaise (n : Nat) (s : State) : State := sendRaise (94 + n) (94 + n) (2 ^ n) s

/-- CPT.MTIME[31:0]. -/
def stamp (s : State) : Nat := mtime s % 2 ^ 32

/-- The interval from `a` to `b` in 32-bit time. -/
def since (a b : Nat) : Nat := (b + 2 ^ 32 - a) % 2 ^ 32

/-! ### SVALID (R263) -/

/-- The observer's source: true is sine/cosine. -/
def activeSc (s : State) (n : Nat) : Bool := s.flag (F.FBK_CFG_PSRC n) || s.flag (F.FBK_STAT_FBACT n)

/-- Is the active source usable (R261)? -/
def sourceUsable (s : State) (n : Nat) : Bool :=
  !s.flag (F.FBK_STAT_UNRES n) &&
    (if activeSc s n then s.flag (F.FBK_CFG_SCEN n) && !s.flag (F.FBK_STAT_AMPFLT n) else s.flag (F.FBK_CFG_PTEN n))

/-- SVALID falls. -/
def svFall (n : Nat) (s : State) : State := s.updFb n (fun p => { p with svalid := false, steps := 0 })

/-- A counted step of a source: the active one's steps lead to SVALID. -/
def svStep (n : Nat) (sc : Bool) (s : State) : State :=
  if activeSc s n == sc then
    let k := (s.fb n).steps + 1
    let s := s.updFb n (fun p => { p with steps := k })
    if (s.fb n).svalid = false ∧ s.get (F.FBK_OBSVE_VEDGES n) ≤ k ∧ sourceUsable s n = true then
      (s.updFb n (fun p => { p with svalid := true })).put (F.FBK_STAT_SVRISE n) 1
    else s
  else s

/-! ### Counters (R257) -/

/-- The counter at an address has stepped in the running CLK_PER cycle. -/
def noteStep (a : Nat) (d : Int) (b : Bool) (s : State) : State :=
  { s with fresh := { s.fresh with steps := (a, (d, b)) :: s.fresh.steps } }

/-- The steps of the counter at an address in the running cycle. -/
def stepsOf (s : State) (a : Nat) : Int := s.fresh.steps.foldl (fun m e => if e.1 = a then m + e.2.1 else m) 0

/-- Has one of them set WRAP, or a class set the count? -/
def stepMarked (s : State) (a : Nat) : Bool := s.fresh.steps.any (fun e => e.1 == a && e.2.2)

/-- A 32-bit counter of port `n` moves, with WRAP at each wrap. -/
def counterStep (n : Nat) (f : Fld) (d : Int) (s : State) : State :=
  let v := ((s.get f : Nat) : Int) + d
  let s := s.put f (v % 2 ^ 32).toNat
  if v < 0 ∨ 2 ^ 32 ≤ v then s.put (F.FBK_STAT_WRAP n) 1 else s

/-- A counted step of such a counter. -/
def counterMove (n : Nat) (f : Fld) (d : Int) (s : State) : State :=
  let t := counterStep n f d s
  noteStep f.a d (!s.flag (F.FBK_STAT_WRAP n) && t.flag (F.FBK_STAT_WRAP n)) t

/-- A write to such a counter: it goes before the steps of its own cycle (R257). -/
def counterWrite (n : Nat) (f : Fld) (v : Nat) (s : State) : State :=
  let d := stepsOf s f.a
  let s := if stepMarked s f.a then s.put (F.FBK_STAT_WRAP n) 0 else s
  counterStep n f d (s.put f v)

/-- Move CNT. -/
def cntMove (n : Nat) (d : Int) (s : State) : State := counterMove n (F.FBK_CNT_CNT n) d s

/-- Move QCNT and QM. -/
def qcntMove (n : Nat) (d : Int) (s : State) : State :=
  let m : Int := 4 * s.get (F.FBK_SCALE_LPR n)
  (counterMove n (F.FBK_QCNT_QCNT n) d s).updFb n (fun p => { p with qm := (((p.qm : Int) + d) % m).toNat })

/-- MCNT steps modulo CPR. -/
def mcntStep (n : Nat) (d : Int) (s : State) : State :=
  s.put (F.FBK_MCNT_MCNT n) (((s.get (F.FBK_MCNT_MCNT n) : Int) + d) % (s.get (F.FBK_SCALE_CPR n) : Int)).toNat

/-- Move MCNT. -/
def mcntMove (n : Nat) (d : Int) (s : State) : State := noteStep (R.FBK_MCNT n) d false (mcntStep n d s)

/-- A write of FBK.CNTn: an index load of its cycle overwrites it (R259). -/
def cntWrite (n : Nat) (v : Word) (s : State) : State :=
  if s.freshIn (F.FBK_IDX_DONE n) then s else counterWrite n (F.FBK_CNT_CNT n) v.toNat s

/-- A write of FBK.MCNTn: MREF reaches up to CPR − 1 (R4, R271); MCNT takes the steps of its cycle after the write, and keeps the
position that a class has set in it. -/
def mcntWrite (n : Nat) (v : Word) (s : State) : State :=
  let s := if bitsOf v 31 16 < s.get (F.FBK_SCALE_CPR n) then s.put (F.FBK_MCNT_MREF n) (bitsOf v 31 16) else s
  if stepMarked s (R.FBK_MCNT n) then s
  else mcntStep n (stepsOf s (R.FBK_MCNT n)) (s.put (F.FBK_MCNT_MCNT n) (bitsOf v 15 0))

/-! ### Pulse train (R249–R252, R259) -/

/-- What an interval is, or a pair of them (R251). -/
inductive Pattern where
  | normal | gap | pair
deriving DecidableEq, Repr

/-- The direction in which a pulse-train edge counts (R249): true is +1. -/
def edgeDir (s : State) (n : Nat) : Bool :=
  !s.flag (F.FBK_CFG_SCEN n) || !(s.fb n).dirKnown || s.flag (F.FBK_STAT_PEND n) || (s.fb n).dir

/-- GAPW. -/
def gapw (s : State) (n : Nat) : Int := if s.get (F.FBK_CFG_REFKIND n) = 1 then 2 else 1

/-- R of R252, the reference position in a direction, modulo CPR. -/
def refPos (s : State) (n : Nat) (up : Bool) : Int :=
  let m := (s.get (F.FBK_MCNT_MREF n) : Int)
  (if up then m else m - gapw s n) % (s.get (F.FBK_SCALE_CPR n) : Int)

/-- d = MCNT − R, wrapped into (−CPR/2, CPR/2]. -/
def refDist (s : State) (n : Nat) (up : Bool) : Int :=
  let cpr := (s.get (F.FBK_SCALE_CPR n) : Int)
  let m := ((s.get (F.FBK_MCNT_MCNT n) : Int) - refPos s n up) % cpr
  if cpr < 2 * m then m - cpr else m

/-- A class is flagged, counted and raised. -/
def toothEvent (n : Nat) (flag cnt : Fld) (s : State) : State := fbRaise n ((s.put flag 1).bump cnt 1)

/-- UNCLASS. -/
def unclass (n : Nat) (s : State) : State := toothEvent n (F.FBK_STAT_UNCLASS n) (F.FBK_EVCNT_UNCLASS n) s

/-- MISSING for a gap, EXTRA for a pair. -/
def defect (n : Nat) (pat : Pattern) (s : State) : State :=
  if pat = .gap then toothEvent n (F.FBK_STAT_MISSING n) (F.FBK_TOOTH_MISSING n) s
  else toothEvent n (F.FBK_STAT_EXTRA n) (F.FBK_TOOTH_EXTRA n) s

/-- UNEXP with distance `d`; a run of LOSTREF ends. -/
def unexp (n : Nat) (d : Int) (s : State) : State :=
  toothEvent n (F.FBK_STAT_UNEXP n) (F.FBK_TOOTH_UNEXP n)
    (s.updFb n (fun p => { p with lost := 0, farUnexp := decide (2 < d.natAbs) }))

/-- An edge classed REF: its flag, and the load of the armed index (R259). -/
def refEdge (n : Nat) (up : Bool) (s : State) : State :=
  let s := (s.put (F.FBK_STAT_REF n) 1).updFb n (fun p => { p with lost := 0, farUnexp := false })
  if n < 2 ∧ s.flag (F.FBK_IDX_ARM n) = true then
    let v := ((s.get (F.FBK_IDXVAL_IDXVAL n) : Nat) : Int) - (if up then 0 else gapw s n)
    let s := (s.put (F.FBK_CNT_CNT n) (v % 2 ^ 32).toNat).put (F.FBK_IDX_ARM n) 0
    (s.put (F.FBK_IDX_DONE n) 1).putB (F.FBK_IDX_IDXDIR n) up
  else s

/-- MCNT := R. -/
def reReference (n : Nat) (up : Bool) (s : State) : State :=
  noteStep (R.FBK_MCNT n) 0 true (s.put (F.FBK_MCNT_MCNT n) (refPos s n up).toNat)

/-- Is a pattern the reference pattern of the wheel? -/
def refPattern (s : State) (n : Nat) (pat : Pattern) : Bool :=
  let kind := s.get (F.FBK_CFG_REFKIND n)
  (kind == 1 && pat == .gap) || (kind == 2 && pat == .pair)

/-- Does an edge classed REF load the index in place of its count step (R259)? -/
def indexLoads (s : State) (n : Nat) (pat : Pattern) (up : Bool) : Bool :=
  decide (n < 2) && s.flag (F.FBK_IDX_ARM n) && refPattern s n pat
    && ((refDist s n up == 0) || !(s.flag (F.FBK_STAT_REFOK n) || s.flag (F.FBK_STAT_REFP n)))

/-- The class of an edge after the step of MCNT (R252), and the step of CNT by `step`, which an index load replaces. -/
def classEdge (n : Nat) (pat : Pattern) (up : Bool) (step : Int) (s : State) : State :=
  let kind := s.get (F.FBK_CFG_REFKIND n)
  let d := refDist s n up
  let isRef := refPattern s n pat
  let ok := s.flag (F.FBK_STAT_REFOK n)
  let s := if indexLoads s n pat up then s else cntMove n step s
  if pat = .normal then
    let due := if kind = 1 then ((s.get (F.FBK_MCNT_MREF n) : Int) - 1) % (s.get (F.FBK_SCALE_CPR n) : Int) else refPos s n up
    if ok && kind != 0 && ((s.get (F.FBK_MCNT_MCNT n) : Int) == due) then
      let s := toothEvent n (F.FBK_STAT_LOSTREF n) (F.FBK_TOOTH_LOSTREF n) (s.updFb n (fun p => { p with lost := p.lost + 1 }))
      if 2 ≤ (s.fb n).lost then (s.put (F.FBK_STAT_REFOK n) 0).put (F.FBK_STAT_REFP n) 0 else s
    else s
  else if !isRef then defect n pat s
  else if ok then
    if d = 0 then refEdge n up s
    else if d.natAbs ≤ 2 then cntMove n (-d) (reReference n up (unexp n d s))
    else defect n pat s
  else if s.flag (F.FBK_STAT_REFP n) then
    if d = 0 then refEdge n up (s.put (F.FBK_STAT_REFOK n) 1)
    else unexp n d (reReference n up (s.put (F.FBK_STAT_REF n) 1))
  else refEdge n up (reReference n up (s.put (F.FBK_STAT_REFP n) 1))

/-- `k` steps in a direction. -/
def stepBy (k : Nat) (up : Bool) : Int := if up then k else -(k : Int)

/-- Count an edge in MCNT, by `k` steps in a direction; TIME and INTV take its time. -/
def markEdge (n k : Nat) (up : Bool) (t : Nat) (s : State) : State :=
  let p := s.fb n
  let dt := match p.last with
    | none => 0
    | some l => since l t
  let s := mcntMove n (stepBy k up) s
  let s := (s.put (F.FBK_TIME_TIME n) t).put (F.FBK_INTV_INTV n) dt
  let q := s.reg (R.FBK_QCNT n)
  let s := s.updFb n (fun p => { p with
    prevInt := if p.last.isSome then some dt else none, last := some t, stepDir := up, pDir := up, qMark := q })
  svStep n false s

/-- Count an edge in both counters. -/
def countEdge (n k : Nat) (up : Bool) (t : Nat) (s : State) : State := cntMove n (stepBy k up) (markEdge n k up t s)

/-- Count an edge while gated in, and class it. -/
def classed (n : Nat) (pat : Pattern) (k : Nat) (up : Bool) (t : Nat) (s : State) : State :=
  classEdge n pat up (stepBy k up) (markEdge n k up t s)

/-- The edge is the first in its direction: no interval lies before it. -/
def firstEdge (n : Nat) (s : State) : State := s.updFb n (fun p => { p with prevInt := none })

/-- The decoder gates out. -/
def gateOut (n : Nat) (s : State) : State :=
  (s.put (F.FBK_STAT_GATED n) 0).updFb n (fun p => { p with held := none, prevInt := none })

/-- Is 0.70 ≤ a / b ≤ 1.40? -/
def near (a b : Nat) : Bool := decide (7 * b ≤ 10 * a ∧ 10 * a ≤ 14 * b)

/-- An edge while gated out: it counts, and three edges in one direction with like intervals gate the decoder in (R250). -/
def looseEdge (n : Nat) (up : Bool) (t : Nat) (s : State) : State :=
  let p := s.fb n
  let before := if up = p.stepDir then p.prevInt else none
  let s := countEdge n 1 up t s
  let s := if up = p.stepDir then s else firstEdge n s
  match before, (s.fb n).prevInt with
  | some a, some b =>
    if near a b || near b a then (s.put (F.FBK_STAT_GATED n) 1).updFb n (fun p => { p with dref2 := 2 * b }) else s
  | _, _ => s

/-- An unclassified edge: it counts, with a held edge before it, and the decoder gates out (R251). -/
def oddEdge (n : Nat) (up : Bool) (t : Nat) (s : State) : State :=
  let h := (s.fb n).held
  let s := match h with
    | some th => unclass n (countEdge n 1 (s.fb n).stepDir th s)
    | none => s
  gateOut n (unclass n (countEdge n 1 up t s))

/-- An edge while gated in (R251). -/
def gatedEdge (n : Nat) (up : Bool) (t : Nat) (s : State) : State :=
  let p := s.fb n
  let dt := match p.last with
    | none => 0
    | some l => since l t
  if up ≠ p.stepDir then
    match p.held with
    | some _ => oddEdge n up t s
    | none => firstEdge n (countEdge n 1 up t (gateOut n s))
  else match p.held with
    | some th =>
      if near (2 * dt) p.dref2 then
        let s := s.updFb n (fun p => { p with held := none, dref2 := 2 * dt, last := some th })
        classed n .pair 1 up t s
      else oddEdge n up t s
    | none =>
      if near (2 * dt) p.dref2 then
        classed n .normal 1 up t (s.updFb n (fun p => { p with dref2 := 2 * dt }))
      else if 16 * p.dref2 ≤ 20 * dt ∧ 20 * dt ≤ 25 * p.dref2 then
        classed n .gap 2 up t (s.updFb n (fun p => { p with dref2 := dt }))
      else if 3 * p.dref2 ≤ 20 * dt ∧ 20 * dt < 7 * p.dref2 then
        let q := s.reg (R.FBK_QCNT n)
        (s.put (F.FBK_INTV_INTV n) dt).updFb n (fun p => { p with held := some t, qMark := q })
      else oddEdge n up t s

/-- A filtered rising edge of the pulse train (R248–R252). -/
def pulseEdge (n : Nat) (s : State) : State :=
  let t := since (s.get (F.FBK_CFG_PFILT n) + 1) (stamp s)
  let up := edgeDir s n
  let s := evcCount (0x68 + n) 1 s
  settleFbk n (if s.flag (F.FBK_STAT_GATED n) then gatedEdge n up t s else looseEdge n up t s)

/-- The running cycle samples port `n`. -/
def sampledNow (n : Nat) (s : State) : State := { s with fresh := { s.fresh with sampled := n :: s.fresh.sampled } }

/-- PULSE_TRAIN_EDGE -/
def execPulseTrainEdge (n : Fin 8) (at_ : Nat) (s : State) : Out :=
  let s := advanceTo at_ s
  if s.flag (F.FBK_CFG_PTEN n.val) then .next (sampledNow n.val (pulseEdge n.val s)) else .next s

/-- A held edge counts at the timeout, unclassified; the decoder gates out (R251). No edge has come: QCNT is watched on (R260). -/
def heldOut (n : Nat) (s : State) : State :=
  let q := (s.fb n).qMark
  match (s.fb n).held with
  | none => s
  | some _ =>
    settleFbk n ((gateOut n (unclass n (countEdge n 1 (s.fb n).stepDir (stamp s) s))).updFb n (fun p => { p with qMark := q }))

/-- HELD_EDGE_TIMEOUT (R251) -/
def execHeldEdgeTimeout (n : Fin 8) (at_ : Nat) (s : State) : Out := .next (heldOut n.val (advanceTo at_ s))

/-- GATE_OUT_TIMEOUT (R250): a held edge counts at it, as for R251. -/
def execGateOutTimeout (n : Fin 8) (s : State) : Out :=
  if s.flag (F.FBK_STAT_GATED n.val) then .next (gateOut n.val (heldOut n.val s)) else .next s

/-- A write of 1 to FBK.EVCNTn.CLR. -/
def evcntClear (n : Nat) (s : State) : State := (s.setReg (R.FBK_TOOTH n) 0).setReg (R.FBK_EVCNT n) 0

/-- FBK_EVCNT_CLR -/
def execFbkEvcntClr (n : Fin 8) (s : State) : Out := .next (evcntClear n.val s)

/-- A write of 1 to FBK.IDXn.ARM (R259); on FB2–FB7 it is ignored. -/
def idxArm (n : Nat) (s : State) : State :=
  if 2 ≤ n then s
  else if s.flag (F.FBK_STAT_REFOK n) then s.put (F.FBK_IDX_ARM n) 1
  else s.put (F.FBK_STAT_ARMREF n) 1

/-- IDX_ARM -/
def execIdxArm (n : Fin 8) (s : State) : Out := .next (idxArm n.val s)

/-! ### Sine and cosine path (R253–R256) -/

/-- The line quadrant of the comparators. -/
def quadrant (a b : Bool) : Nat :=
  match a, b with
  | true, true => 0
  | true, false => 1
  | false, false => 2
  | false, true => 3

/-- A legal transition by ±1. -/
def legalStep (n : Nat) (up : Bool) (q : Nat) (s : State) : State :=
  let s := qcntMove n (if up then 1 else -1) s
  let s := s.updFb n (fun p => { p with quad := q, dir := up, dirKnown := true, qDir := up })
  svStep n true s

/-- An illegal transition (R254). -/
def illegalStep (n q : Nat) (s : State) : State :=
  let s := ((s.bump (F.FBK_EVCNT_ILLEGAL n) 1).put (F.FBK_STAT_ILLEGAL n) 1).put (F.FBK_STAT_PEND n) 1
  fbRaise n (s.updFb n (fun p => { p with quad := q }))

/-- A sampled comparator state. -/
def quadSample (n : Nat) (a b : Bool) (s : State) : State :=
  let q := quadrant a b
  let p := s.fb n
  if p.quadKnown = false then
    (s.put ⟨R.FBK_QCNT n, 1, 0⟩ q).updFb n (fun p => { p with quad := q, quadKnown := true, qm := p.qm / 4 * 4 + q })
  else match (q + 4 - p.quad) % 4 with
    | 0 => s
    | 1 => evcCount (0x68 + n) 1 (legalStep n true q s)
    | 3 => evcCount (0x68 + n) 1 (legalStep n false q s)
    | _ => evcCount (0x68 + n) 1 (illegalStep n q s)

/-- The direction of an always-on counter follows the comparators in DORMANT, while PCCTL.DIRn powers them (R81, R249). -/
def aonTrack (n : Nat) (a b : Bool) (s : State) : State :=
  if s.mode = .dormant ∧ n < 2 ∧ bitOf (s.reg R.AON_PCCTL) (2 + n) = true then
    let q := quadrant a b
    let d := mget (fun _ => ({} : AonDir)) s.pwr.aonDir n
    let d := if d.quadKnown = false then { d with quad := q, quadKnown := true }
      else match (q + 4 - d.quad) % 4 with
        | 0 => d
        | 1 => { d with quad := q, dir := true, dirKnown := true }
        | 3 => { d with quad := q, dir := false, dirKnown := true }
        | _ => { d with quad := q, pend := true }
    { s with pwr := { s.pwr with aonDir := mset (fun _ => {}) s.pwr.aonDir n d } }
  else s

/-- QUADRATURE_TRANSITION: one sample of a CLK_PER cycle (R253). Behind a sample or an edge of the port it is that of a later cycle, so that
within a cycle the transition comes before the edge (R249). -/
def execQuadratureTransition (n : Fin 8) (a b : Bool) (s : State) : Out :=
  let s := sampledNow n.val (if s.fresh.sampled.contains n.val then newCycle s else s)
  let s := aonTrack n.val a b s
  if s.flag (F.FBK_CFG_SCEN n.val) then .next (settleFbk n.val (quadSample n.val a b s)) else .next s

/-- ILLEGAL_UNRESOLVED_TIMEOUT -/
def execIllegalUnresolvedTimeout (n : Fin 8) (s : State) : Out :=
  if s.flag (F.FBK_CFG_SCEN n.val) && s.flag (F.FBK_STAT_PEND n.val) then
    .next (settleFbk n.val (svFall n.val (s.put (F.FBK_STAT_UNRES n.val) 1)))
  else .next s

/-- A write of QCNT (R253): bits [31:2] alone, before the steps of its cycle. It is no movement of the track (R257, R260). -/
def qcntWrite (n : Nat) (v : Word) (s : State) : State :=
  let old := s.reg (R.FBK_QCNT n)
  let low := ((s.get (F.FBK_QCNT_QCNT n) : Int) - stepsOf s (R.FBK_QCNT n)) % 4
  let s := counterWrite n (F.FBK_QCNT_QCNT n) (4 * bitsOf v 31 2 + low.toNat) s
  let new := s.reg (R.FBK_QCNT n)
  s.updFb n (fun p => { p with qMark := p.qMark + (new - old), intpPage := none })

/-- QCNT_WRITE -/
def execQcntWrite (n : Fin 8) (v : Word) (s : State) : Out := .next (settleFbk n.val (qcntWrite n.val v s))

/-- The steps of 2π / 1,024 that lie below the angle of (x, y) in the first quadrant, x > 0, y ≥ 0. -/
def phiQuarter (x y : Int) : Nat :=
  ((List.range 255).filter (fun j =>
    decide (x * sin60 ((j + 1) * 2 ^ 22) ≤ y * sin60 (2 ^ 30 - (j + 1) * 2 ^ 22)))).length

/-- The angle of the first quadrant lies on a step: 0 or 45°. -/
def phiExact (x y : Int) : Bool := y == 0 || x == y

/-- φ of R255 in 1/1,024 of a line, for s and c on one scale. -/
def phiOf (si co : Int) : Nat :=
  if si = 0 ∧ co = 0 then Config.phiNone.toNat
  else
    let q := if 0 ≤ si ∧ 0 < co then (0, co, si) else if co ≤ 0 ∧ 0 < si then (1, si, -co)
             else if si ≤ 0 ∧ co < 0 then (2, -co, -si) else (3, -si, co)
    let k := phiQuarter q.2.1 q.2.2
    let up := !phiExact q.2.1 q.2.2 && Config.phiUp si co
    (256 * q.1 + k + up.toNat) % 1024

/-- A held count is resolved by the interpolated quadrant (R254). With k = 2 and no legal transition so far, the way is free
(DESIGN CHOICE, log 120). -/
def resolvePend (n qi : Nat) (s : State) : State :=
  if s.flag (F.FBK_STAT_PEND n) then
    let k := (qi + 4 - s.get (F.FBK_QCNT_QCNT n) % 4) % 4
    let up := if (s.fb n).dirKnown then (s.fb n).dir else Config.heldUp s.draws
    let d : Int := match k with
      | 0 => 0
      | 1 => 1
      | 3 => -1
      | _ => if up then 2 else -2
    let s := { s with draws := s.draws + 1 }
    (qcntMove n d (s.put (F.FBK_STAT_PEND n) 0)).updFb n (fun p => { p with quad := qi })
  else s

/-- The interpolated position (R256, R258). -/
def interpolate (n phi : Nat) (s : State) : State :=
  let base : Int := 256 * s.get (F.FBK_QCNT_QCNT n) + 128
  let d := (((phi : Int) - base + 512) % 1024) - 512
  let v := base + d
  let page := (v / 2 ^ 32 % 256).toNat
  let wrapped := (match (s.fb n).intpPage with
    | none => false
    | some p => p != page)
  let s := if wrapped then s.put (F.FBK_STAT_WRAP n) 1 else s
  let s := s.put (F.FBK_INTP_INTP n) (v % 2 ^ 32).toNat
  let m : Int := 1024 * s.get (F.FBK_SCALE_LPR n)
  s.updFb n (fun p => { p with intpPage := some page, qm256 := ((256 * (p.qm : Int) + 128 + d) % m).toNat })

/-- A converted pair (R255). A held injection shows an amplitude below AMPLO (R384). -/
def pairTake (n sin cos : Nat) (s : State) : State :=
  let si : Int := ((sin : Int) - s.get (F.FBK_SCCAL_OFSS n)) * 32768
  let co : Int := ((cos : Int) - s.get (F.FBK_SCCAL_OFSC n)) * s.get (F.FBK_SCAMP_GC n)
  let a2 := si * si + co * co
  let lo : Int := s.get (F.FBK_SCAMP_AMPLO n) * 64 * 32768
  let hi : Int := s.get (F.FBK_SCAMP_AMPHI n) * 64 * 32768
  if lo * lo ≤ a2 ∧ a2 ≤ hi * hi ∧ injHeld s (94 + n) 1 = false then
    let s := s.updFb n (fun p => { p with ampRun := p.ampRun + 1 })
    let s := if 16 ≤ (s.fb n).ampRun then s.put (F.FBK_STAT_AMPFLT n) 0 else s
    let phi := phiOf si co
    interpolate n phi (resolvePend n (phi / 256) s)
  else
    let s := (fbRaise n (s.put (F.FBK_STAT_AMPFLT n) 1)).updFb n (fun p => { p with ampRun := 0 })
    if activeSc s n then svFall n s else s

/-- Does the conversion that starts at `x`, in LSB, overlap 200 ns from a sampling instant of ADCk (R193): the last one, or the next
one of a running group? -/
def slotBlocked (s : State) (k x : Nat) : Bool :=
  let hits := fun (i : Nat) => decide (x < i + 1280 ∧ i < x + 320)
  let p := s.pg k
  (match (s.conv k).inst with
    | some i => hits i
    | none => false)
  || (bitOf (seqcfgAt s k ((p.pos + p.p + 79) / 80 * 80 * 3 / 64)) 31 && s.flag (F.PWM_GSTAT_RUN k) && hits ((p.pos + p.p + 79) / 80 * 80))

/-- ADC_BACKGROUND_FRAME (R192, R193): the sine and cosine slots as a pair, the DC-link slot; a slot near a sampling instant is
not run and counts in BGSKIP. The frame starts at `at_`. -/
def execAdcBackgroundFrame (k : Fin 8) (sin cos dc : BitVec 14) (at_ : Nat) (s : State) : Out :=
  let n := k.val
  let s := advanceTo at_ s
  let x := at_ * 64 / 3
  let s :=
    if s.flag (F.ADC_SEQCFG_BGSC n) then
      if slotBlocked s n x || slotBlocked s n (x + 320) then s.bump (F.ADC_STAT_BGSKIP n) 2
      else if s.flag (F.FBK_CFG_SCEN n) then settleFbk n (pairTake n sin.toNat cos.toNat s) else s
    else s
  .next (if s.flag (F.ADC_SEQCFG_BGDC n) then
      if slotBlocked s n (x + 640) then s.bump (F.ADC_STAT_BGSKIP n) 1
      else (s.put (F.ADC_VDC_CODE n) dc.toNat).put (F.ADC_VDC_NEW n) 1
    else s)

/-! ### Source selection (R260) -/

/-- A condition for the automatic fall-back holds. -/
def fallbackCond (s : State) (n : Nat) : Bool :=
  let p := s.fb n
  decide (2 ≤ p.lost) || p.farUnexp
    || (s.flag (F.FBK_CFG_SCEN n) && decide (8 ≤ (signed 32 (s.reg (R.FBK_QCNT n) - p.qMark).toNat).natAbs))

/-- The automatic switch at an observer update. -/
def fallback (n : Nat) (s : State) : State :=
  if !s.flag (F.FBK_CFG_PSRC n) && s.flag (F.FBK_CFG_AUTOFB n) && !s.flag (F.FBK_STAT_FBACT n) && fallbackCond s n
      && s.flag (F.FBK_CFG_SCEN n) && !s.flag (F.FBK_STAT_AMPFLT n) && !s.flag (F.FBK_STAT_PEND n) then
    fbRaise n (svFall n ((s.put (F.FBK_STAT_FBSW n) 1).put (F.FBK_STAT_FBACT n) 1))
  else s

/-- A write of 1 to FBRST. -/
def fbReturn (n : Nat) (s : State) : State :=
  if fallbackCond s n then s.put (F.FBK_STAT_FBRSTREF n) 1
  else if s.flag (F.FBK_STAT_FBACT n) then svFall n (s.put (F.FBK_STAT_FBACT n) 0)
  else s

/-- FBRST -/
def execFbrst (n : Fin 8) (s : State) : Out := .next (fbReturn n.val s)

/-! ### Tracking observer (R258, R261–R265) -/

/-- The measured angle of the active source (R258). -/
def thetaM (s : State) (n : Nat) : Nat :=
  let pp := s.get (F.FBK_SCALE_PP n) + 1
  if activeSc s n then
    ((s.fb n).qm256 * 2 ^ 32 * pp / (1024 * s.get (F.FBK_SCALE_LPR n)) + s.get (F.FBK_ANGOFSQ_OFS n)) % 2 ^ 32
  else (s.get (F.FBK_MCNT_MCNT n) * 2 ^ 32 * pp / s.get (F.FBK_SCALE_CPR n) + s.get (F.FBK_ANGOFS_OFS n)) % 2 ^ 32

/-- Ts = 1 µs -/
def obsTs : Ev := ev 0x358637BD

/-- a = 2π × BW × Ts (R261) -/
def obsA (bw : Nat) : Ev := evMul (evMul (ev 0x40C90FDB) (evRound (fpInt bw) false)) obsTs

/-- K1 = 3a -/
def obsK1 (a : Ev) : Ev := evMul (ev 0x40400000) a

/-- K2 = 3a² / Ts -/
def obsK2 (a : Ev) : Ev := evDiv (evMul (ev 0x40400000) (evMul a a)) obsTs

/-- K3 = a³ / Ts² -/
def obsK3 (a : Ev) : Ev := evDiv (evMul a (evMul a a)) (evMul obsTs obsTs)

/-- One update of the state from a measurement error in angle units (R261), in FP32 operation by operation as written. -/
def obsStep (p : Fbport) (bw : Nat) (diff : Int) : Fbport :=
  let a := obsA bw
  let e := evMul (evRound (fpInt diff) false) (ev 0x30C90FDB)
  let x := evAdd (evAdd (evMul obsTs (ev p.om)) (evMul (ev 0x2B0CBCCC) (ev p.al))) (evMul (obsK1 a) e)
  let dth := (fpToInt 0 (evMul x (ev 0x4E22F983)).val).1
  { p with
    th := BitVec.ofInt 32 ((p.th.toNat : Int) + dth)
    om := (evAdd (evAdd (ev p.om) (evMul obsTs (ev p.al))) (evMul (obsK2 a) e)).w
    al := (evAdd (ev p.al) (evMul (obsK3 a) e)).w }

/-- |ω̂| lies below one count per DBN updates (R262): |ω̂| × counts × DBN < 2π × PP × 10⁶, π to 2⁻⁵⁹. -/
def slowSpeed (om : Word) (counts pp dbn : Nat) : Bool :=
  let a := (ev om).val
  let l : Nat := a.m * 2 ^ (a.e + 300).toNat * counts * dbn
  decide ((l : Int) * 2 ^ 60 < 4 * halfPi60 * (pp * 1000000 : Nat) * 2 ^ 300)

/-- Standstill (R262). -/
def standstill (s : State) (n : Nat) : Bool :=
  let p := s.fb n
  let dbn := s.get (F.FBK_OBSCFG_DBN n)
  let counts := if activeSc s n then 4 * s.get (F.FBK_SCALE_LPR n) else s.get (F.FBK_SCALE_CPR n)
  decide (dbn ≤ p.idle) && slowSpeed p.om counts (s.get (F.FBK_SCALE_PP n) + 1) dbn

/-- The status word (R265). -/
def obsStatus (s : State) (n : Nat) (still : Bool) : Nat :=
  let p := s.fb n
  p.svalid.toNat + 2 * (if activeSc s n then p.qDir else p.pDir).toNat + 4 * still.toNat + 8 * (activeSc s n).toNat
    + 16 * s.get (F.FBK_STAT_FBACT n) + 32 * (s.flag (F.FBK_STAT_PEND n) || s.flag (F.FBK_STAT_UNRES n)).toNat
    + 64 * s.get (F.FBK_STAT_AMPFLT n) + 128 * s.get (F.FBK_STAT_REFOK n) + p.seq * 65536

/-- The words that the update reports. -/
def obsReport (n : Nat) (s : State) : State :=
  let still := standstill s n
  let p := s.fb n
  let s := (s.setReg (R.FBK_OANG n) p.th).setReg (R.FBK_OSPD n) (if still then 0 else p.om)
  (s.setReg (R.FBK_OACC n) (if still then 0 else p.al)).setReg (R.FBK_OSTAT n) (BitVec.ofNat 32 (obsStatus s n still))

/-- The seed that an update of port `n` finds: one written in its own cycle waits for the following update (R264). -/
def seedDue (s : State) (n : Nat) : Option (Word × Word) := if s.fresh.seeded.contains n then none else (s.fb n).seed

/-- An observer update: the fall-back, a committed seed or the recursion, standstill, SVALID and the report. -/
def obsUpdate (n : Nat) (s : State) : State :=
  let due := seedDue s n
  let s := { s with fresh := { s.fresh with seeded := s.fresh.seeded.filter (· != n) } }
  let s := fallback n s
  let s := if sourceUsable s n then s else svFall n s
  let c := if activeSc s n then s.reg (R.FBK_QCNT n) else s.reg (R.FBK_CNT n)
  let diff := if sourceUsable s n then signed 32 (thetaM s n + 2 ^ 32 - (s.fb n).th.toNat) else 0
  let bw := s.get (F.FBK_OBSCFG_BW n)
  let s := s.updFb n (fun p =>
    let p := { p with idle := if c = p.count then min 65535 (p.idle + 1) else 0, count := c, seq := (p.seq + 1) % 65536 }
    match due with
    | some v => { p with th := v.1, om := if fpFinite v.2 then v.2 else Config.seedSpeed v.2, al := 0, seed := none }
    | none => obsStep p bw diff)
  settleFbk n (obsReport n s)

/-- OBSERVER_UPDATE -/
def execObserverUpdate (n : Fin 8) (s : State) : Out := .next (obsUpdate n.val s)

/-- A seed is refused while SVALID = 1: SEEDREF, and what is staged goes too (R264). -/
def seedRefuse (n : Nat) (s : State) : State :=
  (s.put (F.FBK_STAT_SEEDREF n) 1).updFb n (fun p => { p with seedAng := none })

/-- A write of OANG (R264). -/
def seedAngle (n : Nat) (v : Word) (s : State) : State :=
  if (s.fb n).svalid then seedRefuse n s else svFall n (s.updFb n (fun p => { p with seedAng := some v }))

/-- OBS_SEED_ANGLE -/
def execObsSeedAngle (n : Fin 8) (v : Word) (s : State) : Out := .next (seedAngle n.val v s)

/-- A write of OSPD: it commits the staged angle, or the present one where none is staged, with the speed. -/
def seedCommit (n : Nat) (v : Word) (s : State) : State :=
  if (s.fb n).svalid then seedRefuse n s
  else
    let s := { s with fresh := { s.fresh with seeded := n :: s.fresh.seeded } }
    svFall n (s.updFb n (fun p => { p with seed := some (p.seedAng.getD p.th, v), seedAng := none }))

/-- OBS_SEED_COMMIT -/
def execObsSeedCommit (n : Fin 8) (v : Word) (s : State) : Out := .next (seedCommit n.val v s)

/-- OBS_BW_WRITE: a bandwidth outside 10–5,000 Hz is reserved and discarded (R4); the gains are computed from BW. -/
def execObsBwWrite (n : Fin 8) (bw : BitVec 13) (s : State) : Out :=
  if 10 ≤ bw.toNat ∧ bw.toNat ≤ 5000 then .next (s.put (F.FBK_OBSCFG_BW n.val) bw.toNat) else .next s

/-- What a write of FBK.CFGn changes beside its fields: a path that goes off gates out, one that comes on starts afresh. -/
def fbkCfgAfter (n : Nat) (old : Word) (s : State) : State :=
  let s := if bitOf old 31 && !s.flag (F.FBK_CFG_PTEN n) then gateOut n s else s
  let s := if !bitOf old 30 && s.flag (F.FBK_CFG_SCEN n) then
      let q := s.reg (R.FBK_QCNT n)
      s.updFb n (fun p => { p with quadKnown := false, dirKnown := false, ampRun := 0, intpPage := none, qMark := q }) else s
  let s := if (bitOf old 29 || s.flag (F.FBK_STAT_FBACT n)) != activeSc s n then svFall n s else s
  settleFbk n (if sourceUsable s n then s else svFall n s)

/-! ### Wheel-speed inputs (R267, R268) -/

/-- Change one wheel-speed input. -/
def State.updWheel (s : State) (w : Nat) (f : Wheel → Wheel) : State := { s with wheels := mupd (fun _ => {}) s.wheels w f }

/-- One tooth. -/
def wheelTooth (w : Nat) (s : State) : State :=
  let t := since (100 * (s.get (F.FBK_WSCFG_WFILT w) + 1)) (stamp s)
  let x := mget (fun _ => ({} : Wheel)) s.wheels w
  let s := s.put (F.FBK_WSCNT_CNT w) ((s.get (F.FBK_WSCNT_CNT w) + 1) % 2 ^ 32)
  let s := s.put (F.FBK_WSTS_TIME w) t
  let s := match x.last with
    | none => s.put (F.FBK_WSPER_VALID w) 0
    | some l => (s.put (F.FBK_WSPER_VALID w) 1).put (F.FBK_WSPER_PER w) (satTo 0xFFFFFFF (since l t))
  let full := s.get (F.FBK_WSCFG_WEVN w) ≤ x.teeth + 1
  let s := s.updWheel w (fun x => { x with last := some t, teeth := if full then 0 else x.teeth + 1 })
  if full then icuEvent (32 + w) s else s

/-- WS_TOOTH -/
def execWsTooth (w : Fin 4) (at_ : Nat) (s : State) : Out :=
  let s := advanceTo at_ s
  if s.flag (F.FBK_WSCFG_EN w.val) then .next (wheelTooth w.val s) else .next s

/-- A wheel-speed input that is switched off forgets its last tooth. -/
def wheelOff (w : Nat) (s : State) : State := s.updWheel w (fun _ => {})

/-- OPEN or SHORT comes to hold: WSFLTw. -/
def wheelFault (w : Nat) (short : Bool) (s : State) : State :=
  let f := if short then F.FBK_WSPER_SHORT w else F.FBK_WSPER_OPEN w
  if s.flag f then s else sendRaise (102 + w) (102 + w) 0xFF (s.put f 1)

/-- WS_FAULT -/
def execWsFault (w : Fin 4) (short : Bool) (s : State) : Out :=
  if s.flag (F.FBK_WSCFG_EN w.val) then .next (wheelFault w.val short s) else .next s

/-- WS_FAULT_CLEAR -/
def execWsFaultClear (w : Fin 4) (short : Bool) (s : State) : Out :=
  .next (s.put (if short then F.FBK_WSPER_SHORT w.val else F.FBK_WSPER_OPEN w.val) 0)

/-- WS_STANDSTILL -/
def execWsStandstill (w : Fin 4) (s : State) : Out :=
  if s.flag (F.FBK_WSCFG_EN w.val) then
    let s := (s.put (F.FBK_WSPER_STOP w.val) 1).put (F.FBK_WSPER_VALID w.val) 0
    .next (icuEvent (32 + w.val) (s.updWheel w.val (fun x => { x with last := none })))
  else .next s

/-! ### SENT (R269, R270) -/

/-- Change one receiver. -/
def State.updSent (s : State) (i : Nat) (f : Sent → Sent) : State := { s with sents := mupd (fun _ => {}) s.sents i f }

/-- One step of the 4-bit CRC x⁴ + x³ + x² + 1: the register times x⁴. -/
def crc4Shift (c : Nat) : Nat := (List.range 4).foldl (fun r _ => if 8 ≤ r then ((2 * r) % 16) ^^^ 0xD else 2 * r) c

/-- The 4-bit CRC over nibbles, seed 0b0101, with or without the augmenting zero nibble (R269). -/
def crc4 (legacy : Bool) (l : List Nat) : Nat :=
  let c := l.foldl (fun r x => (crc4Shift r) ^^^ x) 5
  if legacy then c else crc4Shift c

/-- The 6-bit CRC of an enhanced serial message, x⁶ + x⁴ + x³ + 1, seed 0b010101, six augmenting zeros (SAE J2716). -/
def crc6 (l : List Bool) : Nat :=
  (l ++ List.replicate 6 false).foldl (fun r b =>
    let v := 2 * r + b.toNat
    if 64 ≤ v then (v % 64) ^^^ 0x19 else v) 0x15

/-- Bits, first the most significant. -/
def bitsNat (l : List Bool) : Nat := l.foldl (fun r b => 2 * r + b.toNat) 0

/-- A serial message: enhanced or short, its ID and data, and whether its CRC holds; none while it is incomplete. The bits are
those of status bits 3 and 2, oldest first. -/
def serialShort (legacy : Bool) (l : List (Bool × Bool)) : Option (Nat × Nat × Bool) :=
  if l.length = 16 ∧ (l.map (·.1)) = true :: List.replicate 15 false then
    let b := l.map (·.2)
    let n := fun i => bitsNat ((b.drop (4 * i)).take 4)
    some (n 0, n 1 * 16 + n 2, n 3 == crc4 legacy [n 0, n 1, n 2])
  else none

/-- An enhanced message of 18 frames: C, ID, data, whether the CRC holds. -/
def serialEnhanced (l : List (Bool × Bool)) : Option (Nat × Nat × Bool) :=
  let a := l.map (·.1)
  if l.length = 18 ∧ a.take 7 = [true, true, true, true, true, true, false] ∧ a.getD 12 true = false ∧ a.getD 17 true = false then
    let b := l.map (·.2)
    let ok := bitsNat (b.take 6) == crc6 ((l.drop 6).foldr (fun e r => e.2 :: e.1 :: r) [])
    let d := bitsNat (b.drop 6)
    let hi := bitsNat ((a.drop 8).take 4)
    let lo := bitsNat ((a.drop 13).take 4)
    some (if a.getD 7 false then (hi, lo * 4096 + d, ok) else (hi * 16 + lo, d, ok))
  else none

/-- The serial bits of a good frame join the assembly (R270). -/
def serialStep (i status : Nat) (s : State) : State :=
  let e := (status.testBit 3, status.testBit 2)
  let mode := s.get (F.FBK_SNTCFG_SER i)
  let cur := (mget (fun _ => ({} : Sent)) s.sents i).bits
  let l := if mode = 1 ∧ e.1 = true then [e] else (e :: cur).take (if mode = 1 then 16 else 18)
  let m := if mode = 1 then serialShort (s.flag (F.FBK_SNTCFG_LEGCRC i)) l.reverse
           else if mode = 2 then serialEnhanced l.reverse else none
  match m with
  | none => s.updSent i (fun x => { x with bits := l })
  | some (id, d, ok) =>
    let s := s.updSent i (fun x => { x with bits := [] })
    if ok then
      let s := (s.put (F.FBK_SNTSER_NEW i) 1).putB (F.FBK_SNTSER_ENH i) (mode == 2)
      (s.put (F.FBK_SNTSER_ID i) id).put (F.FBK_SNTSER_DATA i) d
    else s.bump (F.FBK_SNTERR_SERERR i) 1

/-- A frame is discarded: its counter, the assembly, and SNTFLT from RUNERR on. -/
def sentDiscard (i : Nat) (cnt : Fld) (s : State) : State :=
  let s := (s.bump cnt 1).updSent i (fun x => { x with bad := x.bad + 1, bits := [] })
  if 2 ^ s.get (F.FBK_SNTCFG_RUNERR i) ≤ (mget (fun _ => ({} : Sent)) s.sents i).bad then
    sendRaise (106 + i) (106 + i) 0xFF s
  else s

/-- A length in ticks of a frame's sync, to the nearest. -/
def sentTicks (sync len : Nat) : Nat := (2 * len * 56 + sync) / (2 * sync)

/-- The sync pulse is accepted (R269). -/
def sentSyncOk (s : State) (i sync : Nat) : Bool :=
  let nom : Int := 560 * s.get (F.FBK_SNTCFG_TICK i)
  decide (4 * ((sync : Int) - nom).natAbs ≤ nom.toNat) && sync != 0
    && (!s.flag (F.FBK_SNTCFG_SUCC i) || (match (mget (fun _ => ({} : Sent)) s.sents i).sync with
      | none => true
      | some p => decide (64 * ((sync : Int) - p).natAbs ≤ p)))

/-- The pause pulse or the frame length is accepted. -/
def sentPauseOk (s : State) (i sync : Nat) (nibs : List Nat) (pause : Nat) : Bool :=
  match s.get (F.FBK_SNTCFG_PAUSE i) with
  | 0 => pause == 0
  | 1 => decide (12 ≤ sentTicks sync pause ∧ sentTicks sync pause ≤ 768)
  | _ => decide (12 ≤ sentTicks sync pause) && sentTicks sync (sync + nibs.foldl (· + ·) 0 + pause) == s.get (F.FBK_SNTCFG_FLEN i)

/-- A received frame: sync, nibble and pause lengths in 10 ns units; it ends now. -/
def sentFrame (i sync : Nat) (nibs : List Nat) (pause : Nat) (s : State) : State :=
  let ok := sentSyncOk s i sync
  let s' := s.updSent i (fun x => { x with sync := some sync })
  let v := nibs.map (fun n => (sentTicks sync n : Int) - 12)
  let n := s.get (F.FBK_SNTCFG_NDATA i)
  let data := ((v.drop 1).take n).map Int.toNat
  let crc := (v.getD (n + 1) 0).toNat
  let crc := if (injDue s (106 + i)).isSome then 15 - crc else crc
  let s' := injSpend (106 + i) s'
  if !ok then sentDiscard i (F.FBK_SNTERR_CALERR i) s'
  else if v.any (fun x => decide (x < 0 ∨ 15 < x)) || v.length != n + 2 then sentDiscard i (F.FBK_SNTERR_NIBERR i) s'
  else if crc4 (s.flag (F.FBK_SNTCFG_LEGCRC i)) data ≠ crc then sentDiscard i (F.FBK_SNTERR_CRCERR i) s'
  else if !sentPauseOk s i sync nibs pause then sentDiscard i (F.FBK_SNTERR_PAUSEERR i) s'
  else
    let t := since (sync + nibs.foldl (· + ·) 0 + pause) (stamp s)
    let s := s'.put (F.FBK_SNTFAST_STATUS i) (v.headD 0).toNat
    let s := s.put (F.FBK_SNTFAST_DATA i) (data.foldl (fun r x => 16 * r + x) 0)
    let s := (s.put (F.FBK_SNTTS_TIME i) t).updSent i (fun x => { x with bad := 0 })
    serialStep i (v.headD 0).toNat (icuEvent (36 + i) s)

/-- SENT_FRAME -/
def execSentFrame (i : Fin 4) (sync : Nat) (nibbles : List Nat) (pause at_ : Nat) (s : State) : Out :=
  let s := advanceTo at_ s
  if s.flag (F.FBK_SNTCFG_EN i.val) then .next (sentFrame i.val sync nibbles pause s) else .next s

/-- A receiver that is switched off forgets its last sync pulse, its discards and its assembly. -/
def sentOff (i : Nat) (s : State) : State := s.updSent i (fun _ => {})

/-- SENT_ERR_CLR -/
def execSentErrClr (i : Fin 4) (s : State) : Out := .next (s.setReg (R.FBK_SNTERR i.val) 0)

end Sys2Proof.Machine
end

