-- ==== Sys2Proof/Machine/Nodes.lean ====
section
/-! DEFINITION. The 61 opcodes of the Prism engine (R137–R160): what each reads, computes and writes; the issue of a node
(R123, R124, R134) and its completion (R123, R125, R156). -/

namespace Sys2Proof.Machine

/-! ### What an opcode is -/

/-- What one node's operation gives. -/
structure Res where
  writes : List (Nat × Word) := []
  inv : Bool := false
  divz : Bool := false
  sat : Bool := false
  deny : Bool := false
  grp : Nat := 0
  duties : List (Nat × Word) := []
  flag : Option Nat := none
  trace : Option (Nat × Nat × Word) := none
deriving DecidableEq, Repr

/-- One row of the opcode map: code, latency, the PARAM values that it accepts, the operand runs (first index, words) that it
reads and writes, and its operation. The operation has the state, the issuing facet and the node word. -/
structure NodeOp where
  opc : Nat
  lat : Nat
  ok : Nat → Bool
  rd : State → Nat → List (Nat × Nat)
  wr : Nat → List (Nat × Nat)
  run : State → Nat → Nat → Res

/-- Element `i` of the run at operand `b`; beyond the store it reads 0 (R129). -/
def elem (s : State) (b i : Nat) : Word := if b + i ≤ 0x3FFF then s.operand (b + i) else 0

/-- Source `k` of a node, element `i`. -/
def src (s : State) (w k i : Nat) : Word := elem s (nSrc w k) i

/-- Consecutive elements of source `k`. -/
def srcs (s : State) (w k n : Nat) : List Word := (List.range n).map (src s w k)

/-- Words to consecutive operands. -/
def outAt (b : Nat) (l : List Word) : List (Nat × Word) := l.zipIdx.map (fun e => (b + e.2, e.1))

/-- FP results to consecutive operands. -/
def outEv (b : Nat) (l : List Ev) : Res := { writes := outAt b (l.map Ev.w), sat := l.any Ev.sat }

/-- The INV substitute: +0.0 in `n` output words (R134). -/
def outInv (b n : Nat) : Res := { writes := outAt b (List.replicate n 0), inv := true }

/-- Are all words finite? -/
def allFin (l : List Word) : Bool := l.all fpFinite

/-- A value taken through: a subnormal becomes a zero. -/
def evPass (x : Ev) : Ev := evRound x.val x.sat

/-- One word of result with its saturation. -/
structure One where
  w : Word
  inv : Bool := false
  divz : Bool := false
  sat : Bool := false
deriving DecidableEq, Repr

/-- An FP result. -/
def one (x : Ev) : One := { w := x.w, sat := x.sat }

/-- An FP result that needs finite inputs. -/
def fpOne (l : List Word) (x : Ev) : One := if allFin l then one x else { w := 0, inv := true }

/-- A mask word (R139). -/
def maskWord (b : Bool) : Word := if b then 0xFFFFFFFF else 0

/-- An integer saturated to Q1.31 (R131). -/
def satQ (i : Int) : One :=
  let c := clampInt i (-0x80000000) 0x7FFFFFFF
  { w := BitVec.ofInt 32 c, sat := c != i }

/-- An opcode that reads the first word of `n` sources and writes one word. -/
def plain (opc lat n : Nat) (ok : Nat → Bool) (f : Nat → Word → Word → Word → One) : NodeOp where
  opc := opc
  lat := lat
  ok := ok
  rd := fun _ w => (List.range n).map (fun k => (nSrc w k, 1))
  wr := fun w => [(nDst w, 1)]
  run := fun s _ w =>
    let r := f (nParam w) (src s w 0 0) (src s w 1 0) (src s w 2 0)
    { writes := [(nDst w, r.w)], inv := r.inv, divz := r.divz, sat := r.sat }

/-- PARAM must be 0. -/
def noParam (p : Nat) : Bool := p == 0

/-- PARAM below a bound. -/
def below (n p : Nat) : Bool := decide (p < n)

/-! ### Data movement and conversion (R138) -/

/-- NOP -/
def nodeNop : NodeOp where
  opc := 0x00
  lat := 2
  ok := noParam
  rd := fun _ _ => []
  wr := fun _ => []
  run := fun _ _ _ => {}

/-- MOV -/
def nodeMov : NodeOp := plain 0x01 2 1 noParam (fun _ a _ _ => { w := a })

/-- LDII -/
def nodeLdii : NodeOp := plain 0x02 2 0 (fun _ => true) (fun p _ _ _ => { w := BitVec.ofInt 32 (signed 28 p) })

/-- LDIQ -/
def nodeLdiq : NodeOp := plain 0x03 2 0 (fun _ => true) (fun p _ _ _ => { w := BitVec.ofInt 32 (signed 28 p * 16) })

/-- LDIF -/
def nodeLdif : NodeOp := plain 0x04 2 0 (fun _ => true) (fun p _ _ _ => { w := BitVec.ofNat 32 (p * 16) })

/-- CVTQF -/
def nodeCvtqf : NodeOp := plain 0x05 3 1 (below 64) (fun p a _ _ =>
  one (evRound { fpInt a.toInt with e := signed 6 p - 31 } false))

/-- CVTFQ -/
def nodeCvtfq : NodeOp := plain 0x06 3 1 (below 64) (fun p a _ _ =>
  if fpFinite a then
    let v := (ev a).val
    satQ (fpToInt 0 { v with e := v.e + (31 - signed 6 p) }).1
  else { w := 0, inv := true })

/-- CVTIF -/
def nodeCvtif : NodeOp := plain 0x07 3 1 (below 2) (fun p a _ _ =>
  one (evRound (fpInt (if p = 1 then (a.toNat : Int) else a.toInt)) false))

/-- CVTFI -/
def nodeCvtfi : NodeOp := plain 0x08 3 1 (below 2) (fun p a _ _ =>
  if fpFinite a then
    let i := (fpToInt 0 (ev a).val).1
    let c := if p = 1 then clampInt i 0 0xFFFFFFFF else clampInt i (-0x80000000) 0x7FFFFFFF
    { w := BitVec.ofInt 32 c, sat := c != i }
  else { w := 0, inv := true })

/-! ### Q1.31 (R131, R139) -/

/-- QADD -/
def nodeQadd : NodeOp := plain 0x10 3 2 noParam (fun _ a b _ => satQ (a.toInt + b.toInt))

/-- QSUB -/
def nodeQsub : NodeOp := plain 0x11 3 2 noParam (fun _ a b _ => satQ (a.toInt - b.toInt))

/-- QMUL: round half up. -/
def nodeQmul : NodeOp := plain 0x12 4 2 noParam (fun _ a b _ => satQ ((a.toInt * b.toInt + 2 ^ 30) / 2 ^ 31))

/-- QMAC: one rounding. -/
def nodeQmac : NodeOp := plain 0x13 4 3 noParam (fun _ a b c =>
  satQ ((a.toInt * b.toInt + c.toInt * 2 ^ 31 + 2 ^ 30) / 2 ^ 31))

/-- QNEG -/
def nodeQneg : NodeOp := plain 0x14 3 1 noParam (fun _ a _ _ => satQ (-a.toInt))

/-- QABS -/
def nodeQabs : NodeOp := plain 0x15 3 1 noParam (fun _ a _ _ => satQ (a.toInt.natAbs : Int))

/-- QSHL -/
def nodeQshl : NodeOp := plain 0x16 3 1 (fun p => decide (p < 64) && p != 32) (fun p a _ _ =>
  let k := signed 6 p
  if 0 ≤ k then satQ (a.toInt * 2 ^ k.toNat)
  else satQ ((a.toInt + 2 ^ ((-k).toNat - 1)) / 2 ^ (-k).toNat))

/-- QMIN -/
def nodeQmin : NodeOp := plain 0x17 3 2 noParam (fun _ a b _ => { w := if a.toInt ≤ b.toInt then a else b })

/-- QMAX -/
def nodeQmax : NodeOp := plain 0x18 3 2 noParam (fun _ a b _ => { w := if a.toInt ≤ b.toInt then b else a })

/-- QLIM: S1 above S2 is INV and passes S0. -/
def nodeQlim : NodeOp := plain 0x19 3 3 noParam (fun _ a b c =>
  if c.toInt < b.toInt then { w := a, inv := true }
  else { w := BitVec.ofInt 32 (clampInt a.toInt b.toInt c.toInt) })

/-- QCMP -/
def nodeQcmp : NodeOp := plain 0x1A 3 2 (below 6) (fun p a b _ => { w := maskWord (relSigned p a b) })

/-! ### FP32 (R130, R139) -/

/-- FADD -/
def nodeFadd : NodeOp := plain 0x20 4 2 noParam (fun _ a b _ => fpOne [a, b] (evAdd (ev a) (ev b)))

/-- FSUB -/
def nodeFsub : NodeOp := plain 0x21 4 2 noParam (fun _ a b _ => fpOne [a, b] (evSub (ev a) (ev b)))

/-- FMUL -/
def nodeFmul : NodeOp := plain 0x22 4 2 noParam (fun _ a b _ => fpOne [a, b] (evMul (ev a) (ev b)))

/-- FMAC -/
def nodeFmac : NodeOp := plain 0x23 5 3 noParam (fun _ a b c => fpOne [a, b, c] (evFma (ev a) (ev b) (ev c)))

/-- FNEG -/
def nodeFneg : NodeOp := plain 0x24 3 1 noParam (fun _ a _ _ => fpOne [a] (evNeg (ev a)))

/-- FABS -/
def nodeFabs : NodeOp := plain 0x25 3 1 noParam (fun _ a _ _ => fpOne [a] (evAbs (ev a)))

/-- FDIV: 0 / 0 is INV, another number over ±0 is DIVZ with ±MAX. -/
def nodeFdiv : NodeOp := plain 0x26 10 2 noParam (fun _ a b _ =>
  if allFin [a, b] = false ∨ (evZero (ev a) = true ∧ evZero (ev b) = true) then { w := 0, inv := true }
  else if evZero (ev b) then { w := if fpNeg a != fpNeg b then 0xFF7FFFFF else 0x7F7FFFFF, divz := true }
  else one (evDiv (ev a) (ev b)))

/-- FSQRT: of a number below 0 it is INV. -/
def nodeFsqrt : NodeOp := plain 0x27 10 1 noParam (fun _ a _ _ =>
  if fpFinite a = false ∨ evLt (ev a) evZ = true then { w := 0, inv := true } else one (evSqrt (ev a)))

/-- FMIN -/
def nodeFmin : NodeOp := plain 0x28 3 2 noParam (fun _ a b _ => fpOne [a, b] (evMin (ev a) (ev b)))

/-- FMAX -/
def nodeFmax : NodeOp := plain 0x29 3 2 noParam (fun _ a b _ => fpOne [a, b] (evMax (ev a) (ev b)))

/-- FLIM -/
def nodeFlim : NodeOp := plain 0x2A 3 3 noParam (fun _ a b c =>
  if allFin [a, b, c] = false ∨ evBefore (ev c) (ev b) = true then { w := 0, inv := true }
  else one (evMin (evMax (ev a) (ev b)) (ev c)))

/-- FCMP -/
def nodeFcmp : NodeOp := plain 0x2B 3 2 (below 6) (fun p a b _ => { w := maskWord (relFp p a b) })

/-- FSINCOS -/
def nodeFsincos : NodeOp where
  opc := 0x2C
  lat := 8
  ok := noParam
  rd := fun _ w => [(nSrc w 0, 1)]
  wr := fun w => [(nDst w, 2)]
  run := fun s _ w => outEv (nDst w) [evSin (src s w 0 0), evCos (src s w 0 0)]

/-! ### Integers and logic (R133, R139, R141) -/

/-- IADD -/
def nodeIadd : NodeOp := plain 0x30 2 2 noParam (fun _ a b _ => { w := a + b })

/-- ISUB -/
def nodeIsub : NodeOp := plain 0x31 2 2 noParam (fun _ a b _ => { w := a - b })

/-- AND -/
def nodeAnd : NodeOp := plain 0x32 2 2 noParam (fun _ a b _ => { w := a &&& b })

/-- OR -/
def nodeOr : NodeOp := plain 0x33 2 2 noParam (fun _ a b _ => { w := a ||| b })

/-- XOR -/
def nodeXor : NodeOp := plain 0x34 2 2 noParam (fun _ a b _ => { w := a ^^^ b })

/-- ISHL -/
def nodeIshl : NodeOp := plain 0x35 2 1 (below 32) (fun p a _ _ => { w := a <<< p })

/-- ISHR -/
def nodeIshr : NodeOp := plain 0x36 2 1 (below 64) (fun p a _ _ =>
  { w := if 32 ≤ p then a.sshiftRight (p % 32) else a >>> p })

/-- ICMP -/
def nodeIcmp : NodeOp := plain 0x37 2 2 (fun p => decide (p < 16) && decide (p % 8 < 6)) (fun p a b _ =>
  { w := maskWord (if 8 ≤ p then relUnsigned (p % 8) a b else relSigned p a b) })

/-- SEL -/
def nodeSel : NodeOp := plain 0x38 2 3 noParam (fun _ a b c => { w := if a = 0 then c else b })

/-! ### Motor macro-operations (R142–R153) -/

/-- √3/2 -/
def evK3 : Ev := ev 0x3F5DB3D7

/-- 1/3 -/
def evT3 : Ev := ev 0x3EAAAAAB

/-- 1/√3 -/
def evU3 : Ev := ev 0x3F13CD3A

/-- A small integer. -/
def evInt (i : Int) : Ev := evRound (fpInt i) false

/-- An FP macro-operation: the words it checks, its outputs. -/
def macroOut (chk : List Word) (b n : Nat) (r : Res) : Res := if allFin chk then r else outInv b n

/-- The core of CLARKE for three currents: 2 iU is exact. -/
def clarkeOf (u v w : Ev) : List Ev :=
  let a := evRound (fpAddX 0 { u.val with e := u.val.e + 1 } { v.val with neg := !v.val.neg }) (u.sat || v.sat)
  [evMul (evSub a w) evT3, evMul (evSub v w) evU3]

/-- CLARKE (R142) -/
def nodeClarke : NodeOp where
  opc := 0x40
  lat := 7
  ok := noParam
  rd := fun _ w => [(nSrc w 0, 3), (nSrc w 1, 1), (nSrc w 2, 2)]
  wr := fun w => [(nDst w, 2)]
  run := fun s _ w =>
    let d := nDst w
    let a := src s w 0 0
    let b := src s w 0 1
    let c := src s w 0 2
    let u := ev a
    let v := ev b
    let x := ev c
    match bitsOf (src s w 1 0) 2 0 with
    | 7 => macroOut [a, b, c] d 2 (outEv d (clarkeOf u v x))
    | 6 => macroOut [b, c] d 2 (outEv d (clarkeOf (evNeg (evAdd v x)) v x))
    | 5 => macroOut [a, c] d 2 (outEv d (clarkeOf u (evNeg (evAdd u x)) x))
    | 3 => macroOut [a, b] d 2 (outEv d (clarkeOf u v (evNeg (evAdd u v))))
    | _ =>
      let p := srcs s w 2 2
      macroOut p d 2 (outEv d (p.map (fun y => evPass (ev y))))

/-- PARK (R143) -/
def nodePark : NodeOp where
  opc := 0x41
  lat := 10
  ok := noParam
  rd := fun _ w => [(nSrc w 0, 2), (nSrc w 1, 1)]
  wr := fun w => [(nDst w, 2)]
  run := fun s _ w =>
    let a := src s w 0 0
    let b := src s w 0 1
    let sn := evSin (src s w 1 0)
    let cs := evCos (src s w 1 0)
    macroOut [a, b] (nDst w) 2 (outEv (nDst w)
      [evFma (ev b) sn (evMul (ev a) cs), evFma (ev b) cs (evNeg (evMul (ev a) sn))])

/-- IPARK (R143) -/
def nodeIpark : NodeOp where
  opc := 0x42
  lat := 10
  ok := noParam
  rd := fun _ w => [(nSrc w 0, 2), (nSrc w 1, 1)]
  wr := fun w => [(nDst w, 2)]
  run := fun s _ w =>
    let a := src s w 0 0
    let b := src s w 0 1
    let sn := evSin (src s w 1 0)
    let cs := evCos (src s w 1 0)
    macroOut [a, b] (nDst w) 2 (outEv (nDst w)
      [evFma (evNeg (ev b)) sn (evMul (ev a) cs), evFma (ev b) cs (evMul (ev a) sn)])

/-- The duties of SVM, with the saturation of the depth limit. -/
def svmOf (m : Nat) (va0 vbeta vdc : Ev) : List Ev × Bool :=
  let half := evMul (ev 0xBF000000) va0
  let vb0 := evFma vbeta evK3 half
  let vc0 := evFma (evNeg vbeta) evK3 half
  let hi0 := evMax (evMax va0 vb0) vc0
  let lo0 := evMin (evMin va0 vb0) vc0
  let lim := evMul vdc (evRound { neg := false, m := m, e := -7 } false)
  let span := evSub hi0 lo0
  let out := evLt lim span
  let k := evDiv lim span
  let scale (x : Ev) : Ev := if out then evMul x k else x
  let o := evMul (evNeg (evAdd (scale hi0) (scale lo0))) evHalf
  let rv := evDiv evOne vdc
  let duty (x : Ev) : Ev := evFma (evAdd (scale x) o) rv evHalf
  ([duty va0, duty vb0, duty vc0], out || lim.sat || span.sat)

/-- SVM (R144) -/
def nodeSvm : NodeOp where
  opc := 0x43
  lat := 12
  ok := fun p => decide (64 ≤ p ∧ p ≤ 128)
  rd := fun _ w => [(nSrc w 0, 2), (nSrc w 1, 1)]
  wr := fun w => [(nDst w, 3)]
  run := fun s _ w =>
    let a := src s w 0 0
    let b := src s w 0 1
    let v := src s w 1 0
    if allFin [a, b, v] = false ∨ evLe (ev v) evZ = true then
      { writes := outAt (nDst w) (List.replicate 3 evHalf.w), inv := true }
    else
      let r := svmOf (nParam w) (ev a) (ev b) (ev v)
      let o := outEv (nDst w) r.1
      { o with sat := o.sat || r.2 }

/-- SVEC (R145) -/
def nodeSvec : NodeOp where
  opc := 0x44
  lat := 6
  ok := noParam
  rd := fun _ w => [(nSrc w 0, 1), (nSrc w 1, 1)]
  wr := fun w => [(nDst w, 2)]
  run := fun s _ w =>
    let k := (src s w 0 0).toNat
    let v := src s w 1 0
    if fpFinite v = false ∨ 7 < k then outInv (nDst w) 2
    else
      let su : Int := k % 2
      let sv : Int := k / 2 % 2
      let sw : Int := k / 4 % 2
      outEv (nDst w)
        [evMul (ev v) (evMul (evInt (2 * su - sv - sw)) evT3), evMul (ev v) (evMul (evInt (sv - sw)) evU3)]

/-- PI (R146) -/
def nodePi : NodeOp where
  opc := 0x45
  lat := 8
  ok := noParam
  rd := fun _ w => [(nSrc w 0, 1), (nSrc w 1, 4), (nSrc w 2, 1)]
  wr := fun w => [(nDst w, 1), (nSrc w 2, 1)]
  run := fun s _ w =>
    let e := ev (src s w 0 0)
    let kp := ev (src s w 1 0)
    let ki := ev (src s w 1 1)
    let lo := ev (src s w 1 2)
    let hi := ev (src s w 1 3)
    let i := ev (src s w 2 0)
    if allFin (src s w 0 0 :: src s w 2 0 :: srcs s w 1 4) = false ∨ evLt hi lo = true then outInv (nDst w) 1
    else
      let up := evFma kp e i
      let u := evMin (evMax up lo) hi
      let hold := (evLt hi up && evLt evZ e) || (evLt up lo && evLt e evZ)
      let j := if hold then evPass i else evMin (evMax (evFma ki e i) lo) hi
      { writes := [(nDst w, u.w), (nSrc w 2, j.w)], sat := u.sat || j.sat }

/-- BIQ (R147) -/
def nodeBiq : NodeOp where
  opc := 0x46
  lat := 10
  ok := noParam
  rd := fun _ w => [(nSrc w 0, 1), (nSrc w 1, 5), (nSrc w 2, 2)]
  wr := fun w => [(nDst w, 1), (nSrc w 2, 2)]
  run := fun s _ w =>
    let x := ev (src s w 0 0)
    let b (i : Nat) := ev (src s w 1 i)
    let s1 := ev (src s w 2 0)
    let s2 := ev (src s w 2 1)
    if allFin (src s w 0 0 :: (srcs s w 1 5 ++ srcs s w 2 2)) then
      let y := evFma (b 0) x s1
      let n1 := evFma (evNeg (b 3)) y (evFma (b 1) x s2)
      let n2 := evFma (evNeg (b 4)) y (evMul (b 2) x)
      { writes := [(nDst w, y.w), (nSrc w 2, n1.w), (nSrc w 2 + 1, n2.w)], sat := y.sat || n1.sat || n2.sat }
    else outInv (nDst w) 1

/-- The number of rows of an MV44 node. -/
def mvRows (w : Nat) : Nat := nParam w / 2 % 4 + 1

/-- MV44 (R148) -/
def nodeMv44 : NodeOp where
  opc := 0x47
  lat := 12
  ok := below 8
  rd := fun _ w =>
    (nSrc w 0, 4) :: (nSrc w 1, 4 * mvRows w) :: (if nParam w % 2 = 1 then [(nSrc w 2, mvRows w)] else [])
  wr := fun w => [(nDst w, mvRows w)]
  run := fun s _ w =>
    let n := mvRows w
    let add := nParam w % 2 == 1
    let row (i : Nat) : Ev :=
      (List.range 4).foldl (fun acc j => evFma (ev (src s w 1 (4 * i + j))) (ev (src s w 0 j)) acc)
        (if add then ev (src s w 2 i) else evZ)
    macroOut (srcs s w 0 4 ++ srcs s w 1 (4 * n) ++ (if add then srcs s w 2 n else [])) (nDst w) n
      (outEv (nDst w) ((List.range n).map row))

/-- The position of x in a TINT table. -/
def tintPos (s : State) (w : Nat) : Ev := evMul (evSub (ev (src s w 0 0)) (ev (src s w 1 0))) (ev (src s w 1 1))

/-- The number of values that the table's header gives. -/
def tintN (s : State) (w : Nat) : Nat := (src s w 1 2).toNat

/-- The lower of the two values that bracket x: 0 to n − 2. -/
def tintJ (s : State) (w : Nat) : Nat :=
  let i := (fpToInt 1 (tintPos s w).val).1
  (clampInt i 0 ((tintN s w : Int) - 2)).toNat

/-- Can the table be read at all: a legal length, a position? -/
def tintOk (s : State) (w : Nat) : Bool :=
  decide (2 ≤ tintN s w ∧ tintN s w ≤ 256) && allFin [src s w 0 0, src s w 1 0, src s w 1 1]

/-- TINT (R149) -/
def nodeTint : NodeOp where
  opc := 0x48
  lat := 8
  ok := noParam
  rd := fun s w =>
    (nSrc w 0, 1) :: (nSrc w 1, 3) :: (if tintOk s w then [(nSrc w 1 + 3 + tintJ s w, 2)] else [])
  wr := fun w => [(nDst w, 1)]
  run := fun s _ w =>
    let d := nDst w
    let j := tintJ s w
    let y0 := src s w 1 (3 + j)
    let y1 := src s w 1 (4 + j)
    if tintOk s w && allFin [y0, y1] then
      let pos := tintPos s w
      let top := evInt ((tintN s w : Int) - 1)
      if evLe pos evZ then
        let r := outEv d [evPass (ev y0)]
        { r with sat := r.sat || evLt pos evZ || pos.sat }
      else if evLe top pos then
        let r := outEv d [evPass (ev y1)]
        { r with sat := r.sat || evLt top pos || pos.sat }
      else outEv d [(evFma (evSub pos (evInt j)) (evSub (ev y1) (ev y0)) (ev y0)).also pos]
    else outInv d 1

/-- OBS (R150) -/
def nodeObs : NodeOp where
  opc := 0x49
  lat := 14
  ok := below 2
  rd := fun _ w =>
    (if nParam w = 1 then [] else [(nSrc w 0, 2)]) ++ [(nSrc w 1, 2), (nSrc w 2, 14)]
  wr := fun w => [(nDst w, 2), (nSrc w 2 + 12, 2)]
  run := fun s _ w =>
    let corr := nParam w != 1
    let y (j : Nat) := ev (src s w 0 j)
    let u (j : Nat) := ev (src s w 1 j)
    let x (j : Nat) := ev (src s w 2 (12 + j))
    let m (k i j : Nat) := ev (src s w 2 (4 * k + 2 * i + j))
    let row (i : Nat) : Ev :=
      let a := evFma (m 0 i 1) (x 1) (evFma (m 0 i 0) (x 0) evZ)
      let b := evFma (m 1 i 1) (u 1) (evFma (m 1 i 0) (u 0) a)
      if corr then evFma (m 2 i 1) (evSub (y 1) (x 1)) (evFma (m 2 i 0) (evSub (y 0) (x 0)) b) else b
    if allFin ((if corr then srcs s w 0 2 else []) ++ srcs s w 1 2 ++ srcs s w 2 14) then
      let r0 := row 0
      let r1 := row 1
      { writes := [(nDst w, r0.w), (nDst w + 1, r1.w), (nSrc w 2 + 12, r0.w), (nSrc w 2 + 13, r1.w)]
        sat := r0.sat || r1.sat }
    else outInv (nDst w) 2

/-- The first smallest word of a run: its index and itself. -/
def argminFrom : Nat → Nat → Word → List Word → Nat × Word
  | _, k, m, [] => (k, m)
  | i, k, m, x :: l => if evBefore (ev x) (ev m) then argminFrom (i + 1) i x l else argminFrom (i + 1) k m l

/-- ARGMIN (R151) -/
def nodeArgmin : NodeOp where
  opc := 0x4A
  lat := 6
  ok := below 16
  rd := fun _ w => [(nSrc w 0, nParam w % 16 + 1)]
  wr := fun w => [(nDst w, 2)]
  run := fun s _ w =>
    let l := srcs s w 0 (nParam w % 16 + 1)
    if allFin l then
      let r := argminFrom 1 0 (src s w 0 0) l.tail
      { writes := [(nDst w, BitVec.ofNat 32 r.1), (nDst w + 1, r.2)] }
    else outInv (nDst w) 2

/-- RAMP (R152) -/
def nodeRamp : NodeOp where
  opc := 0x4B
  lat := 5
  ok := noParam
  rd := fun _ w => [(nSrc w 0, 1), (nSrc w 1, 1), (nSrc w 2, 1)]
  wr := fun w => [(nDst w, 1), (nSrc w 2, 1)]
  run := fun s _ w =>
    let target := ev (src s w 0 0)
    let step := ev (src s w 1 0)
    let st := ev (src s w 2 0)
    if allFin [target.w, step.w, st.w] = false then outInv (nDst w) 1
    else if evLt step evZ then { writes := [(nDst w, st.w)], inv := true }
    else
      let x := evAdd st (evMin (evMax (evSub target st) (evNeg step)) step)
      { writes := [(nDst w, x.w), (nSrc w 2, x.w)], sat := x.sat }

/-- A value with the sign of another (copysign). -/
def evCopysign (x y : Ev) : Ev := if fpNeg y.w then evNeg (evAbs x) else evAbs x

/-- DQLIM (R153): it does not set SAT. -/
def nodeDqlim : NodeOp where
  opc := 0x4C
  lat := 16
  ok := below 2
  rd := fun _ w => [(nSrc w 0, 2), (nSrc w 1, 1)]
  wr := fun w => [(nDst w, 2)]
  run := fun s _ w =>
    let d := ev (src s w 0 0)
    let q := ev (src s w 0 1)
    let lim := ev (src s w 1 0)
    if allFin [d.w, q.w, lim.w] = false ∨ evLt lim evZ = true then outInv (nDst w) 2
    else
      let mag2 := evFma d d (evMul q q)
      let lim2 := evMul lim lim
      let o :=
        if evLe mag2 lim2 then [evPass d, evPass q]
        else if nParam w = 0 then
          let k := evDiv lim (evSqrt mag2)
          [evMul d k, evMul q k]
        else
          let od := evMin (evMax d (evNeg lim)) lim
          [od, evCopysign (evSqrt (evMax (evSub lim2 (evMul od od)) evZ)) q]
      { outEv (nDst w) o with sat := false }

/-! ### Device access (R154–R160) -/

/-- ADCRD's fields: ADC, first sample-and-hold, count, format. -/
def adK (p : Nat) : Nat := p % 8
/-- SH -/
def adSh (p : Nat) : Nat := p / 8 % 4
/-- CNT + 1 -/
def adN (p : Nat) : Nat := p / 32 % 4 + 1
/-- FMT -/
def adFmt (p : Nat) : Nat := p / 128 % 4

/-- ADCRD (R154) -/
def nodeAdcrd : NodeOp where
  opc := 0x50
  lat := 4
  ok := fun p => decide (p < 512) && decide (adSh p + adN p ≤ 4) && adFmt p != 3
  rd := fun _ w => if adFmt (nParam w) = 2 then [(nSrc w 0, 1), (nSrc w 1, adN (nParam w))] else []
  wr := fun w => [(nDst w, adN (nParam w) + 1)]
  run := fun s _ w =>
    let p := nParam w
    let n := adN p
    let sh := adSh p
    let r := (s.conv (adK p)).res
    let fp := adFmt p == 2
    let bad := fp && !allFin (src s w 0 0 :: srcs s w 1 n)
    let got := (List.range n).filter (fun i => r.conv.testBit (sh + i))
    let value (i : Nat) : Ev :=
      let code : Nat := (r.codes.getD (sh + i) 0).toNat
      match adFmt p with
      | 0 => ev (BitVec.ofNat 32 code)
      | 1 => ev (BitVec.ofInt 32 (((code : Int) - 8192) * 2 ^ 18))
      | _ => if bad then evZ else evMul (evSub (evInt code) (ev (src s w 1 i))) (ev (src s w 0 0))
    let valid := got.foldl (fun m i => m + 2 ^ (sh + i)) 0
    let late := if r.late then r.conv % 16 else 0
    let status := BitVec.ofNat 32 (valid + late * 16 + r.seq % 65536 * 65536)
    { writes := got.map (fun i => (nDst w + i, (value i).w)) ++ [(nDst w + n, status)]
      inv := bad
      sat := got.any (fun i => (value i).sat) }

/-- The legs that PWMWR writes. -/
def pwLegs (p : Nat) : List Nat := bitsIn 3 (p / 8 % 8)

/-- One leg's duty: the word for its compare shadow (none keeps it), and whether it was clamped. A subnormal counts as a zero of its
sign (R130). -/
def pwDuty (p : Nat) (x : Word) : Option Word × Bool :=
  if p / 64 % 2 = 1 then
    if x.toInt < 0 then (some 0, true) else (some (evRound { fpInt x.toInt with e := -31 } false).w, false)
  else
    let y := if fpFinite x then (evPass (ev x)).w else x
    match dutyClamp y with
    | none => (none, false)
    | some d => (some d, d != y)

/-- PWMWR (R155, R116) -/
def nodePwmwr : NodeOp where
  opc := 0x51
  lat := 4
  ok := fun p => decide (p < 128) && p / 8 % 8 != 0
  rd := fun _ w => (pwLegs (nParam w)).map (fun i => (nSrc w 0 + i, 1))
  wr := fun _ => []
  run := fun s f w =>
    let p := nParam w
    let g := p % 8
    if s.bit (F.MIR_FGRP_GRP f) g then
      let l := (pwLegs p).map (fun i => (3 * g + i, pwDuty p (src s w 0 i)))
      { grp := g
        duties := l.filterMap (fun e => e.2.1.map (fun d => (e.1, d)))
        inv := l.any (fun e => e.2.1.isNone)
        sat := l.any (fun e => e.2.2) }
    else { deny := true, grp := g }

/-- OBSRD (R157) -/
def nodeObsrd : NodeOp where
  opc := 0x52
  lat := 4
  ok := below 8
  rd := fun _ _ => []
  wr := fun w => [(nDst w, 4)]
  run := fun s _ w =>
    let n := nParam w
    { writes := outAt (nDst w) [s.reg (R.FBK_OANG n), s.reg (R.FBK_OSPD n), s.reg (R.FBK_OACC n), s.reg (R.FBK_OSTAT n)] }

/-- FLAG (R158) -/
def nodeFlag : NodeOp where
  opc := 0x53
  lat := 3
  ok := below 32
  rd := fun _ w => [(nSrc w 0, 1)]
  wr := fun _ => []
  run := fun s _ w => { flag := if src s w 0 0 = 0 then none else some (nParam w) }

/-- TRACE (R159) -/
def nodeTrace : NodeOp where
  opc := 0x54
  lat := 3
  ok := below 32
  rd := fun _ w => [(nSrc w 0, 1)]
  wr := fun _ => []
  run := fun s _ w => { trace := some (nParam w % 4, nParam w / 4 % 8, src s w 0 0) }

/-- TSTAMP (R160) -/
def nodeTstamp : NodeOp where
  opc := 0x55
  lat := 2
  ok := noParam
  rd := fun _ _ => []
  wr := fun w => [(nDst w, 1)]
  run := fun s _ w => { writes := [(nDst w, s.reg (R.CPT_MTIME 0))] }

/-! ### Issue (R123, R124, R134, R168, R170) -/

/-- ⌈a / b⌉ -/
def ceilDiv (a b : Nat) : Nat := (a + b - 1) / b

/-- The words of runs. -/
def runWords (l : List (Nat × Nat)) : Nat := l.foldl (fun n e => n + e.2) 0

/-- The issue cost of R124. -/
def nodeCost (op : NodeOp) (s : State) (w : Nat) : Nat :=
  max 1 (max (ceilDiv (runWords (op.rd s w)) 8) (ceilDiv (runWords (op.wr w)) 4))

/-- Does a run leave the operand store? -/
def runBeyond (l : List (Nat × Nat)) : Bool := l.any (fun e => decide (0x4000 < e.1 + e.2))

/-- The 64-bit words of the operand store that hold the runs. -/
def runPlaces (l : List (Nat × Nat)) : List Nat :=
  ((l.flatMap (fun e => (List.range e.2).map (fun i => e.1 + i))).filter (fun i => decide (i ≤ 0x3FFF))).foldl
    (fun m i => if m.contains (0x30040000 + i / 2 * 8) then m else m ++ [0x30040000 + i / 2 * 8]) []

/-- The facet's slot is taken for `c` cycles from cycle `t`, and the head of the list leaves it. -/
def takeSlot (f t c : Nat) (r : Ready) (s : State) : State :=
  let wait := t - r.entry
  let s := s.updFacet f (fun x => { x with
    ready := x.ready.erase r, free := t + c, waits := x.waits + wait, issues := x.issues + 1, busy := x.busy + c })
  let s := s.putMax (F.PRS_FW_WMAX f) (satTo 0xFFFF wait)
  evcCount (0x08 + f) c (readyRefill f s)

/-- Is the successor field's target no node of this flow (R127)? -/
def succBad (s : State) (half : Bool) (flow n : Nat) : Bool :=
  n != 0x3FFF && (decide (0x2000 ≤ n) || nFlow (nodeBits s half n) != flow)

/-- The successors that get a token. -/
def succList (s : State) (r : Ready) (w : Nat) : List Nat :=
  [nSucc w 0, nSucc w 1].filter (fun n => n != 0x3FFF && !succBad s r.half r.flow n)

/-- Two writes of one node to one operand: which one remains is open (`Config.stateLast`). -/
def orderWrites (l : List (Nat × Word)) (s : State) : List (Nat × Word) × State :=
  if (l.map (·.1)).Nodup then (l, s)
  else
    let (k, s) := draw s
    (if Config.stateLast k then l else l.reverse, s)

/-- The cause that a node raises beside ECC and BADOP, by the precedence of R134. -/
def causeOf (badidx : Bool) (r : Res) : Option Nat :=
  if badidx then some 5 else if r.deny then some 7 else if r.inv then some 1 else if r.divz then some 2 else none

/-- A node issues: its slot, its reads, its operation, its flight, its exception and saturation. In STANDBY a PWMWR raises no
exception of any cause (R156, log 60). -/
def issueNode (op : NodeOp) (f t : Nat) (r : Ready) (w : Nat) (s : State) : State :=
  let good := op.ok (nParam w)
  let s := takeSlot f t (if good then nodeCost op s w else 1) r s
  let a := nodeAddr r.half r.node
  let e := eccReadAll s [a, a + 8]
  let e2 := if e.1 then e else eccReadAll e.2 (runPlaces (op.rd e.2 w))
  let s := e2.2
  let idle := op.opc == 0x51 && s.mode == .standby
  if e2.1 && !idle then nodeExc 3 f r.flow r.node r.id t s
  else if good = false ∧ idle = false then nodeExc 4 f r.flow r.node r.id t s
  else
    let x := if e2.1 || !good then {} else op.run s f w
    let badidx := runBeyond (op.rd s w) || runBeyond (op.wr w) || succBad s r.half r.flow (nSucc w 0)
      || succBad s r.half r.flow (nSucc w 1)
    let c := if idle then none else causeOf badidx x
    let (ws, s) := orderWrites (x.writes.filter (fun e => decide (e.1 ≤ 0x3FFF))) s
    let fl : Flight := { facet := f, id := r.id, flow := r.flow, node := r.node, done := t + op.lat, writes := ws
                         duties := x.duties, grp := x.grp, succ := succList s r w, half := r.half, quiet := c.isSome || idle
                         flag := x.flag, trace := x.trace }
    let s := s.updPrs (fun p => { p with flights := p.flights ++ [fl] })
    let s := if x.sat && !idle then satFlow r.flow s else s
    match c with
    | none => s
    | some k => nodeExc k f r.flow r.node r.id t s

/-- The node that facet `f` issues in cycle `t`: the head of its list, with the slot free. A frozen or retired pair issues none
(R117, R119). -/
def issueHead (s : State) (f t : Nat) : Option Ready :=
  if t < (s.facet f).free ∨ (facetsOut s).testBit f = true then none else (s.facet f).ready.head?

/-- The row of an opcode: the facet issues its head where the head has that opcode. -/
def issue (op : NodeOp) (f at_ : Nat) (s : State) : State :=
  let s := advanceTo at_ s
  match issueHead s f at_ with
  | none => s
  | some r =>
    let w := nodeBits s r.half r.node
    if nOpc w = op.opc then issueNode op f at_ r w s else s

/-- The 61 opcodes of R137. -/
def opcodes : List Nat :=
  [0x00, 0x01, 0x02, 0x03, 0x04, 0x05, 0x06, 0x07, 0x08, 0x10, 0x11, 0x12, 0x13, 0x14, 0x15, 0x16, 0x17, 0x18, 0x19, 0x1A]
  ++ [0x20, 0x21, 0x22, 0x23, 0x24, 0x25, 0x26, 0x27, 0x28, 0x29, 0x2A, 0x2B, 0x2C]
  ++ [0x30, 0x31, 0x32, 0x33, 0x34, 0x35, 0x36, 0x37, 0x38]
  ++ [0x40, 0x41, 0x42, 0x43, 0x44, 0x45, 0x46, 0x47, 0x48, 0x49, 0x4A, 0x4B, 0x4C, 0x50, 0x51, 0x52, 0x53, 0x54, 0x55]

/-- A node with a reserved opcode: BADOP (R137), or ECC where its word cannot be read. -/
def issueReserved (f at_ : Nat) (s : State) : State :=
  let s := advanceTo at_ s
  match issueHead s f at_ with
  | none => s
  | some r =>
    if opcodes.contains (nOpc (nodeBits s r.half r.node)) then s
    else
      let a := nodeAddr r.half r.node
      let e := eccReadAll (takeSlot f at_ 1 r s) [a, a + 8]
      nodeExc (if e.1 then 3 else 4) f r.flow r.node r.id at_ e.2

/-! ### Completion (R123, R125, R156, R158, R159) -/

/-- The writers of one cycle, emptied when a new cycle's first write comes. -/
def cycleWords (s : State) (c : Nat) : List (Nat × Nat) := if s.prs.wrCycle = c then s.prs.wrWords else []

/-- Note that `by_` (facet 0–7, 8 the bus) has written operand `i` in cycle `c`. -/
def noteWrite (c by_ i : Nat) (s : State) : State :=
  s.updPrs (fun p => { p with wrCycle := c, wrWords := cycleWords s c ++ [(i, by_)] })

/-- A facet's write takes effect in cycle `c`: a later writer of the order of R125 stands over it. Of two nodes of one facet the one
whose completion comes later in the queue remains (DESIGN CHOICE, log 99). -/
def commitWord (f c : Nat) (e : Nat × Word) (s : State) : State :=
  let others := (cycleWords s c).filter (fun x => x.1 == e.1)
  let s := if others.any (fun x => decide (x.2 ≤ 7) && x.2 != f) then s.bump F.PRS_WCOLL_COUNT 1 else s
  let s := noteWrite c f e.1 s
  if others.any (fun x => decide (f < x.2)) then s
  else
    let a := 0x30040000 + 4 * e.1
    let q := eccWritePart a a s
    if q.1 then q.2.setWord a e.2 else q.2

/-- A graph flag is set; its rise raises GFLAGk and may trigger a capture. A node that finds it set raises nothing (DESIGN CHOICE, log
110). -/
def setGflag (k : Nat) (s : State) : State :=
  if s.bit F.PRS_GFLAG_FLAG k then s
  else lupCause 2 k (sendRaise 118 (if k = 0 then 118 else 139 + k) (gflagGroups s k) (s.putBit F.PRS_GFLAG_FLAG k true))

/-- The node's token to a successor. -/
def sendToken (fl : Flight) (n : Nat) (s : State) : State :=
  let same := placeOf s fl.half n == fl.facet
  s.updPrs (fun p => { p with toks := p.toks ++ [{ id := fl.id, node := n, time := if same then fl.done else fl.done + 1
                                                   src := fl.node, facet := fl.facet, quiet := fl.quiet }] })

/-- An issued node reaches its latency. -/
def finish (fl : Flight) (s : State) : State :=
  let c := fl.done - 1
  let s := s.updPrs (fun p => { p with flights := p.flights.erase fl })
  let s := fl.writes.foldl (fun u e => commitWord fl.facet c e u) s
  let s := if s.mode = .standby then s else fl.duties.foldl (fun u e => dutyStore e.1 e.2 fl.facet c u) s
  let s := match fl.flag with
    | none => s
    | some k => setGflag k s
  let s := match fl.trace with
    | none => s
    | some (b, ch, x) => lupTrace b ch x s
  if (instId s fl.id).isSome then forAll fl.succ (sendToken fl) s else s

/-- NODE_COMPLETE -/
def execNodeComplete (f : Fin 8) (node : BitVec 14) (at_ : Nat) (s : State) : Out :=
  let s := advanceTo at_ s
  match s.prs.flights.find? (fun k => k.facet == f.val && k.node == node.toNat) with
  | none => .next s
  | some fl => .next (finish fl s)

/-! ### The rows -/

/-- NODE_RESERVED_OPCODE -/
def execNodeReservedOpcode (f : Fin 8) (at_ : Nat) (s : State) : Out := .next (issueReserved f.val at_ s)

/-- NOP -/
def execNop (f : Fin 8) (at_ : Nat) (s : State) : Out := .next (issue nodeNop f.val at_ s)

/-- MOV -/
def execMov (f : Fin 8) (at_ : Nat) (s : State) : Out := .next (issue nodeMov f.val at_ s)

/-- LDII -/
def execLdii (f : Fin 8) (at_ : Nat) (s : State) : Out := .next (issue nodeLdii f.val at_ s)

/-- LDIQ -/
def execLdiq (f : Fin 8) (at_ : Nat) (s : State) : Out := .next (issue nodeLdiq f.val at_ s)

/-- LDIF -/
def execLdif (f : Fin 8) (at_ : Nat) (s : State) : Out := .next (issue nodeLdif f.val at_ s)

/-- CVTQF -/
def execCvtqf (f : Fin 8) (at_ : Nat) (s : State) : Out := .next (issue nodeCvtqf f.val at_ s)

/-- CVTFQ -/
def execCvtfq (f : Fin 8) (at_ : Nat) (s : State) : Out := .next (issue nodeCvtfq f.val at_ s)

/-- CVTIF -/
def execCvtif (f : Fin 8) (at_ : Nat) (s : State) : Out := .next (issue nodeCvtif f.val at_ s)

/-- CVTFI -/
def execCvtfi (f : Fin 8) (at_ : Nat) (s : State) : Out := .next (issue nodeCvtfi f.val at_ s)

/-- QADD -/
def execQadd (f : Fin 8) (at_ : Nat) (s : State) : Out := .next (issue nodeQadd f.val at_ s)

/-- QSUB -/
def execQsub (f : Fin 8) (at_ : Nat) (s : State) : Out := .next (issue nodeQsub f.val at_ s)

/-- QMUL -/
def execQmul (f : Fin 8) (at_ : Nat) (s : State) : Out := .next (issue nodeQmul f.val at_ s)

/-- QMAC -/
def execQmac (f : Fin 8) (at_ : Nat) (s : State) : Out := .next (issue nodeQmac f.val at_ s)

/-- QNEG -/
def execQneg (f : Fin 8) (at_ : Nat) (s : State) : Out := .next (issue nodeQneg f.val at_ s)

/-- QABS -/
def execQabs (f : Fin 8) (at_ : Nat) (s : State) : Out := .next (issue nodeQabs f.val at_ s)

/-- QSHL -/
def execQshl (f : Fin 8) (at_ : Nat) (s : State) : Out := .next (issue nodeQshl f.val at_ s)

/-- QMIN -/
def execQmin (f : Fin 8) (at_ : Nat) (s : State) : Out := .next (issue nodeQmin f.val at_ s)

/-- QMAX -/
def execQmax (f : Fin 8) (at_ : Nat) (s : State) : Out := .next (issue nodeQmax f.val at_ s)

/-- QLIM -/
def execQlim (f : Fin 8) (at_ : Nat) (s : State) : Out := .next (issue nodeQlim f.val at_ s)

/-- QCMP -/
def execQcmp (f : Fin 8) (at_ : Nat) (s : State) : Out := .next (issue nodeQcmp f.val at_ s)

/-- FADD -/
def execFadd (f : Fin 8) (at_ : Nat) (s : State) : Out := .next (issue nodeFadd f.val at_ s)

/-- FSUB -/
def execFsub (f : Fin 8) (at_ : Nat) (s : State) : Out := .next (issue nodeFsub f.val at_ s)

/-- FMUL -/
def execFmul (f : Fin 8) (at_ : Nat) (s : State) : Out := .next (issue nodeFmul f.val at_ s)

/-- FMAC -/
def execFmac (f : Fin 8) (at_ : Nat) (s : State) : Out := .next (issue nodeFmac f.val at_ s)

/-- FNEG -/
def execFneg (f : Fin 8) (at_ : Nat) (s : State) : Out := .next (issue nodeFneg f.val at_ s)

/-- FABS -/
def execFabs (f : Fin 8) (at_ : Nat) (s : State) : Out := .next (issue nodeFabs f.val at_ s)

/-- FDIV -/
def execFdiv (f : Fin 8) (at_ : Nat) (s : State) : Out := .next (issue nodeFdiv f.val at_ s)

/-- FSQRT -/
def execFsqrt (f : Fin 8) (at_ : Nat) (s : State) : Out := .next (issue nodeFsqrt f.val at_ s)

/-- FMIN -/
def execFmin (f : Fin 8) (at_ : Nat) (s : State) : Out := .next (issue nodeFmin f.val at_ s)

/-- FMAX -/
def execFmax (f : Fin 8) (at_ : Nat) (s : State) : Out := .next (issue nodeFmax f.val at_ s)

/-- FLIM -/
def execFlim (f : Fin 8) (at_ : Nat) (s : State) : Out := .next (issue nodeFlim f.val at_ s)

/-- FCMP -/
def execFcmp (f : Fin 8) (at_ : Nat) (s : State) : Out := .next (issue nodeFcmp f.val at_ s)

/-- FSINCOS -/
def execFsincos (f : Fin 8) (at_ : Nat) (s : State) : Out := .next (issue nodeFsincos f.val at_ s)

/-- IADD -/
def execIadd (f : Fin 8) (at_ : Nat) (s : State) : Out := .next (issue nodeIadd f.val at_ s)

/-- ISUB -/
def execIsub (f : Fin 8) (at_ : Nat) (s : State) : Out := .next (issue nodeIsub f.val at_ s)

/-- AND -/
def execAnd (f : Fin 8) (at_ : Nat) (s : State) : Out := .next (issue nodeAnd f.val at_ s)

/-- OR -/
def execOr (f : Fin 8) (at_ : Nat) (s : State) : Out := .next (issue nodeOr f.val at_ s)

/-- XOR -/
def execXor (f : Fin 8) (at_ : Nat) (s : State) : Out := .next (issue nodeXor f.val at_ s)

/-- ISHL -/
def execIshl (f : Fin 8) (at_ : Nat) (s : State) : Out := .next (issue nodeIshl f.val at_ s)

/-- ISHR -/
def execIshr (f : Fin 8) (at_ : Nat) (s : State) : Out := .next (issue nodeIshr f.val at_ s)

/-- ICMP -/
def execIcmp (f : Fin 8) (at_ : Nat) (s : State) : Out := .next (issue nodeIcmp f.val at_ s)

/-- SEL -/
def execSel (f : Fin 8) (at_ : Nat) (s : State) : Out := .next (issue nodeSel f.val at_ s)

/-- CLARKE -/
def execClarke (f : Fin 8) (at_ : Nat) (s : State) : Out := .next (issue nodeClarke f.val at_ s)

/-- PARK -/
def execPark (f : Fin 8) (at_ : Nat) (s : State) : Out := .next (issue nodePark f.val at_ s)

/-- IPARK -/
def execIpark (f : Fin 8) (at_ : Nat) (s : State) : Out := .next (issue nodeIpark f.val at_ s)

/-- SVM -/
def execSvm (f : Fin 8) (at_ : Nat) (s : State) : Out := .next (issue nodeSvm f.val at_ s)

/-- SVEC -/
def execSvec (f : Fin 8) (at_ : Nat) (s : State) : Out := .next (issue nodeSvec f.val at_ s)

/-- PI -/
def execPi (f : Fin 8) (at_ : Nat) (s : State) : Out := .next (issue nodePi f.val at_ s)

/-- BIQ -/
def execBiq (f : Fin 8) (at_ : Nat) (s : State) : Out := .next (issue nodeBiq f.val at_ s)

/-- MV44 -/
def execMv44 (f : Fin 8) (at_ : Nat) (s : State) : Out := .next (issue nodeMv44 f.val at_ s)

/-- TINT -/
def execTint (f : Fin 8) (at_ : Nat) (s : State) : Out := .next (issue nodeTint f.val at_ s)

/-- OBS -/
def execObs (f : Fin 8) (at_ : Nat) (s : State) : Out := .next (issue nodeObs f.val at_ s)

/-- ARGMIN -/
def execArgmin (f : Fin 8) (at_ : Nat) (s : State) : Out := .next (issue nodeArgmin f.val at_ s)

/-- RAMP -/
def execRamp (f : Fin 8) (at_ : Nat) (s : State) : Out := .next (issue nodeRamp f.val at_ s)

/-- DQLIM -/
def execDqlim (f : Fin 8) (at_ : Nat) (s : State) : Out := .next (issue nodeDqlim f.val at_ s)

/-- ADCRD -/
def execAdcrd (f : Fin 8) (at_ : Nat) (s : State) : Out := .next (issue nodeAdcrd f.val at_ s)

/-- PWMWR -/
def execPwmwr (f : Fin 8) (at_ : Nat) (s : State) : Out := .next (issue nodePwmwr f.val at_ s)

/-- OBSRD -/
def execObsrd (f : Fin 8) (at_ : Nat) (s : State) : Out := .next (issue nodeObsrd f.val at_ s)

/-- FLAG -/
def execFlag (f : Fin 8) (at_ : Nat) (s : State) : Out := .next (issue nodeFlag f.val at_ s)

/-- TRACE -/
def execTrace (f : Fin 8) (at_ : Nat) (s : State) : Out := .next (issue nodeTrace f.val at_ s)

/-- TSTAMP -/
def execTstamp (f : Fin 8) (at_ : Nat) (s : State) : Out := .next (issue nodeTstamp f.val at_ s)

end Sys2Proof.Machine
end

