-- ==== Sys2Proof/Machine/System.lean ====
section
/-! DEFINITION. Supplies, the reference, clock gates and domains (R65, R68, R73–R76), plain reads of registers (R391), and the
beginning of an entry to DORMANT and the wakes (R37–R39, R78). -/

namespace Sys2Proof.Machine

/-! ### Supplies -/

/-- What supervisor `b` reports has changed, or not, from `was`: PWR.SUPSTAT, and at a rise the raise (R74, R339). -/
def supplyMove (b : Nat) (was : Bool) (s : State) : State :=
  let rise := supLive s b && !was
  let s := supShow b s
  let s := if rise then raise (121 + b) 0xFF (if b = 4 then analogCut 7 (testCut 7 s) else s) else s
  settle (s.updHwm (fun h => { h with limpHalt := limpSupplyHalt s }))

/-- SUPPLY_SUPERVISOR_CHANGE. The supervisors run while the HWM domain is on; a condition that comes or goes while it is off shows when
they start (R74), and one under a held injection when that ends (R384). -/
def execSupplySupervisorChange (sup : Supervisor) (live : Bool) (s : State) : Out :=
  let b := supBit sup
  let was := supLive s b
  let s := s.updPwr (fun p => { p with supRaw := withBit p.supRaw b live })
  if s.pwr.hwmOn then .next (supplyMove b was s) else .next s

/-! ### The reference (R65) -/

/-- Is the reference supervised, and still the one in use? -/
def refSupervised (s : State) : Bool := s.flag F.CLK_STAT_XTALOK && !s.flag F.CLK_STAT_RCREF

/-- A reference loss: the internal RC takes over, the flag, the detector, every PHY in power-down, the tests cut. -/
def refLost (f : Fld) (s : State) : State :=
  let s := ((s.put f 1).put F.CLK_STAT_RCREF 1).put F.CLK_STAT_XTALOK 0
  let s := s.updPwr (fun p => { p with crystal := false })
  let s := sendRaise 120 120 0xFF (analogCut 5 (testCut 5 s))
  forAll [0, 1, 2, 3] phyFail (s.put phyField 0)

/-- REFERENCE_LOSS: no oscillation for 2 µs. -/
def execReferenceLoss (s : State) : Out := if refSupervised s then .next (refLost F.CLK_STAT_XLOSS s) else .next s

/-- The window of 4,096 reference cycles, 102.4 µs, disagrees with the 16 MHz HWM oscillator by more than ±8 %: it should count
1,638.4 ticks. -/
def refDisagrees (ticks : Nat) : Bool := decide (8 * 16384 < 100 * (((10 * ticks : Nat) : Int) - 16384).natAbs)

/-- REF_MONITOR_WINDOW -/
def execRefMonitorWindow (ticks : Nat) (s : State) : Out :=
  if refSupervised s && refDisagrees ticks then .next (refLost F.CLK_STAT_MONERR s) else .next s

/-! ### Clock gates and domains (R68, R75, R385) -/

/-- A write of CLK.GATE: a gated Loupe stops its captures, a gated INJ ends a held injection; with its clock back CAN goes on. -/
def gateWrite (v : Word) (s : State) : State :=
  let was := s.flag F.CLK_GATE_CAN
  let s := (((s.put F.CLK_GATE_INJ (bitsOf v 3 3)).put F.CLK_GATE_EVC (bitsOf v 2 2)).put F.CLK_GATE_LUP (bitsOf v 1 1)).put
    F.CLK_GATE_CAN (bitsOf v 0 0)
  let s := if s.flag F.CLK_GATE_LUP then s else forAll [0, 1, 2, 3] lupStop s
  let s := if s.flag F.CLK_GATE_INJ then s else injEnd s
  if s.flag F.CLK_GATE_CAN && !was then dmaAgain s else s

/-- CLK_GATE_WRITE -/
def execClkGateWrite (v : Word) (s : State) : Out := .next (gateWrite v s)

/-- The sensor supplies that stay in overcurrent shutdown after a write: one that is switched on again leaves it (DEDUCED,
log 43). -/
def sensorRetry (v : Word) (s : State) : State :=
  let a := s.hwm.vsOff.headD false && !bitOf v 4
  let b := s.hwm.vsOff.getD 1 false && !bitOf v 5
  supShow 7 (s.updHwm (fun h => { h with vsOff := [a, b] }))

/-- A write of PWR.DOMCTL: with RCREF = 1 a 1 in [3:0] is discarded; a PHY that powers down takes its port with it. -/
def domctlWrite (v : Word) (s : State) : State :=
  let old := s.get phyField
  let new := if s.flag F.CLK_STAT_RCREF then bitsOf v 3 0 &&& old else bitsOf v 3 0
  let s := ((s.put phyField new).put F.PWR_DOMCTL_VSA (bitsOf v 4 4)).put F.PWR_DOMCTL_VSB (bitsOf v 5 5)
  settleSupplies (sensorRetry v (forAll ((bitsIn 4 old).filter (fun p => !new.testBit p)) phyFail s))

/-- DOMCTL_WRITE -/
def execDomctlWrite (v : Word) (s : State) : Out := .next (domctlWrite v s)

/-! ### Plain reads (R6, R391) -/

/-- A write of PWR.OFFSTAT whose VALID bit falls in the cycle of an access: VALID stays, for that access (R76). -/
def offStatAfter (v : Word) (s : State) : State :=
  match s.fresh.off with
  | none => s
  | some (a, rq) =>
    if bitOf v 0 then ((s.put F.PWR_OFFSTAT_VALID 1).put F.PWR_OFFSTAT_REQ rq).setReg R.PWR_OFFACC (BitVec.ofNat 32 a) else s

/-- SYS.MODE as it reads (R29). -/
def modeWord (s : State) : Word := putBits (putBits (s.reg R.SYS_MODE) 7 4 s.sub.code) 2 0 s.mode.code

/-- What a read of a register returns, apart from the state it may change. The password words SPB[4] and SPB[5] read 0 (R358). -/
def regValue (s : State) (a : Nat) : Word :=
  if a = R.SYS_MODE then modeWord s
  else if 0xE0002000 ≤ a ∧ a < 0xE0002200 then
    putBits (s.reg a) 31 31 (icuPending s ((a - 0xE0002000) / 4)).toNat
  else if 0x400F0200 ≤ a ∧ a < 0x400F0300 ∧ (a - 0x400F0200) % 8 = 0 then BitVec.ofNat 32 (s.evcOf ((a - 0x400F0200) / 8))
  else if a = R.CFG_SHDATA then shdata s
  else if a = R.SPP_STAT then putBits (s.reg a) 2 0 s.mode.code
  else if a = R.HWM_SPB 4 ∨ a = R.HWM_SPB 5 then 0
  else s.reg a

/-! ### Entry to DORMANT (R77, R78) -/

/-- An entry to DORMANT begins: the always-on counters' reference copies are taken, since a count can raise a wake from E1 on
(R78, R81, DEDUCED, log 49). -/
def entryStart (step : Nat) (s : State) : State :=
  s.updPwr (fun p => { p with
    entry := step, replay := false,
    pcRef := [(0, s.get ⟨R.AON_PCNT 0, 23, 0⟩), (1, s.get ⟨R.AON_PCNT 1, 23, 0⟩)] })

/-! ### Waking (R37–R39, R78, R81, R86) -/

/-- A wake begins (R37, R39, R86): RSTCAUSE.WAKE, a wake-log entry, BOOT, the wake delay. Registers outside the HWM and the
always-on domain are at their reset values; the PIS outputs are open (R338), MIRPWMk is raised for each retired pair (R119), and
the save list is restored only after a DORMANT that ran the save (R80). -/
def wakeNow (cause : Nat) (restore : Bool) (s : State) : State :=
  let s := loadChid ((dieReset s).setReg R.SYS_BOOTSTAT 0)
  let s := (s.put F.SYS_RSTCAUSE_WAKE 1).put F.CLK_STAT_RCREF 0
  let s := wlogNew cause (s.put F.HWM_PISCTL_OPEN 0xFF)
  let s := if restore then s else s.put F.AON_SLCTL_RESTORED 0
  let s := s.updPwr (fun p => { p with
    seq := .delay, retries := 0, restore := restore, saved := false, entry := 0, replay := false,
    glints := 0, glintOn := false, xtalFail := false, crystal := false, relbist := false })
  let s := (toBoot .pwrseq s).put F.SYS_MODE_PREV Mode.dormant.code
  forAll (bitsIn 8 (s.get F.MIR_RETIRED_PWMGRP)) (fun k t => raise (110 + k) (2 ^ k) t) s

/-- Where a wake event finds the device: asleep, so that it wakes; on its way into DORMANT, so that it is replayed (R78); or
neither. -/
inductive WakeAt where
  | asleep | entering | awake
deriving DecidableEq, Repr

/-- See `WakeAt`. -/
def wakeAtOf (s : State) : WakeAt :=
  if s.mode = .dormant ∧ s.pwr.entry = 0 ∧ s.pwr.seq = .asleep ∧ s.pwr.vbat = true then .asleep
  else if s.pwr.entry ≠ 0 ∧ s.mode ≠ .boot then .entering
  else .awake

/-- A wake event with its flag in AON.WAKESRC and its CAUSE. -/
def wakeEvent (flag : Fld) (cause at_ : Nat) (s : State) : State :=
  match wakeAtOf s with
  | .asleep =>
    let s := s.put flag 1
    wakeNow cause s.pwr.saved (s.updPwr (fun p => { p with wakeAt := at_ }))
  | .entering => ((s.put flag 1).put F.AON_WAKESRC_REPLAY 1).updPwr (fun p => { p with replay := true, wakeAt := at_ })
  | .awake => s

/-- Always-on counter `n`'s count. -/
def pcntFld (n : Nat) : Fld := ⟨R.AON_PCNT n, 23, 0⟩

/-- How far the count is from its reference copy, on the circle of 2²⁴. -/
def pcntDist (s : State) (n : Nat) : Nat :=
  let d := (s.get (pcntFld n) + 2 ^ 24 - mget (fun _ => 0) s.pwr.pcRef n) % 2 ^ 24
  min d (2 ^ 24 - d)

/-- The wake of a counter: its threshold, where it is enabled. -/
def pcntWake (n at_ : Nat) (s : State) : State :=
  let thr := s.get (if n = 0 then F.AON_PCCTL_THR0 else F.AON_PCCTL_THR1)
  let en := s.flag (if n = 0 then F.AON_WAKEEN_PC0 else F.AON_WAKEEN_PC1)
  if en && thr != 0 && decide (thr ≤ pcntDist s n) then
    wakeEvent (if n = 0 then F.AON_WAKESRC_PC0 else F.AON_WAKESRC_PC1) (4 + n) at_ s
  else s

/-- A write of AON.PCNTn (R81): the count, and an edge of the same cycle after it. Once an entry to DORMANT has begun, the count that it
sets may raise the wake. -/
def pcntSet (n : Nat) (v : Nat) (s : State) : State :=
  pcntWake n s.now ((s.put (pcntFld n) v).put (if n = 0 then F.AON_PCCTL_UPONLY0 else F.AON_PCCTL_UPONLY1) 0)

/-- MODEREQ_SERVICE -/
def execModereqService (key : BitVec 16) (cyc : ReqCycle) (s : State) : Out :=
  .next (modeRequest .service key cyc enterService s)

end Sys2Proof.Machine
end

