-- ==== Sys2Proof/Machine/Inject.lean ====
section
/-! DEFINITION. Fault injection (R383–R386) and the commands of the event counters (R387). -/

namespace Sys2Proof.Machine

/-- Change the injection record. -/
def State.updInj (s : State) (f : Inject → Inject) : State := { s with inj := f s.inj }

/-! ### Arming (R383) -/

/-- A write of another INJ register ends a key sequence. -/
def injOther (s : State) : State := s.updInj (fun i => { i with key1 := none })

/-- A write of INJ.KEY at instant `t`: the two words within 1 ms arm. A wrong word ends a sequence; it does not disarm what is
armed (DEDUCED, log 76). -/
def injKeyWrite (w : Word) (t : Nat) (s : State) : State :=
  let k := bitsOf w 15 0
  if k = 0x1A3C then s.updInj (fun i => { i with key1 := some t })
  else match s.inj.key1 with
    | none => s
    | some t0 => (if k = 0xE5C3 ∧ t ≤ t0 + 300000 then s.put F.INJ_STAT_ARMED 1 else s).updInj (fun i => { i with key1 := none })

/-- INJ_KEY -/
def execInjKey (w : Word) (at_ : Nat) (s : State) : Out := .next (access 0 R.INJ_KEY (injKeyWrite w at_) (advanceTo at_ s))

/-- INJ_ARM_EXPIRY: 100 ms after the arming. -/
def execInjArmExpiry (s : State) : Out := .next (clocked R.INJ_STAT (fun t => t.put F.INJ_STAT_ARMED 0) s)

/-- INJ_DISARM -/
def execInjDisarm (s : State) : Out := .next (access 0 R.INJ_CTL (fun t => injOther (t.put F.INJ_STAT_ARMED 0)) s)

/-! ### Firing (R383, R384) -/

/-- A level injection is held from now on; `before` is the condition that it covers. -/
def injHold (det arg : Nat) (before : Bool) (s : State) : State :=
  (s.put F.INJ_STAT_HELD 1).updInj (fun i => { i with held := some (det, arg), before := before })

/-- A level injection begins: it is held, it acts, and a detector whose filter the duration meets raises. A supervisor's level that is too
short for its filter is held with `arg` 1, another with 0. -/
def injLevel (det arg : Nat) (before meets : Bool) (act : State → State) (s : State) : State :=
  let s := injActed (injHold det arg before s)
  if meets then act s else s

/-- An event injection waits for its moment. -/
def injWait (det arg : Nat) (s : State) : State :=
  s.updInj (fun i => { i with waiting := (det, arg) :: i.waiting.filter (fun e => e.1 != det) })

/-- An injection into FBFLTn: an illegal transition, an amplitude below AMPLO while it is held, an unclassified interval. -/
def injFeedback (n fault : Nat) (s : State) : State :=
  match fault with
  | 0 =>
    let s := injActed s
    if s.flag (F.FBK_CFG_SCEN n) then
      settleFbk n (evcCount (0x68 + n) 1 (illegalStep n (((s.fb n).quad + 2) % 4) s))
    else s
  | 1 => injLevel (94 + n) 1 false false id s
  | 2 =>
    let s := injActed s
    if s.flag (F.FBK_CFG_PTEN n) then settleFbk n (evcCount (0x68 + n) 1 (gateOut n (unclass n s))) else s
  | _ => s

/-- VSFLT acts: the first sensor supply that is on shuts down; with both off the comparator alone is seen. -/
def injSensor (s : State) : State :=
  if s.flag F.PWR_DOMCTL_VSA then sensorOver false s
  else if s.flag F.PWR_DOMCTL_VSB then sensorOver true s
  else raise 127 0xFF (supShow 7 s)

/-- An injection into a detector of a leg, 0–71. -/
def injLeg (det arg : Nat) (s : State) : State :=
  let k := det % 24
  if det < 24 then injLevel det 0 false true (vdsDetect k (arg.testBit 0) (arg.testBit 1) []) s
  else if det < 48 then
    injLevel det 0 (s.flag (F.GDR_STAT_BSOK k)) (decide (1 ≤ s.get F.INJ_CTL_DUR)) (bsUnder k) s
  else handshakeOut k (arg.testBit 0) (injActed s)

/-- An injection into a detector of the pattern generators, converters, feedback or Mirror, 72–117. -/
def injUnit (det arg t : Nat) (s : State) : State :=
  if det < 78 then injLevel det 0 (s.bit F.PWM_TRIP_ACT (det - 72)) true (fltActive (det - 72)) s
  else if det < 94 then injWait det 0 s
  else if det < 102 then injFeedback (det - 94) (arg % 4) s
  else if det < 106 then
    let w := det - 102
    injLevel det 0 (s.flag (F.FBK_WSPER_OPEN w)) (s.flag (F.FBK_WSCFG_EN w) && decide (99 ≤ s.get F.INJ_CTL_DUR))
      (wheelFault w false) s
  else if det < 110 then injWait det (32 + 2 ^ s.get (F.FBK_SNTCFG_RUNERR (det - 106))) s
  else verdict (9 + (det - 110)) (false, false) (true, false) (injActed (advanceTo t s))

/-- An injection into a detector of the device, 118–139. -/
def injDevice (det arg t : Nat) (s : State) : State :=
  let dur := s.get F.INJ_CTL_DUR
  match det with
  | 118 => setGflag (arg % 32) (injActed s)
  | 119 => if arg % 4 = 0 then s else injWait 119 (32 + arg % 4) s
  | 120 => injLevel 120 0 false (refSupervised s && decide (1 ≤ dur)) (refLost F.CLK_STAT_XLOSS) s
  | 127 => injLevel 127 (if 9 ≤ dur then 0 else 1) false (decide (9 ≤ dur)) injSensor s
  | 128 => if arg % 4 = 0 then s else injWait 128 (arg % 4) s
  | 129 => syncParity (injActed s)
  | 130 => injWait 130 0 s
  | 131 => injWait 131 0 s
  | 132 => sendRaise 132 132 0xFF (injActed s)
  | 133 => injLevel 133 0 false true (sendRaise 133 133 0xFF) s
  | 134 => injLevel 134 0 false true (raise 134 0xFF) s
  | 135 => injLevel 135 0 false true (fun u => sendRaiseAs 135 135 3 0xFF (debugLines u)) s
  | 136 => injLevel 136 0 s.hwm.dcLow true stage2On s
  | 137 => injLevel 137 0 false (decide (3 ≤ dur)) (hbeatLoss t) s
  | 138 => injLevel 138 0 false (decide (10 ≤ dur)) (pgoodLow t) s
  | 139 =>
    let s := injActed s
    if arg % 32 < 17 ∧ s.pwr.seq = .done ∧ pairIdle s (arg % 32) = false then mismatch (arg % 32) s else s
  | _ =>
    if 121 ≤ det ∧ det ≤ 126 then
      injLevel det (if 9 ≤ dur then 0 else 1) false (decide (9 ≤ dur)) (supplyMove (det - 121) (supLive s (det - 121))) s
    else s

/-- What the named detector does under an injection (R384). -/
def injAct (det arg t : Nat) (s : State) : State :=
  if det < 72 then injLeg det arg s else if det < 118 then injUnit det arg t s else injDevice det arg t s

/-- May a FIRE be accepted (R383)? -/
def injAllowed (s : State) : Bool :=
  s.flag F.INJ_STAT_ARMED
    && (s.mode == .service || s.mode == .standby || (s.mode == .active && s.flag F.HWM_PWSTAT_UNLK))

/-- Is an injection under way: a level held, or an event that waits for its moment or still runs over frames (R385; the latter DESIGN
CHOICE, log 76)? -/
def injBusy (s : State) : Bool := s.flag F.INJ_STAT_HELD || !s.inj.waiting.isEmpty

/-- A write of 1 to INJ.CTL.FIRE by a source, as the word `v`: with another injection under way it is refused with BUSY, where R383 does not
allow it with REFUSED, else it acts. It ends the arming in any case, and in ACTIVE it is logged (R361, R383). -/
def injFire (src : Nat) (v : Word) (t : Nat) (s : State) : State :=
  let s := injOther s
  if injBusy s || !injAllowed s then
    let u := if injBusy s then s.put F.INJ_STAT_BUSY 1 else s
    let u := if injAllowed s then u else u.put F.INJ_STAT_REFUSED 1
    let u := u.put F.INJ_STAT_ARMED 0
    if s.mode = .active then logRefused 4 src 0 (BitVec.ofNat 32 R.INJ_CTL) v u else u
  else
    let det := s.get F.INJ_SEL_DET
    let s := if s.mode = .active then logNew 3 src 0 (BitVec.ofNat 32 R.INJ_CTL) v s else s
    injAct det (s.get F.INJ_SEL_ARG) t ((s.put F.INJ_STAT_ARMED 0).put F.INJ_STAT_LAST det)

/-- INJ_FIRE: the write leaves DUR as it is. -/
def execInjFire (who : Requester) (at_ : Nat) (s : State) : Out :=
  let s := advanceTo at_ s
  let act := injFire (logSource who) (BitVec.ofNat 32 (0x80000000 + s.get F.INJ_CTL_DUR)) at_
  .next (if mayWrite s who R.INJ_CTL then access (reqCode who) R.INJ_CTL act s else s)

/-- A write of INJ.CTL: the duration, then DISARM, then FIRE. -/
def injCtlWrite (src : Nat) (v : Word) (t : Nat) (s : State) : State :=
  let s := injOther (s.put F.INJ_CTL_DUR (bitsOf v 11 0))
  let s := if bitOf v 30 then s.put F.INJ_STAT_ARMED 0 else s
  if bitOf v 31 then injFire src v t s else s

/-- INJ_LEVEL_END: the duration is over. -/
def execInjLevelEnd (s : State) : Out := .next (clocked R.INJ_STAT injEnd s)

/-! ### Event counters (R387) -/

/-- EVC_GCTL -/
def execEvcGctl (v : Word) (s : State) : Out := .next (access 0 R.EVC_GCTL (fun t => t.setReg R.EVC_GCTL v) s)

/-- A read of EVC.CNTLc latches bits [47:32]. -/
def evcLatch (c : Nat) (s : State) : State := s.put (F.EVC_CNTH_CNT c) (s.evcOf c / 2 ^ 32)

/-- EVC_CNTL_READ -/
def execEvcCntlRead (c : Fin 32) (s : State) : Out := .next (access 0 (R.EVC_CNTL c.val) (evcLatch c.val) s)

/-- What the running cycle has counted on counter `c`. -/
def freshCount (s : State) (c : Nat) : Nat := s.fresh.counts.foldl (fun n e => if e.1 = c then n + e.2 else n) 0

/-- A write of EVC.CLR clears the counts that it names; the events of its own cycle stay (R387). -/
def evcClear (v : Word) (s : State) : State :=
  forAll (bitsIn 32 v.toNat) (fun c t => { t with evc := mset (fun _ => 0) t.evc c (freshCount s c % 2 ^ 48) }) s

/-- EVC_CLR -/
def execEvcClr (v : Word) (at_ : Nat) (s : State) : Out := .next (access 0 R.EVC_CLR (evcClear v) (advanceTo at_ s))

end Sys2Proof.Machine
end

