-- ==== Sys2Proof/Machine/Bus.lean ====
section
/-! DEFINITION. The bus (R76, R100, R390, R391): the address map, reads and writes of registers with what a write of each does
beside its fields (R4, R6, R332), the save engine (R79), accesses to the memories with their code (R102, R103), and the die-to-die bridge (R17–R20). -/

namespace Sys2Proof.Machine

/-! ### Fields of a register (R4, R6) -/

/-- A write of one field by its access code: an encoding that the field does not list is discarded. -/
def storeField (a : Nat) (v : Word) (s : State) (f : FieldSpec) : State :=
  let n := bitsOf v f.hi f.lo
  let old := bitsOf (s.reg a) f.hi f.lo
  match f.acc with
  | .rw => if f.legal.ok n then s.setReg a (putBits (s.reg a) f.hi f.lo n) else s
  | .rwp => if f.legal.ok n then s.setReg a (putBits (s.reg a) f.hi f.lo n) else s
  | .rws => if f.legal.ok n then s.setShd a (putBits (s.shd a) f.hi f.lo n) else s
  | .w1c =>
    -- a bit that the running cycle has set stays set (R10)
    let clr := old &&& n
    s.setReg a (putBits (s.reg a) f.hi f.lo (old - (clr - (clr &&& (s.freshBits a >>> f.lo)))))
  | .ro => s
  | .wo => s

/-- The fields of a register. -/
def fieldsOf (a : Nat) : List FieldSpec :=
  match Regs.spec a with
  | none => []
  | some r => r.fields

/-- A write of a register's fields with the access codes that `p` selects. -/
def storeFields (p : Acc → Bool) (a : Nat) (v : Word) (s : State) : State :=
  ((fieldsOf a).filter (fun f => p f.acc)).foldl (storeField a v) s

/-- A write of the RW and W1C fields. -/
def store (a : Nat) (v : Word) (s : State) : State := storeFields (fun c => c == .rw || c == .w1c) a v s

/-- Has the register a field with this access code? -/
def hasAcc (a : Nat) (c : Acc) : Bool := (fieldsOf a).any (fun f => f.acc == c)

/-! ### Shadow writes (R174, R332) -/

/-- A write to RWS fields: refused while a flip is armed, and for the placement words while a scan runs or an old half drains. -/
def rwsWrite (a : Nat) (v : Word) (s : State) : Bool × State :=
  if 0x40054000 ≤ a ∧ a < 0x40055000 ∧ shadowHeld s = true then (true, s.put F.PRS_STAT_SHWR 1)
  else if s.flag F.CFG_STAT_ARMED then (true, s.put F.CFG_STAT_SHWR 1)
  else (false, (storeFields (fun c => c == .rws) a v s).put F.CFG_CTL_SHRDY 0)

/-- The state that the write leaves. -/
def rwsWritten (a : Nat) (v : Word) (s : State) : State := (rwsWrite a v s).2

/-- A write of `n` bytes into the node-table window: the live half takes none (R330), the shadow half none while it is held. -/
def nodeWrite (a : Nat) (l : List Byte) (s : State) : Bool × State :=
  if a < 0x30020000 then (true, s.put F.CFG_STAT_LIVEWR 1)
  else if shadowHeld s then (true, s.put F.PRS_STAT_SHWR 1)
  else
    let p := nodePlace s a
    let q := eccWritePart p a s
    if q.1 then (false, (q.2.setBytes p l).put F.CFG_CTL_SHRDY 0) else (true, q.2)

/-- SHADOW_WRITE: a word into the shadow window, or an RWS field. -/
def execShadowWrite (who : Requester) (addr v : Word) (s : State) : Out :=
  let a := addr.toNat
  if mayWrite s who a = false then .next s
  else if 0x30000000 ≤ a ∧ a < 0x30040000 then .next (nodeWrite (a / 4 * 4) (leBytes v) s).2
  else if hasAcc a .rws then .next (rwsWritten a v s)
  else .next s

/-! ### Writes on the A-die, password-protected ones among them (R6, R17, R361) -/

/-- What a stored RWP field changes beside itself. -/
def rwpAfter (a : Nat) (s : State) : State :=
  if 0x50000000 ≤ a ∧ a < 0x50000180 then settleThreff ((a - 0x50000000) / 16) s else s

/-- A write to a register with RWP fields on the A-die. -/
def rwpWrite (src a : Nat) (v : Word) (s : State) : State :=
  if s.flag F.HWM_PWSTAT_UNLK then
    let s := storeFields (fun c => c == .rwp) a v s
    rwpAfter a (logNew 3 src 0 (BitVec.ofNat 32 a) (s.reg a) s)
  else logRefused 4 src 0 (BitVec.ofNat 32 a) v s

/-- GDR, ADC, CSA -/
def gdrWrite (src a : Nat) (v : Word) (s : State) : State :=
  if hasAcc a .rwp then rwpWrite src a v s
  else if a = R.GDR_EVT then (if bitOf v 31 then s.put F.GDR_EVT_COUNT 0 else s)
  else if 0x50010000 ≤ a ∧ a < 0x50010200 then
    let k := (a - 0x50010000) / 0x40
    match (a - 0x50010000) % 0x40 with
    | 0x00 => seqcfgWrite k ((store a v s).reg a) s
    | 0x04 =>
      let s := store a v s
      if bitOf v 31 then adcStatClear k s else s
    | 0x10 =>
      let s := if bitsOf v 15 0 = 0 then s else s.put (F.ADC_ZXCFG_TMO k) (bitsOf v 15 0)
      if bitOf v 31 then zxStart k s else zxStop k s
    | _ => store a v s
  else store a v s

/-- AON -/
def aonWrite (a : Nat) (v : Word) (s : State) : State :=
  if a = R.AON_PCNT 0 then pcntSet 0 (bitsOf v 23 0) s
  else if a = R.AON_PCNT 1 then pcntSet 1 (bitsOf v 23 0) s
  else store a v s

/-- HWM -/
def hwmWrite (who : Requester) (a : Nat) (v : Word) (s : State) : State :=
  if 0x70000800 ≤ a ∧ a < 0x70000C00 then spbWrite who ((a - 0x70000800) / 4) v s
  else if hasAcc a .rwp then rwpWrite (logSource who) a v s
  else if a = R.HWM_RXREL then
    let s := if bitsOf v 7 0 = 0 then s else releaseGroups (bitsOf v 7 0) s
    if bitOf v 30 then releaseHaltNow s else s
  else if a = R.HWM_DETCNT then (if bitOf v 31 then s.put F.HWM_DETCNT_COUNT 0 else s)
  else if a = R.HWM_FCTL then settleFault (store a v s)
  else if a = R.HWM_PWENT then passwordEntry who (v.extractLsb' 0 16) s.now s
  else if a = R.HWM_PWCTL then
    let s := store a v s
    if bitOf v 31 then pwLock (logSource who) 0 s else s
  else if a = R.HWM_PISCTL then
    -- with both requests for a group, the open one is taken and the close one refused (R329)
    let opens := bitsIn 8 (bitsOf v 15 8)
    let closes := bitsIn 8 (bitsOf v 7 0)
    let s := forAll (closes.filter (fun g => !opens.contains g)) pisClose (forAll opens pisRequest s)
    forAll (closes.filter opens.contains) (fun g t => t.putBit F.HWM_PISSTAT_CLREF g true) s
  else store a v s

/-- A write takes effect on the A-die. -/
def aWrite (who : Requester) (a : Nat) (v : Word) (s : State) : State :=
  if a < 0x60000000 then gdrWrite (logSource who) a v s
  else if a < 0x70000000 then aonWrite a v s
  else hwmWrite who a v s

/-! ### The bridge (R17–R20) -/

/-- The oldest write on the bridge takes effect. -/
def bridgeNext (s : State) : State :=
  match s.brg.queue with
  | [] => s
  | q :: l => aWrite q.who q.addr q.val { s with brg := { s.brg with queue := l } }

/-- BRIDGE_ACCESS_DONE -/
def execBridgeAccessDone (s : State) : Out := .next (bridgeNext s)

/-- A read reaches the A-die after every write issued before it (R18; the order between
blocks is DEDUCED from the latencies, log 30). -/
def bridgeDrain (s : State) : State := (List.range s.brg.queue.length).foldl (fun t _ => bridgeNext t) s

/-! ### The planner's threshold, and approvals (R17, R378, R380, R381) -/

/-- The planner's write of GDR.VDSk.THRADJ crosses the bridge (R17, R18). -/
def thrWrite (k : Nat) (v : Int) (s : State) : State :=
  if s.flag F.SYS_BRGSTAT_UP then settleThreff k ((bridgeDrain s).putS (F.GDR_VDS_THRADJ k) v) else s

/-- The bounds of THRADJ of leg `k`. -/
def thrBounds (s : State) (k : Nat) : Int × Int :=
  let b := s.spb (72 + k / 3)
  (signed 5 (bitsOf b 4 0), signed 5 (bitsOf b 12 8))

/-- The threshold proposal of leg `k`. -/
def proposeThr (k : Nat) (prop : Int) (s : State) : State :=
  let b := thrBounds s k
  let r := propose (isApproved s (32 + k)) (s.getS (F.GDR_VDS_THRADJ k)) prop b.1 b.2
  let s := approvalEnd (32 + k) r.2 ((thrWrite k (clampInt r.1 (-16) 15) s).putB (F.MGN_THRP_HELD k) r.2)
  settleHeld (if r.2 then proposalHeld 1 (s.putS (F.MGN_THRP_PROP k) prop) else proposalApplied s)

/-- The threshold evaluation of one leg, from the larger RON that has been measured (R378). With the bridge down the leg's threshold is
out of the planner's reach (DESIGN CHOICE, log 113). -/
def thrEvaluate (k : Nat) (s : State) : State :=
  let hs := s.get (F.MGN_RON_HS k)
  let ls := s.get (F.MGN_RON_LS k)
  let ron := if hs = 0xFFFF then ls else if ls = 0xFFFF then hs else max hs ls
  if mgnSees s && s.flag F.MGN_CTL_THREN && ron != 0xFFFF then
    let s := bridgeDrain s
    let b := s.spb (72 + k / 3)
    let target : Int := (thrTarget (bitsOf b 23 16 * bitsOf b 31 24 * ron) : Int) - (s.get (F.GDR_VDS_THR k) : Int)
    let cur := s.getS (F.GDR_VDS_THRADJ k)
    let prop := cur + clampInt (target - cur) (-1) 1
    let c := thrBounds s k
    if quiet (isApproved s (32 + k)) cur prop c.1 c.2 then
      (if isApproved s (32 + k) then s else settleHeld (s.put (F.MGN_THRP_HELD k) 0))
    else proposeThr k prop s
  else s

/-- MGN_THR_EVALUATION -/
def execMgnThrEvaluation (k : Fin 24) (s : State) : Out := .next (thrEvaluate k.val s)

/-- A GO that is discarded (R381). -/
def approveRefused (s : State) : State := s.put F.MGN_STAT_APPREF 1

/-- A parameter takes an approved value. -/
def approved (key : Nat) (s : State) : State := settleHeld (s.updMgn (fun m => { m with approved := key :: m.approved.filter (· != key) }))

/-- A GO that takes effect (R381): the held proposal of TYPE and IDX, clamped by the field's range alone. An approved threshold is lost
with the bridge down (log 113). -/
def approve (typ idx : Nat) (s : State) : State :=
  match typ with
  | 0 =>
    if idx < 24 ∧ s.flag (F.MGN_DTP_HELD idx) = true then
      approved idx (((noteOld (R.PWM_DT idx) s).putS (F.PWM_DT_DTADJ idx) (s.getS (F.MGN_DTP_PROP idx))).put (F.MGN_DTP_HELD idx) 0)
    else approveRefused s
  | 1 =>
    if idx < 24 ∧ s.flag (F.MGN_THRP_HELD idx) = true then
      (if s.flag F.SYS_BRGSTAT_UP then
        approved (32 + idx) ((thrWrite idx (clampInt (s.getS (F.MGN_THRP_PROP idx)) (-16) 15) s).put (F.MGN_THRP_HELD idx) 0)
      else s)
    else approveRefused s
  | 2 =>
    if s.flag F.MGN_VIDP_HELD ∧ s.get F.MGN_VIDP_PROP < 32 then
      approved 64 ((s.updPwr (fun p => { p with vidTarget := some (s.get F.MGN_VIDP_PROP) })).put F.MGN_VIDP_HELD 0)
    else approveRefused s
  | _ => approveRefused s

/-- A write of MGN.APPROVE: while unlocked it is logged and GO acts on TYPE and IDX as they then stand, a reserved code discarded (R4);
GO reads 0. -/
def approveWrite (src : Nat) (v : Word) (s : State) : State :=
  if s.flag F.HWM_PWSTAT_UNLK then
    let s := logNew 3 src 0 (BitVec.ofNat 32 R.MGN_APPROVE) v (storeFields (fun c => c == .rwp) R.MGN_APPROVE v s)
    let s := s.put F.MGN_APPROVE_GO 0
    if bitOf v 31 then approve (s.get F.MGN_APPROVE_TYPE) (s.get F.MGN_APPROVE_IDX) s else s
  else logRefused 4 src 0 (BitVec.ofNat 32 R.MGN_APPROVE) v s

/-! ### Entry to DORMANT: step E1 and the save engine (R77, R79) -/

/-- Is the address one of an RW register of a D-die or A-die peripheral block, which a save list may name? The blocks are those that
R100 names so: the AON block, the HWM window, CPT and ICU have rows of their own and are skipped (DESIGN CHOICE, log 91). -/
def saveable (a : Nat) : Bool :=
  (decide (0x40000000 ≤ a ∧ a < 0x40120000) || decide (0x50000000 ≤ a ∧ a < 0x50030000)) && a % 4 == 0
    && (match Regs.spec a with
        | none => false
        | some r => r.fields.any (fun f => f.acc == .rw) && !r.fields.any (fun f => f.acc == .rws))

/-- The save list lies where R79 wants it. -/
def saveBaseOk (s : State) : Bool :=
  let b := (s.reg R.AON_SLBASE).toNat
  b % 4 == 0 && decide (0x10C40000 ≤ b ∧ b + 4 * s.get F.AON_SLCTL_COUNT ≤ 0x11000000)

/-- A word as an engine takes it once its read has corrected and reported what it met (R102): 0 where it is uncorrectable
(DESIGN CHOICE, log 114). -/
def engineWord (s : State) (a : Nat) : Word := if 3 ≤ s.errs a then 0 else s.word a

/-- An engine reads the list: the report of R102. -/
def listRead (s : State) : State := (romRead (s.reg R.AON_SLBASE).toNat (4 * s.get F.AON_SLCTL_COUNT) s).2

/-- Entry `k` of the list. -/
def saveEntry (s : State) (k : Nat) : Nat := (engineWord s ((s.reg R.AON_SLBASE).toNat + 4 * k)).toNat

/-- The CRC-32 over the list as it has been read (R49). -/
def listCrc (s : State) : Word :=
  crc32 ((List.range (s.get F.AON_SLCTL_COUNT)).flatMap (fun k => leBytes (BitVec.ofNat 32 (saveEntry s k))))

/-- A value word of the save area, with the read part of a narrow write (R103). -/
def saveWord (k : Nat) (v : Word) (s : State) : State :=
  let a := 0x60001000 + 4 * k
  let q := eccWritePart a a s
  if q.1 then q.2.setWord a v else q.2

/-- Save one entry, or skip it. A register of the A-die is read after the writes on their way to it (R18). -/
def saveOne (k : Nat) (s : State) : State :=
  let a := saveEntry s k
  let s := if aDie a then bridgeDrain s else s
  if saveable a && !blockOff s a then saveWord k (regValue s a) s
  else ((saveWord k 0 s).bump F.AON_SLCTL_SKIP 1).putBit (F.AON_SLSKIP_SKIP (k / 32)) (k % 32) true

/-- The save engine's run. Under BADBASE the skip map, SKIP and SLCRC stay as they were (DESIGN CHOICE, log 92). -/
def saveRun (s : State) : State :=
  if saveBaseOk s then
    let s := forAll (List.range 16) (fun w t => t.setReg (R.AON_SLSKIP w) 0) s
    let s := (s.put F.AON_SLCTL_BADBASE 0).put F.AON_SLCTL_SKIP 0
    let s := listRead s
    let s := s.setReg R.AON_SLCRC (listCrc s)
    forAll (List.range (s.get F.AON_SLCTL_COUNT)) saveOne s
  else s.put F.AON_SLCTL_BADBASE 1

/-- A CAN controller goes to bus-off idle. -/
def canIdle (c : Nat) (s : State) : State :=
  let s := setOnBus c none (s.put (F.CAN_STAT_BUSOFF c) 1)
  icuEvent (51 + 4 * c) s

/-- Step E1: the transmitter and the PHYs stop, CAN goes idle, the save engine runs. -/
def dormantEnter (s : State) : State :=
  let s := (entryStart 1 s).updPwr (fun p => { p with saved := true })
  saveRun (canIdle 1 (canIdle 0 (forAll [0, 1, 2, 3] phyFail s)))

/-- MODEREQ_DORMANT -/
def execModereqDormant (key : BitVec 16) (cyc : ReqCycle) (s : State) : Out :=
  .next (modeRequest .dormant key cyc dormantEnter s)

/-! ### What a register write does, block by block -/

/-- A write of SYS.MODEREQ. -/
def modeReqWrite (v : Word) (s : State) : State :=
  let key : BitVec 16 := v.extractLsb' 16 16
  match bitsOf v 2 0 with
  | 0 => busRequest .dormant key dormantEnter s
  | 1 => busRequest .boot key (requestReset .modeReq) s
  | 2 => busRequest .service key enterService s
  | 3 => busRequest .integrate key (enterMode .integrate .none) s
  | 4 => busRequest .standby key (enterMode .standby .none) s
  | 5 => busRequest .active key (enterMode .active .none) s
  | 6 => busRequest .limp key id s
  | _ => busRequest .safe key (enterMode .safe .none) s

/-- BRGERRCNT_CLR: COUNT starts anew; a repeat in the same cycle counts after it (R20). -/
def brgClear (again : Bool) (s : State) : State := s.put F.SYS_BRGERRCNT_COUNT again.toNat

/-- BRGERRCNT_CLR -/
def execBrgerrcntClr (repeatSameCycle : Bool) (s : State) : Out :=
  .next (brgClear (repeatSameCycle || s.freshIn F.SYS_BRGERRCNT_COUNT) s)

/-- SYS, CLK, PWR -/
def sysWrite (a : Nat) (v : Word) (s : State) : State :=
  if a = R.SYS_MODEREQ then modeReqWrite v s
  else if a = R.SYS_BRGERRCNT then (if bitOf v 31 then brgClear (s.freshIn F.SYS_BRGERRCNT_COUNT) s else s)
  else if a = R.CLK_GATE then gateWrite v s
  else if a = R.PWR_DOMCTL then domctlWrite v s
  else if a = R.PWR_OFFSTAT then offStatAfter v (store a v s)
  else store a v s

/-- PRS -/
def prsWrite (a : Nat) (v : Word) (s : State) : State :=
  if a = R.PRS_CTL then
    let s := prsRunWrite (bitOf v 0) s
    if bitOf v 1 then monClear s else s
  else if a = R.PRS_SWTRIG then swTrig (bitsOf v 7 0) s
  else if a = R.PRS_NEXCCNT then (if bitOf v 31 then s.put F.PRS_NEXCCNT_COUNT 0 else s)
  else if a = R.PRS_WCOLL then (if bitOf v 31 then s.put F.PRS_WCOLL_COUNT 0 else s)
  else if 0x40050200 ≤ a ∧ a < 0x40050300 then settle (store a v s)
  else if 0x40050300 ≤ a ∧ a < 0x40050400 then
    let s := store a v s
    if bitOf v 25 then s.put (F.PRS_FLOWST_OVRCNT ((a - 0x40050300) / 4)) 0 else s
  else store a v s

/-- A write of PWM.GCFGn: the other fields, then EN. CHOP and SYNCOEN are reserved in G0–G6. -/
def gcfgWrite (g : Nat) (v : Word) (s : State) : State :=
  let was := s.flag (F.PWM_GCFG_EN g)
  let s := store (R.PWM_GCFG g) (if g = 7 then v else putBits v 27 26 0) s
  if bitOf v 31 && !was then groupEnable g s else if was && !bitOf v 31 then groupDisable g s else s

/-- PWM -/
def pwmWrite (a : Nat) (v : Word) (s : State) : State :=
  let d := a - 0x40060000
  let s := if d < 0x200 ∨ 0x400 ≤ d ∧ d < 0x580 then noteOld a s else s
  if d < 0x200 ∧ d % 0x40 = 0 then gcfgWrite (d / 0x40) v s
  else if 0x400 ≤ d ∧ d < 0x580 ∧ d % 16 = 0 then dutyWrite ((d - 0x400) / 16) v s
  else if 0x800 ≤ d ∧ d < 0x818 then fltcfgWrite ((d - 0x800) / 4) v s
  else if a = R.PWM_TRIP then tripClear (bitsOf v 5 0) s
  else if 0x830 ≤ d ∧ d < 0x848 then (if bitOf v 31 then fltcntClear ((d - 0x830) / 4) s else s)
  else if a = R.PWM_LEADGRP then leadgrpWrite v s
  else store a v s

/-- A feedback port's register at offset `o`. -/
def fbPortWrite (n o a : Nat) (v : Word) (s : State) : State :=
  match o with
  | 0x00 =>
    let old := s.reg a
    let s := fbkCfgAfter n old (store a v s)
    if bitOf v 27 then fbReturn n s else s
  | 0x08 => cntWrite n v s
  | 0x0C => mcntWrite n v s
  | 0x10 => qcntWrite n v s
  | 0x2C => if bitOf v 31 then evcntClear n s else s
  | 0x30 => settleFbk n (store a v s)
  | 0x34 =>
    if 2 ≤ n then s
    else
      let s := store a (putBits v 0 0 (s.get (F.FBK_IDX_ARM n))) s
      if bitOf v 0 then idxArm n s else s.put (F.FBK_IDX_ARM n) 0
  | 0x38 => if 2 ≤ n then s else store a v s
  | 0x50 => seedAngle n v s
  | 0x54 => seedCommit n v s
  | _ => store a v s

/-- FBK -/
def fbkWrite (a : Nat) (v : Word) (s : State) : State :=
  let d := a - 0x40070000
  if d < 0x800 then settleFbk (d / 0x100) (fbPortWrite (d / 0x100) (d % 0x100) a v s)
  else if 0xA00 ≤ d ∧ d % 0x20 = 0x14 then (if bitOf v 0 then s.setReg (R.FBK_SNTERR ((d - 0xA00) / 0x20)) 0 else s)
  else
    let s := store a v s
    if d < 0x840 ∧ d % 16 = 0 ∧ bitOf (s.reg a) 31 = false then wheelOff ((d - 0x800) / 16) s
    else if 0xA00 ≤ d ∧ d < 0xA80 ∧ d % 0x20 = 0 ∧ bitOf (s.reg a) 31 = false then sentOff ((d - 0xA00) / 0x20) s
    else s

/-- The KRing registers that take writes only while EN = 0 (R302). -/
def krgConfig (a : Nat) : Bool :=
  a == R.KRG_CYCLEN || a == R.KRG_SYNCCFG || a == R.KRG_NITOFS || a == R.KRG_GMARGIN || a == R.KRG_SESS
    || decide (0x40081000 ≤ a)

/-- KRG -/
def krgWrite (a : Nat) (v : Word) (s : State) : State :=
  let d := a - 0x40080000
  if a = R.KRG_CTL then krgCtlWrite v s
  else if a = R.KRG_VOTE then voteAfter s v (store a v s)
  else if 0x24 ≤ d ∧ d < 0x44 then keyWrite ((d - 0x24) / 16) ((d - 0x24) / 4 % 4) v s
  else if a = R.KRG_CNTCLR then (if bitOf v 0 then krgCntClear s else s)
  else if krgConfig a && s.flag F.KRG_CTL_EN then s
  else if 0x80 ≤ d ∧ d < 0xC0 ∧ d % 16 = 0 ∧ s.mode ≠ .service then store a (putBits v 30 28 (bitsOf (s.reg a) 30 28)) s
  else store a v s

/-- The CAN registers that take writes only in the configuration state (R301). -/
def canConfig (o : Nat) : Bool :=
  o == 0x04 || o == 0x08 || o == 0x0C || o == 0x18 || o == 0x1C || o == 0x2C || decide (0x40 ≤ o)

/-- A write of a bit-timing register with its jump width at `hi`, which may not exceed the segment at `[seg + w:seg]` of the same
write where that is accepted, else of the register. -/
def timingWrite (a : Nat) (v : Word) (w : Nat) (s : State) : State :=
  let old := bitsOf (s.reg a) w 0
  let s := store a v s
  if bitsOf (s.reg a) (8 + w) 8 < bitsOf (s.reg a) w 0 then s.setReg a (putBits (s.reg a) w 0 old) else s

/-- CAN -/
def canWrite (a : Nat) (v : Word) (s : State) : State :=
  let c := (a - 0x40090000) / 0x1000
  let o := (a - 0x40090000) % 0x1000
  if o = 0x00 then mctlWrite c v s
  else if canConfig o && !s.flag (F.CAN_MCTL_CONF c) then s
  else match o with
    | 0x04 => timingWrite a v 6 s
    | 0x08 => timingWrite a v 4 s
    | 0x24 => rxAck c v s
    | 0x30 => txGo c v s
    | 0x3C => txAbort c v s
    | _ => store a v s

/-- LNK and CFG -/
def lnkWrite (a : Nat) (v : Word) (s : State) : State :=
  if a = R.LNK_CTL then
    let s := store a v s
    let s := settleRlead s
    if bitOf v 29 then tokenRelease s else s
  else if a = R.LNK_DCI then settleDci (store a v s)
  else if a = R.CFG_CTL then
    let s := store a v s
    if bitOf v 30 then localFlip s else s
  else if a = R.CFG_SHADDR then shaddrWrite v s
  else store a v s

/-- BST -/
def bstWrite (a : Nat) (v : Word) (s : State) : State :=
  if a = R.BST_CTL then
    let s := store a v s
    let s := if bitOf v 30 then testCut 1 s else s
    if bitOf v 31 then bistStart s else s
  else if a = R.BST_ACTL then
    let s := store a v s
    let s := if bitOf v 30 then analogCut 1 s else s
    if bitOf v 31 then analogStart s else s
  else store a v s

/-- MGN: WORST is the lowest window since EN rose. -/
def mgnWrite (a : Nat) (v : Word) (s : State) : State :=
  if a = R.MGN_CTL then
    let was := s.flag F.MGN_CTL_EN
    let s := store a v s
    if !was && bitOf v 31 then s.put F.MGN_SLACK_WORST 0x7FFF else s
  else store a v s

/-- INJ -/
def injWrite (src a : Nat) (v : Word) (s : State) : State :=
  if a = R.INJ_KEY then injKeyWrite v s.now s
  else if a = R.INJ_CTL then injCtlWrite src v s.now s
  else injOther (store a v s)

/-- EVC -/
def evcWrite (a : Nat) (v : Word) (s : State) : State :=
  if a = R.EVC_CLR then evcClear v s else evcSettle (store a v s)

/-- LUP: a change of a buffer's base, sample event or channels stops its capture (R180). -/
def lupWrite (a : Nat) (v : Word) (s : State) : State :=
  let b := (a - 0x40100000) / 0x40
  let o := (a - 0x40100000) % 0x40
  if o = 0 then
    let s := store a v s
    let s := if bitOf v 29 then lupStop b s else s
    let s := if bitOf v 31 then lupStart b s else s
    if bitOf v 30 then lupArm b s else s
  else if o = 0x04 ∨ o = 0x10 ∨ 0x20 ≤ o then
    let old := s.reg a
    let v := if o = 0x04 ∧ bitOf v 31 = false ∧ 32 ≤ bitsOf v 5 0 then putBits v 5 0 (bitsOf old 5 0) else v
    let s := store a v s
    if s.reg a = old then s else lupStop b s
  else store a v s

/-- CPT and ICU: EDGE of a software source stays 1, and a write of 1 to PEND of a level source is ignored (R99). -/
def coreWrite (a : Nat) (v : Word) (s : State) : State :=
  if a = R.ICU_SWSET then swSet (bitsOf v 27 0) s
  else if 0xE0002000 ≤ a ∧ a < 0xE0002190 ∧ icuEdge s ((a - 0xE0002000) / 4) = false then store a (putBits v 31 31 0) s
  else if 0xE0002190 ≤ a ∧ a < 0xE0002200 then (store a v s).put (F.ICU_SRC_EDGE ((a - 0xE0002000) / 4)) 1
  else store a v s

/-- An accepted write to a register of the D-die: a bus error, and the state. -/
def dWrite (who : Requester) (a : Nat) (v : Word) (s : State) : Bool × State :=
  if hasAcc a .rws then rwsWrite a v s
  else if 0x40030220 ≤ a ∧ a < 0x40030240 then
    let b := (a - 0x40030220) / 4
    if bitOf v 0 then (let r := releaseWrite (reqCode who) b s; (!r.1, r.2)) else (false, s)
  else (false, match a / 0x10000 with
    | 0x4000 => sysWrite a v s
    | 0x4001 => sysWrite a v s
    | 0x4002 => sysWrite a v s
    | 0x4005 => prsWrite a v s
    | 0x4006 => pwmWrite a v s
    | 0x4007 => fbkWrite a v s
    | 0x4008 => krgWrite a v s
    | 0x4009 => canWrite a v s
    | 0x400A => lnkWrite a v s
    | 0x400B => lnkWrite a v s
    | 0x400C => bstWrite a v s
    | 0x400D => if a = R.MGN_APPROVE then approveWrite (logSource who) v s else mgnWrite a v s
    | 0x400E => injWrite (logSource who) a v s
    | 0x400F => evcWrite a v s
    | 0x4010 => lupWrite a v s
    | 0xE000 => coreWrite a v s
    | _ => store a v s)

/-- The state that the write leaves. -/
def dWritten (who : Requester) (a : Nat) (v : Word) (s : State) : State := (dWrite who a v s).2

/-! ### Commands that write one register (R17–R19, R58, R76, R100) -/

/-- A write that a command names crosses the bridge: it finds every earlier write in effect (R18), and no block while the bridge is
down (R76). -/
def crossing (who : Requester) (a : Nat) (act : State → State) (s : State) : State :=
  access (reqCode who) a (fun t => act (bridgeDrain t)) s

/-- The same for a requester that R58 and R100 may keep out. -/
def crossingBy (who : Requester) (a : Nat) (act : State → State) (s : State) : State :=
  if mayWrite s who a then crossing who a act s else s

/-- RWP_WRITE: a safety parameter has its own rule. -/
def execRwpWrite (who : Requester) (addr v : Word) (at_ : Nat) (s : State) : Out :=
  let s := advanceTo at_ s
  let a := addr.toNat
  if 0x70000800 ≤ a ∧ a < 0x70000C00 ∧ a % 4 = 0 then
    .next (crossingBy who a (spbWrite who ((a - 0x70000800) / 4) v) s)
  else if a = R.MGN_APPROVE then .next (if mayWrite s who a then approveWrite (logSource who) v s else s)
  else if hasAcc a .rwp then .next (crossingBy who a (rwpWrite (logSource who) a v) s)
  else .next s

/-- MGN_APPROVE -/
def execMgnApprove (who : Requester) (v : Word) (at_ : Nat) (s : State) : Out :=
  let s := advanceTo at_ s
  .next (if mayWrite s who R.MGN_APPROVE then approveWrite (logSource who) v s else s)

/-- SPB_WRITE -/
def execSpbWrite (who : Requester) (idx : Fin 256) (v : Word) (at_ : Nat) (s : State) : Out :=
  .next (crossingBy who (R.HWM_SPB idx.val) (spbWrite who idx.val v) (advanceTo at_ s))

/-- PASSWORD_WORD: from the CP a write of HWM.PWENT, from the service port an UNLOCK (R56, R58). -/
def execPasswordWord (who : Requester) (w : BitVec 16) (at_ : Nat) (s : State) : Out :=
  let s := advanceTo at_ s
  let ok := who == .cp || (who == .spp && sppOn s && sppCol s != .fail)
  .next (if ok then crossing who R.HWM_PWENT (passwordEntry who w at_) s else s)

/-- PASSWORD_LOCK -/
def execPasswordLock (who : Requester) (s : State) : Out :=
  .next (crossingBy who R.HWM_PWCTL (pwLock (logSource who) 0) s)

/-- RELEASE_GROUP -/
def execReleaseGroup (mask : BitVec 8) (s : State) : Out := .next (crossing .cp R.HWM_RXREL (releaseGroups mask.toNat) s)

/-- RELEASE_HALT -/
def execReleaseHalt (s : State) : Out := .next (crossing .cp R.HWM_RXREL releaseHaltNow s)

/-- DETCNT_CLR -/
def execDetcntClr (s : State) : Out := .next (crossing .cp R.HWM_DETCNT (fun t => t.put F.HWM_DETCNT_COUNT 0) s)

/-- PIS_OPEN_REQUEST -/
def execPisOpenRequest (mask : BitVec 8) (s : State) : Out :=
  .next (crossing .cp R.HWM_PISCTL (forAll (bitsIn 8 mask.toNat) pisRequest) s)

/-- PIS_CLOSE_REQUEST -/
def execPisCloseRequest (mask : BitVec 8) (s : State) : Out :=
  .next (crossing .cp R.HWM_PISCTL (forAll (bitsIn 8 mask.toNat) pisClose) s)

/-- GDR_EVT_CLR -/
def execGdrEvtClr (s : State) : Out := .next (crossing .cp R.GDR_EVT (fun t => t.put F.GDR_EVT_COUNT 0) s)

/-- ADC_STAT_CLR -/
def execAdcStatClr (k : Fin 8) (s : State) : Out := .next (crossing .cp (R.ADC_STAT k.val) (adcStatClear k.val) s)

/-- ZX_START -/
def execZxStart (k : Fin 8) (s : State) : Out := .next (crossing .cp (R.ADC_ZXCFG k.val) (zxStart k.val) s)

/-- Safety parameter writes on their way. -/
def spbUnderWay (s : State) : Nat :=
  (s.brg.queue.filter (fun q => decide (0x70000804 ≤ q.addr ∧ q.addr < 0x70000C00))).length

/-- A write is accepted on the D-die bus for the A-die: a safety parameter that would find its commit queue full ends with a bus
error (R357). -/
def bridgeWrite (who : Requester) (a : Nat) (v : Word) (s : State) : Bool × State :=
  if 0x70000804 ≤ a ∧ a < 0x70000C00 ∧ spbOpen s = true ∧ 8 ≤ s.hwm.commits.length + spbUnderWay s then
    (true, s.put F.HWM_SPBSTAT_FULL 1)
  else
    (false, { s with brg := { s.brg with queue := s.brg.queue ++ [{ who := who, addr := a, val := v, time := s.now }] } })

/-- A frame has failed its CRC check: CRCERR, source 93, and a repeat; the third failure is the bridge fault, with the frames on
the way lost and the detector at the HWM. -/
def bridgeFail (s : State) : State :=
  let s := icuEvent 93 (s.put F.SYS_BRGSTAT_CRCERR 1)
  if s.brg.fails < 2 then
    evcCount 0x55 1 ({ s with brg := { s.brg with fails := s.brg.fails + 1 } }.bump F.SYS_BRGERRCNT_COUNT 1)
  else
    let s := (s.put F.SYS_BRGSTAT_BFAULT 1).put F.SYS_BRGSTAT_UP 0
    raise 119 0xFF (analogCut 9 { s with brg := {}, hwm := { s.hwm with rxq := [] } })

/-- BRIDGE_FRAME_RECEIVE. An injection into BRIDGE corrupts the CRC (R384). -/
def execBridgeFrameReceive (crcOk : Bool) (s : State) : Out :=
  if s.flag F.SYS_BRGSTAT_UP then
    let forced := (injDue s 119).isSome
    let s := injSpend 119 s
    if crcOk && !forced then .next { s with brg := { s.brg with fails := 0 } } else .next (bridgeFail s)
  else .next s

/-! ### Accesses (R76, R100, R390) -/

/-- What an access gives: a bus error, a wait for a lock (R112), the data of a read, and the state. -/
structure Bus where
  err : Bool := false
  stall : Bool := false
  data : Word := 0
  st : State

/-- The rows of R100. -/
inductive Region where
  | rom | tcm | flash | sram | nodes | operands | dreg | areg | core | none
deriving DecidableEq, Repr

/-- The row that an address matches. -/
def regionOf (a : Nat) : Region :=
  if a < 0x10000 then .rom
  else if 0x01000000 ≤ a ∧ a < 0x01040000 then .tcm
  else if 0x01400000 ≤ a ∧ a < 0x01440000 then .tcm
  else if 0x10000000 ≤ a ∧ a < 0x11000000 then .flash
  else if 0x20000000 ≤ a ∧ a < 0x20400000 then .sram
  else if 0x30000000 ≤ a ∧ a < 0x30040000 then .nodes
  else if 0x30040000 ≤ a ∧ a < 0x30050000 then .operands
  else if 0x40000000 ≤ a ∧ a < 0x40120000 then .dreg
  else if aDie a then .areg
  else if 0xE0000000 ≤ a ∧ a < 0xE0010000 then .core
  else .none

/-- May a requester reach a row (R100)? -/
def reaches (who : Requester) (r : Region) (a : Nat) : Bool :=
  match r with
  | .sram => true
  | .core => who == .cp
  | .none => false
  | .dreg => who == .cp || who == .spp || (who == .kringDma && a / 0x10000 == 0x4008) || (who == .canDma && a / 0x10000 == 0x4009)
      || (who == .loupe && a / 0x10000 == 0x4010)
  | .operands => who != .kringDma && who != .canDma && who != .loupe
  | _ => who == .cp || who == .spp

/-- An access that ends in a bus error. -/
def busErr (s : State) : Bus := { err := true, st := s }

/-- Bytes as a word. -/
def bytesAt (s : State) (a n : Nat) : Word := leWord (s.bytes a n)

/-- A read of `n` bytes of coded memory at physical place `p`, bus address `a`. -/
def memRead (p a n : Nat) (s : State) : Bus :=
  let q := eccRead p a s
  if q.1 then busErr q.2 else { data := bytesAt q.2 p n, st := q.2 }

/-- A write of bytes to coded memory. -/
def memWrite (p a : Nat) (l : List Byte) (s : State) : Bus :=
  let q := eccWritePart p a s
  if q.1 then { st := q.2.setBytes p l } else busErr q.2

/-- An SRAM access under the locks (R112): it goes on, is refused, or waits. -/
def underLock (who : Requester) (a : Nat) (s : State) (go : Bus) : Bus :=
  let b := bankOf a
  let rq := reqCode who
  if lockOpen s rq b then go
  else if holdsAbove s rq b then busErr (lockRefuse rq b s)
  else { stall := true, st := s }

/-- What a register read changes (R391). -/
def readEffect (a : Nat) (s : State) : State :=
  if 0x400F0200 ≤ a ∧ a < 0x400F0300 ∧ (a - 0x400F0200) % 8 = 0 then evcLatch ((a - 0x400F0200) / 8) s
  else if 0x40080084 ≤ a ∧ a < 0x400800C4 ∧ (a - 0x40080084) % 16 = 0 then portstatRead ((a - 0x40080084) / 16) s
  else s

/-- A read of a D-die register; one of ARB.ACQb is an acquisition (R110). -/
def dRead (who : Requester) (a : Nat) (s : State) : Bus :=
  if 0x40030200 ≤ a ∧ a < 0x40030220 then
    let b := (a - 0x40030200) / 4
    let rq := reqCode who
    let s := acqNow rq b (acqCycle b s)
    { err := (s.bank b).err == some rq, data := mget (fun _ => 0) (s.bank b).acq rq, st := s }
  else { data := regValue s a, st := readEffect a s }

/-- Is it an aligned 32-bit access to a register that exists (R390)? -/
def regAccess (a n : Nat) : Bool := n == 4 && a % 4 == 0 && (Regs.spec a).isSome

/-- Is the address in always-on memory (R85)? -/
def inAon (a : Nat) : Bool := decide (0x60001000 ≤ a ∧ a < 0x60002000)

/-- A read of `n` bytes at `a` by a requester. -/
def busRead (who : Requester) (a n : Nat) (s : State) : Bus :=
  let r := regionOf a
  if reaches who r a = false then busErr s
  else match r with
    | .rom => { data := leWord ((List.range n).map (fun i => Config.romByte (a + i))), st := s }
    | .tcm => memRead a a n s
    | .flash => memRead a a n s
    | .sram => underLock who a s (memRead a a n s)
    | .nodes => memRead (nodePlace s a) a n s
    | .operands => memRead a a n s
    | .dreg =>
      if blockOff s a then busErr (offAccess (reqCode who) a s)
      else if regAccess a n then dRead who a s else busErr s
    | .areg =>
      if blockOff s a then busErr (offAccess (reqCode who) a s)
      else
        let s := bridgeDrain s
        if inAon a then memRead a a n s
        else if regAccess a n then { data := regValue s a, st := s } else busErr s
    | .core => if regAccess a n then { data := regValue s a, st := s } else busErr s
    | .none => busErr s

/-- A writer of the operand store as R125 orders it: facet 0–7, or 8 for the bus. -/
def writerCode : Requester → Nat
  | .facet n => n.val
  | _ => 8

/-- A write of the low `n` bytes of a word at `a` by a requester. -/
def busWrite (who : Requester) (a n : Nat) (v : Word) (s : State) : Bus :=
  let r := regionOf a
  let l := (leBytes v).take n
  let reg (q : Bool × State) : Bus := { err := q.1, st := q.2 }
  if reaches who r a = false then busErr s
  else match r with
    | .rom => busErr s
    | .flash => busErr s
    | .tcm => memWrite a a l s
    | .sram => underLock who a s (memWrite a a l s)
    | .nodes => reg (nodeWrite a l s)
    | .operands => memWrite a a l (noteWrite s.now (writerCode who) ((a - 0x30040000) / 4) s)
    | .dreg =>
      if blockOff s a then busErr (offAccess (reqCode who) a s)
      else if regAccess a n then reg (dWrite who a v s) else busErr s
    | .areg =>
      if blockOff s a then busErr (offAccess (reqCode who) a s)
      else if inAon a then { st := s }
      else if regAccess a n then reg (bridgeWrite who a v s) else busErr s
    | .core => if regAccess a n then reg (dWrite who a v s) else busErr s
    | .none => busErr s

/-- The state that the write leaves, bus error or not. -/
def busWritten (who : Requester) (a n : Nat) (v : Word) (s : State) : State := (busWrite who a n v s).st

/-- May a requester make a write at all: the service port only as R58 lets it. -/
def sppOpen (who : Requester) (a : Nat) (s : State) : Bool := who != .spp || mayWrite s who a

/-- REGISTER_WRITE: a 32-bit write on the bus. -/
def execRegisterWrite (who : Requester) (addr v : Word) (at_ : Nat) (s : State) : Out :=
  let s := advanceTo at_ s
  .next (if sppOpen who addr.toNat s then busWritten who addr.toNat 4 v s else s)

end Sys2Proof.Machine
end

