-- ==== Sys2Proof/Machine/Spp.lean ====
section
/-! DEFINITION. The service port (R50–R62): command frames, the commands, the response and its GET. -/

namespace Sys2Proof.Machine

/-- Change the port's record. -/
def State.updSpp (s : State) (f : Spp → Spp) : State := { s with spp := f s.spp }

/-! ### Acceptance by mode (R58) -/

/-- Is the word in a status range? -/
def statusRange (a : Nat) : Bool :=
  decide (0x40000000 ≤ a ∧ a < 0x40000100) || decide (0x40040000 ≤ a ∧ a < 0x40040100)
    || decide (0x400F0000 ≤ a ∧ a < 0x40100000) || decide (0x40110000 ≤ a ∧ a < 0x40110100)
    || decide (0x70000000 ≤ a ∧ a < 0x70000100)

/-- The words that a frame addresses. -/
def sppWords (fr : SppFrame) : List Nat := (List.range fr.len.toNat).map (fun i => fr.addr.toNat + 4 * i)

/-- RD is accepted. -/
def rdAllowed (s : State) (fr : SppFrame) : Bool := sppCol s != .drive || (sppWords fr).all statusRange

/-- WR is accepted. -/
def wrAllowed (s : State) (fr : SppFrame) : Bool := sppWrites s (sppWords fr)

/-! ### Frames and responses (R52–R55) -/

/-- The bytes of a frame before its CRC. -/
def frameBody (op : Byte) (fr : SppFrame) : List Byte :=
  [op, fr.seq, fr.len.extractLsb' 8 8, fr.len.extractLsb' 0 8] ++ beBytes fr.addr ++ fr.data.flatMap beBytes

/-- A command is executing; its response is prepared. RESULT 0x04 counts in REFCNT (R62). -/
def respond (fr : SppFrame) (result : Nat) (data : List Word) (s : State) : State :=
  let s := if result = 4 then s.bump F.SPP_ERRCNT_REFCNT 1 else s
  (s.put F.SPP_STAT_BUSY 1).updSpp (fun p => { p with staged := some { seq := fr.seq.toNat, result := result, data := data } })

/-- How many bytes a frame has. -/
def sppCount (fr : SppFrame) : Nat :=
  match fr.raw with
  | none => 10 + 4 * fr.data.length
  | some l => 1 + l.length

/-- Is the frame's CRC wrong: its last two bytes against the CRC-16 of those before them (R52)? -/
def frameCrcBad (op : Byte) (fr : SppFrame) : Bool :=
  match fr.raw with
  | none => crc16 (frameBody op fr) != fr.crc
  | some l =>
    let b := op :: l
    let c := crc16 (b.take (b.length - 2))
    b.drop (b.length - 2) != [c.extractLsb' 8 8, c.extractLsb' 0 8]

/-- Is the frame's length not 10 + 4 × LEN bytes (R52)? -/
def frameLenBad (fr : SppFrame) : Bool :=
  match fr.raw with
  | none => fr.data.length != fr.len.toNat
  | some _ => true

/-- The SEQ byte of a frame; one too short to have it leaves it open. -/
def frameSeq (s : State) (fr : SppFrame) : Byte :=
  match fr.raw with
  | none => fr.seq
  | some l => l.headD (Config.getSeq s.draws)

/-- The frame as a command that is not executed answers it. -/
def badFrame (fr : SppFrame) (result : Nat) (s : State) : State :=
  respond { fr with seq := frameSeq s fr } result [] { s with draws := s.draws + 1 }

/-- A command frame arrives: discarded while BUSY; one that finds a response unfetched sets LOSTRESP and will replace it; a frame with
a wrong CRC or length is not executed; a good one raises source 92 and is executed. Where both are wrong RESULT 0x01 is answered, and
a frame that comes while BUSY counts in REFCNT alone, whatever its CRC (DESIGN CHOICE, log 88). -/
def sppFrame (op : Byte) (fr : SppFrame) (act : State → State) (s : State) : State :=
  if sppOn s = false then s
  else
    let stat : Byte := (regValue s R.SPP_STAT).extractLsb' 0 8
    let s := s.updSpp (fun p => { p with out := List.replicate (sppCount fr) stat })
    if s.flag F.SPP_STAT_BUSY then (s.put F.SPP_STAT_BUSYREJ 1).bump F.SPP_ERRCNT_REFCNT 1
    else
      let s := if s.spp.resp.isSome then s.put F.SPP_STAT_LOSTRESP 1 else s
      if frameCrcBad op fr then badFrame fr 1 ((s.put F.SPP_STAT_CRCERR 1).bump F.SPP_ERRCNT_CRCCNT 1)
      else if frameLenBad fr then badFrame fr 2 s
      else act (icuEvent 92 s)

/-- A command with the LEN and ADDR that it wants, in a mode that accepts it: a wrong form is answered before the mode, and the mode
before what the command itself finds (DESIGN CHOICE, log 88). -/
def sppGuard (fr : SppFrame) (shape allowed : Bool) (act : State → State) (s : State) : State :=
  if !shape then respond fr 2 [] s else if !allowed then respond fr 4 [] s else act s

/-- LEN is 1–256 and ADDR word-aligned. -/
def blockShape (fr : SppFrame) : Bool := decide (1 ≤ fr.len.toNat ∧ fr.len.toNat ≤ 256) && fr.addr.toNat % 4 == 0

/-- The command carries no data. -/
def noData (fr : SppFrame) : Bool := fr.len == 0

/-! ### RD and WR (R56, R112) -/

/-- Does an addressed word lie in a bank that another requester holds locked, so that the access waits? -/
def sppBlocked (s : State) (fr : SppFrame) : Bool :=
  (sppWords fr).any (fun a => inSram a && !lockOpen s 12 (bankOf a) && !holdsAbove s 12 (bankOf a))

/-- Read words in order, up to a bus error. -/
def readWords : List Nat → State → Option (List Word) × State
  | [], s => (some [], s)
  | a :: l, s =>
    let r := busRead .spp a 4 s
    if r.err then (none, r.st)
    else
      let q := readWords l r.st
      (q.1.map (fun ws => r.data :: ws), q.2)

/-- Write words in order, each in a cycle of its own, up to a bus error. -/
def writeWords : List (Nat × Word) → State → Bool × State
  | [], s => (true, s)
  | e :: l, s =>
    let r := busWrite .spp e.1 4 e.2 s
    if r.err then (false, r.st) else writeWords l (newCycle r.st)

/-- The transfer of an RD or WR command. -/
def sppTransfer (wr : Bool) (fr : SppFrame) (s : State) : State :=
  if wr then
    let q := writeWords ((sppWords fr).zip fr.data) s
    respond fr (if q.1 then 0 else 5) [] q.2
  else
    let q := readWords (sppWords fr) s
    match q.1 with
    | some l => respond fr 0 l q.2
    | none => respond fr 5 [] q.2

/-- The transfer, or its wait for a lock. -/
def sppAccess (wr : Bool) (fr : SppFrame) (s : State) : State :=
  if sppBlocked s fr then (s.put F.SPP_STAT_BUSY 1).updSpp (fun p => { p with wait := some (wr, fr) })
  else sppTransfer wr fr s

/-- SPP_RD -/
def execSppRd (fr : SppFrame) (s : State) : Out :=
  .next (sppFrame 0x01 fr (fun t => sppGuard fr (blockShape fr) (rdAllowed t fr) (sppAccess false fr) t) s)

/-- SPP_WR -/
def execSppWr (fr : SppFrame) (at_ : Nat) (s : State) : Out :=
  .next (sppFrame 0x02 fr (fun t => sppGuard fr (blockShape fr) (wrAllowed t fr) (sppAccess true fr) t) (advanceTo at_ s))

/-! ### Flash (R48, R57) -/

/-- FERASE and FPROG are refused in the areas that the device maintains. -/
def protectedFlash (a : Nat) : Bool := decide (0x10C20000 ≤ a ∧ a < 0x10C40000)

/-- Erase a sector; its words hold no error any more. -/
def sectorErase (a : Nat) (s : State) : State :=
  let s := eraseSector a s
  { s with ecc := mkeep (fun w => !decide (a ≤ w ∧ w < a + 0x10000)) s.ecc }

/-- `n` bytes of flash after an operation that has failed: open, and none of their words holds an error. -/
def flashFailed (a n : Nat) (s : State) : State :=
  let k := s.draws
  let s := { s with draws := s.draws + 1, ecc := mkeep (fun w => !decide (a ≤ w ∧ w < a + n)) s.ecc }
  s.setBytes a ((List.range n).map (fun i => Config.flashBad k (a + i)))

/-- SPP_FERASE -/
def execSppFerase (fr : SppFrame) (fail : Bool) (s : State) : Out :=
  let a := fr.addr.toNat
  .next (sppFrame 0x03 fr (fun t => sppGuard fr (noData fr && a % 0x10000 == 0) (t.mode == .service && inFlash a)
    (fun u => if protectedFlash a then respond fr 6 [] u
      else if fail then respond fr 7 [] (flashFailed a 0x10000 u)
      else respond fr 0 [] (sectorErase a u)) t) s)

/-- FPROG's words lie inside one page. -/
def onePage (fr : SppFrame) : Bool := fr.addr.toNat / 0x400 == (fr.addr.toNat + 4 * fr.len.toNat - 1) / 0x400

/-- Program words that are erased, all of them or none. -/
def flashProgram (fr : SppFrame) (fail : Bool) (s : State) : State :=
  let a := fr.addr.toNat
  if protectedFlash a then respond fr 6 [] s
  else if (sppWords fr).all (fun w => s.word w == 0xFFFFFFFF) then
    (if fail then respond fr 7 [] (flashFailed a (4 * fr.len.toNat) s) else respond fr 0 [] (s.setWords a fr.data))
  else respond fr 7 [] s

/-- SPP_FPROG -/
def execSppFprog (fr : SppFrame) (fail : Bool) (s : State) : Out :=
  .next (sppFrame 0x04 fr (fun t =>
    sppGuard fr (blockShape fr && onePage fr) (t.mode == .service && inFlash fr.addr.toNat) (flashProgram fr fail) t) s)

/-- Read the coded words of a range: is one of them uncorrectable? -/
def rangeRead (a n : Nat) (s : State) : Bool × State :=
  let l := (List.range ((a + n + 7) / 8 - a / 8)).map (fun i => 8 * (a / 8 + i))
  let bad := l.filter (fun w => s.errs w != 0 || (injDue s 128).isSome)
  eccReadAll s bad

/-- The CRC-32 over a range of flash. -/
def flashCrc (fr : SppFrame) (n : Nat) (s : State) : State :=
  let a := fr.addr.toNat
  let q := rangeRead a n s
  if q.1 then respond fr 5 [] q.2 else respond fr 0 [crc32 (q.2.bytes a n)] q.2

/-- SPP_FCRC -/
def execSppFcrc (fr : SppFrame) (s : State) : Out :=
  let a := fr.addr.toNat
  let n := (fr.data.headD 0).toNat
  .next (sppFrame 0x05 fr (fun t =>
    sppGuard fr (fr.len == 1 && a % 4 == 0) ((sppCol t == .boot || sppCol t == .service) && inFlash a && decide (a + n ≤ 0x11000000))
      (flashCrc fr n) t) s)

/-! ### UNLOCK, SVCREQ, RESET, NOP (R31, R56) -/

/-- A password word goes to the HWM, behind the writes on their way there (R17, R18), unless the bridge is stopped. -/
def sppUnlockWord (fr : SppFrame) (t : Nat) (s : State) : State :=
  if s.flag F.SYS_BRGSTAT_UP then respond fr 0 [] (passwordEntry .spp (fr.addr.extractLsb' 0 16) t (bridgeDrain s))
  else respond fr 5 [] (offAccess 12 R.HWM_PWENT s)

/-- SPP_UNLOCK -/
def execSppUnlock (fr : SppFrame) (at_ : Nat) (s : State) : Out :=
  .next (sppFrame 0x06 fr (fun t => sppGuard fr (noData fr) (sppCol t != .fail) (sppUnlockWord fr at_) t) (advanceTo at_ s))

/-- The row of R32 for SVCREQ. -/
def svcRow (s : State) : Bool :=
  s.pwr.entry == 0 && (match s.mode with
    | .boot => s.sub == .listen || s.sub == .firmware
    | .standby => true
    | _ => false)

/-- A request of the port for a row of R32, in its cycle (R31, R33): one that is refused answers RESULT 0x04. -/
def sppRequest (fr : SppFrame) (cyc : ReqCycle) (row : State → Bool) (take : State → State) (s : State) : State :=
  inCycle cyc (fun code t => respond fr 4 [] (refuse code t)) (fun t => if row t then take t else respond fr 4 [] (refuse 2 t)) s

/-- SERVICE is entered on the port's request: in the LISTEN window BOOTSTAT.SVCREQ records it. -/
def svcTake (fr : SppFrame) (s : State) : State :=
  let s := if s.mode = .boot ∧ s.sub = .listen then s.put F.SYS_BOOTSTAT_SVCREQ 1 else s
  respond fr 0 [] (enterService s)

/-- SPP_SVCREQ -/
def execSppSvcreq (fr : SppFrame) (cyc : ReqCycle) (s : State) : Out :=
  .next (sppFrame 0x07 fr (fun t =>
    sppGuard fr (noData fr) (sppCol t == .boot || sppCol t == .ring) (sppRequest fr cyc svcRow (svcTake fr)) t) s)

/-- RESET is accepted as a command (R56, R58). -/
def resetAllowed (s : State) (fr : SppFrame) : Bool := fr.addr == 0xC3A5 && sppCol s != .fail && sppCol s != .drive

/-- RESET's row of R32. -/
def resetRow (s : State) : Bool := rowOf s .boot == .taken

/-- A RESET is taken: the port stays busy, without a response, until the device reset. -/
def resetTake (s : State) : State := requestReset .spp (s.put F.SPP_STAT_BUSY 1)

/-- SPP_RESET -/
def execSppReset (fr : SppFrame) (cyc : ReqCycle) (s : State) : Out :=
  .next (sppFrame 0x08 fr (fun t =>
    sppGuard fr (noData fr) (resetAllowed t fr) (sppRequest fr cyc resetRow resetTake) t) s)

/-- SPP_NOP -/
def execSppNop (fr : SppFrame) (s : State) : Out :=
  .next (sppFrame 0x09 fr (sppGuard fr (noData fr) true (respond fr 0 [])) s)

/-- SPP_UNKNOWN_OP: the OP codes that R56 lists are not unknown. -/
def execSppUnknownOp (op : Byte) (fr : SppFrame) (s : State) : Out :=
  if op.toNat ≤ 9 then .next s else .next (sppFrame op fr (respond fr 3 []) s)

/-! ### The response (R53, R55) -/

/-- The response is stored: READY. -/
def responseStore (s : State) : State :=
  match s.spp.staged with
  | none => s
  | some r => ((s.put F.SPP_STAT_READY 1).put F.SPP_STAT_BUSY 0).updSpp (fun p => { p with staged := none, resp := some r })

/-- SPP_RESPONSE_READY. A transfer that has waited for a lock is made first; while it waits there is no response. -/
def execSppResponseReady (s : State) : Out :=
  match s.spp.wait with
  | none => .next (responseStore s)
  | some (wr, fr) =>
    if sppBlocked s fr then .next s
    else .next (responseStore (sppTransfer wr fr (s.updSpp (fun p => { p with wait := none }))))

/-- The bytes of a response on SPP_MISO. -/
def respBytes (seq : Byte) (r : SppResp) : List Byte :=
  let n : BitVec 16 := BitVec.ofNat 16 r.data.length
  let b := [seq, BitVec.ofNat 8 r.result, n.extractLsb' 8 8, n.extractLsb' 0 8] ++ r.data.flatMap beBytes
  let c := crc16 b
  b ++ [c.extractLsb' 8 8, c.extractLsb' 0 8]

/-- SPP_GET: `n` bytes are clocked after byte 0x00; beyond the response they read 0xFF. One that reaches the last CRC bit takes the
response; without a response RESULT 0x08 is answered. -/
def execSppGet (n : Nat) (s : State) : Out :=
  let shown := fun (b : List Byte) => b.take n ++ List.replicate (n - b.length) 0xFF
  if sppOn s = false then .next s
  else match s.spp.resp with
    | some r =>
      let b := respBytes (BitVec.ofNat 8 r.seq) r
      let s := s.updSpp (fun p => { p with out := shown b })
      .next (if b.length ≤ n then (s.put F.SPP_STAT_READY 0).updSpp (fun p => { p with resp := none }) else s)
    | none =>
      let b := respBytes (Config.getSeq s.draws) { seq := 0, result := 8, data := [] }
      .next ({ s with draws := s.draws + 1 }.updSpp (fun p => { p with out := shown b }))

end Sys2Proof.Machine
end

