-- ==== Sys2Proof/Machine/Boot.lean ====
section
/-! DEFINITION. What the boot ROM does when its LISTEN window ends (R45–R49), and the restore engine (R80). -/

namespace Sys2Proof.Machine

/-! ### Reading the flash structures (R48, R49) -/

/-- A directory copy is valid: its magic word, its CRC-32, its ACTSLOT (R45, R49). -/
def dirValid (b : Nat) (s : State) : Bool :=
  s.word b == 0x54484449 && s.word (b + 0x3C) == crc32 (s.bytes b 0x3C) && decide ((s.word (b + 8)).toNat ≤ 1)

/-- A directory copy as the ROM reads it: a word that cannot be read makes it invalid (R102; DEDUCED, log 50). -/
def dirRead (b : Nat) (s : State) : Bool × State :=
  let q := romRead b 0x40 s
  (q.1 && dirValid b q.2, q.2)

/-- The newest valid directory copy: the higher DSEQ; on a tie copy 0 (R45). -/
def newestDir (s : State) : Option Nat × State :=
  let d0 := 0x10000000
  let d1 := 0x10010000
  let a := dirRead d0 s
  let b := dirRead d1 a.2
  let t := b.2
  (if a.1 then (if b.1 && decide ((t.word (d0 + 4)).toNat < (t.word (d1 + 4)).toNat) then some d1 else some d0)
   else if b.1 then some d1 else none, t)

/-- Where a program slot starts (R48). -/
def slotBase (slot : Nat) : Nat := 0x10020000 + 0x300000 * slot

/-- A destination lies wholly inside one TCM. -/
def inTcm (d n : Nat) : Bool :=
  decide (0x01000000 ≤ d ∧ d + n ≤ 0x01040000) || decide (0x01400000 ≤ d ∧ d + n ≤ 0x01440000)

/-- A destination lies wholly outside both TCMs. -/
def outTcm (d n : Nat) : Bool :=
  (decide (d + n ≤ 0x01000000) || decide (0x01040000 ≤ d)) && (decide (d + n ≤ 0x01400000) || decide (0x01440000 ≤ d))

/-- Field `i` of section `k` of the image in a slot: 0 the source offset, 1 the destination, 2 the length. -/
def sectWord (base k i : Nat) (s : State) : Nat := (s.word (base + 0x18 + 12 * k + 4 * i)).toNat

/-- A section lies wholly inside the body, and its destination inside one TCM or outside both (R45, R49). -/
def sectOk (base body k : Nat) (s : State) : Bool :=
  let src := sectWord base k 0 s
  let dst := sectWord base k 1 s
  let n := sectWord base k 2 s
  decide (0x80 ≤ src) && decide (src + n ≤ 0x80 + body) && (inTcm dst n || outTcm dst n)

/-- The checks of image_ok on the header (R45). -/
def headerOk (base : Nat) (s : State) : Bool :=
  let body := (s.word (base + 8)).toNat
  let n := (s.word (base + 0x10)).toNat
  s.word base == 0x5448494D && s.word (base + 0x7C) == crc32 (s.bytes base 0x7C)
    && bitsOf (s.word (base + 4)) 31 16 == s.get F.SYS_DEVID_PART
    && decide (body ≤ 0x300000 - 128) && decide (n ≤ 8)
    && (List.range n).all (fun k => sectOk base body k s)

/-- image_ok (R45): the header, then the body CRC-32. A word that cannot be read fails its check (DEDUCED, log 50). -/
def imageOk (slot : Nat) (s : State) : Bool × State :=
  let b := slotBase slot
  let q := romRead b 0x80 s
  if q.1 && headerOk b s then
    let body := (s.word (b + 8)).toNat
    let r := romRead (b + 0x80) body q.2
    (r.1 && s.word (b + 0x14) == crc32 (s.bytes (b + 0x80) body), r.2)
  else (false, q.2)

/-! ### What the ROM writes -/

/-- Whole words of memory take fresh code bits: the errors in the words of `[p, p + n)` are gone. -/
def freshCode (p n : Nat) (s : State) : State :=
  { s with ecc := mkeep (fun a => !decide (p ≤ a ∧ a + 8 ≤ p + n)) s.ecc }

/-- Copy bytes to a place in memory. -/
def copyIn (p : Nat) (l : List Byte) (s : State) : State := (freshCode p l.length s).setBytes p l

/-- Copy one section, where its destination lies in a TCM; else the CP runs it in place (R49). -/
def copySect (base k : Nat) (s : State) : State :=
  let dst := sectWord base k 1 s
  let n := sectWord base k 2 s
  if inTcm dst n then copyIn dst (s.bytes (base + sectWord base k 0 s) n) s else s

/-- copy_sections -/
def copySections (slot : Nat) (s : State) : State :=
  let b := slotBase slot
  forAll (List.range (s.word (b + 0x10)).toNat) (copySect b) s

/-- Where a configuration set starts (R48). -/
def setBase (k : Nat) : Nat := 0x10820000 + 0x40000 * k

/-- The number of records of a set. -/
def setRecs (k : Nat) (s : State) : Nat := (s.word (setBase k + 0x0C)).toNat

/-- The checks of R49 on the configuration set of index `k`. -/
def setChecks (k : Nat) (s : State) : Bool :=
  let b := setBase k
  decide (k ≤ 15) && s.word b == 0x54484353 && s.word (b + 0x3C) == crc32 (s.bytes b 0x3C)
    && decide ((s.word (b + 4)).toNat ≤ 15) && decide (0x40 + 8 * setRecs k s ≤ 0x40000)
    && s.word (b + 0x10) == crc32 (s.bytes (b + 0x40) (8 * setRecs k s))

/-- A set passes them; a word that cannot be read fails its check. -/
def setOk (k : Nat) (s : State) : Bool × State :=
  if setChecks k s then romRead (setBase k) (0x40 + 8 * setRecs k s) s
  else ((false, (if k ≤ 15 then romRead (setBase k) 0x40 s else (true, s)).2))

/-- A set's placement mask. -/
def setPlace (k : Nat) (s : State) : Nat := bitsOf (s.word (setBase k + 8)) 7 0

/-- Write one register record: an ordinary bus write of the CP; what ends in a bus error has no effect. -/
def writeRec (k i : Nat) (s : State) : State :=
  let a := setBase k + 0x40 + 8 * i
  busWritten .cp (s.word a).toNat 4 (s.word (a + 4)) s

/-- The node words of a graph image go into the shadow half of the node table (R46, R48). -/
def writeGraph (k : Nat) (s : State) : State :=
  let g := (s.word (setBase k + 4)).toNat
  copyIn (nodePlace s 0x30020000) (s.bytes (0x10620000 + 0x20000 * g) 0x20000) s

/-- Write a set into the shadow set: the graph, the records in order, then PLACE (R46, R49). -/
def writeSet (k : Nat) (s : State) : State :=
  let s := forAll (List.range (setRecs k s)) (writeRec k) (writeGraph k s)
  rwsWritten R.CFG_PLACE (s.word (setBase k + 8)) s

/-- The ROM's local flip: it takes effect at the end of its scan (R334). -/
def romFlip (s : State) : State := flipScanEnd (localFlip s)

/-- load_config (R46). -/
def loadConfig (live shad : Nat) (s : State) : State :=
  let ret := s.get F.MIR_RETIRED_FACET
  let uses := fun k => (setPlace k s &&& ret) != 0
  let l := setOk live s
  let h := if shad = 0xFF then (false, l.2) else setOk shad l.2
  let s := h.2
  if l.1 then
    if uses live && h.1 && !uses shad then
      ((writeSet live (romFlip (writeSet shad s))).put F.CFG_CTL_SHRDY 1).put F.SYS_BOOTSTAT_CFGSWAP 1
    else
      let s := romFlip (writeSet live s)
      let s := if h.1 then (writeSet shad s).put F.CFG_CTL_SHRDY 1 else s
      s.putB F.SYS_BOOTSTAT_CFGFAIL (uses live)
  else
    let s := if h.1 then (writeSet shad s).put F.CFG_CTL_SHRDY 1 else s
    s.put F.SYS_BOOTSTAT_CFGFAIL 1

/-- The jump to the entry address, bit 0 dropped (R89; DESIGN CHOICE, log 116), with the substate FIRMWARE; a device whose crystal has
missed its time enters WAKEFAIL instead (R41). -/
def romJump (slot : Nat) (s : State) : State :=
  let s := s.put F.SYS_BOOTSTAT_SLOT (slot + 1)
  if s.pwr.xtalFail then wakefail s
  else subTo .firmware { s with cp := { s.cp with pc := s.word (slotBase slot + 0x0C) &&& 0xFFFFFFFE, machine := true, wfi := false } }

/-- The ROM has chosen an image: copy, configure, jump. -/
def romLoad (dir slot : Nat) (s : State) : State :=
  let live := (s.word (dir + 0x0C)).toNat
  let shad := (s.word (dir + 0x10)).toNat
  romJump slot (loadConfig live shad (copySections slot s))

/-- No valid program image: NOIMG, and SERVICE (R32, R45). -/
def noImage (s : State) : State := enterBy 8 .service .none (s.put F.SYS_BOOTSTAT_NOIMG 1)

/-- Load the image of the directory's slot, else that of the other slot, else report that there is none (steps 5–7 of R45). -/
def romLoadSlot (d slot : Nat) (s : State) : State :=
  let q := imageOk slot s
  if q.1 then romLoad d slot q.2
  else
    let r := imageOk (1 - slot) q.2
    if r.1 then romLoad d (1 - slot) (r.2.put F.SYS_BOOTSTAT_FALLBACK 1) else noImage r.2

/-- The same for the newest valid directory, if there is one. -/
def romFrom (dir : Option Nat) (s : State) : State :=
  match dir with
  | none => noImage s
  | some d => romLoadSlot d (s.word (d + 8)).toNat s

/-- Steps 4–7 of R45. -/
def romRun (s : State) : State :=
  let d := newestDir s
  romFrom d.1 d.2

/-- LISTEN_WINDOW_END: the window is over; the substate is ROM while the image is chosen. -/
def execListenWindowEnd (s : State) : Out :=
  if s.mode = .boot ∧ s.sub = .listen then .next (romRun (subTo .rom s)) else .next s

/-! ### The restore engine (R80) -/

/-- A write of a saved value to its register. -/
def restoreAt (a : Nat) (v : Word) (s : State) : State := if aDie a then aWrite .cp a v s else dWritten .cp a v s

/-- Restore entry `k` of the save list: a write of the saved value. A value that cannot be read is not written (DESIGN CHOICE,
log 114). -/
def restoreOne (k : Nat) (s : State) : State :=
  if s.bit (F.AON_SLSKIP_SKIP (k / 32)) (k % 32) then s
  else
    let a := saveEntry s k
    let q := romRead (0x60001000 + 4 * k) 4 s
    if q.1 = false ∨ blockOff q.2 a = true then q.2 else restoreAt a (q.2.word (0x60001000 + 4 * k)) q.2

/-- The engine's run: nothing is restored where the list cannot lie where it is named, or its CRC-32 differs. -/
def restoreRun (s : State) : State :=
  let s := (s.updPwr (fun p => { p with restore := false })).put F.AON_SLCTL_RESTORED 0
  if s.flag F.AON_SLCTL_BADBASE then s.put F.AON_SLCTL_CRCBAD 0
  else
    let s := listRead s
    if listCrc s ≠ s.reg R.AON_SLCRC then s.put F.AON_SLCTL_CRCBAD 1
    else
      let s := forAll (List.range (s.get F.AON_SLCTL_COUNT)) restoreOne (s.put F.AON_SLCTL_CRCBAD 0)
      s.put F.AON_SLCTL_RESTORED 1

/-- RESTORE_COMPLETE: the engine runs in parallel with the start-up logic BIST. -/
def execRestoreComplete (s : State) : Out :=
  match s.pwr.seq with
  | .lbist _ => if s.pwr.restore then .next (restoreRun s) else .next s
  | _ => .next s

end Sys2Proof.Machine
end

