-- ==== Sys2Proof/Machine/Cpfp.lean ====
section
/-! DEFINITION. The F extension's arithmetic on binary32 words (R87): IEEE 754-2008 with all rounding modes, subnormals and the
five flags. A result is its word and its flags: NV 16, DZ 8, OF 4, UF 2, NX 1. -/

namespace Sys2Proof

/-- The canonical NaN. -/
def rvNaN : Word := 0x7FC00000

/-- Is the pattern a signalling NaN? -/
def rvSNaN (w : Word) : Bool := fpNaN w && !bitOf w 22

/-- A result that is NaN, with NV where an operand signals. -/
def rvNaNOf (l : List Word) : Word × Nat := (rvNaN, if l.any rvSNaN then 16 else 0)

/-- An invalid operation. -/
def rvInvalid : Word × Nat := (rvNaN, 16)

/-- A word of a sign and a magnitude pattern. -/
def rvSigned (neg : Bool) (m : Nat) : Word := BitVec.ofNat 32 (neg.toNat * 2 ^ 31 + m)

/-- Infinity. -/
def rvInf (neg : Bool) : Word := rvSigned neg 0x7F800000

/-- Is a number, rounded to 24 bits without an exponent limit, below the smallest normal number? -/
def rvTiny (rm : Nat) (a : Fp) : Bool :=
  let top : Int := a.e + Nat.log2 a.m
  if -126 ≤ top then false
  else if top < -127 then true
  else
    let k := Nat.log2 a.m - 23
    let q := if 23 < Nat.log2 a.m then a.m / 2 ^ k else a.m * 2 ^ (23 - Nat.log2 a.m)
    let c := if 23 < Nat.log2 a.m then lowPart a.m k a.st else lowPart 0 0 a.st
    !(roundUp rm a.neg (q % 2 == 1) c && q + 1 == 2 ^ 24)

/-- Round a number: overflow gives infinity or the largest number by the mode, with OF and NX. -/
def rvRound (rm : Nat) (a : Fp) : Word × Nat :=
  let r := fpRound rm a
  if r.ovf then
    let up := rm == 0 || rm == 4 || (rm == 2 && a.neg) || (rm == 3 && !a.neg)
    (rvSigned a.neg (if up then 0x7F800000 else 0x7F7FFFFF), 5)
  else (rvSigned a.neg r.bits, (if r.inexact then 1 else 0) + (if r.inexact && rvTiny rm a then 2 else 0))

/-- A word with its sign turned. -/
def rvNeg (w : Word) : Word := w ^^^ 0x80000000

/-- A zero of either sign. -/
def rvZero (w : Word) : Bool := w.toNat % 2 ^ 31 == 0

/-- FADD.S -/
def rvAdd (rm : Nat) (x y : Word) : Word × Nat :=
  if fpNaN x || fpNaN y then rvNaNOf [x, y]
  else if fpInf x then (if fpInf y && fpNeg x != fpNeg y then rvInvalid else (x, 0))
  else if fpInf y then (y, 0)
  else rvRound rm (fpAddX rm (fpOf x) (fpOf y))

/-- FSUB.S -/
def rvSub (rm : Nat) (x y : Word) : Word × Nat := if fpNaN y then rvNaNOf [x, y] else rvAdd rm x (rvNeg y)

/-- FMUL.S -/
def rvMul (rm : Nat) (x y : Word) : Word × Nat :=
  if fpNaN x || fpNaN y then rvNaNOf [x, y]
  else if fpInf x || fpInf y then (if rvZero x || rvZero y then rvInvalid else (rvInf (fpNeg x != fpNeg y), 0))
  else rvRound rm (fpMulX (fpOf x) (fpOf y))

/-- FDIV.S -/
def rvDiv (rm : Nat) (x y : Word) : Word × Nat :=
  let neg := fpNeg x != fpNeg y
  if fpNaN x || fpNaN y then rvNaNOf [x, y]
  else if fpInf x then (if fpInf y then rvInvalid else (rvInf neg, 0))
  else if fpInf y then (rvSigned neg 0, 0)
  else if rvZero y then (if rvZero x then rvInvalid else (rvInf neg, 8))
  else rvRound rm (fpDivX (fpOf x) (fpOf y))

/-- FSQRT.S -/
def rvSqrt (rm : Nat) (x : Word) : Word × Nat :=
  if fpNaN x then rvNaNOf [x]
  else if rvZero x then (x, 0)
  else if fpNeg x then rvInvalid
  else if fpInf x then (x, 0)
  else rvRound rm (fpSqrtX (fpOf x))

/-- FMADD.S: x × y + z, rounded once; infinity times zero is invalid even with a quiet NaN added. -/
def rvFma (rm : Nat) (x y z : Word) : Word × Nat :=
  let neg := fpNeg x != fpNeg y
  if (fpInf x && rvZero y) || (rvZero x && fpInf y) then rvInvalid
  else if fpNaN x || fpNaN y || fpNaN z then rvNaNOf [x, y, z]
  else if fpInf x || fpInf y then (if fpInf z && fpNeg z != neg then rvInvalid else (rvInf neg, 0))
  else if fpInf z then (z, 0)
  else rvRound rm (fpAddX rm (fpMulX (fpOf x) (fpOf y)) (fpOf z))

/-- x < y, neither a NaN. -/
def rvLess (x y : Word) : Bool :=
  if fpInf x && fpInf y then fpNeg x && !fpNeg y
  else if fpInf x then fpNeg x
  else if fpInf y then !fpNeg y
  else fpLt (fpOf x) (fpOf y)

/-- FMIN.S and FMAX.S: −0 lies below +0; a NaN gives the other operand. -/
def rvMinMax (most : Bool) (x y : Word) : Word × Nat :=
  let fl := if rvSNaN x || rvSNaN y then 16 else 0
  if fpNaN x && fpNaN y then (rvNaN, fl)
  else if fpNaN x then (y, fl)
  else if fpNaN y then (x, fl)
  else
    let below := rvLess x y || (rvZero x && rvZero y && fpNeg x)
    (if below == most then y else x, fl)

/-- FEQ.S (2), FLT.S (1), FLE.S (0). -/
def rvCompare (f3 : Nat) (x y : Word) : Bool × Nat :=
  let nan := fpNaN x || fpNaN y
  if f3 = 2 then (!nan && !rvLess x y && !rvLess y x, if rvSNaN x || rvSNaN y then 16 else 0)
  else if nan then (false, 16)
  else (if f3 = 1 then rvLess x y else !rvLess y x, 0)

/-- FCLASS.S -/
def rvClass (x : Word) : Nat :=
  let sub := bitsOf x 30 23 == 0
  if fpNaN x then (if rvSNaN x then 2 ^ 8 else 2 ^ 9)
  else if fpInf x then (if fpNeg x then 1 else 2 ^ 7)
  else if rvZero x then (if fpNeg x then 2 ^ 3 else 2 ^ 4)
  else if sub then (if fpNeg x then 2 ^ 2 else 2 ^ 5)
  else (if fpNeg x then 2 else 2 ^ 6)

/-- FCVT.W.S and FCVT.WU.S: a value outside the range is held at its end, with NV. -/
def rvToInt (rm : Nat) (uns : Bool) (x : Word) : Word × Nat :=
  let lo : Int := if uns then 0 else -(2 ^ 31 : Int)
  let hi : Int := if uns then 2 ^ 32 - 1 else 2 ^ 31 - 1
  if fpNaN x then (BitVec.ofInt 32 hi, 16)
  else if fpInf x then (BitVec.ofInt 32 (if fpNeg x then lo else hi), 16)
  else
    let r := fpToInt rm (fpOf x)
    if r.1 < lo then (BitVec.ofInt 32 lo, 16)
    else if hi < r.1 then (BitVec.ofInt 32 hi, 16)
    else (BitVec.ofInt 32 r.1, if r.2 then 1 else 0)

/-- FCVT.S.W and FCVT.S.WU -/
def rvFromInt (rm : Nat) (uns : Bool) (x : Word) : Word × Nat := rvRound rm (fpInt (if uns then (x.toNat : Int) else x.toInt))

/-- FSGNJ.S (0), FSGNJN.S (1), FSGNJX.S (2). -/
def rvSign (f3 : Nat) (x y : Word) : Word :=
  let b := match f3 with
    | 0 => fpNeg y
    | 1 => !fpNeg y
    | _ => fpNeg x != fpNeg y
  rvSigned b (x.toNat % 2 ^ 31)

end Sys2Proof
end

