-- ==== Sys2Proof/Machine/Rvc.lean ====
section
/-! DEFINITION. The compressed instructions of the CP (R87, R88): each RV32C encoding as the 32-bit instruction that it stands for;
none for an encoding that RV32C reserves or that R88 makes illegal. -/

namespace Sys2Proof

/-- Bits `[hi:lo]` of a halfword. -/
def hb (h hi lo : Nat) : Nat := (h >>> lo) % 2 ^ (hi + 1 - lo)

/-- A 12-bit or wider immediate as unsigned bits. -/
def immBits (n : Nat) (i : Int) : Nat := unsignedOf n i

/-- An R-type word. -/
def rvR (f7 rs2 rs1 f3 rd op : Nat) : Nat := f7 * 2 ^ 25 + rs2 * 2 ^ 20 + rs1 * 2 ^ 15 + f3 * 2 ^ 12 + rd * 2 ^ 7 + op

/-- An I-type word. -/
def rvI (imm : Int) (rs1 f3 rd op : Nat) : Nat := immBits 12 imm * 2 ^ 20 + rs1 * 2 ^ 15 + f3 * 2 ^ 12 + rd * 2 ^ 7 + op

/-- An S-type word. -/
def rvS (imm : Int) (rs2 rs1 f3 op : Nat) : Nat :=
  let u := immBits 12 imm
  u / 32 * 2 ^ 25 + rs2 * 2 ^ 20 + rs1 * 2 ^ 15 + f3 * 2 ^ 12 + u % 32 * 2 ^ 7 + op

/-- A B-type word. -/
def rvB (imm : Int) (rs2 rs1 f3 : Nat) : Nat :=
  let u := immBits 13 imm
  hb u 12 12 * 2 ^ 31 + hb u 10 5 * 2 ^ 25 + rs2 * 2 ^ 20 + rs1 * 2 ^ 15 + f3 * 2 ^ 12 + hb u 4 1 * 2 ^ 8 + hb u 11 11 * 2 ^ 7 + 0x63

/-- A J-type word. -/
def rvJ (imm : Int) (rd : Nat) : Nat :=
  let u := immBits 21 imm
  hb u 20 20 * 2 ^ 31 + hb u 10 1 * 2 ^ 21 + hb u 11 11 * 2 ^ 20 + hb u 19 12 * 2 ^ 12 + rd * 2 ^ 7 + 0x6F

/-- The 6-bit immediate of CI: bits 12 and 6:2, signed. -/
def ciImm (h : Nat) : Int := signed 6 (hb h 12 12 * 32 + hb h 6 2)

/-- The offset of C.J and C.JAL. -/
def cjImm (h : Nat) : Int :=
  signed 12 (hb h 12 12 * 2 ^ 11 + hb h 11 11 * 2 ^ 4 + hb h 10 9 * 2 ^ 8 + hb h 8 8 * 2 ^ 10 + hb h 7 7 * 2 ^ 6 + hb h 6 6 * 2 ^ 7
    + hb h 5 3 * 2 + hb h 2 2 * 2 ^ 5)

/-- The offset of C.BEQZ and C.BNEZ. -/
def cbImm (h : Nat) : Int :=
  signed 9 (hb h 12 12 * 2 ^ 8 + hb h 11 10 * 2 ^ 3 + hb h 6 5 * 2 ^ 6 + hb h 4 3 * 2 + hb h 2 2 * 2 ^ 5)

/-- The offset of C.LW and C.SW. -/
def clImm (h : Nat) : Nat := hb h 12 10 * 8 + hb h 6 6 * 4 + hb h 5 5 * 64

/-- A three-bit register field. -/
def cReg (h lo : Nat) : Nat := 8 + hb h (lo + 2) lo

/-- Quadrant 0. -/
def expand0 (h : Nat) : Option Nat :=
  match hb h 15 13 with
  | 0 =>
    let imm := hb h 12 11 * 16 + hb h 10 7 * 64 + hb h 6 6 * 4 + hb h 5 5 * 8
    if imm = 0 then none else some (rvI imm 2 0 (cReg h 2) 0x13)
  | 2 => some (rvI (clImm h) (cReg h 7) 2 (cReg h 2) 0x03)
  | 6 => some (rvS (clImm h) (cReg h 2) (cReg h 7) 2 0x23)
  | _ => none

/-- C.SRLI, C.SRAI, C.ANDI and the register forms of quadrant 1. -/
def expandAlu (h : Nat) : Option Nat :=
  let r := cReg h 7
  match hb h 11 10 with
  | 0 => if hb h 12 12 = 1 then none else some (rvR 0 (hb h 6 2) r 5 r 0x13)
  | 1 => if hb h 12 12 = 1 then none else some (rvR 0x20 (hb h 6 2) r 5 r 0x13)
  | 2 => some (rvI (ciImm h) r 7 r 0x13)
  | _ =>
    if hb h 12 12 = 1 then none
    else match hb h 6 5 with
      | 0 => some (rvR 0x20 (cReg h 2) r 0 r 0x33)
      | 1 => some (rvR 0 (cReg h 2) r 4 r 0x33)
      | 2 => some (rvR 0 (cReg h 2) r 6 r 0x33)
      | _ => some (rvR 0 (cReg h 2) r 7 r 0x33)

/-- Quadrant 1. -/
def expand1 (h : Nat) : Option Nat :=
  let rd := hb h 11 7
  match hb h 15 13 with
  | 0 => some (rvI (ciImm h) rd 0 rd 0x13)
  | 1 => some (rvJ (cjImm h) 1)
  | 2 => some (rvI (ciImm h) 0 0 rd 0x13)
  | 3 =>
    if hb h 12 12 = 0 ∧ hb h 6 2 = 0 then none
    else if rd = 2 then
      let imm := signed 10 (hb h 12 12 * 512 + hb h 6 6 * 16 + hb h 5 5 * 64 + hb h 4 3 * 128 + hb h 2 2 * 32)
      some (rvI imm 2 0 2 0x13)
    else some (immBits 20 (ciImm h) * 2 ^ 12 + rd * 2 ^ 7 + 0x37)
  | 4 => expandAlu h
  | 5 => some (rvJ (cjImm h) 0)
  | 6 => some (rvB (cbImm h) 0 (cReg h 7) 0)
  | _ => some (rvB (cbImm h) 0 (cReg h 7) 1)

/-- Quadrant 2. -/
def expand2 (h : Nat) : Option Nat :=
  let rd := hb h 11 7
  let rs2 := hb h 6 2
  match hb h 15 13 with
  | 0 => if hb h 12 12 = 1 then none else some (rvR 0 rs2 rd 1 rd 0x13)
  | 2 => if rd = 0 then none else some (rvI (hb h 12 12 * 32 + hb h 6 4 * 4 + hb h 3 2 * 64 : Nat) 2 2 rd 0x03)
  | 4 =>
    if hb h 12 12 = 0 then
      (if rs2 = 0 then (if rd = 0 then none else some (rvI 0 rd 0 0 0x67)) else some (rvR 0 rs2 0 0 rd 0x33))
    else if rs2 = 0 then (if rd = 0 then some 0x00100073 else some (rvI 0 rd 0 1 0x67))
    else some (rvR 0 rs2 rd 0 rd 0x33)
  | 6 => some (rvS (hb h 12 9 * 4 + hb h 8 7 * 64 : Nat) rs2 2 2 0x23)
  | _ => none

/-- The 32-bit instruction that a compressed one stands for. -/
def expandC (h : Nat) : Option Nat :=
  match h % 4 with
  | 0 => expand0 h
  | 1 => expand1 h
  | _ => expand2 h

end Sys2Proof
end

