-- ==== Sys2Proof/Machine/Cp.lean ====
section
/-! DEFINITION. The control processor (R87–R93, R95–R97): RV32IMFC with Zicsr, Zifencei, machine and user mode, the PMP, traps,
the interrupt controller's side of them, and the entry to debug mode (R92). -/

namespace Sys2Proof.Machine

/-! ### Registers -/

/-- Change the CP's record. -/
def State.updCp (s : State) (f : Cp → Cp) : State := { s with cp := f s.cp }

/-- Integer register `i`; x0 reads 0. -/
def State.xreg (s : State) (i : Nat) : Word := if i = 0 then 0 else mget (fun _ => 0) s.cp.x i

/-- Write integer register `i`; x0 discards the write. -/
def State.setX (s : State) (i : Nat) (w : Word) : State :=
  if i = 0 then s else s.updCp (fun c => { c with x := mset (fun _ => 0) c.x i w })

/-- Floating-point register `i`. -/
def State.freg (s : State) (i : Nat) : Word := mget (fun _ => 0) s.cp.f i

/-- The stored word of a CSR. -/
def State.csr (s : State) (n : Nat) : Word := mget (fun _ => 0) s.cp.csr n

/-- Store a CSR's word. -/
def State.setCsr (s : State) (n : Nat) (w : Word) : State := s.updCp (fun c => { c with csr := mset (fun _ => 0) c.csr n w })

/-- Write floating-point register `i`; mstatus.FS becomes dirty. -/
def State.setF (s : State) (i : Nat) (w : Word) : State :=
  let s := s.updCp (fun c => { c with f := mset (fun _ => 0) c.f i w })
  s.setCsr 0x300 (putBits (s.csr 0x300) 14 13 3)

/-- Add floating-point exception flags; FS becomes dirty. -/
def addFlags (fl : Nat) (s : State) : State :=
  let s := s.setCsr 3 (s.csr 3 ||| BitVec.ofNat 32 fl)
  s.setCsr 0x300 (putBits (s.csr 0x300) 14 13 3)

/-- The floating-point unit is off (mstatus.FS = 0). -/
def fpOff (s : State) : Bool := bitsOf (s.csr 0x300) 14 13 == 0

/-! ### Interrupts (R95) -/

/-- The active level: −1 in a thread. -/
def curLevel (s : State) : Int := if s.get F.ICU_CUR_LVL = 0x1F then -1 else s.get F.ICU_CUR_LVL

/-- Is source `n` eligible? -/
def eligible (s : State) (n : Nat) : Bool :=
  s.flag (F.ICU_SRC_EN n) && icuPending s n && decide (curLevel s < s.get (F.ICU_SRC_PRIO n))

/-- The source that the ICU takes: the highest level, the lowest number. -/
def icuPick (s : State) : Option Nat :=
  (List.range 128).foldl (fun best n =>
    if eligible s n then
      match best with
      | none => some n
      | some b => if s.get (F.ICU_SRC_PRIO b) < s.get (F.ICU_SRC_PRIO n) then some n else best
    else best) none

/-- CPT.MTIME ≥ CPT.MTIMECMP (R93) -/
def timerPending (s : State) : Bool :=
  decide ((s.reg (R.CPT_MTIMECMP 0)).toNat + (s.reg (R.CPT_MTIMECMP 1)).toNat * 2 ^ 32 ≤ mtime s)

/-- mip -/
def mipWord (s : State) : Word := BitVec.ofNat 32 ((timerPending s).toNat * 2 ^ 7 + (icuPick s).isSome.toNat * 2 ^ 11)

/-- An interrupt of this bit is taken now: it is pending and enabled, and the hart's mode lets it in. -/
def takes (s : State) (bit : Nat) : Bool :=
  bitOf (mipWord s) bit && bitOf (s.csr 0x304) bit && (!s.cp.machine || bitOf (s.csr 0x300) 3)

/-- The CP pair runs: out of reset and of the start-up test, not halted, not frozen, not under test (R92, R117, R371). -/
def cpRuns (s : State) : Bool :=
  decide (s.pwr.seq = .done) && !s.cp.debug && !s.mir.frozen.contains 0 && !s.mir.stuck.contains 0
    && !(s.flag F.BST_STAT_RUN && s.get F.BST_STAT_ORIGIN == 2 && s.get F.BST_STAT_REGION == 0)

/-! ### Traps (R96) -/

/-- The handler base. -/
def mtvecBase (s : State) : Nat := (s.csr 0x305).toNat / 64 * 64

/-- What every trap saves: mepc, mcause, mtval, the status stack. -/
def trapSave (cause tval : Word) (s : State) : State :=
  let st := s.csr 0x300
  let st := putBits (putBits st 7 7 (bitsOf st 3 3)) 3 3 0
  let st := putBits st 12 11 (if s.cp.machine then 3 else 0)
  let s := ((s.setCsr 0x341 s.cp.pc).setCsr 0x342 cause).setCsr 0x343 tval
  (s.setCsr 0x300 st).updCp (fun c => { c with machine := true, wfi := false })

/-- A jump of the CP. -/
def setPc (w : Word) (s : State) : State := s.updCp (fun c => { c with pc := w })

/-- An exception goes to BASE in every mode of dispatch. -/
def cpTrap (cause : Nat) (tval : Word) (s : State) : State :=
  let s := trapSave (BitVec.ofNat 32 cause) tval s
  setPc (BitVec.ofNat 32 (mtvecBase s)) s

/-- The timer interrupt: BASE, or BASE + 28 in the vectored mode. -/
def timerTrap (s : State) : State :=
  let s := trapSave 0x80000007 0 s
  setPc (BitVec.ofNat 32 (mtvecBase s + (if bitsOf (s.csr 0x305) 1 0 = 1 then 28 else 0))) s

/-- CP_TIMER_INTERRUPT: an external interrupt that could be taken goes first. -/
def execCpTimerInterrupt (s : State) : Out :=
  if cpRuns s && takes s 7 && !takes s 11 then .next (timerTrap s) else .next s

/-- What the ICU does as source `n` is taken (R97). -/
def icuTake (n : Nat) (s : State) : State :=
  let s := { s with icu := { s.icu with stack := s.get F.ICU_CUR_LVL :: s.icu.stack } }
  let s := (s.put F.ICU_CUR_LVL (s.get (F.ICU_SRC_PRIO n))).put F.ICU_CUR_SRC n
  let s := if icuEdge s n then s.put (F.ICU_SRC_PEND n) 0 else s
  s.setCsr 0xFC0 (BitVec.ofNat 32 n)

/-- The table-vectored dispatch: the handler's address is the word at VTAB + 4n. A table read that ends with a bus error is an
instruction access fault at the entry's address; one that meets another requester's lock waits. The fault stands in place of the
interrupt, which counts as taken: one trap is saved, the level is pushed and PEND cleared; and the PMP is not asked (DESIGN CHOICE, log
93). Bit 0 of the word is dropped, so that no misaligned fetch follows (R89; DESIGN CHOICE, log 116). -/
def tableTrap (n : Nat) (s : State) : State :=
  let a := (s.reg R.ICU_VTAB).toNat / 512 * 512 + 4 * n
  let r := busRead .cp a 4 s
  if r.stall then r.st
  else
    let t := icuTake n (trapSave 0x8000000B 0 r.st)
    if r.err then setPc (BitVec.ofNat 32 (mtvecBase t)) ((t.setCsr 0x342 1).setCsr 0x343 (BitVec.ofNat 32 a))
    else setPc (r.data &&& 0xFFFFFFFE) t

/-- The external interrupt of source `n`: the handler's address by mtvec.MODE. -/
def externalTrap (n : Nat) (s : State) : State :=
  match bitsOf (s.csr 0x305) 1 0 with
  | 3 => tableTrap n s
  | m => setPc (BitVec.ofNat 32 (mtvecBase s + (if m = 1 then 44 else 0))) (icuTake n (trapSave 0x8000000B 0 s))

/-- CP_EXTERNAL_INTERRUPT -/
def execCpExternalInterrupt (s : State) : Out :=
  if cpRuns s && takes s 11 then
    match icuPick s with
    | some n => .next (externalTrap n s)
    | none => .next s
  else .next s

/-! ### Physical memory protection (R91) -/

/-- The configuration byte of PMP region `i`. -/
def pmpCfg (s : State) (i : Nat) : Nat := bitsOf (s.csr (0x3A0 + i / 4)) (8 * (i % 4) + 7) (8 * (i % 4))

/-- The address register of PMP region `i`, in words of four bytes, at the 32-byte granularity of its mode. -/
def pmpAddr (s : State) (i : Nat) : Nat :=
  let v := (s.csr (0x3B0 + i)).toNat
  if 3 ≤ pmpCfg s i / 8 % 4 then v / 4 * 4 + 3 else v / 8 * 8

/-- The number of trailing ones. -/
def trailingOnes : Nat → Nat → Nat
  | 0, _ => 0
  | k + 1, v => if v % 2 = 1 then trailingOnes k (v / 2) + 1 else 0

/-- Does region `i` hold byte address `a`? -/
def pmpHolds (s : State) (i a : Nat) : Bool :=
  match pmpCfg s i / 8 % 4 with
  | 1 => decide ((if i = 0 then 0 else 4 * ((s.csr (0x3B0 + i - 1)).toNat / 8 * 8)) ≤ a ∧ a < 4 * pmpAddr s i)
  | 3 =>
    let v := pmpAddr s i
    let t := trailingOnes 32 v
    a / 2 ^ (t + 3) == v / 2 ^ (t + 1)
  | _ => false

/-- May an access of kind `bit` (0 read, 1 write, 2 execute) at `a` be made with these rights? An access lies in one granule. -/
def pmpOk (s : State) (machine : Bool) (bit a : Nat) : Bool :=
  match (List.range 16).find? (fun i => pmpHolds s i a) with
  | none => machine
  | some i => (machine && !(pmpCfg s i).testBit 7) || (pmpCfg s i).testBit bit

/-- The rights of a load or store: those of MPP under MPRV. -/
def dataMachine (s : State) : Bool :=
  if bitOf (s.csr 0x300) 17 && s.cp.machine then bitsOf (s.csr 0x300) 12 11 == 3 else s.cp.machine

/-! ### Triggers (R90) -/

/-- Where word `j` of trigger `i` is kept. -/
def trigKey (i j : Nat) : Nat := 0x1000 + 4 * i + j

/-- Does trigger `i` match an access of kind `bit` (2 execute, 1 store, 0 load) at `a`? A breakpoint exception is not taken in machine
mode with interrupts off (PRESUMED from the debug specification, log 45). -/
def trigMatch (s : State) (bit a i : Nat) : Bool :=
  let d := s.csr (trigKey i 1)
  bitOf d bit && (s.csr (trigKey i 2)).toNat == a
    && (if s.cp.machine then bitOf d 6 && (bitOf d 12 || bitOf (s.csr 0x300) 3) else bitOf d 3)

/-- What the triggers do with an access, outside debug mode: none match, one raises a breakpoint (false), one enters debug mode. -/
def trigHit (s : State) (bit a : Nat) : Option Bool :=
  match (List.range 4).filter (fun i => !s.cp.debug && trigMatch s bit a i) with
  | [] => none
  | l => some (l.any (fun i => bitOf (s.csr (trigKey i 1)) 12 && bitOf (s.spb 3) 0))

/-! ### Control and status registers (R90) -/

/-- Is the CSR's number one of the 29 event counters or selectors from `base + 3`? -/
def hpmAt (base n : Nat) : Bool := decide (base + 3 ≤ n ∧ n ≤ base + 31)

/-- mstatus as it reads: SD shows FS = 3. -/
def mstatusWord (s : State) : Word := putBits (s.csr 0x300) 31 31 (bitsOf (s.csr 0x300) 14 13 / 3)

/-- The user counters, by the low byte of their number: cycle, time, instret. -/
def userCounter (s : State) (k : Nat) : Nat := if k = 0 then cpCount s 0xB00 else if k = 1 then mtime s else cpCount s 0xB02

/-- What a CSR reads; none where it does not exist. Debug registers exist in debug mode only. The high halves of mhpmcounter3–31 exist
and read 0 as the low halves do (DESIGN CHOICE, log 117). -/
def csrRead (s : State) (n : Nat) : Option Word :=
  if n = 1 then some (BitVec.ofNat 32 (bitsOf (s.csr 3) 4 0))
  else if n = 2 then some (BitVec.ofNat 32 (bitsOf (s.csr 3) 7 5))
  else if n = 3 then some (s.csr 3)
  else if 0xC00 ≤ n ∧ n ≤ 0xC02 then some (BitVec.ofNat 32 (userCounter s (n - 0xC00)))
  else if 0xC80 ≤ n ∧ n ≤ 0xC82 then some (BitVec.ofNat 32 (userCounter s (n - 0xC80) / 2 ^ 32))
  else if n = 0xF11 ∨ n = 0xF12 ∨ n = 0xF14 ∨ n = 0x310 then some 0
  else if n = 0xF13 then some 0x9624000C
  else if n = 0x300 then some (mstatusWord s)
  else if n = 0x301 then some 0x40101124
  else if n = 0x304 ∨ n = 0x305 ∨ n = 0x306 ∨ n = 0x320 then some (s.csr n)
  else if 0x340 ≤ n ∧ n ≤ 0x343 then some (s.csr n)
  else if n = 0x344 then some (mipWord s)
  else if 0x3A0 ≤ n ∧ n ≤ 0x3A3 then some (s.csr n)
  else if 0x3B0 ≤ n ∧ n ≤ 0x3BF then some (BitVec.ofNat 32 (pmpAddr s (n - 0x3B0)))
  else if n = 0xB00 ∨ n = 0xB02 ∨ n = 0xB80 ∨ n = 0xB82 then some (s.csr n)
  else if hpmAt 0xB00 n || hpmAt 0xB80 n || hpmAt 0x320 n then some 0
  else if n = 0x7A0 then some (s.csr 0x7A0)
  else if n = 0x7A1 then some (s.csr (trigKey (s.csr 0x7A0).toNat 1) ||| 0x20000000)
  else if n = 0x7A2 then some (s.csr (trigKey (s.csr 0x7A0).toNat 2))
  else if n = 0x7A3 then some 0
  else if n = 0xFC0 then some (s.csr 0xFC0)
  else if 0x7B0 ≤ n ∧ n ≤ 0x7B3 ∧ s.cp.debug = true then some (s.csr n)
  else none

/-- May the CSR be read or written in the present mode? A user read of a counter needs its mcounteren bit. -/
def csrOpen (s : State) (n : Nat) : Bool :=
  if 1 ≤ n ∧ n ≤ 3 then !fpOff s
  else if (0xC00 ≤ n ∧ n ≤ 0xC02) ∨ (0xC80 ≤ n ∧ n ≤ 0xC82) then s.cp.machine || bitOf (s.csr 0x306) (n % 4)
  else s.cp.machine

/-- A write of mstatus: MPP takes 0b00 and 0b11 alone. -/
def mstatusWrite (v : Word) (s : State) : State :=
  let old := s.csr 0x300
  let mpp := if bitsOf v 12 11 = 0 ∨ bitsOf v 12 11 = 3 then bitsOf v 12 11 else bitsOf old 12 11
  s.setCsr 0x300 (putBits (v &&& 0x00227888) 12 11 mpp)

/-- One byte of a pmpcfg write: a locked byte stays, NA4 leaves A, and R = 0 with W = 1 leaves the rights (PRESUMED, log 45). -/
def pmpByte (old new : Nat) : Nat :=
  if old.testBit 7 then old
  else
    let a := if new / 8 % 4 = 2 then old / 8 % 4 else new / 8 % 4
    let r := if new % 4 = 2 then old % 8 else new % 8
    new / 128 * 128 + a * 8 + r

/-- A write of pmpcfgN. -/
def pmpcfgWrite (n : Nat) (v : Word) (s : State) : State :=
  let old := s.csr n
  s.setCsr n ([0, 1, 2, 3].foldl (fun (w : Word) j =>
    putBits w (8 * j + 7) (8 * j) (pmpByte (bitsOf old (8 * j + 7) (8 * j)) (bitsOf v (8 * j + 7) (8 * j)))) 0)

/-- A PMP address register is locked by its own entry, or by a locked TOR entry above it. -/
def pmpAddrLocked (s : State) (i : Nat) : Bool :=
  (pmpCfg s i).testBit 7 || (decide (i < 15) && (pmpCfg s (i + 1)).testBit 7 && pmpCfg s (i + 1) / 8 % 4 == 1)

/-- Trigger `i` may be written: one with dmode set in debug mode only. -/
def trigOpen (s : State) (i : Nat) : Bool := s.cp.debug || !bitOf (s.csr (trigKey i 1)) 27

/-- A write of tdata1: dmode is writable in debug mode only, and without it the action is the breakpoint exception. -/
def trigWrite (i : Nat) (v : Word) (s : State) : State :=
  if trigOpen s i then s.setCsr (trigKey i 1) (if s.cp.debug && bitOf v 27 then v &&& 0x0800104F else v &&& 0x4F) else s

/-- A write of a CSR that may be written. -/
def csrWrite (n : Nat) (v : Word) (s : State) : State :=
  let dirty (t : State) : State := t.setCsr 0x300 (putBits (t.csr 0x300) 14 13 3)
  if n = 1 then dirty (s.setCsr 3 (putBits (s.csr 3) 4 0 (bitsOf v 4 0)))
  else if n = 2 then dirty (s.setCsr 3 (putBits (s.csr 3) 7 5 (bitsOf v 2 0)))
  else if n = 3 then dirty (s.setCsr 3 (BitVec.ofNat 32 (bitsOf v 7 0)))
  else if n = 0x300 then mstatusWrite v s
  else if n = 0x304 then s.setCsr n (v &&& 0x880)
  else if n = 0x305 then
    let mode := if bitsOf v 1 0 = 2 then bitsOf (s.csr n) 1 0 else bitsOf v 1 0
    s.setCsr n (BitVec.ofNat 32 (v.toNat / 64 * 64 + mode))
  else if n = 0x306 then s.setCsr n (v &&& 7)
  else if n = 0x320 then s.setCsr n (v &&& 5)
  else if n = 0x341 then s.setCsr n (v &&& 0xFFFFFFFE)
  else if n = 0x340 ∨ n = 0x342 ∨ n = 0x343 then s.setCsr n v
  else if 0x3A0 ≤ n ∧ n ≤ 0x3A3 then pmpcfgWrite n v s
  else if 0x3B0 ≤ n ∧ n ≤ 0x3BF then (if pmpAddrLocked s (n - 0x3B0) then s else s.setCsr n (v &&& 0x3FFFFFFF))
  else if n = 0xB00 ∨ n = 0xB02 ∨ n = 0xB80 ∨ n = 0xB82 then s.setCsr n v
  else if n = 0x7A0 then (if v.toNat < 4 then s.setCsr n v else s)
  else if n = 0x7A1 then trigWrite (s.csr 0x7A0).toNat v s
  else if n = 0x7A2 then (if trigOpen s (s.csr 0x7A0).toNat then s.setCsr (trigKey (s.csr 0x7A0).toNat 2) v else s)
  else if n = 0x7B0 then s.setCsr n (BitVec.ofNat 32 (0x40000000 + bitsOf (s.csr n) 8 6 * 2 ^ 6) ||| (v &&& 0x00009007))
  else if n = 0x7B1 then s.setCsr n (v &&& 0xFFFFFFFE)
  else if n = 0x7B2 ∨ n = 0x7B3 then s.setCsr n v
  else s

/-! ### Execution -/

/-- What one instruction does: it goes on at an address, it traps, or it waits for a lock. -/
inductive Eff where
  | ok (npc : Word) (st : State)
  | trap (cause : Nat) (tval : Word) (st : State)
  | stall (st : State)
  /-- debug mode is entered, for a cause of dcsr. -/
  | halt (cause : Nat) (st : State)

/-- What a trigger's match does to an instruction. -/
def trigEff (action : Bool) (v : Word) (s : State) : Eff := if action then .halt 2 s else .trap 3 v s

/-- The rd, rs1, rs2 fields and function codes of a word. -/
def fRd (w : Nat) : Nat := hb w 11 7
/-- rs1 -/
def fRs1 (w : Nat) : Nat := hb w 19 15
/-- rs2 -/
def fRs2 (w : Nat) : Nat := hb w 24 20
/-- funct3 -/
def f3 (w : Nat) : Nat := hb w 14 12
/-- funct7 -/
def f7 (w : Nat) : Nat := hb w 31 25
/-- The I immediate. -/
def immI (w : Nat) : Word := BitVec.ofInt 32 (signed 12 (hb w 31 20))
/-- The S immediate. -/
def immS (w : Nat) : Word := BitVec.ofInt 32 (signed 12 (hb w 31 25 * 32 + hb w 11 7))
/-- The B immediate. -/
def immB (w : Nat) : Word :=
  BitVec.ofInt 32 (signed 13 (hb w 31 31 * 2 ^ 12 + hb w 7 7 * 2 ^ 11 + hb w 30 25 * 32 + hb w 11 8 * 2))
/-- The U immediate. -/
def immU (w : Nat) : Word := BitVec.ofNat 32 (hb w 31 12 * 2 ^ 12)
/-- The J immediate. -/
def immJ (w : Nat) : Word :=
  BitVec.ofInt 32 (signed 21 (hb w 31 31 * 2 ^ 20 + hb w 19 12 * 2 ^ 12 + hb w 20 20 * 2 ^ 11 + hb w 30 21 * 2))

/-- OP and OP-IMM: `sub` is bit 30 where it counts. -/
def aluOp (fn : Nat) (sub : Bool) (a b : Word) : Word :=
  match fn with
  | 0 => if sub then a - b else a + b
  | 1 => a <<< (b.toNat % 32)
  | 2 => if a.toInt < b.toInt then 1 else 0
  | 3 => if a.toNat < b.toNat then 1 else 0
  | 4 => a ^^^ b
  | 5 => if sub then a.sshiftRight (b.toNat % 32) else a >>> (b.toNat % 32)
  | 6 => a ||| b
  | _ => a &&& b

/-- The M extension, with its results for division by zero and overflow. -/
def mulOp (fn : Nat) (a b : Word) : Word :=
  match fn with
  | 0 => a * b
  | 1 => BitVec.ofInt 32 (a.toInt * b.toInt / 2 ^ 32)
  | 2 => BitVec.ofInt 32 (a.toInt * (b.toNat : Int) / 2 ^ 32)
  | 3 => BitVec.ofNat 32 (a.toNat * b.toNat / 2 ^ 32)
  | 4 => if b = 0 then 0xFFFFFFFF else BitVec.ofInt 32 (a.toInt.tdiv b.toInt)
  | 5 => if b = 0 then 0xFFFFFFFF else BitVec.ofNat 32 (a.toNat / b.toNat)
  | 6 => if b = 0 then a else BitVec.ofInt 32 (a.toInt.tmod b.toInt)
  | _ => if b = 0 then a else BitVec.ofNat 32 (a.toNat % b.toNat)

/-- A branch is taken. -/
def branchOp (fn : Nat) (a b : Word) : Option Bool :=
  match fn with
  | 0 => some (a == b)
  | 1 => some (a != b)
  | 4 => some (decide (a.toInt < b.toInt))
  | 5 => some (!decide (a.toInt < b.toInt))
  | 6 => some (decide (a.toNat < b.toNat))
  | 7 => some (!decide (a.toNat < b.toNat))
  | _ => none

/-- A load of `n` bytes: the breakpoint, the alignment (R89), the PMP, the bus (R76). `use` takes the word. -/
def cpLoad (a n : Nat) (npc : Word) (use : Word → State → State) (s : State) : Eff :=
  let v := BitVec.ofNat 32 a
  match trigHit s 0 a with
  | some d => trigEff d v s
  | none =>
    if a % n ≠ 0 then .trap 4 v s
    else if pmpOk s (dataMachine s) 0 a = false then .trap 5 v s
    else
      let r := busRead .cp a n s
      if r.stall then .stall r.st else if r.err then .trap 5 v r.st else .ok npc (use r.data r.st)

/-- A store of `n` bytes. -/
def cpStore (a n : Nat) (npc w : Word) (s : State) : Eff :=
  let v := BitVec.ofNat 32 a
  match trigHit s 1 a with
  | some d => trigEff d v s
  | none =>
    if a % n ≠ 0 then .trap 6 v s
    else if pmpOk s (dataMachine s) 1 a = false then .trap 7 v s
    else
      let r := busWrite .cp a n w s
      if r.stall then .stall r.st else if r.err then .trap 7 v r.st else .ok npc r.st

/-- The loads: size and what reaches rd. -/
def loadOp (w : Nat) (npc : Word) (s : State) : Option Eff :=
  let a := (s.xreg (fRs1 w) + immI w).toNat
  let into (f : Word → Word) : Word → State → State := fun d t => t.setX (fRd w) (f d)
  match f3 w with
  | 0 => some (cpLoad a 1 npc (into (fun d => BitVec.ofInt 32 (signed 8 d.toNat))) s)
  | 1 => some (cpLoad a 2 npc (into (fun d => BitVec.ofInt 32 (signed 16 d.toNat))) s)
  | 2 => some (cpLoad a 4 npc (into id) s)
  | 4 => some (cpLoad a 1 npc (into id) s)
  | 5 => some (cpLoad a 2 npc (into id) s)
  | _ => none

/-- The stores. -/
def storeOp (w : Nat) (npc : Word) (s : State) : Option Eff :=
  let a := (s.xreg (fRs1 w) + immS w).toNat
  let v := s.xreg (fRs2 w)
  match f3 w with
  | 0 => some (cpStore a 1 npc v s)
  | 1 => some (cpStore a 2 npc v s)
  | 2 => some (cpStore a 4 npc v s)
  | _ => none

/-- OP-IMM. -/
def immOp (w : Nat) (npc : Word) (s : State) : Option Eff :=
  let go (sub : Bool) : Option Eff := some (.ok npc (s.setX (fRd w) (aluOp (f3 w) sub (s.xreg (fRs1 w)) (immI w))))
  match f3 w with
  | 1 => if f7 w = 0 then go false else none
  | 5 => if f7 w = 0 then go false else if f7 w = 0x20 then go true else none
  | _ => go false

/-- OP and the M extension. -/
def regOp (w : Nat) (npc : Word) (s : State) : Option Eff :=
  let a := s.xreg (fRs1 w)
  let b := s.xreg (fRs2 w)
  let put (v : Word) : Option Eff := some (.ok npc (s.setX (fRd w) v))
  match f7 w with
  | 0 => put (aluOp (f3 w) false a b)
  | 1 => put (mulOp (f3 w) a b)
  | 0x20 => if f3 w = 0 ∨ f3 w = 5 then put (aluOp (f3 w) true a b) else none
  | _ => none

/-- The CSR instructions: rs1 or the five-bit immediate; CSRRS and CSRRC with a zero field write nothing. -/
def csrOp (w : Nat) (npc : Word) (s : State) : Option Eff :=
  let n := hb w 31 20
  let arg := if 5 ≤ f3 w then BitVec.ofNat 32 (fRs1 w) else s.xreg (fRs1 w)
  let writes := f3 w % 4 == 1 || fRs1 w != 0
  if csrOpen s n = false ∨ (writes = true ∧ n / 1024 = 3) then none
  else match csrRead s n with
    | none => none
    | some old =>
      let v := match f3 w % 4 with
        | 1 => arg
        | 2 => old ||| arg
        | _ => old &&& ~~~arg
      let s := if writes then csrWrite n v s else s
      some (.ok npc (s.setX (fRd w) old))

/-- MRET: the status stack is popped, and so is the ICU's level stack (R97; whatever trap it returns from, DEDUCED, log 46). -/
def mret (s : State) : State :=
  let st := s.csr 0x300
  let m := bitsOf st 12 11 == 3
  let st := putBits (putBits (putBits st 3 3 (bitsOf st 7 7)) 7 7 1) 12 11 0
  let s := (s.setCsr 0x300 st).updCp (fun c => { c with machine := m, pc := mget (fun _ => 0) c.csr 0x341 })
  match s.icu.stack with
  | [] => s
  | l :: rest => { s.put F.ICU_CUR_LVL l with icu := { s.icu with stack := rest } }

/-- WFI: the CP waits unless an interrupt is pending and enabled (R87). -/
def wfi (s : State) : State := s.updCp (fun c => { c with wfi := (mipWord s &&& s.csr 0x304) == 0 })

/-- May WFI be executed in the present mode? -/
def wfiOpen (s : State) : Bool := s.cp.machine || !bitOf (s.csr 0x300) 21

/-- Does EBREAK enter debug mode: dcsr.ebreakm or ebreaku, and bit 0 of SPB[3] (R92)? -/
def ebreakHalts (s : State) : Bool := bitOf (s.spb 3) 0 && bitOf (s.csr 0x7B0) (if s.cp.machine then 15 else 12)

/-- SYSTEM -/
def systemOp (w : Nat) (npc : Word) (s : State) : Option Eff :=
  if f3 w = 0 then
    (if w = 0x00000073 then some (.trap (if s.cp.machine then 11 else 8) 0 s)
     else if w = 0x00100073 then some (if ebreakHalts s then .halt 1 s else .trap 3 s.cp.pc s)
     else if w = 0x30200073 ∧ s.cp.machine = true then some (let t := mret s; .ok t.cp.pc t)
     else if w = 0x10500073 ∧ wfiOpen s = true then some (.ok npc (wfi s))
     else none)
  else if f3 w = 4 then none
  else csrOp w npc s

/-- The rounding mode of an instruction's rm field; none where it is reserved. -/
def rmOf (s : State) (rm : Nat) : Option Nat :=
  let m := if rm = 7 then bitsOf (s.csr 3) 7 5 else rm
  if m ≤ 4 then some m else none

/-- A floating-point result into an F register. -/
def fpPut (w : Nat) (npc : Word) (r : Word × Nat) (s : State) : Option Eff := some (.ok npc (addFlags r.2 (s.setF (fRd w) r.1)))

/-- A floating-point result into an integer register. -/
def fpPutX (w : Nat) (npc : Word) (r : Word × Nat) (s : State) : Option Eff :=
  some (.ok npc ((if r.2 = 0 then s else addFlags r.2 s).setX (fRd w) r.1))

/-- OP-FP with a rounding mode. -/
def fpRounding (w rm : Nat) (npc : Word) (s : State) : Option Eff :=
  let a := s.freg (fRs1 w)
  let b := s.freg (fRs2 w)
  match f7 w with
  | 0x00 => fpPut w npc (rvAdd rm a b) s
  | 0x04 => fpPut w npc (rvSub rm a b) s
  | 0x08 => fpPut w npc (rvMul rm a b) s
  | 0x0C => fpPut w npc (rvDiv rm a b) s
  | 0x2C => if fRs2 w = 0 then fpPut w npc (rvSqrt rm a) s else none
  | 0x60 => if fRs2 w < 2 then fpPutX w npc (rvToInt rm (fRs2 w == 1) a) s else none
  | 0x68 => if fRs2 w < 2 then fpPut w npc (rvFromInt rm (fRs2 w == 1) (s.xreg (fRs1 w))) s else none
  | _ => none

/-- OP-FP -/
def fpOp (w : Nat) (npc : Word) (s : State) : Option Eff :=
  let a := s.freg (fRs1 w)
  let b := s.freg (fRs2 w)
  match f7 w with
  | 0x10 => if f3 w ≤ 2 then fpPut w npc (rvSign (f3 w) a b, 0) s else none
  | 0x14 => if f3 w ≤ 1 then fpPut w npc (rvMinMax (f3 w == 1) a b) s else none
  | 0x50 =>
    if f3 w ≤ 2 then
      let r := rvCompare (f3 w) a b
      fpPutX w npc (BitVec.ofNat 32 r.1.toNat, r.2) s
    else none
  | 0x70 =>
    if fRs2 w ≠ 0 then none
    else if f3 w = 0 then fpPutX w npc (a, 0) s
    else if f3 w = 1 then fpPutX w npc (BitVec.ofNat 32 (rvClass a), 0) s
    else none
  | 0x78 => if fRs2 w = 0 ∧ f3 w = 0 then fpPut w npc (s.xreg (fRs1 w), 0) s else none
  | _ => match rmOf s (f3 w) with
    | none => none
    | some rm => fpRounding w rm npc s

/-- The fused operations: the signs of the product and of the addend by the opcode. -/
def fmaOp (w : Nat) (npc : Word) (s : State) : Option Eff :=
  let op := w % 128
  let a := s.freg (fRs1 w)
  let x := if op = 0x4B ∨ op = 0x4F then rvNeg a else a
  let c := s.freg (hb w 31 27)
  let z := if op = 0x47 ∨ op = 0x4F then rvNeg c else c
  if hb w 26 25 ≠ 0 then none
  else match rmOf s (f3 w) with
    | none => none
    | some rm => fpPut w npc (rvFma rm x (s.freg (fRs2 w)) z) s

/-- The floating-point opcodes. -/
def fpInstr (w : Nat) (npc : Word) (s : State) : Option Eff :=
  if fpOff s then none
  else match w % 128 with
    | 0x07 =>
      if f3 w = 2 then some (cpLoad (s.xreg (fRs1 w) + immI w).toNat 4 npc (fun d t => t.setF (fRd w) d) s) else none
    | 0x27 => if f3 w = 2 then some (cpStore (s.xreg (fRs1 w) + immS w).toNat 4 npc (s.freg (fRs2 w)) s) else none
    | 0x53 => fpOp w npc s
    | _ => fmaOp w npc s

/-- One instruction of `len` bytes, as its 32-bit form; none where it is illegal (R88). -/
def execWord (w len : Nat) (s : State) : Option Eff :=
  let pc := s.cp.pc
  let npc := pc + BitVec.ofNat 32 len
  match w % 128 with
  | 0x37 => some (.ok npc (s.setX (fRd w) (immU w)))
  | 0x17 => some (.ok npc (s.setX (fRd w) (pc + immU w)))
  | 0x6F => some (.ok (pc + immJ w) (s.setX (fRd w) npc))
  | 0x67 =>
    if f3 w = 0 then some (.ok ((s.xreg (fRs1 w) + immI w) &&& 0xFFFFFFFE) (s.setX (fRd w) npc)) else none
  | 0x63 => (branchOp (f3 w) (s.xreg (fRs1 w)) (s.xreg (fRs2 w))).map (fun t => .ok (if t then pc + immB w else npc) s)
  | 0x03 => loadOp w npc s
  | 0x23 => storeOp w npc s
  | 0x13 => immOp w npc s
  | 0x33 => regOp w npc s
  | 0x0F =>
    if f3 w = 0 then some (.ok npc s)
    else if f3 w = 1 then some (.ok npc (s.updCp (fun c => { c with icache := [] })))
    else none
  | 0x73 => systemOp w npc s
  | 0x07 => fpInstr w npc s
  | 0x27 => fpInstr w npc s
  | 0x43 => fpInstr w npc s
  | 0x47 => fpInstr w npc s
  | 0x4B => fpInstr w npc s
  | 0x4F => fpInstr w npc s
  | 0x53 => fpInstr w npc s
  | _ => none

/-- May instructions be fetched from an address (R100)? -/
def executable (a : Nat) : Bool :=
  match regionOf a with
  | .rom => true
  | .flash => true
  | .tcm => decide (a < 0x01400000)
  | _ => false

/-- The halfword at `a` in the instruction cache, where a fetch of flash finds it there. -/
def icacheFind (a : Nat) (s : State) : Option Nat :=
  if Config.icacheHit s.draws then (s.cp.icache.find? (fun e => e.1 == a)).map (·.2) else none

/-- A halfword of flash enters the cache, which holds 16 KiB. -/
def icacheFill (a h : Nat) (s : State) : State :=
  s.updCp (fun c => { c with icache := ((a, h) :: c.icache.filter (fun e => e.1 != a)).take 8192 })

/-- A fetch of one halfword over the bus; from flash through the cache (R87). -/
def fetchBus (a : Nat) (s : State) : Option Nat × State :=
  match (if inFlash a then icacheFind a s else none) with
  | some h => (some h, { s with draws := s.draws + 1 })
  | none =>
    let r := busRead .cp a 2 s
    if r.err then (none, r.st)
    else if inFlash a then (some r.data.toNat, icacheFill a r.data.toNat { r.st with draws := r.st.draws + 1 })
    else (some r.data.toNat, r.st)

/-- A fetch of one halfword: its bus result, or the access fault. -/
def fetchHalf (a : Nat) (s : State) : Option Nat × State :=
  if pmpOk s s.cp.machine 2 a = false then (none, s)
  else if executable a then fetchBus a s
  else if reaches .cp (regionOf a) a && blockOff s a then (none, offAccess 0 a s)
  else (none, s)

/-- Retire an instruction: the pc moves on, minstret counts unless it is inhibited or was written. -/
def retire (before npc : Word) (s : State) : State :=
  let s := setPc npc s
  if bitOf (s.csr 0x320) 2 || s.csr 0xB02 != before then s else setCpCount 0xB02 (cpCount s 0xB02 + 1) s

/-- Debug mode is entered (R92): dpc and dcsr keep the place, the cause and the mode; every command line falls; DBGHALT. -/
def debugHalt (cause : Nat) (s : State) : State :=
  let s := s.setCsr 0x7B1 s.cp.pc
  let keep := s.csr 0x7B0 &&& 0x00009004
  let s := s.setCsr 0x7B0 (keep ||| BitVec.ofNat 32 (0x40000000 + cause * 2 ^ 6 + (if s.cp.machine then 3 else 0)))
  let s := s.updCp (fun c => { c with debug := true, wfi := false })
  sendRaiseAs 135 135 3 0xFF (debugLines s)

/-- What an instruction's effect leaves. -/
def settleEff (old : State) (raw : Word) (e : Option Eff) (s : State) : State :=
  match e with
  | none => cpTrap 2 raw s
  | some (.ok npc t) => retire (old.csr 0xB02) npc t
  | some (.trap c v t) => cpTrap c v t
  | some (.stall t) => t
  | some (.halt c t) => debugHalt c t

/-- The fetched bits at pc are executed. -/
def runHalf (h : Nat) (s : State) : State :=
  if h % 4 = 3 then
    let a := (s.cp.pc + 2).toNat
    match fetchHalf a s with
    | (none, t) => cpTrap 1 (s.cp.pc + 2) t
    | (some g, t) =>
      let w := h + g * 2 ^ 16
      settleEff t (BitVec.ofNat 32 w) (execWord w 4 t) t
  else match expandC h with
    | none => cpTrap 2 (BitVec.ofNat 32 h) s
    | some w => settleEff s (BitVec.ofNat 32 h) (execWord w 2 s) s

/-- One instruction at pc: a waiting CP goes on only with an interrupt pending and enabled. -/
def cpStep (s : State) : State :=
  if s.cp.wfi && (mipWord s &&& s.csr 0x304) == 0 then s
  else
    let s := s.updCp (fun c => { c with wfi := false })
    match trigHit s 2 s.cp.pc.toNat with
    | some d => settleEff s 0 (some (trigEff d s.cp.pc s)) s
    | none =>
      match fetchHalf s.cp.pc.toNat s with
      | (none, t) => cpTrap 1 s.cp.pc t
      | (some h, t) => runHalf h t

/-- After an instruction with dcsr.step set the CP is halted again. -/
def cpStepped (s : State) : State :=
  if !s.cp.debug && bitOf (s.csr 0x7B0) 2 && bitOf (s.spb 3) 0 then debugHalt 4 s else s

/-- CP_INSTRUCTION -/
def execCpInstruction (s : State) : Out := .next (if cpRuns s then cpStepped (cpStep (newCycle s)) else s)

/-- An instruction that the command names, as if it stood at pc. -/
def cpNamed (w : Nat) (s : State) : State :=
  if cpRuns s && !s.cp.wfi then
    let s := newCycle s
    cpStepped (settleEff s (BitVec.ofNat 32 w) (execWord w 4 s) s)
  else s

/-- CP_WFI -/
def execCpWfi (s : State) : Out := .next (cpNamed 0x10500073 s)

/-- CP_MRET -/
def execCpMret (s : State) : Out := .next (cpNamed 0x30200073 s)

/-- CP_FENCE_I: the instruction cache is invalidated. -/
def execCpFenceI (s : State) : Out := .next (cpNamed 0x0000100F s)

end Sys2Proof.Machine
end

