-- ==== Sys2Proof/Machine/Debug.lean ====
section
/-! DEFINITION. External debug (R92, R234): halt and resume, and the debug module of the RISC-V External Debug Support specification
0.13.2 with abstract register access, a two-word program buffer and 32-bit system bus access. The places of its registers and fields
are PRESUMED from that specification (log 96). -/

namespace Sys2Proof.Machine

/-- Change the debug module. -/
def State.updDm (s : State) (f : Dm → Dm) : State := s.updCp (fun c => { c with dm := f c.dm })

/-- Debug is available while bit 0 of SPB[3] is 1. -/
def debugOpen (s : State) : Bool := bitOf (s.spb 3) 0

/-- The halt ends (R234); a held injection into DBGHALT still lowers the lines. -/
def debugResume (s : State) : State :=
  let d := s.csr 0x7B0
  let s := s.updCp (fun c => { c with debug := false, machine := bitsOf d 1 0 == 3, pc := mget (fun _ => 0) c.csr 0x7B1 })
  s.putB F.PWM_STAT_DBGHALT (injHeld s 135 0)

/-! ### The program buffer -/

/-- One instruction of the program buffer: what it leaves, none where it ends in an exception. Transfers of control and what depends
on pc are illegal there; WFI does nothing. -/
def bufRun (w : Nat) (s : State) : Option State :=
  if w % 128 = 0x6F ∨ w % 128 = 0x67 ∨ w % 128 = 0x63 ∨ w % 128 = 0x17 ∨ w = 0x30200073 then none
  else if w = 0x10500073 then some s
  else match execWord w 4 s with
    | some (.ok _ t) => some t
    | _ => none

/-- The halfwords of the buffer from the first on: EBREAK and the end of the buffer end it. Does it end without an exception? -/
def bufFrom : List Nat → State → Bool × State
  | [], s => (true, s)
  | [h], s =>
    match (if h % 4 = 3 then none else expandC h) with
    | none => (false, s)
    | some w => if w = 0x00100073 then (true, s) else match bufRun w s with
      | none => (false, s)
      | some t => (true, t)
  | h :: g :: l, s =>
    if h % 4 = 3 then
      (if h + g * 2 ^ 16 = 0x00100073 then (true, s) else match bufRun (h + g * 2 ^ 16) s with
        | none => (false, s)
        | some t => bufFrom l t)
    else match expandC h with
      | none => (false, s)
      | some w => if w = 0x00100073 then (true, s) else match bufRun w s with
        | none => (false, s)
        | some t => bufFrom (g :: l) t

/-- The program buffer runs in machine mode's rights. -/
def bufExec (s : State) : Bool × State :=
  let was := s.cp.machine
  let pc := s.cp.pc
  let r := bufFrom (s.cp.dm.buf.flatMap (fun w => [w.toNat % 2 ^ 16, w.toNat / 2 ^ 16])) (s.updCp (fun c => { c with machine := true }))
  (r.1, r.2.updCp (fun c => { c with machine := was, pc := pc, wfi := false }))

/-! ### Abstract commands -/

/-- A command has failed. -/
def cmdErr (n : Nat) (s : State) : State := s.updDm (fun d => { d with cmderr := n })

/-- A register as an abstract command names it: CSRs from 0, x0–x31 from 0x1000, f0–f31 from 0x1020. -/
def dbgRead (s : State) (n : Nat) : Option Word :=
  if n < 0x1000 then csrRead s n
  else if n < 0x1020 then some (s.xreg (n - 0x1000))
  else if n < 0x1040 then some (s.freg (n - 0x1020))
  else none

/-- A write of one; none where it does not exist or only reads. -/
def dbgWrite (n : Nat) (v : Word) (s : State) : Option State :=
  if n < 0x1000 then (if n / 1024 = 3 ∨ csrRead s n = none then none else some (csrWrite n v s))
  else if n < 0x1020 then some (s.setX (n - 0x1000) v)
  else if n < 0x1040 then some (s.setF (n - 0x1020) v)
  else none

/-- The register transfer of a command through data0. -/
def cmdTransfer (c : Word) (s : State) : Option State :=
  let n := bitsOf c 15 0
  if bitOf c 17 = false then some s
  else if bitOf c 16 then dbgWrite n s.cp.dm.data0 s
  else (dbgRead s n).map (fun w => s.updDm (fun d => { d with data0 := w }))

/-- An Access Register command; every other one, another size and a post-increment are not supported. -/
def command (c : Word) (s : State) : State :=
  if s.cp.dm.cmderr ≠ 0 then s
  else
    let s := s.updDm (fun d => { d with command := c })
    if bitsOf c 31 24 ≠ 0 ∨ bitOf c 19 = true ∨ (bitOf c 17 = true ∧ bitsOf c 22 20 ≠ 2) then cmdErr 2 s
    else if s.cp.debug = false then cmdErr 4 s
    else match cmdTransfer c s with
      | none => cmdErr 3 s
      | some t =>
        if bitOf c 18 = false then t
        else
          let r := bufExec t
          if r.1 then r.2 else cmdErr 3 r.2

/-- An access to data0 (0) or a buffer word (16, 17) repeats the command where abstractauto says so. -/
def autoExec (bit : Nat) (s : State) : State := if bitOf s.cp.dm.auto bit then command s.cp.dm.command s else s

/-! ### System bus access -/

/-- sbaddress0 moves on with sbautoincrement. -/
def sbNext (s : State) : State :=
  if bitOf s.cp.dm.sbcs 16 then s.updDm (fun d => { d with sbAddr := d.sbAddr + 4 }) else s

/-- The access fails with an sberror. -/
def sbErr (n : Nat) (s : State) : State := s.updDm (fun d => { d with sbcs := putBits d.sbcs 14 12 n })

/-- An access may be made: sberror is clear. Its size must be 32 bits and its address aligned. -/
def sbTry (s : State) (act : State → State) : State :=
  if bitsOf s.cp.dm.sbcs 14 12 ≠ 0 then s
  else if bitsOf s.cp.dm.sbcs 19 17 ≠ 2 then sbErr 4 s
  else if s.cp.dm.sbAddr.toNat % 4 ≠ 0 then sbErr 3 s
  else act s

/-- A system bus read, made as the CP's. -/
def sbRead (s : State) : State :=
  sbTry s (fun t =>
    let r := busRead .cp t.cp.dm.sbAddr.toNat 4 t
    if r.err then sbErr 2 r.st else if r.stall then sbErr 7 r.st else sbNext (r.st.updDm (fun d => { d with sbData := r.data })))

/-- A system bus write. -/
def sbWrite (s : State) : State :=
  sbTry s (fun t =>
    let r := busWrite .cp t.cp.dm.sbAddr.toNat 4 t.cp.dm.sbData t
    if r.err then sbErr 2 r.st else if r.stall then sbErr 7 r.st else sbNext r.st)

/-! ### The module's registers -/

/-- dmstatus: version 2, authenticated, impebreak; halted or running, and resumeack. -/
def dmstatus (s : State) : Word :=
  BitVec.ofNat 32 (0x00400082 + (if s.cp.debug then 3 * 2 ^ 8 else 3 * 2 ^ 10) + (if s.cp.dm.resumeack then 3 * 2 ^ 16 else 0))

/-- A read by the debugger; a register that is not implemented reads 0. -/
def dmiRead (a : Nat) (s : State) : Word × State :=
  let d := s.cp.dm
  if debugOpen s = false then (0, s)
  else if a = 0x10 then (BitVec.ofNat 32 d.active.toNat, s)
  else if a = 0x11 then (dmstatus s, s)
  else if d.active = false then (0, s)
  else match a with
    | 0x04 => (d.data0, autoExec 0 s)
    | 0x16 => (BitVec.ofNat 32 (2 * 2 ^ 24 + d.cmderr * 2 ^ 8 + 1), s)
    | 0x18 => (d.auto, s)
    | 0x20 => (d.buf.getD 0 0, autoExec 16 s)
    | 0x21 => (d.buf.getD 1 0, autoExec 17 s)
    | 0x38 => (d.sbcs ||| 0x20000404, s)
    | 0x39 => (d.sbAddr, s)
    | 0x3C => (d.sbData, if bitOf d.sbcs 15 && bitsOf d.sbcs 14 12 == 0 then sbRead s else s)
    | _ => (0, s)

/-- dmcontrol: dmactive = 0 resets the module; a resume request resumes a halted CP, a halt request halts a running one. -/
def dmcontrolWrite (w : Word) (s : State) : State :=
  if bitOf w 0 = false then s.updDm (fun _ => {})
  else
    let s := s.updDm (fun d => { d with active := true })
    if bitOf w 31 then (if cpRuns s then debugHalt 3 s else s)
    else if bitOf w 30 && s.cp.debug then (debugResume s).updDm (fun d => { d with resumeack := true })
    else s

/-- A write by the debugger. While debug is not available dmactive is ignored. -/
def dmiWrite (a : Nat) (w : Word) (s : State) : State :=
  if debugOpen s = false then s
  else if a = 0x10 then dmcontrolWrite w s
  else if s.cp.dm.active = false then s
  else match a with
    | 0x04 => autoExec 0 (s.updDm (fun d => { d with data0 := w }))
    | 0x16 => s.updDm (fun d => { d with cmderr := d.cmderr &&& (7 - bitsOf w 10 8) })
    | 0x17 => command w s
    | 0x18 => s.updDm (fun d => { d with auto := w &&& 0x00030001 })
    | 0x20 => autoExec 16 (s.updDm (fun d => { d with buf := d.buf.set 0 w }))
    | 0x21 => autoExec 17 (s.updDm (fun d => { d with buf := d.buf.set 1 w }))
    | 0x38 => s.updDm (fun d => { d with
        sbcs := (w &&& 0x001F8000) ||| BitVec.ofNat 32 ((bitsOf d.sbcs 14 12 &&& (7 - bitsOf w 14 12)) * 2 ^ 12) })
    | 0x39 =>
      let s := s.updDm (fun d => { d with sbAddr := w })
      if bitOf s.cp.dm.sbcs 20 then sbRead s else s
    | 0x3C => sbWrite (s.updDm (fun d => { d with sbData := w }))
    | _ => s

/-- One access of the debugger: a write, or a read whose word is kept. -/
def dmiAccess (s : State) (e : BitVec 7 × Option Word) : State :=
  match e.2 with
  | some w => dmiWrite e.1.toNat w s
  | none =>
    let r := dmiRead e.1.toNat s
    r.2.updDm (fun d => { d with out := r.1 })

/-! ### The commands -/

/-- DEBUG_HALT: possible while bit 0 of SPB[3] is 1; the accesses follow. -/
def execDebugHalt (acc : List (BitVec 7 × Option Word)) (s : State) : Out :=
  let s := if cpRuns s && debugOpen s then debugHalt 3 s else s
  .next (acc.foldl dmiAccess s)

/-- DEBUG_RESUME -/
def execDebugResume (s : State) : Out := if s.cp.debug then .next (debugResume s) else .next s

end Sys2Proof.Machine
end

