-- ==== Sys2Proof/Machine/Dormant.lean ====
section
/-! DEFINITION. DORMANT: the entry steps after E1 (R77, R78, R354), the wake events (R37, R43, R83), the always-on counters (R81)
and the Glints (R82, R83). -/

namespace Sys2Proof.Machine

/-! ### Waking -/

/-- A WAKE edge in WAKEFAIL (R43). A D-die that runs is put into reset and its domains go off by E3–E6 first; the wake delay
starts then. -/
def wakeFromFail (at_ : Nat) (s : State) : State :=
  let s := (s.put F.AON_WAKESRC_WAKE 1).updPwr (fun p => { p with wakeAt := at_ })
  if s.pwr.dcore then
    (dieReset s).updPwr (fun p => { p with entry := 2, saved := false, replay := false, seq := .asleep, hbArmed := false })
  else wakeNow 2 false s

/-- WAKE_RISE -/
def execWakeRise (at_ : Nat) (s : State) : Out :=
  let s := (advanceTo at_ s).updPwr (fun p => { p with wakePin := true })
  if s.mode = .boot ∧ s.sub = .wakefail then
    (if s.pwr.entry = 0 then .next (wakeFromFail at_ s) else .next s)
  else .next (wakeEvent F.AON_WAKESRC_WAKE 2 at_ s)

/-! ### Entry (R77) -/

/-- The direction of each always-on counter goes over to the always-on domain as the FBK block is reset. -/
def aonTake (s : State) : State :=
  let one := fun n => ({
    quad := (s.fb n).quad, quadKnown := (s.fb n).quadKnown && s.flag (F.FBK_CFG_SCEN n),
    dir := (s.fb n).dir, dirKnown := (s.fb n).dirKnown && s.flag (F.FBK_CFG_SCEN n),
    pend := s.flag (F.FBK_STAT_PEND n) } : AonDir)
  s.updPwr (fun p => { p with aonDir := mset (fun _ => {}) (mset (fun _ => {}) [] 0 (one 0)) 1 (one 1) })

/-- The entry to DORMANT locks the password (R359); the D-die is held in reset for good; the mode is DORMANT; HWM.LIFE is saved
(R361). -/
def entryReset (s : State) : State :=
  let s := lifeSave (enterMode .dormant .none (dieReset (aonTake (pwLock 2 3 s))))
  s.updPwr (fun p => { p with
    seq := .asleep, hbArmed := false, hbDue := false, hbWait := false, hbReset := false, rstDue := none, relbist := false })

/-- Step E5: VCEN low and the core off, with what its memories held. -/
def coreDown (s : State) : State :=
  let s := ((coreOff s).put F.CLK_STAT_PLLLOCK 0).put F.CLK_STAT_XTALOK 0
  (s.put F.CLK_STAT_EXTREF 0).updPwr (fun p => { p with vcen := false, dcore := false, pgood := false, crystal := false })

/-- One of the steps E2–E5. -/
def entryStep (s : State) : State :=
  match s.pwr.entry with
  | 1 => (entryReset s).updPwr (fun p => { p with entry := 2 })
  | 2 => s.updPwr (fun p => { p with entry := 3, ioOn := false })
  | 3 => s.updPwr (fun p => { p with entry := 4, flashOn := false })
  | 4 => (coreDown s).updPwr (fun p => { p with entry := 5 })
  | _ => s

/-- DORMANT_ENTRY_STEP -/
def execDormantEntryStep (s : State) : Out := .next (entryStep s)

/-- Step E6: the HWM, the analog domain and the reference are off; what the guardian had calibrated is lost, and the supervisors show nothing any more. A wake event that
came during the entry starts its delay now (R78), as does the WAKE edge that ended WAKEFAIL (R43). -/
def entryEnd (s : State) : State :=
  let s := (s.setReg R.PWR_SUPSTAT 0).updHwm (fun h => { h with vsOff := [false, false] })
  let s := settleSupplies { s.updPwr (fun p => { p with entry := 0, hwmOn := false, glints := 0, glintOn := false }) with grd := {} }
  if s.mode = .boot then wakeNow 2 false s
  else
    let s := settle s
    if s.pwr.replay then wakeNow 6 s.pwr.saved s else s

/-- DORMANT_ENTRY_COMPLETE -/
def execDormantEntryComplete (at_ : Nat) (s : State) : Out :=
  let s := advanceTo at_ s
  if s.pwr.entry = 5 then .next (entryEnd s) else .next s

/-- LIMP_DORMANT_TIMEOUT (R354): the HWM runs the steps from E3 on, without a save. -/
def limpDormant (s : State) : State :=
  let s := (entryReset (entryStart 2 s)).put F.HWM_STAT_LIMP 0
  s.updPwr (fun p => { p with saved := false })

/-- LIMP_DORMANT_TIMEOUT -/
def execLimpDormantTimeout (s : State) : Out :=
  if s.mode = .limp ∧ s.pwr.wakePin = false ∧ pedalDemand s = 0 then .next (limpDormant s) else .next s

/-! ### The always-on counters (R81) -/

/-- Are the comparators of FBn powered? -/
def aonPowered (s : State) (n : Nat) : Bool := s.mode != .dormant || bitOf (s.reg R.AON_PCCTL) (2 + n)

/-- The direction of an edge (R81, R249): up while the comparators are off; in powered modes by the FBK block; in DORMANT by what
the always-on domain has seen. -/
def aonUp (s : State) (n : Nat) : Bool :=
  if s.mode = .dormant then
    let d := mget (fun _ => ({} : AonDir)) s.pwr.aonDir n
    !aonPowered s n || !d.dirKnown || d.pend || d.dir
  else edgeDir s n

/-- A rising edge of the pulse train counts. -/
def pcntEdge (n at_ : Nat) (s : State) : State :=
  if bitOf (s.reg R.AON_PCCTL) n then
    let c := s.get (pcntFld n)
    let s := if aonPowered s n then s else s.put (if n = 0 then F.AON_PCCTL_UPONLY0 else F.AON_PCCTL_UPONLY1) 1
    let s := s.put (pcntFld n) ((if aonUp s n then c + 1 else c + 2 ^ 24 - 1) % 2 ^ 24)
    pcntWake n at_ s
  else s

/-- AON_COUNTER_EDGE -/
def execAonCounterEdge (n : Fin 2) (at_ : Nat) (s : State) : Out := .next (pcntEdge n.val at_ (advanceTo at_ s))

/-- PCNT_WRITE: the count, and after it the edge of the same always-on RC cycle. -/
def execPcntWrite (n : Fin 2) (v : BitVec 24) (edge : Bool) (at_ : Nat) (s : State) : Out :=
  let s := crossing .cp (R.AON_PCNT n.val) (pcntSet n.val v.toNat) (advanceTo at_ s)
  .next (if edge then pcntEdge n.val at_ s else s)

/-! ### Glints (R82, R83) -/

/-- GLINT_START: the interval timer runs in DORMANT, from the completed entry on. The supplies in Glint mode and ADC0 go on. -/
def execGlintStart (s : State) : Out :=
  if wakeAtOf s = .asleep ∧ s.flag F.AON_GLCFG_EN = true ∧ s.pwr.glintOn = false then
    .next (settleSupplies (s.updPwr (fun p => { p with glintOn := true })))
  else .next s

/-- One channel's result and its window. -/
def glintOne (codes : List (BitVec 14)) (n : Nat) (s : State) : State :=
  if s.get (F.AON_GLCH_SRC n) = 15 then s
  else
    let v := (codes.getD n 0).toNat
    let out := decide (v < s.get (F.AON_GLCH_LO n) ∨ s.get (F.AON_GLCH_HI n) < v)
    (s.put (F.AON_GLRES_VALUE n) v).putB (F.AON_GLRES_VIOL n) out

/-- The channels that lie outside their windows after a Glint. -/
def glintBad (s : State) : List Nat :=
  (List.range 8).filter (fun n => s.get (F.AON_GLCH_SRC n) != 15 && s.flag (F.AON_GLRES_VIOL n))

/-- The end of a Glint: the supplies and ADC0 go off; the count of violating Glints, and the wake where it is enabled. -/
def glintFinish (codes : List (BitVec 14)) (at_ : Nat) (s : State) : State :=
  let s := forAll (List.range 8) (glintOne codes) (settleSupplies (s.updPwr (fun p => { p with glintOn := false })))
  match glintBad s with
  | [] => s.updPwr (fun p => { p with glints := 0 })
  | ch :: _ =>
    let s := s.updPwr (fun p => { p with glints := p.glints + 1 })
    if s.get F.AON_GLCFG_CONFIRM < s.pwr.glints ∧ s.flag F.AON_WAKEEN_GLINT = true then
      wakeEvent F.AON_WAKESRC_GLINT 3 at_ (s.put F.AON_WAKESRC_GLCH ch)
    else s

/-- GLINT_END -/
def execGlintEnd (codes : List (BitVec 14)) (at_ : Nat) (s : State) : Out :=
  let s := advanceTo at_ s
  if s.pwr.glintOn then .next (glintFinish codes at_ s) else .next s

end Sys2Proof.Machine
end

