-- ==== Sys2Proof/Machine/Dispatch.lean ====
section
/-! DEFINITION. The one dispatch: an arm for each command, a direct call of its meaning. -/

namespace Sys2Proof.Machine

def exec (i : Instr) (s : State) : Host.Outcome State Fault Refusal :=
  match i with
  | .vbatPowerOn at_ => Sys2Proof.Machine.execVbatPowerOn at_ s
  | .vbatPowerLoss => Sys2Proof.Machine.execVbatPowerLoss s
  | .pwrseqStep1 => Sys2Proof.Machine.execPwrseqStep1 s
  | .pwrseqStep2 => Sys2Proof.Machine.execPwrseqStep2 s
  | .pwrseqStep3 => Sys2Proof.Machine.execPwrseqStep3 s
  | .pgoodCoreRise => Sys2Proof.Machine.execPgoodCoreRise s
  | .pwrseqStep4 => Sys2Proof.Machine.execPwrseqStep4 s
  | .pwrseqStep5 => Sys2Proof.Machine.execPwrseqStep5 s
  | .pwrseqStep6 => Sys2Proof.Machine.execPwrseqStep6 s
  | .crystalReady => Sys2Proof.Machine.execCrystalReady s
  | .pllLock => Sys2Proof.Machine.execPllLock s
  | .pwrseqStep7 at_ => Sys2Proof.Machine.execPwrseqStep7 at_ s
  | .crystalTimeout => Sys2Proof.Machine.execCrystalTimeout s
  | .pgoodCoreTimeout => Sys2Proof.Machine.execPgoodCoreTimeout s
  | .pwrseqRetry => Sys2Proof.Machine.execPwrseqRetry s
  | .pgoodCoreLow at_ => Sys2Proof.Machine.execPgoodCoreLow at_ s
  | .startupLbistWaveDone ends => Sys2Proof.Machine.execStartupLbistWaveDone ends s
  | .restoreComplete => Sys2Proof.Machine.execRestoreComplete s
  | .listenWindowEnd => Sys2Proof.Machine.execListenWindowEnd s
  | .deviceReset cause at_ => Sys2Proof.Machine.execDeviceReset cause at_ s
  | .deviceResetRelease => Sys2Proof.Machine.execDeviceResetRelease s
  | .hbeatLoss at_ => Sys2Proof.Machine.execHbeatLoss at_ s
  | .heartbeatReset at_ => Sys2Proof.Machine.execHeartbeatReset at_ s
  | .heartbeatResetRelease => Sys2Proof.Machine.execHeartbeatResetRelease s
  | .hbeatRestoreTimeout at_ => Sys2Proof.Machine.execHbeatRestoreTimeout at_ s
  | .wakeRise at_ => Sys2Proof.Machine.execWakeRise at_ s
  | .integrateTimeout => Sys2Proof.Machine.execIntegrateTimeout s
  | .modereqBoot key cyc => Sys2Proof.Machine.execModereqBoot key cyc s
  | .modereqService key cyc => Sys2Proof.Machine.execModereqService key cyc s
  | .modereqIntegrate key cyc => Sys2Proof.Machine.execModereqIntegrate key cyc s
  | .modereqStandby key cyc => Sys2Proof.Machine.execModereqStandby key cyc s
  | .modereqActive key cyc => Sys2Proof.Machine.execModereqActive key cyc s
  | .modereqSafe key cyc => Sys2Proof.Machine.execModereqSafe key cyc s
  | .modereqDormant key cyc => Sys2Proof.Machine.execModereqDormant key cyc s
  | .modereqLimp key cyc => Sys2Proof.Machine.execModereqLimp key cyc s
  | .dormantEntryStep => Sys2Proof.Machine.execDormantEntryStep s
  | .dormantEntryComplete at_ => Sys2Proof.Machine.execDormantEntryComplete at_ s
  | .glintStart => Sys2Proof.Machine.execGlintStart s
  | .glintEnd codes at_ => Sys2Proof.Machine.execGlintEnd codes at_ s
  | .aonCounterEdge n at_ => Sys2Proof.Machine.execAonCounterEdge n at_ s
  | .pcntWrite n v edge at_ => Sys2Proof.Machine.execPcntWrite n v edge at_ s
  | .referenceLoss => Sys2Proof.Machine.execReferenceLoss s
  | .refMonitorWindow ticks => Sys2Proof.Machine.execRefMonitorWindow ticks s
  | .clkGateWrite v => Sys2Proof.Machine.execClkGateWrite v s
  | .domctlWrite v => Sys2Proof.Machine.execDomctlWrite v s
  | .supplySupervisorChange sup live => Sys2Proof.Machine.execSupplySupervisorChange sup live s
  | .sensorSupplyOvercurrent vsb => Sys2Proof.Machine.execSensorSupplyOvercurrent vsb s
  | .bridgeFrameReceive crcOk => Sys2Proof.Machine.execBridgeFrameReceive crcOk s
  | .bridgeAccessDone => Sys2Proof.Machine.execBridgeAccessDone s
  | .brgerrcntClr repeatSameCycle => Sys2Proof.Machine.execBrgerrcntClr repeatSameCycle s
  | .cpInstruction => Sys2Proof.Machine.execCpInstruction s
  | .cpWfi => Sys2Proof.Machine.execCpWfi s
  | .cpMret => Sys2Proof.Machine.execCpMret s
  | .cpFenceI => Sys2Proof.Machine.execCpFenceI s
  | .cpExternalInterrupt => Sys2Proof.Machine.execCpExternalInterrupt s
  | .cpTimerInterrupt => Sys2Proof.Machine.execCpTimerInterrupt s
  | .debugHalt acc => Sys2Proof.Machine.execDebugHalt acc s
  | .debugResume => Sys2Proof.Machine.execDebugResume s
  | .icuSwset v => Sys2Proof.Machine.execIcuSwset v s
  | .scrubRead m late clash flips stray upsets => Sys2Proof.Machine.execScrubRead m late clash flips stray upsets s
  | .arbRequest b rq wr word beats last at_ => Sys2Proof.Machine.execArbRequest b rq wr word beats last at_ s
  | .arbTransferComplete b at_ => Sys2Proof.Machine.execArbTransferComplete b at_ s
  | .arbGrantCutoff b => Sys2Proof.Machine.execArbGrantCutoff b s
  | .arbAcquire rq b at_ => Sys2Proof.Machine.execArbAcquire rq b at_ s
  | .arbRelease rq b at_ => Sys2Proof.Machine.execArbRelease rq b at_ s
  | .arbLockHoldExpiry b => Sys2Proof.Machine.execArbLockHoldExpiry b s
  | .mirrorMismatch pair => Sys2Proof.Machine.execMirrorMismatch pair s
  | .syncParityError => Sys2Proof.Machine.execSyncParityError s
  | .bistCopyDone e => Sys2Proof.Machine.execBistCopyDone e s
  | .flowTrigger src at_ => Sys2Proof.Machine.execFlowTrigger src at_ s
  | .flowRootEntry n at_ => Sys2Proof.Machine.execFlowRootEntry n at_ s
  | .tokenArrival node at_ => Sys2Proof.Machine.execTokenArrival node at_ s
  | .nodeComplete f node at_ => Sys2Proof.Machine.execNodeComplete f node at_ s
  | .flowComplete n at_ => Sys2Proof.Machine.execFlowComplete n at_ s
  | .prsRun run => Sys2Proof.Machine.execPrsRun run s
  | .prsMonclr at_ => Sys2Proof.Machine.execPrsMonclr at_ s
  | .scanComplete at_ => Sys2Proof.Machine.execScanComplete at_ s
  | .monitorWindowEnd f at_ => Sys2Proof.Machine.execMonitorWindowEnd f at_ s
  | .prsTimerExpiry n => Sys2Proof.Machine.execPrsTimerExpiry n s
  | .prsSwtrig set => Sys2Proof.Machine.execPrsSwtrig set s
  | .nexccntClr => Sys2Proof.Machine.execNexccntClr s
  | .wcollClr => Sys2Proof.Machine.execWcollClr s
  | .flowstClr n => Sys2Proof.Machine.execFlowstClr n s
  | .nodeReservedOpcode f at_ => Sys2Proof.Machine.execNodeReservedOpcode f at_ s
  | .nop f at_ => Sys2Proof.Machine.execNop f at_ s
  | .mov f at_ => Sys2Proof.Machine.execMov f at_ s
  | .ldii f at_ => Sys2Proof.Machine.execLdii f at_ s
  | .ldiq f at_ => Sys2Proof.Machine.execLdiq f at_ s
  | .ldif f at_ => Sys2Proof.Machine.execLdif f at_ s
  | .cvtqf f at_ => Sys2Proof.Machine.execCvtqf f at_ s
  | .cvtfq f at_ => Sys2Proof.Machine.execCvtfq f at_ s
  | .cvtif f at_ => Sys2Proof.Machine.execCvtif f at_ s
  | .cvtfi f at_ => Sys2Proof.Machine.execCvtfi f at_ s
  | .qadd f at_ => Sys2Proof.Machine.execQadd f at_ s
  | .qsub f at_ => Sys2Proof.Machine.execQsub f at_ s
  | .qmul f at_ => Sys2Proof.Machine.execQmul f at_ s
  | .qmac f at_ => Sys2Proof.Machine.execQmac f at_ s
  | .qneg f at_ => Sys2Proof.Machine.execQneg f at_ s
  | .qabs f at_ => Sys2Proof.Machine.execQabs f at_ s
  | .qshl f at_ => Sys2Proof.Machine.execQshl f at_ s
  | .qmin f at_ => Sys2Proof.Machine.execQmin f at_ s
  | .qmax f at_ => Sys2Proof.Machine.execQmax f at_ s
  | .qlim f at_ => Sys2Proof.Machine.execQlim f at_ s
  | .qcmp f at_ => Sys2Proof.Machine.execQcmp f at_ s
  | .fadd f at_ => Sys2Proof.Machine.execFadd f at_ s
  | .fsub f at_ => Sys2Proof.Machine.execFsub f at_ s
  | .fmul f at_ => Sys2Proof.Machine.execFmul f at_ s
  | .fmac f at_ => Sys2Proof.Machine.execFmac f at_ s
  | .fneg f at_ => Sys2Proof.Machine.execFneg f at_ s
  | .fabs f at_ => Sys2Proof.Machine.execFabs f at_ s
  | .fdiv f at_ => Sys2Proof.Machine.execFdiv f at_ s
  | .fsqrt f at_ => Sys2Proof.Machine.execFsqrt f at_ s
  | .fmin f at_ => Sys2Proof.Machine.execFmin f at_ s
  | .fmax f at_ => Sys2Proof.Machine.execFmax f at_ s
  | .flim f at_ => Sys2Proof.Machine.execFlim f at_ s
  | .fcmp f at_ => Sys2Proof.Machine.execFcmp f at_ s
  | .fsincos f at_ => Sys2Proof.Machine.execFsincos f at_ s
  | .iadd f at_ => Sys2Proof.Machine.execIadd f at_ s
  | .isub f at_ => Sys2Proof.Machine.execIsub f at_ s
  | .and f at_ => Sys2Proof.Machine.execAnd f at_ s
  | .or f at_ => Sys2Proof.Machine.execOr f at_ s
  | .xor f at_ => Sys2Proof.Machine.execXor f at_ s
  | .ishl f at_ => Sys2Proof.Machine.execIshl f at_ s
  | .ishr f at_ => Sys2Proof.Machine.execIshr f at_ s
  | .icmp f at_ => Sys2Proof.Machine.execIcmp f at_ s
  | .sel f at_ => Sys2Proof.Machine.execSel f at_ s
  | .clarke f at_ => Sys2Proof.Machine.execClarke f at_ s
  | .park f at_ => Sys2Proof.Machine.execPark f at_ s
  | .ipark f at_ => Sys2Proof.Machine.execIpark f at_ s
  | .svm f at_ => Sys2Proof.Machine.execSvm f at_ s
  | .svec f at_ => Sys2Proof.Machine.execSvec f at_ s
  | .pi f at_ => Sys2Proof.Machine.execPi f at_ s
  | .biq f at_ => Sys2Proof.Machine.execBiq f at_ s
  | .mv44 f at_ => Sys2Proof.Machine.execMv44 f at_ s
  | .tint f at_ => Sys2Proof.Machine.execTint f at_ s
  | .obs f at_ => Sys2Proof.Machine.execObs f at_ s
  | .argmin f at_ => Sys2Proof.Machine.execArgmin f at_ s
  | .ramp f at_ => Sys2Proof.Machine.execRamp f at_ s
  | .dqlim f at_ => Sys2Proof.Machine.execDqlim f at_ s
  | .adcrd f at_ => Sys2Proof.Machine.execAdcrd f at_ s
  | .pwmwr f at_ => Sys2Proof.Machine.execPwmwr f at_ s
  | .obsrd f at_ => Sys2Proof.Machine.execObsrd f at_ s
  | .flag f at_ => Sys2Proof.Machine.execFlag f at_ s
  | .trace f at_ => Sys2Proof.Machine.execTrace f at_ s
  | .tstamp f at_ => Sys2Proof.Machine.execTstamp f at_ s
  | .lupStart b => Sys2Proof.Machine.execLupStart b s
  | .lupSwtrg b => Sys2Proof.Machine.execLupSwtrg b s
  | .lupAbort b => Sys2Proof.Machine.execLupAbort b s
  | .adcSequenceComplete k repeats => Sys2Proof.Machine.execAdcSequenceComplete k repeats s
  | .adcBackgroundFrame k sin cos dc at_ => Sys2Proof.Machine.execAdcBackgroundFrame k sin cos dc at_ s
  | .adcStatClr k => Sys2Proof.Machine.execAdcStatClr k s
  | .zxStart k => Sys2Proof.Machine.execZxStart k s
  | .bemfEdge k code at_ => Sys2Proof.Machine.execBemfEdge k code at_ s
  | .zxTimeout k => Sys2Proof.Machine.execZxTimeout k s
  | .overvoltageStage2 => Sys2Proof.Machine.execOvervoltageStage2 s
  | .stage2ReleaseTimer => Sys2Proof.Machine.execStage2ReleaseTimer s
  | .vdsSignChange k at_ => Sys2Proof.Machine.execVdsSignChange k at_ s
  | .alloffConditionMet g => Sys2Proof.Machine.execAlloffConditionMet g s
  | .pwmValley g codes vdsL vdsH at_ => Sys2Proof.Machine.execPwmValley g codes vdsL vdsH at_ s
  | .pwmGroupEnable g => Sys2Proof.Machine.execPwmGroupEnable g s
  | .pwmGroupDisable g => Sys2Proof.Machine.execPwmGroupDisable g s
  | .dutyWrite k v => Sys2Proof.Machine.execDutyWrite k v s
  | .delayLineCalibration g taps => Sys2Proof.Machine.execDelayLineCalibration g taps s
  | .syncReferenceEvent g synci => Sys2Proof.Machine.execSyncReferenceEvent g synci s
  | .syncReferenceLoss g => Sys2Proof.Machine.execSyncReferenceLoss g s
  | .fltActive m level n at_ => Sys2Proof.Machine.execFltActive m level n at_ s
  | .fltInactive m level n at_ => Sys2Proof.Machine.execFltInactive m level n at_ s
  | .tripClear bits => Sys2Proof.Machine.execTripClear bits s
  | .fltcfgWrite m v => Sys2Proof.Machine.execFltcfgWrite m v s
  | .fltcntClr m => Sys2Proof.Machine.execFltcntClr m s
  | .leadgrpWrite v => Sys2Proof.Machine.execLeadgrpWrite v s
  | .handshakeTimeout k high at_ => Sys2Proof.Machine.execHandshakeTimeout k high at_ s
  | .vdsDetection k high gross mv gateUp same at_ => Sys2Proof.Machine.execVdsDetection k high gross mv gateUp same at_ s
  | .vdsEventWindowEnd => Sys2Proof.Machine.execVdsEventWindowEnd s
  | .softOffStep2 g at_ => Sys2Proof.Machine.execSoftOffStep2 g at_ s
  | .softOffSafeState g at_ => Sys2Proof.Machine.execSoftOffSafeState g at_ s
  | .gdrEvtClr => Sys2Proof.Machine.execGdrEvtClr s
  | .bootstrapUndervoltage k vbs => Sys2Proof.Machine.execBootstrapUndervoltage k vbs s
  | .bootstrapOk k vbs => Sys2Proof.Machine.execBootstrapOk k vbs s
  | .reactionFrameArrival => Sys2Proof.Machine.execReactionFrameArrival s
  | .pulseTrainEdge n at_ => Sys2Proof.Machine.execPulseTrainEdge n at_ s
  | .heldEdgeTimeout n at_ => Sys2Proof.Machine.execHeldEdgeTimeout n at_ s
  | .gateOutTimeout n => Sys2Proof.Machine.execGateOutTimeout n s
  | .quadratureTransition n a b => Sys2Proof.Machine.execQuadratureTransition n a b s
  | .illegalUnresolvedTimeout n => Sys2Proof.Machine.execIllegalUnresolvedTimeout n s
  | .observerUpdate n => Sys2Proof.Machine.execObserverUpdate n s
  | .idxArm n => Sys2Proof.Machine.execIdxArm n s
  | .fbrst n => Sys2Proof.Machine.execFbrst n s
  | .obsSeedAngle n v => Sys2Proof.Machine.execObsSeedAngle n v s
  | .obsSeedCommit n v => Sys2Proof.Machine.execObsSeedCommit n v s
  | .obsBwWrite n bw => Sys2Proof.Machine.execObsBwWrite n bw s
  | .qcntWrite n v => Sys2Proof.Machine.execQcntWrite n v s
  | .fbkEvcntClr n => Sys2Proof.Machine.execFbkEvcntClr n s
  | .wsTooth w at_ => Sys2Proof.Machine.execWsTooth w at_ s
  | .wsFault w short => Sys2Proof.Machine.execWsFault w short s
  | .wsFaultClear w short => Sys2Proof.Machine.execWsFaultClear w short s
  | .wsStandstill w => Sys2Proof.Machine.execWsStandstill w s
  | .sentFrame n sync nibbles pause at_ => Sys2Proof.Machine.execSentFrame n sync nibbles pause at_ s
  | .sentErrClr n => Sys2Proof.Machine.execSentErrClr n s
  | .phyLinkFail p => Sys2Proof.Machine.execPhyLinkFail p s
  | .phyLinkUp p => Sys2Proof.Machine.execPhyLinkUp p s
  | .phySqiUpdate p sqi => Sys2Proof.Machine.execPhySqiUpdate p sqi s
  | .kringFrameStart p header sof => Sys2Proof.Machine.execKringFrameStart p header sof s
  | .frameCheckDone p slot frame sof => Sys2Proof.Machine.execFrameCheckDone p slot frame sof s
  | .txPayloadFetch slot => Sys2Proof.Machine.execTxPayloadFetch slot s
  | .ownFrameSend slot at_ => Sys2Proof.Machine.execOwnFrameSend slot at_ s
  | .cycleStart lsb => Sys2Proof.Machine.execCycleStart lsb s
  | .actionInstant => Sys2Proof.Machine.execActionInstant s
  | .clockCorrection => Sys2Proof.Machine.execClockCorrection s
  | .linkExchangeRequest at_ns => Sys2Proof.Machine.execLinkExchangeRequest at_ns s
  | .linkExchangeReply p => Sys2Proof.Machine.execLinkExchangeReply p s
  | .linkExchangeReceive p reqTime repTime => Sys2Proof.Machine.execLinkExchangeReceive p reqTime repTime s
  | .guardianCstart interval => Sys2Proof.Machine.execGuardianCstart interval s
  | .guardianCstartTimeout => Sys2Proof.Machine.execGuardianCstartTimeout s
  | .guardianWindowEdge off => Sys2Proof.Machine.execGuardianWindowEdge off s
  | .listenTimeout at_ => Sys2Proof.Machine.execListenTimeout at_ s
  | .backoffExpiry at_ => Sys2Proof.Machine.execBackoffExpiry at_ s
  | .krgEnable v => Sys2Proof.Machine.execKrgEnable v s
  | .krgSwreq swmode => Sys2Proof.Machine.execKrgSwreq swmode s
  | .krgFlipreq => Sys2Proof.Machine.execKrgFlipreq s
  | .krgKeyWrite slot w v => Sys2Proof.Machine.execKrgKeyWrite slot w v s
  | .krgCntclr => Sys2Proof.Machine.execKrgCntclr s
  | .portstatRead p => Sys2Proof.Machine.execPortstatRead p s
  | .canFrameReceive c fr at_ => Sys2Proof.Machine.execCanFrameReceive c fr at_ s
  | .canFrameSent c elem meas => Sys2Proof.Machine.execCanFrameSent c elem meas s
  | .canTxgo c v => Sys2Proof.Machine.execCanTxgo c v s
  | .canTxabort c v => Sys2Proof.Machine.execCanTxabort c v s
  | .canRxack c v => Sys2Proof.Machine.execCanRxack c v s
  | .canError c kind tec rec => Sys2Proof.Machine.execCanError c kind tec rec s
  | .canBusOff c => Sys2Proof.Machine.execCanBusOff c s
  | .canBusOffRecovery c => Sys2Proof.Machine.execCanBusOffRecovery c s
  | .canConfWrite c v => Sys2Proof.Machine.execCanConfWrite c v s
  | .lnkComparison at_ => Sys2Proof.Machine.execLnkComparison at_ s
  | .leadFrame bits => Sys2Proof.Machine.execLeadFrame bits s
  | .lnkRelease => Sys2Proof.Machine.execLnkRelease s
  | .pisOpenRequest mask => Sys2Proof.Machine.execPisOpenRequest mask s
  | .pisOpen g moment => Sys2Proof.Machine.execPisOpen g moment s
  | .pisCloseRequest mask => Sys2Proof.Machine.execPisCloseRequest mask s
  | .cfgLflip => Sys2Proof.Machine.execCfgLflip s
  | .cfgShaddrWrite v => Sys2Proof.Machine.execCfgShaddrWrite v s
  | .shadowWrite who addr v => Sys2Proof.Machine.execShadowWrite who addr v s
  | .releaseGroup mask => Sys2Proof.Machine.execReleaseGroup mask s
  | .releaseHalt => Sys2Proof.Machine.execReleaseHalt s
  | .enableChange level => Sys2Proof.Machine.execEnableChange level s
  | .pedalWindow raw => Sys2Proof.Machine.execPedalWindow raw s
  | .limpChopPeriod g => Sys2Proof.Machine.execLimpChopPeriod g s
  | .limpCurrentLimit g v => Sys2Proof.Machine.execLimpCurrentLimit g v s
  | .limpSectorChange g ha hb hc => Sys2Proof.Machine.execLimpSectorChange g ha hb hc s
  | .limpSectorDelayEnd g => Sys2Proof.Machine.execLimpSectorDelayEnd g s
  | .limpDormantTimeout => Sys2Proof.Machine.execLimpDormantTimeout s
  | .spbWrite who idx v at_ => Sys2Proof.Machine.execSpbWrite who idx v at_ s
  | .spbCommit => Sys2Proof.Machine.execSpbCommit s
  | .spbFlashCopy => Sys2Proof.Machine.execSpbFlashCopy s
  | .passwordWord who w at_ => Sys2Proof.Machine.execPasswordWord who w at_ s
  | .passwordLock who => Sys2Proof.Machine.execPasswordLock who s
  | .passwordTimeout => Sys2Proof.Machine.execPasswordTimeout s
  | .passwordLockoutEnd => Sys2Proof.Machine.execPasswordLockoutEnd s
  | .rwpWrite who addr v at_ => Sys2Proof.Machine.execRwpWrite who addr v at_ s
  | .lifeSecond => Sys2Proof.Machine.execLifeSecond s
  | .detcntClr => Sys2Proof.Machine.execDetcntClr s
  | .bstStart => Sys2Proof.Machine.execBstStart s
  | .bstAbort => Sys2Proof.Machine.execBstAbort s
  | .bistWatchdog => Sys2Proof.Machine.execBistWatchdog s
  | .analogStepStart => Sys2Proof.Machine.execAnalogStepStart s
  | .analogStepAbort => Sys2Proof.Machine.execAnalogStepAbort s
  | .analogStepDone results value => Sys2Proof.Machine.execAnalogStepDone results value s
  | .mgnOffsetSlot k code near => Sys2Proof.Machine.execMgnOffsetSlot k code near s
  | .mgnSlackWindow slacks => Sys2Proof.Machine.execMgnSlackWindow slacks s
  | .mgnDtEvaluation k => Sys2Proof.Machine.execMgnDtEvaluation k s
  | .mgnThrEvaluation k => Sys2Proof.Machine.execMgnThrEvaluation k s
  | .vidStepDone => Sys2Proof.Machine.execVidStepDone s
  | .mgnApprove who v at_ => Sys2Proof.Machine.execMgnApprove who v at_ s
  | .injKey w at_ => Sys2Proof.Machine.execInjKey w at_ s
  | .injArmExpiry => Sys2Proof.Machine.execInjArmExpiry s
  | .injFire who at_ => Sys2Proof.Machine.execInjFire who at_ s
  | .injDisarm => Sys2Proof.Machine.execInjDisarm s
  | .injLevelEnd => Sys2Proof.Machine.execInjLevelEnd s
  | .evcGctl v => Sys2Proof.Machine.execEvcGctl v s
  | .evcCntlRead c => Sys2Proof.Machine.execEvcCntlRead c s
  | .evcClr v at_ => Sys2Proof.Machine.execEvcClr v at_ s
  | .sppGet n => Sys2Proof.Machine.execSppGet n s
  | .sppRd fr => Sys2Proof.Machine.execSppRd fr s
  | .sppWr fr at_ => Sys2Proof.Machine.execSppWr fr at_ s
  | .sppFerase fr fail => Sys2Proof.Machine.execSppFerase fr fail s
  | .sppFprog fr fail => Sys2Proof.Machine.execSppFprog fr fail s
  | .sppFcrc fr => Sys2Proof.Machine.execSppFcrc fr s
  | .sppUnlock fr at_ => Sys2Proof.Machine.execSppUnlock fr at_ s
  | .sppSvcreq fr cyc => Sys2Proof.Machine.execSppSvcreq fr cyc s
  | .sppReset fr cyc => Sys2Proof.Machine.execSppReset fr cyc s
  | .sppNop fr => Sys2Proof.Machine.execSppNop fr s
  | .sppUnknownOp op fr => Sys2Proof.Machine.execSppUnknownOp op fr s
  | .sppResponseReady => Sys2Proof.Machine.execSppResponseReady s
  | .registerWrite who addr v at_ => Sys2Proof.Machine.execRegisterWrite who addr v at_ s
  | .commandLineEdge k high level toff droop at_ => Sys2Proof.Machine.execCommandLineEdge k high level toff droop at_ s
  | .fltAbsorbedToggle m level n at_ => Sys2Proof.Machine.execFltAbsorbedToggle m level n at_ s
  | .wakeFall => Sys2Proof.Machine.execWakeFall s
  | .dcLinkOffCrossing below => Sys2Proof.Machine.execDcLinkOffCrossing below s

end Sys2Proof.Machine
end

