-- ==== Sys2Proof/Machine/Step.lean ====
section
/-! DEFINITION. One step: the command at the front of the queue, or a tick of CLK_PER where none waits. -/

namespace Sys2Proof.Machine

/-- One CLK_PER cycle passes with no command (DESIGN CHOICE, log 1): three CLK_ENG cycles. -/
def tick (s : State) : State := advanceTo (s.now + 3) s

/-- Take the command at the front of the queue and run it with the queue's rest; on an empty queue the block ticks. -/
def step (s : State) : Host.Outcome State Fault Refusal :=
  match s.pending with
  | [] => .next (tick s)
  | c :: rest => exec c { s with pending := rest }

/-- Put the command that a word spells at the front of the queue; the table spells none, so the state stays. -/
def State.withFetchWord (s : State) (nbits w : Nat) : State :=
  match decodeTableWord nbits w with
  | none => s
  | some c => { s with pending := c :: s.pending }

end Sys2Proof.Machine
end

