-- ==== Sys2Proof/Safety.lean ====
section
/-! DEFINITION. What a state of the block must meet in every run, and how two states are compared: the terms in which the
statements are made. -/

namespace Sys2Proof.Machine

/-- SYS.MODE.SUB is 0 in every mode but BOOT (R29). -/
def SubOk (s : State) : Prop := s.mode = .boot ∨ s.sub = .none

/-- Memory is in its canonical form: addresses strictly rising, no byte listed that equals what an unlisted one reads as. -/
abbrev Memory.wf (m : List Host.Cell) : Bool := mwf memDflt m

/-- The tables of registers, shadow copies, memory and memory-code errors are in their canonical form. -/
def TablesOk (s : State) : Prop :=
  mwf regDflt s.regs = true ∧ mwf regDflt s.shadow = true ∧ Memory.wf s.mem = true ∧ mwf (fun _ => 0) s.ecc = true

/-- What every step keeps. -/
def Inv (s : State) : Prop := SubOk s ∧ TablesOk s

/-- Every byte of memory reads the same. -/
def SameMem (s t : State) : Prop := ∀ a, t.byte a = s.byte a

/-- Every byte of memory outside `[p, p + n)` reads the same. -/
def SameMemBut (p n : Nat) (s t : State) : Prop := ∀ a, a < p ∨ p + n ≤ a → t.byte a = s.byte a

/-- Every register outside a list of addresses holds its value, and so does every shadow copy. -/
def SameRegsBut (l : List Nat) (s t : State) : Prop :=
  (∀ a, a ∉ l → t.reg a = s.reg a) ∧ ∀ a, t.shd a = s.shd a

/-- The mode and the substate are the same. -/
def SameMode (s t : State) : Prop := t.mode = s.mode ∧ t.sub = s.sub

/-- Nothing but registers of a list has changed among registers, shadow copies, memory and mode. -/
def OnlyRegs (l : List Nat) (s t : State) : Prop := SameRegsBut l s t ∧ SameMem s t ∧ SameMode s t

/-- The registers in which an event shows by itself: the interrupt controller's sources (R94) and the flags of the event
counters (R387). -/
def eventReg (a : Nat) : Bool :=
  decide (R.ICU_SRC 0 ≤ a ∧ a < R.ICU_SRC 100) || a == R.EVC_WRAP || a == R.EVC_THRST

/-- Among registers, shadow copies, memory and the mode, nothing has changed but registers of a list and those in which events
show. -/
def Writes (l : List Nat) (s t : State) : Prop :=
  (∀ a, a ∉ l → eventReg a = false → t.reg a = s.reg a) ∧ (∀ a, t.shd a = s.shd a) ∧ SameMem s t ∧ SameMode s t

/-- The registers of the crossing measurements: the enable falls when a group leaves all-off (R204). -/
def gateRegs : List Nat := (List.range 8).map R.ADC_ZXCFG

/-- A command that names a register of the A-die meets no obstacle: the bridge is up, and no earlier write is on its way (R17, R18). -/
def BridgeIdle (s : State) : Prop := s.flag F.SYS_BRGSTAT_UP = true ∧ s.brg.queue = []

/-- No move of a DMA engine waits for a bank, and no CAN frame for its turn. -/
def NoDma (s : State) : Prop := s.dma = [] ∧ ∀ c, c < 2 → s.reg (R.CAN_TXBUSY c) = 0

/-- No move of a DMA engine waits, and no bank of the SRAM is locked (R110, R112). -/
def BanksFree (s : State) : Prop := s.dma = [] ∧ ∀ b, b < 8 → lockOwner s b = 15

/-- The registers in which the loss of ring time shows: the node's state and its voters, the token and the lead, and the groups that need
one (R292, R296, R320, R323, R227). -/
def ringLossRegs : List Nat := [R.KRG_STAT, R.KRG_VOTESTAT, R.LNK_STAT, R.LNK_EVT, R.LNK_DCI] ++ (List.range 8).map R.PWM_GSTAT

/-- The registers that the passing of time changes: CPT.MTIME (R93) and the cycles in which a facet holds nodes (R169). -/
def timeRegs : List Nat := [R.CPT_MTIME 0, R.CPT_MTIME 1] ++ (List.range 8).map R.PRS_FRF

/-- The command runs to a next state, of which `P` holds. -/
def Gives (c : Instr) (s : State) (P : State → Prop) : Prop := ∃ t, exec c s = .next t ∧ P t

/-- Is an address in flash or in the change log, which power-on leaves alone? -/
def keptAtPowerOn (a : Nat) : Prop := (0x10000000 ≤ a ∧ a < 0x11000000) ∨ (0x60001800 ≤ a ∧ a < 0x60002000)

/-- Is an address in flash or always-on memory, which the loss of the core domain leaves alone? -/
def keptWithoutCore (a : Nat) : Prop := (0x10000000 ≤ a ∧ a < 0x11000000) ∨ (0x60000000 ≤ a ∧ a < 0x60010000)

/-- Every register outside the blocks of a list holds its value but those in which events show (the block of an address is its
number of 64 KB), and so do shadow copies and memory. The mode is free. -/
def Blocks (l : List Nat) (s t : State) : Prop :=
  (∀ a, a / 0x10000 ∉ l → eventReg a = false → t.reg a = s.reg a) ∧ (∀ a, t.shd a = s.shd a) ∧ SameMem s t

/-- The blocks in which a reaction of the HWM can show: SYS, PWR, PRS, PWM, FBK, LNK and CFG, BST, INJ, GDR, ADC and the HWM itself. -/
def raiseBlocks : List Nat := [0x4000, 0x4002, 0x4005, 0x4006, 0x4007, 0x400A, 0x400B, 0x400C, 0x400E, 0x5000, 0x5001, 0x7000]

/-- What a raise of a detector may change: registers of `raiseBlocks` and those in which events show, and the change log in memory;
beside them, registers of the blocks of a list. -/
def Reacts (l : List Nat) (s t : State) : Prop :=
  (∀ a, a / 0x10000 ∉ raiseBlocks ++ l → eventReg a = false → t.reg a = s.reg a) ∧ (∀ a, t.shd a = s.shd a) ∧
    SameMemBut 0x60001800 0x800 s t

/-- The registers of the D-die and of the A-die that a D-die reset does not leave at their default values: those that it loads, and
those that hold what is outside the reset (R25, R38, R47, R67, R74). -/
def resetRegs : List Nat :=
  [R.SYS_MODE, R.SYS_CHID, R.SYS_RSTCAUSE, R.SYS_BOOTSTAT, R.KRG_CTL, R.CLK_STAT, R.PWR_SUPSTAT, R.MGN_VIDP] ++
    (List.range 24).map R.GDR_STAT

/-- A D-die reset has passed: outside `resetRegs`, the retained registers and those in which events show, the registers of D-die and
A-die hold their default values, and so do the shadow copies; the always-on domain's registers outside a list hold theirs. -/
def DieReset (l : List Nat) (s t : State) : Prop :=
  (∀ a, dieBlock a = true → keptWhole a = false → a ∉ resetRegs → eventReg a = false → t.reg a = regDflt a) ∧
  (∀ a, a / 0x10000 = 0x6000 → a ∉ l → t.reg a = s.reg a) ∧ ∀ a, t.shd a = regDflt a

/-- The core domain has lost its supply: flash and always-on memory outside the change log hold what they held, what else there was is
lost. -/
def CoreLost (s t : State) : Prop :=
  (∀ a, keptWithoutCore a → a < 0x60001800 ∨ 0x60002000 ≤ a → t.byte a = s.byte a) ∧
    ∀ a, ¬ keptWithoutCore a → t.byte a = memDflt a

/-- Every byte of flash reads the same. -/
def SameFlash (s t : State) : Prop := ∀ a, 0x10000000 ≤ a → a < 0x11000000 → t.byte a = s.byte a

/-- The CP is ready to run, and the word that it fetches at its pc is the 32-bit instruction `w`: no trigger, no fault, no error on
the way, no single step. -/
def Fetched (s : State) (w : Nat) : Prop :=
  cpRuns s = true ∧ s.cp.wfi = false ∧ trigHit s 2 s.cp.pc.toNat = none ∧ bitOf (s.csr 0x7B0) 2 = false ∧
    w < 2 ^ 32 ∧ w % 4 = 3 ∧ (∀ a, s.errs a = 0) ∧ injDue s 128 = none ∧
    (fetchHalf s.cp.pc.toNat (newCycle s)).1 = some (w % 2 ^ 16) ∧
    (fetchHalf (s.cp.pc + 2).toNat (fetchHalf s.cp.pc.toNat (newCycle s)).2).1 = some (w / 2 ^ 16)

/-- The same for a compressed instruction `h` of 16 bits. -/
def FetchedC (s : State) (h : Nat) : Prop :=
  cpRuns s = true ∧ s.cp.wfi = false ∧ trigHit s 2 s.cp.pc.toNat = none ∧ bitOf (s.csr 0x7B0) 2 = false ∧
    h < 2 ^ 16 ∧ h % 4 ≠ 3 ∧ (∀ a, s.errs a = 0) ∧ injDue s 128 = none ∧ (fetchHalf s.cp.pc.toNat (newCycle s)).1 = some h

/-- CP_INSTRUCTION goes on at `npc`, and integer register `rd` holds `v`; x0 discards it. -/
def CpGives (s : State) (rd : Nat) (v npc : Word) : Prop :=
  Gives .cpInstruction s fun t =>
    t.cp.pc = npc ∧ (∀ i, t.xreg i = if i = rd ∧ i ≠ 0 then v else s.xreg i) ∧ Writes [] s t

/-- CP_INSTRUCTION takes an exception (R96): the handler base, machine mode, mepc, mcause and mtval. -/
def CpTraps (s : State) (cause : Nat) (tval : Word) : Prop :=
  Gives .cpInstruction s fun t =>
    t.cp.pc = BitVec.ofNat 32 (mtvecBase s) ∧ t.cp.machine = true ∧ t.csr 0x341 = s.cp.pc ∧ t.csr 0x342 = BitVec.ofNat 32 cause ∧
    t.csr 0x343 = tval ∧ (∀ i, t.xreg i = s.xreg i) ∧ Writes [] s t

/-- `Writes`, with the bytes of `[p, p + n)` free. -/
def WritesAt (l : List Nat) (p n : Nat) (s t : State) : Prop :=
  (∀ a, a ∉ l → eventReg a = false → t.reg a = s.reg a) ∧ (∀ a, t.shd a = s.shd a) ∧ SameMemBut p n s t ∧ SameMode s t

/-- The place of the word that the scrubber reads next in a memory (R104). -/
def scrubPlace (m : ScrubMem) (s : State) : Nat := (scrubArea m).2.1 + 8 * mget (fun _ => 0) s.scrub (scrubArea m).1

/-- In cycle `t` facet `f` issues the node at the head of its list, `r`, which has opcode `opc`; no word in memory is beyond
correction. -/
def Issuable (s : State) (f t opc : Nat) (r : Ready) : Prop :=
  s.now ≤ t ∧ issueHead s f t = some r ∧ nOpc (nodeBits s r.half r.node) = opc ∧ (∀ a, s.errs a ≤ 2) ∧ injDue s 128 = none

/-- The node that a facet issues. -/
def headBits (s : State) (r : Ready) : Nat := nodeBits s r.half r.node

/-- Node `r` has been issued by facet `f` in cycle `t0`: it is under way until its latency has passed, it has taken `c` slots, and its
flight is as `P` says. A node changes no memory before it completes, no mode, and registers only among those of the engine, of the
memory code and of time. -/
def Issued (s t : State) (f t0 lat c : Nat) (r : Ready) (P : Flight → Prop) : Prop :=
  (∃ fl, t.prs.flights = s.prs.flights ++ [fl] ∧ fl.facet = f ∧ fl.id = r.id ∧ fl.flow = r.flow ∧ fl.node = r.node ∧
    fl.half = r.half ∧ fl.done = t0 + lat ∧ P fl) ∧
  (t.facet f).free = t0 + c ∧ SameMode s t ∧ Blocks [0x4003, 0x4005, 0xE000] s t

/-- The command issues nodes of one opcode that write one word: its value is `v` of PARAM and of the words that the three sources
name; `ok` are the legal PARAM. -/
def PlainNode (c : Fin 8 → Nat → Instr) (opc lat : Nat) (ok : Nat → Bool) (v : Nat → Word → Word → Word → Word) : Prop :=
  ∀ (s : State) (f : Fin 8) (at_ : Nat) (r : Ready), Issuable s f.val at_ opc r → ok (nParam (headBits s r)) = true →
    Gives (c f at_) s fun t => Issued s t f.val at_ lat 1 r fun fl =>
      fl.writes = [(nDst (headBits s r), v (nParam (headBits s r)) (src s (headBits s r) 0 0) (src s (headBits s r) 1 0)
        (src s (headBits s r) 2 0))]

/-- The command issues nodes of one opcode; where PARAM is legal and `hyp` holds of the node's word, its flight is as `P` says and it
takes `cost` slots. -/
def NodeGives (c : Fin 8 → Nat → Instr) (opc lat : Nat) (cost : Nat → Nat) (hyp : State → Nat → Prop)
    (P : State → Nat → Flight → Prop) : Prop :=
  ∀ (s : State) (f : Fin 8) (at_ : Nat) (r : Ready), Issuable s f.val at_ opc r → hyp s (headBits s r) →
    Gives (c f at_) s fun t => Issued s t f.val at_ lat (cost (headBits s r)) r fun fl => P s (headBits s r) fl

/-- Node `r` of facet `f` has raised cause `k` with NEXC free: NEXC holds the node, and the count has risen (R135). -/
def Raised (s t : State) (f k : Nat) (r : Ready) : Prop :=
  t.get F.PRS_NEXC_VALID = 1 ∧ t.get F.PRS_NEXC_CAUSE = k ∧ t.get F.PRS_NEXC_FACET = f ∧
  t.get F.PRS_NEXC_FLOW = r.flow % 64 ∧ t.get F.PRS_NEXC_NODE = r.node % 2 ^ 14 ∧
  t.get F.PRS_NEXCCNT_COUNT = satTo (fldTop F.PRS_NEXCCNT_COUNT) (s.get F.PRS_NEXCCNT_COUNT + 1) ∧
  SameMode s t ∧ Blocks [0x4003, 0x4005, 0xE000] s t

/-- The value of a rounded result where the operands are finite, else +0.0 (R130, R134). -/
def fpWord (l : List Word) (x : Ev) : Word := if allFin l then x.w else 0

/-- An integer saturated to Q1.31. -/
def qWord (i : Int) : Word := BitVec.ofInt 32 (max (-0x80000000) (min i 0x7FFFFFFF))

/-- The node has a legal PARAM of 0, and its results lie in the operand store: `n` words from DST. -/
def Fits (n w : Nat) : Prop := nParam w = 0 ∧ nDst w + n ≤ 0x4000

/-- A command frame comes to a port that is powered and not busy, with the CRC and the length that it should have (R52, R54). -/
def GoodFrame (s : State) (op : Byte) (fr : SppFrame) : Prop :=
  sppOn s = true ∧ s.flag F.SPP_STAT_BUSY = false ∧ fr.raw = none ∧ crc16 (frameBody op fr) = fr.crc ∧
    fr.data.length = fr.len.toNat

/-- The port executes a command, and its response is prepared (R53, R55). -/
def Answers (fr : SppFrame) (result : Nat) (data : List Word) (t : State) : Prop :=
  t.get F.SPP_STAT_BUSY = 1 ∧ t.spp.staged = some { seq := fr.seq.toNat, result := result, data := data }

end Sys2Proof.Machine
end

