-- ==== Sys2Proof/WellFormed.lean ====
section
/-! DEFINITION. What the operands of a command must meet beyond their types, by the rules that give them their widths. The
machine asks nothing of a command; this is what the world outside the block can send. -/

namespace Sys2Proof

/-- A copy's logic BIST applies at most the 744 patterns of a CP or facet region (R365). -/
def BistEnd.wf (e : BistEnd) : Bool := decide (e.patterns ≤ 744)

/-- A KRing frame: eight header bytes, a payload of 8–240 bytes in steps of 8, four MAC bytes (R278). -/
def RingFrame.wf (f : RingFrame) : Bool :=
  f.header.length == 8 && decide (8 ≤ f.payload.length ∧ f.payload.length ≤ 240) && f.payload.length % 8 == 0 && f.mac.length == 4

/-- A CAN frame: an 11-bit identifier unless extended, and at most 64 data bytes (R299). -/
def CanFrame.wf (f : CanFrame) : Bool :=
  (f.ext || decide (f.ident.toNat < 2048)) && decide (f.data.length ≤ 64)

/-- An SPP frame whose bytes make up whole words is given by them; any other byte count is `raw` (R52). -/
def SppFrame.wf (f : SppFrame) : Bool :=
  match f.raw with
  | none => true
  | some l => decide (l.length < 9 ∨ l.length % 4 ≠ 1)

/-- The operands of a command are ones that its rule allows. -/
def Instr.wf : Instr → Bool
  | .startupLbistWaveDone ends => (ends.length == 2 || ends.length == 8) && ends.all BistEnd.wf
  | .bistCopyDone e => e.wf
  | .glintEnd codes _ => codes.length == 8
  | .arbRequest _ _ _ word beats _ _ => decide (1 ≤ beats.length ∧ beats.length ≤ 16) && decide (word.val + beats.length ≤ 65536)
  | .pwmValley _ codes vdsL vdsH _ => codes.length == 4 && vdsL.length == 3 && vdsH.length == 3
  | .vdsDetection k _ _ _ _ same _ => same.all (fun j => j.val / 3 == k.val / 3)
  | .kringFrameStart _ header _ => header.length == 8
  | .frameCheckDone _ _ frame _ =>
    match frame with
    | none => true
    | some f => f.wf
  | .canFrameReceive _ fr _ => fr.wf
  | .shadowWrite _ addr _ => addr.toNat % 4 == 0
  | .rwpWrite _ addr _ _ => addr.toNat % 4 == 0
  | .mgnSlackWindow slacks => slacks.length == 16
  | .sppRd fr => fr.wf
  | .sppWr fr _ => fr.wf
  | .sppFerase fr _ => fr.wf
  | .sppFprog fr _ => fr.wf
  | .sppFcrc fr => fr.wf
  | .sppUnlock fr _ => fr.wf
  | .sppSvcreq fr _ => fr.wf
  | .sppReset fr _ => fr.wf
  | .sppNop fr => fr.wf
  | .sppUnknownOp op fr => decide (0x0A ≤ op.toNat) && fr.wf
  | _ => true

end Sys2Proof
end

