-- ==== Sys2Proof/Certificates/Slice0/Obligations.lean ====
section
/-! DEFINITION. The statements for the provers: what the rules of the spec say the block and its commands do. A statement about a
command says, for the states and operands its hypotheses name, that `exec` answers a next state (`Gives`) and what that state
holds; `Writes l s t` is its frame: among registers, shadow copies, memory and the mode, nothing has changed but the registers of
`l` and those in which events show. -/

open Sys2Proof Sys2Proof.Machine

/-! ### The step, reset and the invariant -/

/-- One step takes the command at the front of the queue and runs it with the queue's rest (the model's form of a block; no rule
of the spec numbers it). -/
def Obligations.StepRunsFront : Prop :=
  ∀ (c : Instr) (s : State), step { s with pending := c :: s.pending } = exec c s

/-- With no command waiting, one step is one cycle of CLK_PER, three of CLK_ENG: the model's choice of log 1. Time moves on, and
while the D-die runs CPT.MTIME counts one cycle (R93) and the cycles in which a facet holds nodes are counted (R169); nothing else
changes among registers outside the event flags, memory, mode and queue. -/
def Obligations.EmptyQueueTicks : Prop :=
  ∀ s : State, s.pending = [] → ∃ t, step s = .next t ∧ t.now = s.now + 3 ∧ t.pending = [] ∧
    Writes timeRegs s t ∧
    (dRun s = true → mtime t = (mtime s + ((s.now + 3) / 3 - s.now / 3)) % 2 ^ 64)

/-- What reset leaves (R37, with the model's choices of logs 3–6): BOOT with SUB = PWRSEQ, every register at its default value,
erased flash, empty RAM, no memory error, an empty queue. -/
def Obligations.ResetState : Prop :=
  State.reset.mode = .boot ∧ State.reset.sub = .pwrseq ∧ State.reset.pwr.seq = .delay ∧
    (∀ a, State.reset.reg a = regDflt a) ∧ (∀ a, State.reset.shd a = regDflt a) ∧
    (∀ a, State.reset.byte a = if 0x10000000 ≤ a ∧ a < 0x11000000 then 0xFF else 0) ∧
    (∀ a, State.reset.errs a = 0) ∧ State.reset.pending = []

/-- The invariant holds after reset. -/
def Obligations.ResetMeetsInv : Prop := Machine.Inv State.reset

/-- SYS.MODE.SUB is 0 outside BOOT (R29), and registers, shadow copies, memory and memory-code errors stay in canonical form: every
step keeps it, whatever the command. That no state stops the block is the model's choice of logs 83 and 84, not a rule: from every
state, for every constructor of Instr and all its operands, `exec` answers a next state, and so does `step`; the invariant holds of
it. -/
def Obligations.EveryStepKeepsInv : Prop :=
  (∀ s t : State, Machine.Inv s → step s = .next t → Machine.Inv t) ∧
  (∀ s : State, ∃ t, step s = .next t ∧ (Machine.Inv s → Machine.Inv t)) ∧
  ∀ (c : Instr) (s : State), Gives c s fun t => Machine.Inv s → Machine.Inv t

/-! ### Power, resets and start-up (R16, R36–R47, R70–R73) -/

/-- VBAT_POWER_ON (R37): BOOT with the wake delay running; the safety parameters as last committed (R355), the life counter as last
saved (R361), flash and the change log stand, and the rest of memory holds what the model gives unwritten memory (log 5). VBAT_POWER_LOSS (R69): what
the device's RAM held is gone, and the gate balls are low (R399); that the mode is shown as DORMANT meanwhile, and that registers keep
values which nothing reads, is the model's choice of log 118.

A core supply loss outside BOOT, LIMP and DORMANT, and a heartbeat that does not come back (R36, R72): VCEN low, the D-die held in
reset, BOOT, RSTCAUSE.HBEAT and the mode it ended (R29, R38), the wake log's newest entry with its cause. -/
def Obligations.SupplyRisesAndLosses : Prop :=
  (∀ s : State,
    (∀ at_, Gives (.vbatPowerOn at_) s fun t =>
      t.mode = .boot ∧ t.sub = .pwrseq ∧ t.pwr.seq = .delay ∧ (∀ i, i < 256 → t.spb i = (spbUndone s).spb i) ∧
      (∀ a, keptAtPowerOn a → t.byte a = s.byte a) ∧ (∀ a, ¬ keptAtPowerOn a → t.byte a = memDflt a) ∧
      t.reg R.HWM_LIFE = s.hwm.lifeSaved ∧ t.reg R.HWM_LOGSTAT = s.reg R.HWM_LOGSTAT ∧ (∀ a, t.shd a = regDflt a) ∧
      (∀ a, ¬ (0x70000800 ≤ a ∧ a < 0x70000C00) → a ∉ [R.HWM_LIFE, R.HWM_LOGSTAT, R.HWM_PWSTAT, R.HWM_STAT, R.SYS_CHID, R.KRG_CTL,
        R.AON_WLOG 0] → t.reg a = regDflt a)) ∧
    (Gives .vbatPowerLoss s fun t =>
      t.mode = .dormant ∧ t.sub = .none ∧ t.pwr.vbat = false ∧ (∀ a, a ∉ gateRegs → t.reg a = s.reg a) ∧ (∀ a, t.shd a = s.shd a) ∧
      (∀ k, k < 24 → gatePoint t k = (false, false)) ∧
      (∀ a, keptWithoutCore a → t.byte a = s.byte a) ∧ (∀ a, ¬ keptWithoutCore a → t.byte a = memDflt a))) ∧
  (∀ (s : State) (at_ : Nat),
    (s.mode ≠ .boot → s.mode ≠ .limp → s.mode ≠ .dormant → Gives (.pgoodCoreLow at_) s fun t =>
      t.mode = .boot ∧ t.sub = .pwrseq ∧ t.pwr.seq = .held ∧ t.pwr.vcen = false ∧ t.pwr.dcore = false ∧
      t.get (F.AON_WLOG_CAUSE 0) = 7 ∧ t.get F.SYS_RSTCAUSE_HBEAT = 1 ∧
      (s.fresh.turn = none → t.get F.SYS_MODE_PREV = s.mode.code) ∧ DieReset ((List.range 8).map R.AON_WLOG) s t ∧ CoreLost s t) ∧
    (s.pwr.hbWait = true → s.mode ≠ .limp → s.mode ≠ .dormant → Gives (.hbeatRestoreTimeout at_) s fun t =>
      t.mode = .boot ∧ t.sub = .pwrseq ∧ t.pwr.seq = .held ∧ t.pwr.vcen = false ∧ t.pwr.hbWait = false ∧
      t.get (F.AON_WLOG_CAUSE 0) = 8 ∧ t.get F.SYS_RSTCAUSE_HBEAT = 1 ∧
      (s.fresh.turn = none → t.get F.SYS_MODE_PREV = s.mode.code) ∧ DieReset ((List.range 8).map R.AON_WLOG) s t ∧ CoreLost s t))

/-- Steps 1–7 of R40 (PWRSEQ_STEP1 to PWRSEQ_STEP7), each from the one before it, in order: what each switches on, and the step in the
wake log (R86). The frames name the registers that each step writes; where a supervisor that step 1 switches on finds its condition,
the detector is raised as well (R74). With step 7 the bridge trains, and PWR.SUPSTAT shows what the supervisors report (R19, R74). -/
def Obligations.PowerSequenceSteps : Prop :=
  ∀ s : State,
    (s.pwr.seq = .delay → Gives .pwrseqStep1 s fun t => t.pwr.seq = .steps 1 ∧ t.pwr.hwmOn = true ∧ t.pwr.adc0 = true ∧
      t.get (F.AON_WLOG_STEP 0) = 1 ∧ Reacts [0x6000] s t ∧
      (s.pwr.supRaw % 64 = 0 → s.inj.held = none → Writes ([R.AON_WLOG 0, R.PWR_SUPSTAT, R.HWM_STAT] ++ gateRegs) s t)) ∧
    (s.pwr.seq = .steps 1 → Gives .pwrseqStep2 s fun t => t.pwr.seq = .steps 2 ∧ t.pwr.vcen = true ∧ t.pwr.pgTimer = true ∧
      t.get F.MGN_VIDP_CUR = 20 ∧ t.get (F.AON_WLOG_STEP 0) = 2 ∧ Writes [R.AON_WLOG 0, R.MGN_VIDP] s t) ∧
    (s.pwr.seq = .steps 2 → Gives .pwrseqStep3 s fun t => t.pwr.seq = .steps 3 ∧ t.pwr.extref = bitOf (s.spb 2) 0 ∧
      t.pwr.xtalTimer = !s.flag F.CLK_STAT_RCREF ∧ t.get (F.AON_WLOG_STEP 0) = 3 ∧ Writes [R.AON_WLOG 0] s t) ∧
    (s.pwr.seq = .steps 3 → s.pwr.pgood = true → s.pwr.retries ≤ 2 → Gives .pwrseqStep4 s fun t => t.pwr.seq = .steps 4 ∧
      t.pwr.dcore = true ∧ t.pwr.pgTimer = false ∧ t.get F.SYS_BOOTSTAT_PGRETRY = s.pwr.retries ∧
      Writes [R.AON_WLOG 0, R.SYS_BOOTSTAT] s t) ∧
    (s.pwr.seq = .steps 4 → Gives .pwrseqStep5 s fun t => t.pwr.seq = .steps 5 ∧ t.pwr.flashOn = true ∧
      Writes [R.AON_WLOG 0] s t) ∧
    (s.pwr.seq = .steps 5 → Gives .pwrseqStep6 s fun t => t.pwr.seq = .steps 6 ∧ t.pwr.ioOn = true ∧
      Writes [R.AON_WLOG 0] s t) ∧
    (∀ at_, s.pwr.seq = .steps 6 → s.flag F.CLK_STAT_PLLLOCK = true → Gives (.pwrseqStep7 at_) s fun t =>
      t.pwr.seq = .lbist 0 ∧ t.now = max s.now at_ ∧ t.pwr.hbArmed = true ∧ t.get F.SYS_BRGSTAT_UP = 1 ∧ t.get F.BST_STAT_RUN = 1 ∧
      t.get F.BST_STAT_ORIGIN = 1 ∧ t.get F.CLK_STAT_XTALOK = (!s.flag F.CLK_STAT_RCREF).toNat ∧
      (∀ b, b < 6 → bitOf (t.reg R.PWR_SUPSTAT) b = supLive s b) ∧
      Writes [R.AON_WLOG 0, R.CLK_STAT, R.SYS_BRGSTAT, R.BST_STAT, R.PWR_SUPSTAT] s t)

/-- What the core supply, the crystal and the PLL report during the sequence (R40–R42). The wait for the first HBEAT toggle after a
heartbeat reset ends with the PLL's lock, and arms the supervision (R36, R16; log 53).

A failed attempt of the sequence and the next one (R42): VCEN falls and the core is off (in the substate PWRSEQ: log 53); up to two
retries follow from step 2. -/
def Obligations.SequenceEventsAndRetries : Prop :=
  (∀ s : State,
    (Gives .pgoodCoreRise s fun t => t.pwr.pgood = true ∧ t.get F.PWR_SUPSTAT_PGLOW = 0 ∧ Writes [R.PWR_SUPSTAT] s t) ∧
    (s.pwr.xtalTimer = true → Gives .crystalReady s fun t => t.pwr.crystal = true ∧ Writes [] s t) ∧
    (∀ n, s.pwr.seq = .steps n → pllRef s = true → Gives .pllLock s fun t =>
      t.get F.CLK_STAT_PLLLOCK = 1 ∧ t.pwr.xtalTimer = false ∧ t.get F.CLK_STAT_EXTREF = s.pwr.extref.toNat ∧
      Writes [R.CLK_STAT] s t) ∧
    ((s.pwr.seq = .done ∨ (∃ n, s.pwr.seq = .lbist n) ∨ (s.pwr.seq = .held ∧ s.pwr.hbReset = false)) → s.pwr.hbWait = true →
      Gives .pllLock s fun t => t.get F.CLK_STAT_PLLLOCK = 1 ∧ t.pwr.hbWait = false ∧ t.pwr.hbLost = false ∧
        t.pwr.hbArmed = (s.mode != .limp) ∧ Writes [R.CLK_STAT] s t) ∧
    (s.pwr.xtalTimer = true → Gives .crystalTimeout s fun t =>
      t.get F.CLK_STAT_RCREF = 1 ∧ t.get F.SYS_BOOTSTAT_XTALFAIL = 1 ∧ t.pwr.xtalTimer = false ∧
      Writes [R.CLK_STAT, R.SYS_BOOTSTAT] s t)) ∧
  (∀ s : State,
    (s.pwr.pgTimer = true → s.pwr.pgood = false → s.pwr.retries < 2 → Gives .pgoodCoreTimeout s fun t =>
      t.pwr.seq = .retryWait ∧ t.pwr.vcen = false ∧ t.pwr.dcore = false ∧ t.pwr.retries = s.pwr.retries ∧ t.mode = s.mode ∧
      (s.mode = .boot → t.sub = .pwrseq) ∧
      DieReset [] s t ∧ CoreLost s t) ∧
    (s.pwr.pgTimer = true → s.pwr.pgood = false → s.pwr.retries = 2 → s.mode = .boot → bitOf (s.spb 12) 1 = false →
      Gives .pgoodCoreTimeout s fun t => t.pwr.seq = .failed ∧ t.sub = .wakefail ∧ t.pwr.vcen = false ∧
        DieReset [R.AON_WLOG 0] s t ∧ CoreLost s t) ∧
    (s.pwr.seq = .retryWait → s.pwr.retries ≤ 1 → Gives .pwrseqRetry s fun t =>
      t.pwr.seq = .steps 2 ∧ t.pwr.retries = s.pwr.retries + 1 ∧ t.pwr.vcen = true ∧ t.pwr.pgTimer = true ∧
      t.get F.MGN_VIDP_CUR = 20 ∧ t.get (F.AON_WLOG_RETRY 0) = s.pwr.retries + 1 ∧ Writes [R.AON_WLOG 0, R.MGN_VIDP] s t) ∧
    (s.pwr.seq = .held → s.pwr.vcen = false → Gives .pwrseqRetry s fun t =>
      t.pwr.seq = .steps 2 ∧ t.pwr.vcen = true ∧ t.pwr.pgTimer = true ∧ t.get F.MGN_VIDP_CUR = 20 ∧
      Writes [R.AON_WLOG 0, R.MGN_VIDP] s t))

/-- Device resets and the heartbeat (R16, R32, R36, R37; when BOOT is entered: log 53): a reset that is due puts the device into BOOT
with the D-die held, its cause in RSTCAUSE (R38) and the mode that it ended in PREV (R29); its release runs the boot ROM, or the
start-up test anew where it had been cut short (R369). A loss of HBEAT is Halt and is dated, and a reset is due; the second within
HBWIN enters LIMP from the mode that it found (R349, R33). A request whose row of R32 has gone lapses, and the service port's command
with it (R61). -/
def Obligations.ResetsAndHeartbeat : Prop :=
  ∀ (s : State) (at_ : Nat),
    (∀ cause, s.pwr.rstDue = some cause → cause ≠ .heartbeat → s.mode.resettable = true → Gives (.deviceReset cause at_) s fun t =>
      t.mode = .boot ∧ t.sub = .pwrseq ∧ t.pwr.seq = .held ∧ t.pwr.rstDue = none ∧
      t.get (if cause = .spp then F.SYS_RSTCAUSE_SPPRST else F.SYS_RSTCAUSE_SWRST) = 1 ∧ t.get F.SYS_MODE_PREV = s.mode.code ∧
      DieReset [] s t ∧ SameMemBut 0x60001800 0x800 s t) ∧
    (∀ cause, s.pwr.rstDue = some cause → cause ≠ .heartbeat → s.mode.resettable = false → Gives (.deviceReset cause at_) s fun t =>
      t.pwr.rstDue = none ∧ (cause = .spp → t.get F.SPP_STAT_BUSY = 0) ∧ Writes (R.SPP_STAT :: timeRegs) s t) ∧
    (s.pwr.hbDue = true → s.mode ≠ .limp → s.mode ≠ .dormant → Gives (.deviceReset .heartbeat at_) s fun t =>
      t.mode = .boot ∧ t.sub = .pwrseq ∧ t.pwr.seq = .held ∧ t.pwr.hbReset = true ∧ t.get F.SYS_RSTCAUSE_HBEAT = 1 ∧
      DieReset [] s t) ∧
    (s.pwr.seq = .held → s.pwr.vcen = true → s.pwr.hbReset = false → s.pwr.relbist = true → Gives .deviceResetRelease s fun t =>
      t.pwr.seq = .lbist 0 ∧ t.get F.SYS_BRGSTAT_UP = 1 ∧ t.get F.BST_STAT_RUN = 1 ∧ SameMode s t ∧
      Blocks [0x4000, 0x4002, 0x4005, 0x400B, 0x400C] s t) ∧
    (s.pwr.seq = .held → s.pwr.vcen = true → s.pwr.hbReset = false → s.pwr.relbist = false → Gives .deviceResetRelease s fun t =>
      t.pwr.seq = .done ∧ Reacts [0x4003, 0x4004] s t) ∧
    (s.pwr.hbArmed = true → Gives (.hbeatLoss at_) s fun t =>
      t.pwr.lastHbLoss = some at_ ∧ t.get F.HWM_STAT_HBLOST = 1 ∧ Reacts [0xE000] s t) ∧
    (s.pwr.hbArmed = true → s.pwr.lastHbLoss = none → s.mode ≠ .limp → Gives (.hbeatLoss at_) s fun t =>
      t.pwr.hbArmed = true ∧ t.pwr.hbDue = true ∧ t.get F.HWM_RXSTAT_HALT = 1) ∧
    (∀ t0, s.pwr.hbArmed = true → s.pwr.lastHbLoss = some t0 → at_ - t0 ≤ bitsOf (s.spb 12) 31 16 * 300000 →
      s.mode.toLimp = true → limpEnabled s 3 = true → s.fresh.turn = none → Gives (.hbeatLoss at_) s fun t =>
        t.mode = .limp ∧ t.get F.SYS_MODE_PREV = s.mode.code ∧ t.pwr.hbArmed = false ∧ t.get F.HWM_RXSTAT_HALT = 1) ∧
    (s.pwr.hbDue = true → s.mode ≠ .limp → s.mode ≠ .dormant → Gives (.heartbeatReset at_) s fun t =>
      t.mode = .boot ∧ t.sub = .pwrseq ∧ t.pwr.seq = .held ∧ t.pwr.hbReset = true ∧ t.pwr.hbDue = false ∧
      t.get F.SYS_RSTCAUSE_HBEAT = 1 ∧ (s.fresh.turn = none → t.get F.SYS_MODE_PREV = s.mode.code) ∧
      DieReset [] s t ∧ SameMemBut 0x60001800 0x800 s t) ∧
    (s.pwr.seq = .held → s.pwr.hbReset = true → Gives .heartbeatResetRelease s fun t =>
      t.pwr.hbWait = true ∧ Reacts [0x4001, 0x4003, 0x4004] s t)

/-- The start-up logic BIST and the boot ROM (R44–R46, R80, R366, R368; the model's details: logs 33 and 50). A wave's end starts
the next wave or, after wave 2, ends the test; wave 0 records both copies of the CP pair. The ROM enters SERVICE with NOIMG
where no directory is valid, and notes the slot of an image that passes. The restore ends with RESTORED, or CRCBAD where the
list, read without an error, differs. -/
def Obligations.StartUpTestAndRom : Prop :=
  ∀ s : State,
    (∀ w ends, s.pwr.seq = .lbist w → w < 2 → Gives (.startupLbistWaveDone ends) s fun t =>
      t.pwr.seq = .lbist (w + 1) ∧ t.get F.BST_STAT_REGION = 1 ∧ t.get F.BST_STAT_COPY = w ∧
      SameMode s t ∧ Blocks [0x4005, 0x400C] s t) ∧
    (∀ ends, s.pwr.seq = .lbist 2 → Gives (.startupLbistWaveDone ends) s fun t => t.pwr.seq = .done ∧ Reacts [0x4003, 0x4004] s t) ∧
    (∀ e0 e1 : BistEnd, s.pwr.seq = .lbist 0 → Gives (.startupLbistWaveDone [e0, e1]) s fun t =>
      t.reg (R.BST_SIG 0 0) = e0.misr ∧ t.reg (R.BST_SIG 0 1) = e1.misr ∧
      t.get (F.BST_RES_RES0 0) = (if e0.patterns < 744 then 3 else if e0.misr = s.reg (R.BST_REFSIG 0) then 1 else 2) ∧
      t.get (F.BST_RES_RES1 0) = (if e1.patterns < 744 then 3 else if e1.misr = s.reg (R.BST_REFSIG 0) then 1 else 2)) ∧
    (s.mode = .boot → s.sub = .listen → (newestDir (subTo .rom s)).1 = none → s.flag F.HWM_RXSTAT_WDRAW = false →
      Gives .listenWindowEnd s fun t =>
      t.mode = .service ∧ t.sub = .none ∧ t.get F.SYS_BOOTSTAT_NOIMG = 1 ∧ Reacts [0x4003] s t) ∧
    (∀ d, s.mode = .boot → s.sub = .listen → (newestDir (subTo .rom s)).1 = some d → (s.word (d + 8)).toNat ≤ 1 →
      (imageOk (s.word (d + 8)).toNat (newestDir (subTo .rom s)).2).1 = true → Gives .listenWindowEnd s fun t =>
      t.get F.SYS_BOOTSTAT_SLOT = (s.word (d + 8)).toNat + 1 ∧ SameFlash s t) ∧
    (∀ w, s.pwr.seq = .lbist w → s.pwr.restore = true → s.flag F.AON_SLCTL_BADBASE = false →
      (∀ a, s.errs a = 0) →
      crc32 (s.bytes (s.reg R.AON_SLBASE).toNat (4 * s.get F.AON_SLCTL_COUNT)) ≠ s.reg R.AON_SLCRC → Gives .restoreComplete s fun t =>
      t.get F.AON_SLCTL_CRCBAD = 1 ∧ t.get F.AON_SLCTL_RESTORED = 0 ∧ t.pwr.restore = false ∧ Writes [R.AON_SLCTL] s t) ∧
    (∀ w, s.pwr.seq = .lbist w → s.pwr.restore = true → s.flag F.AON_SLCTL_BADBASE = false →
      (∀ a, s.errs a = 0) →
      crc32 (s.bytes (s.reg R.AON_SLBASE).toNat (4 * s.get F.AON_SLCTL_COUNT)) = s.reg R.AON_SLCRC → Gives .restoreComplete s fun t =>
      t.get F.AON_SLCTL_RESTORED = 1 ∧ SameFlash s t)

/-! ### DORMANT, waking and the always-on domain (R77–R83, R354) -/

/-- The steps E2–E6 of R77 (details: log 49) and the HWM's own entry of R354: the mode and what each step switches off. -/
def Obligations.DormantEntry : Prop :=
  ∀ s : State,
    (s.pwr.entry = 1 → Gives .dormantEntryStep s fun t =>
      t.mode = .dormant ∧ t.sub = .none ∧ t.pwr.entry = 2 ∧ t.pwr.seq = .asleep ∧ t.pwr.hbArmed = false ∧
      DieReset [] s t ∧ SameMemBut 0x60001800 0x800 s t) ∧
    (s.pwr.entry = 2 → Gives .dormantEntryStep s fun t => t.pwr.ioOn = false ∧ t.pwr.entry = 3 ∧ Writes [] s t) ∧
    (s.pwr.entry = 3 → Gives .dormantEntryStep s fun t => t.pwr.flashOn = false ∧ t.pwr.entry = 4 ∧ Writes [] s t) ∧
    (s.pwr.entry = 4 → Gives .dormantEntryStep s fun t => t.pwr.vcen = false ∧ t.pwr.dcore = false ∧ t.pwr.entry = 5 ∧
      t.get F.CLK_STAT_PLLLOCK = 0 ∧ SameRegsBut [R.CLK_STAT] s t ∧ CoreLost s t ∧ SameMode s t) ∧
    (∀ at_, s.pwr.entry = 5 → s.mode ≠ .boot → s.pwr.replay = false → Gives (.dormantEntryComplete at_) s fun t =>
      t.pwr.entry = 0 ∧ t.pwr.hwmOn = false ∧ t.grd = {} ∧ t.reg R.PWR_SUPSTAT = 0 ∧
      Writes ([R.HWM_STAT, R.PWR_SUPSTAT] ++ gateRegs ++ timeRegs) s t) ∧
    (s.mode = .limp → s.pwr.wakePin = false → pedalDemand s = 0 → Gives .limpDormantTimeout s fun t =>
      t.mode = .dormant ∧ t.pwr.entry = 2 ∧ t.pwr.saved = false ∧ t.get F.HWM_STAT_LIMP = 0 ∧
      DieReset [] s t ∧ SameMemBut 0x60001800 0x800 s t)

/-- The wake events (R37, R43, R78, R81–R83; details: log 49): a WAKE edge wakes a device that sleeps, and is kept for later while
it is on its way into DORMANT; an always-on counter's write, its edge, both in one cycle, its threshold; a Glint, and the wake
by one that lies outside its window. -/
def Obligations.WakeSources : Prop :=
  ∀ (s : State) (at_ : Nat),
    (s.mode = .dormant → s.pwr.entry = 0 → s.pwr.seq = .asleep → s.pwr.vbat = true → s.get F.MIR_RETIRED_PWMGRP = 0 →
      Gives (.wakeRise at_) s fun t => t.mode = .boot ∧ t.sub = .pwrseq ∧ t.pwr.seq = .delay ∧ t.pwr.wakePin = true ∧
        t.get (F.AON_WLOG_CAUSE 0) = 2 ∧ t.get F.SYS_RSTCAUSE_WAKE = 1 ∧
        DieReset ([R.AON_WAKESRC, R.AON_SLCTL] ++ (List.range 8).map R.AON_WLOG) s t ∧ SameMemBut 0x60001800 0x800 s t) ∧
    (s.pwr.entry ≠ 0 → s.mode ≠ .boot → Gives (.wakeRise at_) s fun t =>
      t.pwr.replay = true ∧ t.get F.AON_WAKESRC_WAKE = 1 ∧ t.get F.AON_WAKESRC_REPLAY = 1 ∧
      Writes (R.AON_WAKESRC :: timeRegs) s t) ∧
    (∀ (n : Fin 2) (v : BitVec 24), BridgeIdle s → s.flag F.AON_WAKEEN_PC0 = false → s.flag F.AON_WAKEEN_PC1 = false →
      Gives (.pcntWrite n v false at_) s fun t => t.get (pcntFld n.val) = v.toNat ∧
      t.get (if n.val = 0 then F.AON_PCCTL_UPONLY0 else F.AON_PCCTL_UPONLY1) = 0 ∧
      Writes ([R.AON_PCNT n.val, R.AON_PCCTL] ++ timeRegs) s t) ∧
    (∀ (n : Fin 2) (v : BitVec 24), BridgeIdle s → bitOf (s.reg R.AON_PCCTL) n.val = true → s.mode ≠ .dormant →
      s.flag F.AON_WAKEEN_PC0 = false → s.flag F.AON_WAKEEN_PC1 = false → Gives (.pcntWrite n v true at_) s fun t =>
      t.get (pcntFld n.val) = (if edgeDir s n.val then v.toNat + 1 else v.toNat + 2 ^ 24 - 1) % 2 ^ 24 ∧
      Writes ([R.AON_PCNT n.val, R.AON_PCCTL] ++ timeRegs) s t) ∧
    (∀ n : Fin 2, bitOf (s.reg R.AON_PCCTL) n.val = true → s.mode = .dormant → bitOf (s.reg R.AON_PCCTL) (2 + n.val) = false →
      s.flag F.AON_WAKEEN_PC0 = false → s.flag F.AON_WAKEEN_PC1 = false → Gives (.aonCounterEdge n at_) s fun t =>
      t.get (pcntFld n.val) = (s.get (pcntFld n.val) + 1) % 2 ^ 24 ∧
      t.get (if n.val = 0 then F.AON_PCCTL_UPONLY0 else F.AON_PCCTL_UPONLY1) = 1 ∧
      Writes ([R.AON_PCNT n.val, R.AON_PCCTL] ++ timeRegs) s t) ∧
    (∀ n : Fin 2, s.mode = .dormant → s.pwr.entry = 0 → s.pwr.seq = .asleep → s.pwr.vbat = true → s.get F.MIR_RETIRED_PWMGRP = 0 →
      bitOf (s.reg R.AON_PCCTL) n.val = true → bitOf (s.reg R.AON_PCCTL) (2 + n.val) = false →
      s.flag (if n.val = 0 then F.AON_WAKEEN_PC0 else F.AON_WAKEEN_PC1) = true →
      s.get (if n.val = 0 then F.AON_PCCTL_THR0 else F.AON_PCCTL_THR1) ≠ 0 →
      s.get (if n.val = 0 then F.AON_PCCTL_THR0 else F.AON_PCCTL_THR1) ≤
        pcntDist (s.put (pcntFld n.val) ((s.get (pcntFld n.val) + 1) % 2 ^ 24)) n.val →
      Gives (.aonCounterEdge n at_) s fun t => t.mode = .boot ∧ t.sub = .pwrseq ∧ t.pwr.seq = .delay ∧
        t.get (F.AON_WLOG_CAUSE 0) = 4 + n.val ∧ t.get (if n.val = 0 then F.AON_WAKESRC_PC0 else F.AON_WAKESRC_PC1) = 1) ∧
    (∀ n : Fin 2, bitOf (s.reg R.AON_PCCTL) n.val = true → s.mode ≠ .dormant → s.flag F.AON_WAKEEN_PC0 = false →
      s.flag F.AON_WAKEEN_PC1 = false → Gives (.aonCounterEdge n at_) s fun t =>
      t.get (pcntFld n.val) = (if edgeDir s n.val then s.get (pcntFld n.val) + 1 else s.get (pcntFld n.val) + 2 ^ 24 - 1) % 2 ^ 24 ∧
      Writes ([R.AON_PCNT n.val, R.AON_PCCTL] ++ timeRegs) s t) ∧
    (s.mode = .dormant → s.pwr.entry = 0 → s.pwr.seq = .asleep → s.pwr.vbat = true → s.flag F.AON_GLCFG_EN = true →
      s.pwr.glintOn = false → Gives .glintStart s fun t => t.pwr.glintOn = true ∧ t.pwr.adc0 = true ∧
        t.pwr.vsa = decide (s.get F.AON_SUPCFG_VSAMODE = 1 ∨ s.get F.AON_SUPCFG_VSAMODE = 2) ∧ Writes [] s t) ∧
    (∀ codes, s.pwr.glintOn = true → (∀ n, n < 8 → s.get (F.AON_GLCH_SRC n) = 15) → Gives (.glintEnd codes at_) s fun t =>
      t.pwr.glintOn = false ∧ t.pwr.glints = 0 ∧ Writes timeRegs s t) ∧
    (∀ (codes : List (BitVec 14)) (n : Fin 8), s.pwr.glintOn = true → s.flag F.AON_WAKEEN_GLINT = false →
      s.get (F.AON_GLCH_SRC n.val) ≠ 15 → Gives (.glintEnd codes at_) s fun t =>
      t.get (F.AON_GLRES_VALUE n.val) = (codes.getD n.val 0).toNat ∧
      (t.flag (F.AON_GLRES_VIOL n.val) = true ↔ (codes.getD n.val 0).toNat < s.get (F.AON_GLCH_LO n.val) ∨
        s.get (F.AON_GLCH_HI n.val) < (codes.getD n.val 0).toNat) ∧
      Writes ((List.range 8).map R.AON_GLRES ++ timeRegs) s t) ∧
    (∀ (codes : List (BitVec 14)) (n : Fin 8), s.pwr.glintOn = true → s.flag F.AON_WAKEEN_GLINT = true →
      s.mode = .dormant → s.pwr.entry = 0 → s.pwr.seq = .asleep → s.pwr.vbat = true → s.get F.MIR_RETIRED_PWMGRP = 0 →
      s.get (F.AON_GLCH_SRC n.val) ≠ 15 → (∀ m, m < 8 → m ≠ n.val → s.get (F.AON_GLCH_SRC m) = 15) →
      (codes.getD n.val 0).toNat < s.get (F.AON_GLCH_LO n.val) → s.get F.AON_GLCFG_CONFIRM ≤ s.pwr.glints →
      Gives (.glintEnd codes at_) s fun t => t.mode = .boot ∧ t.sub = .pwrseq ∧ t.pwr.seq = .delay ∧
        t.get (F.AON_WLOG_CAUSE 0) = 3 ∧ t.get F.AON_WAKESRC_GLINT = 1 ∧ t.get F.AON_WAKESRC_GLCH = n.val) ∧
    (Gives .wakeFall s fun t => t.pwr.wakePin = false ∧ Writes [] s t)
/-! ### Mode requests (R31–R33) -/

/-- A request with the key, alone in its cycle, whose row of R32 is taken. BOOT asks for a device reset (R37); every other mode but
DORMANT is entered at once, with PREV; a standing Withdraw takes INTEGRATE, STANDBY and ACTIVE on to SAFE (R339). DORMANT begins
its entry (R77). -/
def Obligations.ModeRequestsTaken : Prop :=
  ∀ s : State, s.pwr.entry = 0 →
    (rowOf s .boot = .taken → Gives (.modereqBoot 0xC3A5 .alone) s fun t => t.pwr.rstDue = some .modeReq ∧ Writes [] s t) ∧
    (rowOf s .service = .taken → Gives (.modereqService 0xC3A5 .alone) s fun t =>
      t.mode = .service ∧ t.sub = .none ∧ t.get F.SYS_MODE_PREV = s.mode.code ∧ Reacts [0x4008] s t) ∧
    (s.flag F.HWM_RXSTAT_WDRAW = false → rowOf s .integrate = .taken → Gives (.modereqIntegrate 0xC3A5 .alone) s fun t =>
      t.mode = .integrate ∧ t.sub = .none ∧ t.get F.SYS_MODE_PREV = s.mode.code ∧ Reacts [] s t) ∧
    (s.flag F.HWM_RXSTAT_WDRAW = false → s.mode = .active → Gives (.modereqStandby 0xC3A5 .alone) s fun t =>
      t.mode = .standby ∧ t.get F.SYS_MODE_PREV = 5 ∧ Reacts [] s t) ∧
    (s.flag F.HWM_RXSTAT_WDRAW = false → s.mode = .standby → activeGuard s = true →
      Gives (.modereqActive 0xC3A5 .alone) s fun t => t.mode = .active ∧ t.get F.SYS_MODE_PREV = 4 ∧ Reacts [] s t) ∧
    (rowOf s .safe = .taken → Gives (.modereqSafe 0xC3A5 .alone) s fun t =>
      t.mode = .safe ∧ t.sub = .none ∧ t.get F.SYS_MODE_PREV = s.mode.code ∧ Reacts [] s t) ∧
    (rowOf s .dormant = .taken → s.brg.queue = [] → Gives (.modereqDormant 0xC3A5 .alone) s fun t =>
      t.pwr.entry = 1 ∧ t.pwr.saved = true ∧ SameMode s t ∧
      (∀ a, a / 0x10000 ∉ [0x4003, 0x4006, 0x4008, 0x4009, 0x400A, 0x6000] → eventReg a = false → t.reg a = s.reg a) ∧
      SameMemBut 0x60001000 (4 * s.get F.AON_SLCTL_COUNT) s t) ∧
    (s.mode = .integrate → Gives .integrateTimeout s fun t =>
      t.mode = .safe ∧ t.get F.SYS_MODE_PREV = 3 ∧ Reacts [] s t)

/-- A refused request (R31, R99): REFUSED with REFCODE 1 for a wrong key, 5 and 4 for a cycle that has taken something else, 2 where
R32 has no row, 3 where a guard fails; the mode stays, and nothing else is written. LIMP is refused in every mode: no row names a
request as its trigger. -/
def Obligations.ModeRequestsRefused : Prop :=
  ∀ (s : State) (c : BitVec 16 → ReqCycle → Instr) (m : Mode),
    (c, m) ∈ [(Instr.modereqBoot, Mode.boot), (Instr.modereqService, .service), (Instr.modereqIntegrate, .integrate),
      (Instr.modereqStandby, .standby), (Instr.modereqActive, .active), (Instr.modereqSafe, .safe),
      (Instr.modereqDormant, .dormant), (Instr.modereqLimp, .limp)] →
    (∀ key cyc, key ≠ 0xC3A5 → Gives (c key cyc) s fun t =>
      t.get F.SYS_MODE_REFUSED = 1 ∧ t.get F.SYS_MODE_REFCODE = 1 ∧ Writes [R.SYS_MODE] s t) ∧
    (Gives (c 0xC3A5 .afterRequest) s fun t =>
      t.get F.SYS_MODE_REFUSED = 1 ∧ t.get F.SYS_MODE_REFCODE = 5 ∧ Writes [R.SYS_MODE] s t) ∧
    (Gives (c 0xC3A5 .afterTrigger) s fun t =>
      t.get F.SYS_MODE_REFUSED = 1 ∧ t.get F.SYS_MODE_REFCODE = 4 ∧ Writes [R.SYS_MODE] s t) ∧
    (rowOf s m = .absent → Gives (c 0xC3A5 .alone) s fun t =>
      t.get F.SYS_MODE_REFUSED = 1 ∧ t.get F.SYS_MODE_REFCODE = 2 ∧ Writes [R.SYS_MODE] s t) ∧
    (rowOf s m = .guarded → Gives (c 0xC3A5 .alone) s fun t =>
      t.get F.SYS_MODE_REFUSED = 1 ∧ t.get F.SYS_MODE_REFCODE = 3 ∧ Writes [R.SYS_MODE] s t) ∧
    rowOf s .limp = .absent

/-! ### Clocks, domains and supplies (R65, R68, R73–R75) -/

/-- The reference, the clock gates, the domains and the supplies (after a loss: log 78). A loss of a supervised
reference puts the internal RC in charge; a monitor window of 4,096 reference cycles off by more than 8 % does the same. A supervisor's
condition reaches PWR.SUPSTAT over the bridge, and not while that is down (R17, R19); that the supervisors run while the HWM's domain
is on is log 49. -/
def Obligations.ClocksAndSupplies : Prop :=
  ∀ s : State,
    (s.flag F.CLK_STAT_XTALOK = true → s.flag F.CLK_STAT_RCREF = false → Gives .referenceLoss s fun t =>
      t.get F.CLK_STAT_XLOSS = 1 ∧ t.get F.CLK_STAT_RCREF = 1 ∧ t.get F.CLK_STAT_XTALOK = 0 ∧ t.pwr.crystal = false ∧
      Reacts [0x4001, 0x4004, 0x4008] s t) ∧
    (∀ ticks : Nat, s.flag F.CLK_STAT_XTALOK = true → s.flag F.CLK_STAT_RCREF = false → ticks ≤ 1507 ∨ 1770 ≤ ticks →
      Gives (.refMonitorWindow ticks) s fun t =>
      t.get F.CLK_STAT_MONERR = 1 ∧ t.get F.CLK_STAT_RCREF = 1 ∧ t.get F.CLK_STAT_XTALOK = 0 ∧
      Reacts [0x4001, 0x4004, 0x4008] s t) ∧
    (∀ ticks : Nat, 1508 ≤ ticks → ticks ≤ 1769 → Gives (.refMonitorWindow ticks) s fun t => t = s) ∧
    (∀ v, Gives (.clkGateWrite v) s fun t =>
      t.get F.CLK_GATE_CAN = bitsOf v 0 0 ∧ t.get F.CLK_GATE_LUP = bitsOf v 1 1 ∧ t.get F.CLK_GATE_EVC = bitsOf v 2 2 ∧
      t.get F.CLK_GATE_INJ = bitsOf v 3 3 ∧ (NoDma s → Reacts [0x4001, 0x4010] s t)) ∧
    (∀ v, Gives (.domctlWrite v) s fun t =>
      t.get phyField = (if s.flag F.CLK_STAT_RCREF then bitsOf v 3 0 &&& s.get phyField else bitsOf v 3 0) ∧
      t.get F.PWR_DOMCTL_VSA = bitsOf v 4 4 ∧ t.get F.PWR_DOMCTL_VSB = bitsOf v 5 5 ∧
      (s.mode ≠ .dormant → s.pwr.vbat = true → t.pwr.vsa = bitOf v 4 ∧ t.pwr.vsb = bitOf v 5) ∧ SameMode s t ∧ Blocks [0x4002, 0x4006, 0x4008, 0x400A] s t) ∧
    (∀ sup, s.pwr.hwmOn = true → s.flag F.SYS_BRGSTAT_UP = true → injHeld s (121 + supBit sup) 0 = false →
      Gives (.supplySupervisorChange sup false) s fun t =>
      bitOf (t.reg R.PWR_SUPSTAT) (supBit sup) = false ∧ Writes ([R.PWR_SUPSTAT, R.HWM_STAT] ++ gateRegs) s t) ∧
    (∀ sup live, s.pwr.hwmOn = false → Gives (.supplySupervisorChange sup live) s fun t =>
      t.pwr.supRaw = withBit s.pwr.supRaw (supBit sup) live ∧ Writes [] s t) ∧
    (∀ sup live, s.flag F.SYS_BRGSTAT_UP = false → Gives (.supplySupervisorChange sup live) s fun t =>
      t.pwr.supRaw = withBit s.pwr.supRaw (supBit sup) live ∧ t.reg R.PWR_SUPSTAT = s.reg R.PWR_SUPSTAT) ∧
    (∀ sup, s.pwr.hwmOn = true → s.flag F.SYS_BRGSTAT_UP = true → Gives (.supplySupervisorChange sup true) s fun t =>
      bitOf (t.reg R.PWR_SUPSTAT) (supBit sup) = true ∧ Reacts [0x4004] s t) ∧
    (s.flag F.PWR_DOMCTL_VSA = true → s.flag F.SYS_BRGSTAT_UP = true → s.hwm.vsOff = [false, false] → Gives (.sensorSupplyOvercurrent false) s fun t =>
      t.get F.PWR_DOMCTL_VSA = 0 ∧ t.get F.PWR_SUPSTAT_VSFLT = 1 ∧ Reacts [] s t) ∧
    (s.flag F.PWR_DOMCTL_VSB = true → s.flag F.SYS_BRGSTAT_UP = true → s.hwm.vsOff = [false, false] → Gives (.sensorSupplyOvercurrent true) s fun t =>
      t.get F.PWR_DOMCTL_VSB = 0 ∧ t.get F.PWR_SUPSTAT_VSFLT = 1 ∧ Reacts [] s t)
/-! ### The control processor (R87, R89, R91–R97, R234) -/

/-- CP_INSTRUCTION runs the instruction at the pc, by the RISC-V instruction set that R87 names (log 45): an upper immediate, sums and
differences, a product and a quotient, a branch, the jumps, a compressed sum, loads and stores in the data TCM with their alignment
(R89) and the PMP (R91), a CSR's exchange (R90), a floating-point sum (log 82), a call of the environment, and a word that is no
instruction. A CP that does not run stays as it is. -/
def Obligations.CpRunsInstructions : Prop :=
  (∀ (s : State) (rd a b : Nat), rd < 32 → a < 32 → b < 32 →
    (∀ imm, imm < 2 ^ 20 → Fetched s (imm * 2 ^ 12 + rd * 2 ^ 7 + 0x37) → CpGives s rd (BitVec.ofNat 32 (imm * 2 ^ 12)) (s.cp.pc + 4)) ∧
    (Fetched s (b * 2 ^ 20 + a * 2 ^ 15 + rd * 2 ^ 7 + 0x33) → CpGives s rd (s.xreg a + s.xreg b) (s.cp.pc + 4)) ∧
    (Fetched s (2 ^ 30 + b * 2 ^ 20 + a * 2 ^ 15 + rd * 2 ^ 7 + 0x33) → CpGives s rd (s.xreg a - s.xreg b) (s.cp.pc + 4)) ∧
    (Fetched s (2 ^ 25 + b * 2 ^ 20 + a * 2 ^ 15 + rd * 2 ^ 7 + 0x33) → CpGives s rd (s.xreg a * s.xreg b) (s.cp.pc + 4)) ∧
    (Fetched s (2 ^ 25 + b * 2 ^ 20 + a * 2 ^ 15 + 5 * 2 ^ 12 + rd * 2 ^ 7 + 0x33) →
      CpGives s rd (if s.xreg b = 0 then 0xFFFFFFFF else BitVec.ofNat 32 ((s.xreg a).toNat / (s.xreg b).toNat)) (s.cp.pc + 4)) ∧
    (Fetched s (b * 2 ^ 20 + a * 2 ^ 15 + 4 * 2 ^ 8 + 0x63) →
      CpGives s 0 0 (if s.xreg a = s.xreg b then s.cp.pc + 8 else s.cp.pc + 4)) ∧
    (Fetched s (4 * 2 ^ 21 + rd * 2 ^ 7 + 0x6F) → CpGives s rd (s.cp.pc + 4) (s.cp.pc + 8)) ∧
    (∀ imm, imm < 2 ^ 11 → Fetched s (imm * 2 ^ 20 + a * 2 ^ 15 + rd * 2 ^ 7 + 0x67) →
      CpGives s rd (s.cp.pc + 4) ((s.xreg a + BitVec.ofNat 32 imm) &&& 0xFFFFFFFE)) ∧
    (∀ imm, imm < 2 ^ 5 → rd ≠ 0 → FetchedC s (rd * 2 ^ 7 + imm * 2 ^ 2 + 1) →
      CpGives s rd (s.xreg rd + BitVec.ofNat 32 imm) (s.cp.pc + 2))) ∧
  (∀ (s : State) (rd a b imm p : Nat), rd < 32 → a < 32 → b < 32 → p = (s.xreg a + BitVec.ofNat 32 imm).toNat →
    (imm < 2 ^ 11 → Fetched s (imm * 2 ^ 20 + a * 2 ^ 15 + 2 * 2 ^ 12 + rd * 2 ^ 7 + 0x03) → trigHit s 0 p = none →
      (p % 4 ≠ 0 → CpTraps s 4 (BitVec.ofNat 32 p)) ∧
      (p % 4 = 0 → pmpOk s (dataMachine s) 0 p = false → CpTraps s 5 (BitVec.ofNat 32 p)) ∧
      (p % 4 = 0 → pmpOk s (dataMachine s) 0 p = true → 0x01400000 ≤ p → p < 0x01440000 →
        CpGives s rd (s.word p) (s.cp.pc + 4))) ∧
    (imm < 2 ^ 5 → Fetched s (b * 2 ^ 20 + a * 2 ^ 15 + 2 * 2 ^ 12 + imm * 2 ^ 7 + 0x23) → trigHit s 1 p = none →
      (p % 4 ≠ 0 → CpTraps s 6 (BitVec.ofNat 32 p)) ∧
      (p % 4 = 0 → pmpOk s (dataMachine s) 1 p = false → CpTraps s 7 (BitVec.ofNat 32 p)) ∧
      (p % 4 = 0 → pmpOk s (dataMachine s) 1 p = true → 0x01400000 ≤ p → p < 0x01440000 → Gives .cpInstruction s fun t =>
        t.cp.pc = s.cp.pc + 4 ∧ t.word p = s.xreg b ∧ (∀ i, t.xreg i = s.xreg i) ∧ WritesAt [] p 4 s t))) ∧
  (∀ (s : State) (rd a b rm w : Nat), rd < 32 → a < 32 → b < 32 → rm < 5 → Fetched s w →
    (w = 0x340 * 2 ^ 20 + a * 2 ^ 15 + 2 ^ 12 + rd * 2 ^ 7 + 0x73 →
      (s.cp.machine = true → CpGives s rd (s.csr 0x340) (s.cp.pc + 4) ∧ Gives .cpInstruction s fun t => t.csr 0x340 = s.xreg a) ∧
      (s.cp.machine = false → CpTraps s 2 (BitVec.ofNat 32 w))) ∧
    (w = b * 2 ^ 20 + a * 2 ^ 15 + rm * 2 ^ 12 + rd * 2 ^ 7 + 0x53 →
      (fpOff s = false → Gives .cpInstruction s fun t =>
        t.cp.pc = s.cp.pc + 4 ∧ (∀ i, t.freg i = if i = rd then (rvAdd rm (s.freg a) (s.freg b)).1 else s.freg i) ∧
        t.csr 3 = s.csr 3 ||| BitVec.ofNat 32 (rvAdd rm (s.freg a) (s.freg b)).2 ∧ (∀ i, t.xreg i = s.xreg i) ∧ Writes [] s t) ∧
      (fpOff s = true → CpTraps s 2 (BitVec.ofNat 32 w)))) ∧
  (∀ s : State,
    (Fetched s 0x73 → CpTraps s (if s.cp.machine then 11 else 8) 0) ∧
    (Fetched s 0xFFFFFFFF → CpTraps s 2 0xFFFFFFFF) ∧
    (cpRuns s = false → Gives .cpInstruction s fun t => t = s))

/-- WFI lets the CP wait unless an interrupt is pending and enabled (R87); FENCE.I empties the instruction cache (R87); MRET in
machine mode goes on at mepc in the mode of mstatus.MPP and takes the level stack's top off (R97; logs 45 and 46). Interrupts
(R93, R95–R97): the timer's goes to the handler base, or BASE + 28 in the vectored mode; an external one takes the eligible
source with the highest level, which becomes the active level, with the old one on the stack; mepc, mcause and mstatus are
saved. In the table-vectored mode its handler stands in the vector table (its bit 0 dropped: log 116); where the table cannot be
read, the fault stands in place of the interrupt (log 93). An interrupt that is not enabled is not taken. -/
def Obligations.CpSpecialsAndInterrupts : Prop :=
  (∀ s : State, cpRuns s = true → s.cp.wfi = false → bitOf (s.csr 0x7B0) 2 = false →
    (wfiOpen s = true → Gives .cpWfi s fun t =>
      t.cp.pc = s.cp.pc + 4 ∧ (t.cp.wfi = true ↔ mipWord s &&& s.csr 0x304 = 0) ∧ (∀ i, t.xreg i = s.xreg i) ∧ Writes [] s t) ∧
    (Gives .cpFenceI s fun t => t.cp.pc = s.cp.pc + 4 ∧ t.cp.wfi = false ∧ t.cp.icache = [] ∧ (∀ i, t.xreg i = s.xreg i) ∧ Writes [] s t) ∧
    (s.cp.machine = true → Gives .cpMret s fun t =>
      t.cp.pc = s.csr 0x341 ∧ (t.cp.machine = true ↔ bitsOf (s.csr 0x300) 12 11 = 3) ∧ bitsOf (t.csr 0x300) 12 11 = 0 ∧
      t.icu.stack = s.icu.stack.drop 1 ∧ t.get F.ICU_CUR_LVL = s.icu.stack.headD (s.get F.ICU_CUR_LVL) % 32 ∧
      (∀ i, t.xreg i = s.xreg i) ∧ Writes [R.ICU_CUR] s t)) ∧
  (∀ s : State,
    (cpRuns s = true → takes s 7 = true → takes s 11 = false → Gives .cpTimerInterrupt s fun t =>
      t.cp.pc = BitVec.ofNat 32 (mtvecBase s + if bitsOf (s.csr 0x305) 1 0 = 1 then 28 else 0) ∧ t.cp.machine = true ∧
      t.cp.wfi = false ∧ t.csr 0x341 = s.cp.pc ∧ t.csr 0x342 = 0x80000007 ∧ bitsOf (t.csr 0x300) 3 3 = 0 ∧
      bitsOf (t.csr 0x300) 7 7 = bitsOf (s.csr 0x300) 3 3 ∧ (∀ i, t.xreg i = s.xreg i) ∧ Writes [] s t) ∧
    (∀ n, cpRuns s = true → takes s 11 = true → icuPick s = some n → bitsOf (s.csr 0x305) 1 0 ≠ 3 →
      Gives .cpExternalInterrupt s fun t =>
      t.cp.pc = BitVec.ofNat 32 (mtvecBase s + if bitsOf (s.csr 0x305) 1 0 = 1 then 44 else 0) ∧ t.cp.machine = true ∧
      t.csr 0x341 = s.cp.pc ∧ t.csr 0x342 = 0x8000000B ∧ t.icu.stack = s.get F.ICU_CUR_LVL :: s.icu.stack ∧
      t.get F.ICU_CUR_LVL = s.get (F.ICU_SRC_PRIO n) ∧ t.get F.ICU_CUR_SRC = n ∧
      (icuEdge s n = true → t.get (F.ICU_SRC_PEND n) = 0) ∧ (∀ i, t.xreg i = s.xreg i) ∧
      Writes [R.ICU_CUR, R.ICU_SRC n] s t) ∧
    (∀ n a, cpRuns s = true → takes s 11 = true → icuPick s = some n → bitsOf (s.csr 0x305) 1 0 = 3 →
      a = (s.reg R.ICU_VTAB).toNat / 512 * 512 + 4 * n → (∀ p, s.errs p = 0) → injDue s 128 = none →
      (0x01400000 ≤ a → a < 0x01440000 → Gives .cpExternalInterrupt s fun t =>
        t.cp.pc = s.word a &&& 0xFFFFFFFE ∧ t.cp.machine = true ∧ t.csr 0x341 = s.cp.pc ∧ t.csr 0x342 = 0x8000000B ∧
        t.icu.stack = s.get F.ICU_CUR_LVL :: s.icu.stack ∧ t.get F.ICU_CUR_LVL = s.get (F.ICU_SRC_PRIO n) ∧
        t.get F.ICU_CUR_SRC = n ∧ (∀ i, t.xreg i = s.xreg i) ∧ Writes [R.ICU_CUR, R.ICU_SRC n] s t) ∧
      (0x02000000 ≤ a → a < 0x10000000 → Gives .cpExternalInterrupt s fun t =>
        t.cp.pc = BitVec.ofNat 32 (mtvecBase s) ∧ t.cp.machine = true ∧ t.csr 0x341 = s.cp.pc ∧ t.csr 0x342 = 1 ∧
        t.csr 0x343 = BitVec.ofNat 32 a ∧ t.get F.ICU_CUR_LVL = s.get (F.ICU_SRC_PRIO n) ∧
        Writes [R.ICU_CUR, R.ICU_SRC n] s t)) ∧
    (takes s 7 = false → Gives .cpTimerInterrupt s fun t => t = s) ∧
    (takes s 11 = false → Gives .cpExternalInterrupt s fun t => t = s))

/-- The debug unit (R92, R234; its registers' places: log 96): a halt keeps pc and mode, lowers every command line, sets DBGHALT, and
sends its detector to the HWM where the bridge is up; an abstract command writes or reads a register of the halted CP; a resume goes
on where dpc says. Without bit 0 of SPB[3] there is neither a halt nor an access.

A write of ICU.SWSET (R99): each bit set makes its edge-triggered source 100 + k pending; nothing else changes. -/
def Obligations.DebugAndSoftwareSources : Prop :=
  (∀ s : State,
    (cpRuns s = true → bitOf (s.spb 3) 0 = true → s.flag F.SYS_BRGSTAT_UP = true → Gives (.debugHalt []) s fun t =>
      t.cp.debug = true ∧ t.csr 0x7B1 = s.cp.pc ∧ t.get F.PWM_STAT_DBGHALT = 1 ∧
      (∀ k, k < 24 → (t.leg k).lineH = false ∧ (t.leg k).lineL = false) ∧
      t.hwm.rxq = s.hwm.rxq ++ [{ det := 135, pos := 135, cls := 3, groups := 0xFF }] ∧ Writes [R.PWM_STAT] s t) ∧
    (∀ acc, bitOf (s.spb 3) 0 = false → Gives (.debugHalt acc) s fun t =>
      t.cp.debug = s.cp.debug ∧ t.cp.pc = s.cp.pc ∧ (∀ i, t.xreg i = s.xreg i) ∧ Writes [] s t) ∧
    (∀ (n : Nat) (v : Word), n < 32 → s.cp.debug = true → bitOf (s.spb 3) 0 = true → s.cp.dm.active = true →
      s.cp.dm.cmderr = 0 → s.cp.dm.auto = 0 →
      (Gives (.debugHalt [(0x04, some v), (0x17, some (BitVec.ofNat 32 (0x00231000 + n)))]) s fun t =>
        (∀ i, t.xreg i = if i = n ∧ i ≠ 0 then v else s.xreg i) ∧ t.cp.dm.cmderr = 0 ∧ t.cp.debug = true ∧ Writes [] s t) ∧
      (Gives (.debugHalt [(0x17, some (BitVec.ofNat 32 (0x00221000 + n))), (0x04, none)]) s fun t =>
        t.cp.dm.out = s.xreg n ∧ (∀ i, t.xreg i = s.xreg i) ∧ t.cp.debug = true ∧ Writes [] s t)) ∧
    (s.cp.debug = true → Gives .debugResume s fun t =>
      t.cp.debug = false ∧ t.cp.pc = s.csr 0x7B1 ∧ (t.cp.machine = true ↔ bitsOf (s.csr 0x7B0) 1 0 = 3) ∧
      t.get F.PWM_STAT_DBGHALT = (injHeld s 135 0).toNat ∧ Writes [R.PWM_STAT] s t)) ∧
  (∀ (s : State) (v : BitVec 28),
    (Gives (.icuSwset v) s fun t =>
      (∀ k, k < 28 → v.toNat.testBit k = true → icuEdge s (100 + k) = true → t.get (F.ICU_SRC_PEND (100 + k)) = 1) ∧
      (∀ k, k < 28 → v.toNat.testBit k = false → t.reg (R.ICU_SRC (100 + k)) = s.reg (R.ICU_SRC (100 + k))) ∧
      Writes ((List.range 28).map fun k => R.ICU_SRC (100 + k)) s t))

/-! ### The bridge (R17–R20) -/

/-- The bridge (a queued write applies when it has been carried, log 30). A good frame clears the run of failures; a
frame that fails its CRC check sets CRCERR and counts its repeat; the third failure of a frame is the bridge fault: BFAULT, UP
= 0, and what was on the way is lost. An access done applies the oldest write on its way, here to AON.PCNT0, to HWM.DETCNT
and to registers with RW fields alone. A command that names a register of a block behind a dead bridge, or of a block without its clock,
ends as a bus error does (R68, R76), as the CP's access where the row names no requester (log 105): OFFSTAT and OFFACC tell of it, and
nothing else changes. -/
def Obligations.BridgeFramesAndAccesses : Prop :=
  ∀ s : State,
    (s.flag F.SYS_BRGSTAT_UP = true → injDue s 119 = none → Gives (.bridgeFrameReceive true) s fun t =>
      t.brg = { s.brg with fails := 0 } ∧ Writes [] s t) ∧
    (s.flag F.SYS_BRGSTAT_UP = true → s.brg.fails < 2 → injDue s 119 = none → Gives (.bridgeFrameReceive false) s fun t =>
      t.get F.SYS_BRGSTAT_CRCERR = 1 ∧ t.brg = { s.brg with fails := s.brg.fails + 1 } ∧
      t.get F.SYS_BRGERRCNT_COUNT = satTo (fldTop F.SYS_BRGERRCNT_COUNT) (s.get F.SYS_BRGERRCNT_COUNT + 1) ∧
      Writes [R.SYS_BRGSTAT, R.SYS_BRGERRCNT] s t) ∧
    (s.flag F.SYS_BRGSTAT_UP = true → 2 ≤ s.brg.fails → Gives (.bridgeFrameReceive false) s fun t =>
      t.get F.SYS_BRGSTAT_BFAULT = 1 ∧ t.get F.SYS_BRGSTAT_UP = 0 ∧ t.brg.queue = [] ∧ t.hwm.rxq = [] ∧ Reacts [] s t) ∧
    (∀ ok, s.flag F.SYS_BRGSTAT_UP = false → Gives (.bridgeFrameReceive ok) s fun t => t = s) ∧
    (∀ q l, s.brg.queue = q :: l → q.addr = R.AON_PCNT 0 → s.flag F.AON_WAKEEN_PC0 = false → Gives .bridgeAccessDone s fun t =>
      t.brg.queue = l ∧ t.get (pcntFld 0) = bitsOf q.val 23 0 ∧ Writes [R.AON_PCNT 0, R.AON_PCCTL] s t) ∧
    (∀ q l, s.brg.queue = q :: l → q.addr = R.HWM_DETCNT → bitOf q.val 31 = true → Gives .bridgeAccessDone s fun t =>
      t.brg.queue = l ∧ t.get F.HWM_DETCNT_COUNT = 0 ∧ Writes [R.HWM_DETCNT] s t) ∧
    (∀ (k : Fin 24) (g : Fin 8) q l, s.brg.queue = q :: l →
      q.addr ∈ [R.GDR_DRV k.val, R.GDR_HSCFG, R.CSA_CFG k.val, R.AON_GLCFG, R.AON_SUPCFG, R.AON_WAKEEN, R.AON_SLBASE, R.AON_SLCTL,
        R.AON_PCCTL, R.AON_GLCH g.val] →
      Gives .bridgeAccessDone s fun t => t.brg.queue = l ∧
        (∀ f ∈ fieldsOf q.addr, f.acc = .rw → f.legal.ok (bitsOf q.val f.hi f.lo) = true →
          bitsOf (t.reg q.addr) f.hi f.lo = bitsOf q.val f.hi f.lo) ∧ Writes [q.addr] s t) ∧
    (s.brg.queue = [] → Gives .bridgeAccessDone s fun t => t = s) ∧
    (∀ (m : BitVec 8) (k : Fin 8) (c : Instr) (a : Nat), (c, a) ∈ [(Instr.releaseGroup m, R.HWM_RXREL),
        (Instr.releaseHalt, R.HWM_RXREL), (Instr.detcntClr, R.HWM_DETCNT), (Instr.pisOpenRequest m, R.HWM_PISCTL),
        (Instr.pisCloseRequest m, R.HWM_PISCTL), (Instr.gdrEvtClr, R.GDR_EVT), (Instr.adcStatClr k, R.ADC_STAT k.val),
        (Instr.zxStart k, R.ADC_ZXCFG k.val)] →
      s.flag F.SYS_BRGSTAT_UP = false → s.flag F.PWR_OFFSTAT_VALID = false →
      Gives c s fun t => t.get F.PWR_OFFSTAT_VALID = 1 ∧ t.get F.PWR_OFFSTAT_REQ = 0 ∧ t.reg R.PWR_OFFACC = BitVec.ofNat 32 a ∧
        t.brg = s.brg ∧ Writes [R.PWR_OFFSTAT, R.PWR_OFFACC] s t) ∧
    (∀ (x : Fin 2) (b : Fin 4) (n : Fin 32) (v : Word) (c : Instr) (a : Nat), (c, a) ∈ [(Instr.canTxgo x v, R.CAN_TXGO x.val),
        (Instr.canTxabort x v, R.CAN_TXABORT x.val), (Instr.canRxack x v, R.CAN_RXACK x.val),
        (Instr.canConfWrite x v, R.CAN_MCTL x.val), (Instr.injDisarm, R.INJ_CTL), (Instr.evcGctl v, R.EVC_GCTL),
        (Instr.evcCntlRead n, R.EVC_CNTL n.val), (Instr.lupStart b, R.LUP_CTL b.val), (Instr.lupSwtrg b, R.LUP_CTL b.val),
        (Instr.lupAbort b, R.LUP_CTL b.val)] →
      blockOff s a = true → s.flag F.PWR_OFFSTAT_VALID = false →
      Gives c s fun t => t.get F.PWR_OFFSTAT_VALID = 1 ∧ t.get F.PWR_OFFSTAT_REQ = 0 ∧ t.reg R.PWR_OFFACC = BitVec.ofNat 32 a ∧
        Writes [R.PWR_OFFSTAT, R.PWR_OFFACC] s t)

/-- A write of 1 to SYS.BRGERRCNT.CLR in the CLK_PER cycle of a repeat leaves COUNT at 1 (R20), whether the repeat comes with the write
or has come before it in that cycle; in another cycle it leaves 0. -/
def Obligations.ClearInTheCycleOfARepeat : Prop :=
  ∀ s : State,
    (Gives (.brgerrcntClr true) s fun t => t.get F.SYS_BRGERRCNT_COUNT = 1 ∧ Writes [R.SYS_BRGERRCNT] s t) ∧
    (Gives (.brgerrcntClr false) s fun t =>
      t.get F.SYS_BRGERRCNT_COUNT = (s.freshIn F.SYS_BRGERRCNT_COUNT).toNat ∧ Writes [R.SYS_BRGERRCNT] s t) ∧
    (s.fresh.bits = [] → Gives (.brgerrcntClr false) s fun t => t.get F.SYS_BRGERRCNT_COUNT = 0) ∧
    (s.flag F.SYS_BRGSTAT_UP = true → s.brg.fails < 2 → injDue s 119 = none → Gives (.bridgeFrameReceive false) s fun t =>
      Gives (.brgerrcntClr false) t fun u => u.get F.SYS_BRGERRCNT_COUNT = 1)

/-! ### Memory code and scrubbing (R101–R104) -/

/-- (skipped words: log 38.) SCRUB_READ moves the scrubber to the next word. An error of one or two bits is corrected
and, in RAM, written back; more are reported with their address, and so is a read that resolves to another word (R101); a word
without errors is left as it is. Data bytes never change. A scrubber that is disabled does nothing. What has come about in other words
since (flipped bits, reads that resolve to another word: log 115) comes in with the command. -/
def Obligations.ScrubberReads : Prop :=
  ∀ (s : State) (m : ScrubMem) (late : Bool), injDue s 128 = none →
    (m = .flash ∨ s.flag F.ARB_SCRUB_EN = true →
      ∀ e, e = s.errs (scrubPlace m s) →
      (e = 0 → Gives (.scrubRead m late false 0 0 []) s fun t =>
        scrubPlace m t = (scrubArea m).2.1 + (scrubPlace m s - (scrubArea m).2.1 + 8) % (8 * (scrubArea m).2.2) ∧
        (late = true → t.get F.ARB_ECCSTAT_SCRLATE = 1) ∧ t.ecc = s.ecc ∧
        Writes (if late then [R.ARB_ECCSTAT] else []) s t) ∧
      (1 ≤ e → e ≤ 2 → m ≠ .flash → Gives (.scrubRead m late false 0 0 []) s fun t =>
        t.errs (scrubPlace m s) = 0 ∧ t.get F.ARB_ECCSTAT_CE = 1 ∧ Writes [R.ARB_ECCSTAT] s t) ∧
      (1 ≤ e → e ≤ 2 → m = .flash → Gives (.scrubRead m late false 0 0 []) s fun t =>
        t.ecc = s.ecc ∧ t.get F.ARB_ECCSTAT_FLCE = 1 ∧ Writes [R.ARB_ECCSTAT] s t) ∧
      (3 ≤ e → Gives (.scrubRead m late false 0 0 []) s fun t =>
        t.ecc = s.ecc ∧ t.get F.ARB_ECCSTAT_UE = 1 ∧ Writes [R.ARB_ECCSTAT, R.ARB_ECCADDR] s t)) ∧
    (∀ flips stray : Fin 4, m = .flash ∨ s.flag F.ARB_SCRUB_EN = true → stray ≠ 0 → Gives (.scrubRead m late false flips stray []) s fun t =>
      t.get F.ARB_ECCSTAT_UE = 1 ∧ Writes [R.ARB_ECCSTAT, R.ARB_ECCADDR] s t) ∧
    (∀ flips stray, m ≠ .flash → s.flag F.ARB_SCRUB_EN = false → ∀ clash, Gives (.scrubRead m late clash flips stray []) s fun t => t = s) ∧
    (∀ (a : Word) (flips stray : Fin 4), m ≠ .flash → s.flag F.ARB_SCRUB_EN = false → inCoded a.toNat = true →
      Gives (.scrubRead m late false 0 0 [(a, flips, stray)]) s fun t =>
        t.errs a.toNat = (if stray = 0 then max (s.errs a.toNat) (min 3 (s.errs a.toNat + flips.val)) else 4) ∧ Writes [] s t)

/-! ### The bank arbiters (R105–R113) -/

/-- Requests (R105–R107, R112). A transfer on a bank that another requester's lock closes waits, or, where its requester holds a lock
above that bank, is refused with LKREFUSE. A transfer on an idle, open bank is granted; one of a higher level pre-empts the transfer in progress,
which waits to restart, unless it is in its last beat, holds NOPRE or has been pre-empted four times; another waits. One that comes in
the cycle of the decision takes part in it (R106, R109; log 37). -/
def Obligations.ArbiterRequests : Prop :=
  ∀ (s : State) (b : Fin 8) (rq : Requester) (wr : Bool) (word : Fin 65536) (beats : List (BitVec 64)) (last : Bool) (at_ : Nat),
    ∀ x, x = ({ rq := reqCode rq, wr := wr, word := word.val, beats := beats, preempted := 0 } : Xfer) →
    (lockOpen s (reqCode rq) b.val = false → holdsAbove s (reqCode rq) b.val = true →
      Gives (.arbRequest b rq wr word beats last at_) s fun t =>
      t.get F.ARB_ERR_LKREFUSE = 1 ∧ (t.bank b.val).err = some (reqCode rq) ∧ (t.bank b.val).cur = (s.bank b.val).cur ∧
      (t.bank b.val).wait = (s.bank b.val).wait ∧ Writes (R.ARB_ERR :: timeRegs) s t) ∧
    (lockOpen s (reqCode rq) b.val = false → holdsAbove s (reqCode rq) b.val = false →
      Gives (.arbRequest b rq wr word beats last at_) s fun t =>
      (t.bank b.val).cur = (s.bank b.val).cur ∧ (t.bank b.val).wait = (s.bank b.val).wait ++ [x] ∧ Writes timeRegs s t) ∧
    (lockOpen s (reqCode rq) b.val = true →
    ((s.bank b.val).cur = none → Gives (.arbRequest b rq wr word beats last at_) s fun t =>
      (t.bank b.val).cur = some x ∧ (t.bank b.val).last = reqCode rq ∧ (∀ c, c ≠ b.val → t.bank c = s.bank c) ∧
      Writes timeRegs s t) ∧
    (∀ c, (s.bank b.val).cur = some c → (s.bank b.val).dec ≠ some (max s.now at_) →
      level s c.rq < level s (reqCode rq) ∧ last = false ∧ s.flag (F.ARB_RQCFG_NOPRE c.rq) = false ∧ c.preempted < 4 →
      Gives (.arbRequest b rq wr word beats last at_) s fun t =>
      (t.bank b.val).cur = some x ∧
      (t.bank b.val).wait = (s.bank b.val).wait ++ [{ c with preempted := c.preempted + 1 }] ∧ Writes timeRegs s t) ∧
    (∀ c, (s.bank b.val).cur = some c → (s.bank b.val).dec ≠ some (max s.now at_) →
      ¬ (level s c.rq < level s (reqCode rq) ∧ last = false ∧ s.flag (F.ARB_RQCFG_NOPRE c.rq) = false ∧ c.preempted < 4) →
      Gives (.arbRequest b rq wr word beats last at_) s fun t =>
      (t.bank b.val).cur = some c ∧ (t.bank b.val).wait = (s.bank b.val).wait ++ [x] ∧ Writes timeRegs s t) ∧
    (∀ c, (s.bank b.val).cur = some c → (s.bank b.val).dec = some (max s.now at_) →
      Gives (.arbRequest b rq wr word beats last at_) s fun t =>
      (t.bank b.val).cur = some (if wins s (s.bank b.val).prev x c then x else c) ∧
      (t.bank b.val).wait = (s.bank b.val).wait ++ [if wins s (s.bank b.val).prev x c then c else x] ∧ Writes timeRegs s t))

/-- Completions, cut-offs, locks and their loss (R105, R108, R110–R113; PREVLOST of an expiry and the order within a cycle: log 37). A
transfer that has its last beat leaves the bank; a write's data then stand in memory, the Loupe's from its staging FIFO (R180). A
requester that holds no lock above a free
bank's gets it; out of order it gets a bus error and LKORDER; of a lock that another one holds it reads the owner. Only the owner
releases. A lock held too long is taken away. -/
def Obligations.ArbiterLocks : Prop :=
  ∀ (s : State) (b : Fin 8) (rq : Requester) (at_ : Nat),
    (∀ x, (s.bank b.val).cur = some x → x.wr = true → x.rq ≠ 11 → (s.bank b.val).wait = [] →
      Gives (.arbTransferComplete b at_) s fun t =>
      (t.bank b.val).cur = none ∧ (t.bank b.val).err = none ∧
      (∀ i, i < x.beats.length → t.word (bankPlace b.val x.word + 8 * i) = (x.beats.getD i 0).extractLsb' 0 32 ∧
        t.word (bankPlace b.val x.word + 8 * i + 4) = (x.beats.getD i 0).extractLsb' 32 32) ∧
      WritesAt timeRegs (bankPlace b.val x.word) (8 * x.beats.length) s t) ∧
    (∀ x, (s.bank b.val).cur = some x → x.wr = true → x.rq = 11 → (s.bank b.val).wait = [] → ∀ p w, s.fifo = [(p, w)] →
      bankPlace b.val x.word ≤ p → p < bankPlace b.val x.word + 8 * x.beats.length → inSram p = true → (∀ a, s.errs a = 0) →
      injDue s 128 = none → Gives (.arbTransferComplete b at_) s fun t =>
      (t.bank b.val).cur = none ∧ (t.bank b.val).err = none ∧ t.word p = w ∧ t.fifo = [] ∧ WritesAt timeRegs p 4 s t) ∧
    (∀ x, (s.bank b.val).cur = some x → x.rq ≤ 12 → Gives (.arbGrantCutoff b) s fun t =>
      (t.bank b.val).err = some x.rq ∧ t.get F.ARB_ERR_CUTOFF = 1 ∧ t.bit F.ARB_CUTSTAT_CUT x.rq = true ∧
      Writes [R.ARB_ERR, R.ARB_CUTSTAT] s t) ∧
    (NoDma s → (s.bank b.val).lkAt ≠ some (max s.now at_) →
      (lockOwner s b.val = reqCode rq ∨ lockOwner s b.val = 15 ∧ holdsAbove s (reqCode rq) b.val = false →
        Gives (.arbAcquire rq b at_) s fun t => lockOwner t b.val = reqCode rq ∧ t.get (F.ARB_ACQ_PREVLOST b.val) = 0 ∧
        (t.bank b.val).err = none ∧
        mget (fun _ => 0) (t.bank b.val).acq (reqCode rq) =
          BitVec.ofNat 32 (2 ^ 31 + (prevLost s b.val).toNat * 2 ^ 30 + reqCode rq) ∧
        Writes ([R.ARB_LKST, R.ARB_ACQ b.val, R.ARB_ERR] ++ timeRegs) s t) ∧
      (lockOwner s b.val ≠ reqCode rq → lockOwner s b.val ≠ 15 → holdsAbove s (reqCode rq) b.val = false →
        Gives (.arbAcquire rq b at_) s fun t =>
        mget (fun _ => 0) (t.bank b.val).acq (reqCode rq) = BitVec.ofNat 32 (lockOwner s b.val) ∧ Writes timeRegs s t) ∧
      (lockOwner s b.val = reqCode rq → Gives (.arbRelease rq b at_) s fun t =>
        lockOwner t b.val = 15 ∧ (t.bank b.val).err = none ∧ Writes ([R.ARB_LKST, R.ARB_ERR] ++ timeRegs) s t)) ∧
    (NoDma s → (s.bank b.val).lkAt = some (max s.now at_) → ∀ o, lockOwner s b.val = o → (s.bank b.val).lkWon = some o → o ≠ reqCode rq →
      holdsAbove s (reqCode rq) b.val = false → before s b.val (reqCode rq) o = true → Gives (.arbAcquire rq b at_) s fun t =>
      lockOwner t b.val = reqCode rq ∧ Writes ([R.ARB_LKST, R.ARB_ACQ b.val, R.ARB_ERR] ++ timeRegs) s t) ∧
    (lockOwner s b.val ≠ reqCode rq → holdsAbove s (reqCode rq) b.val = true → Gives (.arbAcquire rq b at_) s fun t =>
      (t.bank b.val).err = some (reqCode rq) ∧ t.get F.ARB_ERR_LKORDER = 1 ∧ Writes (R.ARB_ERR :: timeRegs) s t) ∧
    (lockOwner s b.val ≠ reqCode rq → Gives (.arbRelease rq b at_) s fun t =>
      (t.bank b.val).err = some (reqCode rq) ∧ Writes timeRegs s t) ∧
    (NoDma s → lockOwner s b.val ≠ 15 → Gives (.arbLockHoldExpiry b) s fun t =>
      lockOwner t b.val = 15 ∧ t.get (F.ARB_ACQ_PREVLOST b.val) = 1 ∧ t.get F.ARB_ERR_HOLDEXP = 1 ∧
      Writes [R.ARB_LKST, R.ARB_ACQ b.val, R.ARB_ERR] s t)
/-! ### The Mirror and the discriminating tests (R115–R119) -/

/-- A mismatch (R116–R118) shows in MMSTAT and MMCNT, freezes the pair, forces its groups, and starts the pair's test where no test
runs; a pair out of the comparison is left alone (which pairs those are: log 35; that the command then changes nothing: log 84).

A parity error of the synchronisation signals (R115): SYNCPAR, its count, source 65 and detector 129. -/
def Obligations.MirrorErrors : Prop :=
  (∀ (s : State) (r : Fin 17), s.pwr.seq = .done → NoDma s →
    (pairIdle s r.val = false → s.flag F.BST_STAT_RUN = false → Gives (.mirrorMismatch r) s fun t =>
      bitOf (t.reg R.MIR_MMSTAT) r.val = true ∧
      t.get F.MIR_MMCNT_MISMATCH = satTo (fldTop F.MIR_MMCNT_MISMATCH) (s.get F.MIR_MMCNT_MISMATCH + 1) ∧
      r.val ∈ t.mir.frozen ∧ t.mir.hold = s.mir.hold ++ [(r.val, affected s r.val)] ∧
      t.get F.BST_STAT_RUN = 1 ∧ t.get F.BST_STAT_ORIGIN = 3 ∧ SameMode s t ∧
      Blocks [0x4003, 0x4004, 0x4005, 0x400C, 0x5001, 0x7000] s t) ∧
    (pairIdle s r.val = true → Gives (.mirrorMismatch r) s fun t => t = s)) ∧
  (∀ s : State, Gives .syncParityError s fun t =>
    t.get F.MIR_MMSTAT_SYNCPAR = 1 ∧
    t.get F.MIR_MMCNT_SYNCPAR = satTo (fldTop F.MIR_MMCNT_SYNCPAR) (s.get F.MIR_MMCNT_SYNCPAR + 1) ∧
    (s.flag F.SYS_BRGSTAT_UP = true →
      t.hwm.rxq = s.hwm.rxq ++ [{ det := 129, pos := 129, cls := classOf s 129, groups := 0xFF }]) ∧
    (icuEdge s 65 = true → t.get (F.ICU_SRC_PEND 65) = 1) ∧ Writes [R.MIR_MMSTAT, R.MIR_MMCNT] s t)

/-- The ends of tested copies (R118, R119, R365, R370; the order after an abort: log 34): copy 0 of a discriminating test is
judged and copy 1 follows; copy 1 gives the verdict; the last region of an on-demand test ends with DONE and an idle
controller. -/
def Obligations.TestedCopies : Prop :=
  ∀ (s : State) (e : BistEnd), s.flag F.BST_STAT_RUN = true → ∀ r, s.get F.BST_STAT_REGION = r → r ≤ 16 →
    (s.get F.BST_STAT_ORIGIN = 3 → s.get F.BST_STAT_COPY = 0 → e.restored = true → Gives (.bistCopyDone e) s fun t =>
      t.reg (R.BST_SIG r 0) = e.misr ∧ t.get F.BST_STAT_COPY = 1 ∧ t.get F.BST_STAT_REGION = r ∧
      t.mir.copy0 = s.mir.copy0 ++ [(r, (bistResult s r e != 1, decide (e.patterns < bistTerminal r)))] ∧
      SameMode s t ∧ Blocks [0x4004, 0x400C] s t) ∧
    (∀ a, s.get F.BST_STAT_ORIGIN = 3 → s.get F.BST_STAT_COPY = 1 → e.restored = true →
      s.mir.copy0.find? (fun x => x.1 == r) = some (r, a) → Gives (.bistCopyDone e) s fun t =>
      t.reg (R.BST_SIG r 1) = e.misr ∧ t.get F.MIR_VERDICT_PAIR = r ∧
      t.get F.MIR_VERDICT_RESULT = verdictCode a.1 (bistResult s r e != 1) ∧ r ∉ t.mir.frozen ∧
      Reacts [0x4004, 0x4008] s t) ∧
    (s.get F.BST_STAT_ORIGIN = 2 → s.get F.BST_STAT_COPY = 1 → e.restored = true → s.bist.regions = [r] →
      Gives (.bistCopyDone e) s fun t =>
      t.reg (R.BST_SIG r 1) = e.misr ∧ t.get F.BST_STAT_DONE = 1 ∧ t.get F.BST_STAT_RUN = 0 ∧ t.bist.regions = [] ∧
      SameMode s t ∧ Blocks [0x4004, 0x400C] s t)
/-! ### The Prism scheduler (R161–R176, R181) -/

/-- A trigger (R162, R165): an event of a source, presented and taken, starts an instance of each enabled flow whose divider it passes,
on the live half; where the flow's instance is still in service it is an overrun, but not in the instance's completion cycle (which
commands that cycle is told from: log 68). An event that the divider holds back is counted.

FLOW_COMPLETE (R164, R166): an instance with nothing left in a list, on its way or under way ends; RLAST is its time of response,
UNFIRED tells of nodes that never fired, and a held trigger starts the next instance (log 68: at once). -/
def Obligations.FlowInstances : Prop :=
  (∀ (s : State) (src : Fin 32) (at_ : Nat) (n : Fin 64), s.now ≤ at_ →
    s.flag (F.PRS_FLOWCFG_EN n.val) = true → s.get (F.PRS_FLOWCFG_SRC n.val) = src.val →
    s.flag F.PRS_STAT_RUNNING = true → s.flag (F.PRS_FLOWST_SUSP n.val) = false → s.prs.runScan = false →
    (mget (fun _ => {}) s.prs.info n.val).nroot ≠ 0xF → s.prs.events.any (fun e => e.src == src.val) = true →
    (∀ i ∈ s.prs.insts, canComplete s i = false) →
    (s.get (F.PRS_FLOWCFG_DIV n.val) ≤ mget (fun _ => 0) s.prs.divs n.val → instOf s n.val = none →
      Gives (.flowTrigger src at_) s fun t =>
      (∃ i, instOf t n.val = some i ∧ i.trig = at_ ∧ i.half = liveHalf s ∧ i.rooted = false ∧
        i.roots = (mget (fun _ => {}) s.prs.info n.val).roots ∧ i.prio = s.get (F.PRS_FLOWCFG_PRIO n.val)) ∧
      t.get (F.PRS_FLOWST_INSV n.val) = 1 ∧ t.prs.events = s.prs.events.eraseP (fun e => e.src == src.val) ∧
      SameMode s t ∧ Blocks [0x4005, 0x4010, 0xE000] s t) ∧
    (s.get (F.PRS_FLOWCFG_DIV n.val) ≤ mget (fun _ => 0) s.prs.divs n.val → (instOf s n.val).isSome = true →
      Gives (.flowTrigger src at_) s fun t =>
      instOf t n.val = instOf s n.val ∧ t.get (F.PRS_FLOWST_TRIGOVR n.val) = 1 ∧
      t.get (F.PRS_FLOWST_OVRCNT n.val) = satTo (fldTop (F.PRS_FLOWST_OVRCNT 0)) (s.get (F.PRS_FLOWST_OVRCNT n.val) + 1) ∧
      t.bit (F.PRS_OVRSUM_OVR (n.val / 32)) (n.val % 32) = true ∧
      (s.flag (F.PRS_FLOWCFG_POL n.val) = false → t.get (F.PRS_FLOWST_PEND n.val) = 1) ∧
      SameMode s t ∧ Blocks [0x4005, 0x4010, 0xE000] s t) ∧
    (mget (fun _ => 0) s.prs.divs n.val < s.get (F.PRS_FLOWCFG_DIV n.val) → Gives (.flowTrigger src at_) s fun t =>
      mget (fun _ => 0) t.prs.divs n.val = mget (fun _ => 0) s.prs.divs n.val + 1 ∧ instOf t n.val = instOf s n.val ∧
      SameMode s t ∧ Blocks [0x4005, 0x4010, 0xE000] s t)) ∧
  (∀ (s : State) (src : Fin 32) (at_ : Nat) (n : Fin 64), s.now ≤ at_ →
    s.flag (F.PRS_FLOWCFG_EN n.val) = true → s.get (F.PRS_FLOWCFG_SRC n.val) = src.val →
    (∀ m : Fin 64, m ≠ n → s.flag (F.PRS_FLOWCFG_EN m.val) = true → s.get (F.PRS_FLOWCFG_SRC m.val) ≠ src.val) →
    s.flag F.PRS_STAT_RUNNING = true → s.flag (F.PRS_FLOWST_SUSP n.val) = false → s.prs.runScan = false →
    (mget (fun _ => {}) s.prs.info n.val).nroot ≠ 0xF → s.prs.events.any (fun e => e.src == src.val) = true →
    s.get (F.PRS_FLOWCFG_DIV n.val) ≤ mget (fun _ => 0) s.prs.divs n.val → s.flag (F.PRS_FLOWST_PEND n.val) = false →
    ∀ i, instOf s n.val = some i → canComplete s i = true → (∀ j ∈ s.prs.insts, j.flow = n.val → j.id = i.id) →
    Gives (.flowTrigger src at_) s fun t =>
      (∃ j, instOf t n.val = some j ∧ j.trig = at_ ∧ j.rooted = false) ∧
      t.get (F.PRS_FLOWST_TRIGOVR n.val) = s.get (F.PRS_FLOWST_TRIGOVR n.val) ∧
      t.get (F.PRS_FRESP_RLAST n.val) = satTo 0xFFFF (at_ - i.trig) ∧
      SameMode s t ∧ Blocks [0x4005, 0x4010, 0xE000] s t) ∧
  (∀ (s : State) (n : Fin 64) (at_ : Nat), s.now ≤ at_ → ∀ i, instOf s n.val = some i → canComplete s i = true →
    s.flag (F.PRS_FLOWST_PEND n.val) = false → (∀ j ∈ s.prs.insts, j.flow = n.val → j.id = i.id) →
    Gives (.flowComplete n at_) s fun t =>
      instOf t n.val = none ∧ t.get (F.PRS_FLOWST_INSV n.val) = 0 ∧
      t.get (F.PRS_FRESP_RLAST n.val) = satTo 0xFFFF (at_ - i.trig) ∧
      t.get (F.PRS_FRESP_RMAX n.val) = max (satTo 0xFFFF (at_ - i.trig)) (s.get (F.PRS_FRESP_RMAX n.val)) ∧
      (i.fired < i.nodes → t.get (F.PRS_FLOWST_UNFIRED n.val) = 1) ∧ SameMode s t ∧ Blocks [0x4005, 0x4010, 0xE000] s t) ∧
  (∀ (s : State) (n : Fin 64) (at_ : Nat), s.now ≤ at_ → ∀ i, instOf s n.val = some i → canComplete s i = true →
    s.flag (F.PRS_FLOWST_PEND n.val) = true → s.flag F.PRS_STAT_RUNNING = true → flowOpen s n.val = true →
    (∀ j ∈ s.prs.insts, j.flow = n.val → j.id = i.id) → Gives (.flowComplete n at_) s fun t =>
      (∃ j, instOf t n.val = some j ∧ j.trig = at_ ∧ j.rooted = false ∧ j.half = liveHalf s ∧
        j.roots = (mget (fun _ => {}) s.prs.info n.val).roots) ∧
      t.get (F.PRS_FLOWST_PEND n.val) = 0 ∧ t.get (F.PRS_FLOWST_INSV n.val) = 1 ∧
      t.get (F.PRS_FRESP_RLAST n.val) = satTo 0xFFFF (at_ - i.trig) ∧ SameMode s t ∧ Blocks [0x4005, 0x4010, 0xE000] s t)

/-- Roots and tokens (R121, R134, R162, R164, R168). The roots of an instance enter the ready lists once; a token that completes its
node's count puts the node into the list of the facet on which it is placed, another one is counted; a token too many raises cause 6
where its source has raised none. -/
def Obligations.RootsAndTokens : Prop :=
  ∀ (s : State) (at_ : Nat), s.now ≤ at_ →
    (∀ (n : Fin 64), ∀ i, instOf s n.val = some i → i.rooted = false → i.roots = [] → Gives (.flowRootEntry n at_) s fun t =>
      (∃ j, instOf t n.val = some j ∧ j.rooted = true) ∧ Writes timeRegs s t) ∧
    (∀ (n : Fin 64), ∀ i, instOf s n.val = some i → i.rooted = false → ∀ r, i.roots = [r] →
      (s.facet (placeOf s i.half r)).ready.length < 256 → placeOf s i.half r < 8 → Gives (.flowRootEntry n at_) s fun t =>
      ({ id := i.id, flow := i.flow, node := r, half := i.half, entry := at_, prio := i.prio } : Ready) ∈
        (t.facet (placeOf s i.half r)).ready ∧
      (t.facet (placeOf s i.half r)).ready.length = (s.facet (placeOf s i.half r)).ready.length + 1 ∧
      Writes (R.PRS_FQ (placeOf s i.half r) :: timeRegs) s t) ∧
    (∀ (n : Fin 64), ∀ i, instOf s n.val = some i → i.rooted = true → Gives (.flowRootEntry n at_) s fun t =>
      t.prs.insts = s.prs.insts ∧ (∀ f, (t.facet f).ready = (s.facet f).ready) ∧ Writes timeRegs s t) ∧
    (∀ (node : BitVec 14), ∀ k, s.prs.toks.find? (fun k => k.node == node.toNat) = some k → ∀ i, instId s k.id = some i →
      mget (fun _ => 0) i.counts k.node + 1 = nArity (nodeBits s i.half k.node) → placeOf s i.half k.node < 8 →
      (s.facet (placeOf s i.half k.node)).ready.length < 256 → Gives (.tokenArrival node at_) s fun t =>
      t.prs.toks = s.prs.toks.erase k ∧
      ({ id := i.id, flow := i.flow, node := k.node, half := i.half, entry := at_, prio := i.prio } : Ready) ∈
        (t.facet (placeOf s i.half k.node)).ready ∧
      Writes (R.PRS_FQ (placeOf s i.half k.node) :: timeRegs) s t) ∧
    (∀ (node : BitVec 14), ∀ k, s.prs.toks.find? (fun k => k.node == node.toNat) = some k → ∀ i, instId s k.id = some i →
      mget (fun _ => 0) i.counts k.node + 1 < nArity (nodeBits s i.half k.node) → Gives (.tokenArrival node at_) s fun t =>
      t.prs.toks = s.prs.toks.erase k ∧ (∀ f, (t.facet f).ready = (s.facet f).ready) ∧
      (∃ j, instId t k.id = some j ∧ mget (fun _ => 0) j.counts k.node = mget (fun _ => 0) i.counts k.node + 1 ∧
        j.fired = i.fired) ∧ Writes timeRegs s t) ∧
    (∀ (node : BitVec 14), ∀ k, s.prs.toks.find? (fun k => k.node == node.toNat) = some k → ∀ i, instId s k.id = some i →
      nArity (nodeBits s i.half k.node) ≤ mget (fun _ => 0) i.counts k.node → k.quiet = false →
      s.flag F.PRS_NEXC_VALID = false → bitOf (s.reg R.PRS_EXCPOL) 6 = false → Gives (.tokenArrival node at_) s fun t =>
      t.get F.PRS_NEXC_VALID = 1 ∧ t.get F.PRS_NEXC_CAUSE = 6 ∧
      t.get F.PRS_NEXCCNT_COUNT = satTo (fldTop F.PRS_NEXCCNT_COUNT) (s.get F.PRS_NEXCCNT_COUNT + 1) ∧
      Writes ([R.PRS_NEXC, R.PRS_NEXCCNT] ++ timeRegs) s t)

/-- RUN and the scans (R163, R167, R173): a rise of RUN starts the scan of the live half; a fall discards the held triggers; the scan's
end makes its lists the flows' root lists; a flip's scan is kept for the flip. That RUN = 0 cancels the scan is log 97; what the scan
reads, the node table as it stands at its end, is log 68; a SCAN_COMPLETE without a scan is log 84. -/
def Obligations.RunAndScans : Prop :=
  ∀ s : State,
    (s.flag F.PRS_CTL_RUN = false → Gives (.prsRun true) s fun t =>
      t.get F.PRS_CTL_RUN = 1 ∧ t.prs.runScan = true ∧ t.get F.PRS_STAT_SCAN = 1 ∧
      (t.flag F.PRS_STAT_RUNNING = true ↔ s.flag F.PRS_STAT_STOPPED = false) ∧ Writes [R.PRS_CTL, R.PRS_STAT] s t) ∧
    (Gives (.prsRun false) s fun t =>
      t.get F.PRS_CTL_RUN = 0 ∧ t.prs.runScan = false ∧ t.get F.PRS_STAT_RUNNING = 0 ∧
      (∀ n, n < 64 → t.get (F.PRS_FLOWST_PEND n) = 0) ∧
      Writes ([R.PRS_CTL, R.PRS_STAT] ++ (List.range 64).map R.PRS_FLOWST) s t) ∧
    (∀ at_, s.now ≤ at_ → s.prs.runScan = true → Gives (.scanComplete at_) s fun t =>
      t.prs.info = scanHalf s (liveHalf s) ∧ t.prs.runScan = false ∧
      (∀ n, n < 64 → t.get (F.PRS_FINFO_NNODES n) = (mget (fun _ => {}) (scanHalf s (liveHalf s)) n).nodes % 2 ^ 14) ∧
      SameMode s t ∧ Blocks [0x4005, 0x5001, 0x7000, 0xE000] s t) ∧
    (∀ at_, s.now ≤ at_ → s.prs.runScan = false → s.prs.flipScan = true → s.lnk.lflip = false →
      Gives (.scanComplete at_) s fun t =>
      t.prs.next = scanHalf s (!liveHalf s) ∧ t.prs.flipScan = false ∧ t.prs.info = s.prs.info ∧ liveHalf t = liveHalf s ∧
      SameMode s t ∧ Blocks [0x4005, 0xE000] s t) ∧
    (∀ at_, s.prs.runScan = false → s.prs.flipScan = false → Gives (.scanComplete at_) s fun t =>
      t.prs.info = s.prs.info ∧ t.prs.next = s.prs.next ∧ t.prs.insts = s.prs.insts ∧ Writes timeRegs s t)

/-- Monitors, timers, software triggers and the clears (R125, R135, R165, R176, R181): what each presents, shows or clears. Which
commands fall in one CLK_PER cycle is log 106, that WAVG saturates log 110, an expiry of a timer that is not enabled log 84. -/
def Obligations.SchedulerControls : Prop :=
  ∀ s : State,
    (∀ at_, Gives (.prsMonclr at_) s fun t =>
      (s.now / 3 < at_ / 3 → (∀ f, f < 8 → t.get (F.PRS_FQ_QMAX f) = 0 ∧ t.get (F.PRS_FW_WMAX f) = 0 ∧ t.get (F.PRS_FL_LMAX f) = 0) ∧
        ∀ n, n < 64 → t.get (F.PRS_FRESP_RMAX n) = 0) ∧
      (at_ / 3 ≤ s.now / 3 → ∀ f, f < 8 → s.freshIn (F.PRS_FQ_QMAX f) = true → t.get (F.PRS_FQ_QMAX f) = s.get (F.PRS_FQ_QMAX f)) ∧
      (∀ f, f < 8 → t.get (F.PRS_FQ_QDEPTH f) = s.get (F.PRS_FQ_QDEPTH f)) ∧
      Writes ((List.range 8).map R.PRS_FQ ++ (List.range 8).map R.PRS_FW ++ (List.range 8).map R.PRS_FL ++
        (List.range 64).map R.PRS_FRESP ++ timeRegs) s t) ∧
    (∀ (f : Fin 8) (at_ : Nat), s.now ≤ at_ → (s.facet f.val).held = [] → (s.facet f.val).free ≤ at_ →
      s.get F.PRS_MONCTL_ALARM = 0 → Gives (.monitorWindowEnd f at_) s fun t =>
      t.get (F.PRS_FL_LOAD f.val) = min 1024 ((s.facet f.val).busy * 1024 / 2 ^ (12 + s.get F.PRS_MONCTL_WIN)) ∧
      t.get (F.PRS_FW_WAVG f.val) =
        (if (s.facet f.val).issues = 0 then 0 else satTo 0xFFFF ((s.facet f.val).waits * 16 / (s.facet f.val).issues)) ∧
      (t.facet f.val).waits = 0 ∧ (t.facet f.val).issues = 0 ∧ (t.facet f.val).busy = 0 ∧
      Writes ([R.PRS_FW f.val, R.PRS_FL f.val] ++ timeRegs) s t) ∧
    (∀ n : Fin 4, s.flag (F.PRS_TMR_EN n.val) = true → Gives (.prsTimerExpiry n) s fun t =>
      t.prs.events = s.prs.events ++ [{ src := 18 + n.val, time := s.now }] ∧ Writes [] s t) ∧
    (∀ n : Fin 4, s.flag (F.PRS_TMR_EN n.val) = false → Gives (.prsTimerExpiry n) s fun t => t = s) ∧
    (∀ v : BitVec 8, Gives (.prsSwtrig v) s fun t =>
      t.prs.events = s.prs.events ++ (bitsIn 8 v.toNat).map (fun k => { src := 24 + k, time := s.now }) ∧ Writes [] s t) ∧
    (Gives .nexccntClr s fun t => t.get F.PRS_NEXCCNT_COUNT = 0 ∧ Writes [R.PRS_NEXCCNT] s t) ∧
    (Gives .wcollClr s fun t => t.get F.PRS_WCOLL_COUNT = 0 ∧ Writes [R.PRS_WCOLL] s t) ∧
    (∀ n : Fin 64, Gives (.flowstClr n) s fun t =>
      t.get (F.PRS_FLOWST_OVRCNT n.val) = 0 ∧ t.get (F.PRS_FLOWST_INSV n.val) = s.get (F.PRS_FLOWST_INSV n.val) ∧
      Writes [R.PRS_FLOWST n.val] s t)
/-! ### The opcodes of the Prism engine (R123, R124, R129–R160) -/

/-- NOP, MOV, the loads of immediates and the conversions (R138), with the opcodes and latencies of R137.

Logic, shifts, the integer comparison and SEL (R137, R139, R141). -/
def Obligations.MoveAndLogicNodes : Prop :=
  NodeGives .nop 0x00 2 (fun _ => 1) (fun _ w => nParam w = 0) (fun _ _ fl => fl.writes = []) ∧
  PlainNode .mov 0x01 2 (· == 0) (fun _ a _ _ => a) ∧
  PlainNode .ldii 0x02 2 (fun _ => true) (fun p _ _ _ => (BitVec.ofNat 28 p).signExtend 32) ∧
  PlainNode .ldiq 0x03 2 (fun _ => true) (fun p _ _ _ => (BitVec.ofNat 28 p).signExtend 32 <<< 4) ∧
  PlainNode .ldif 0x04 2 (fun _ => true) (fun p _ _ _ => BitVec.ofNat 32 p <<< 4) ∧
  PlainNode .cvtqf 0x05 3 (fun p => decide (p < 64)) (fun p a _ _ =>
    (evRound { fpInt a.toInt with e := signed 6 p - 31 } false).w) ∧
  PlainNode .cvtfq 0x06 3 (fun p => decide (p < 64)) (fun p a _ _ =>
    if fpFinite a then qWord (fpToInt 0 { (ev a).val with e := (ev a).val.e + (31 - signed 6 p) }).1 else 0) ∧
  PlainNode .cvtif 0x07 3 (fun p => decide (p < 2)) (fun p a _ _ =>
    (evRound (fpInt (if p = 1 then (a.toNat : Int) else a.toInt)) false).w) ∧
  PlainNode .cvtfi 0x08 3 (fun p => decide (p < 2)) (fun p a _ _ =>
    if fpFinite a then
      (if p = 1 then BitVec.ofInt 32 (max 0 (min (fpToInt 0 (ev a).val).1 0xFFFFFFFF)) else qWord (fpToInt 0 (ev a).val).1)
    else 0) ∧
  PlainNode .and 0x32 2 (· == 0) (fun _ a b _ => a &&& b) ∧
  PlainNode .or 0x33 2 (· == 0) (fun _ a b _ => a ||| b) ∧
  PlainNode .xor 0x34 2 (· == 0) (fun _ a b _ => a ^^^ b) ∧
  PlainNode .ishl 0x35 2 (fun p => decide (p < 32)) (fun p a _ _ => a <<< p) ∧
  PlainNode .ishr 0x36 2 (fun p => decide (p < 64)) (fun p a _ _ => if p < 32 then a >>> p else a.sshiftRight (p - 32)) ∧
  PlainNode .icmp 0x37 2 (fun p => decide (p < 16 ∧ p % 8 < 6)) (fun p a b _ =>
    if (if p < 8 then
        [a == b, a != b, decide (a.toInt < b.toInt), decide (a.toInt ≤ b.toInt), decide (b.toInt < a.toInt),
          decide (b.toInt ≤ a.toInt)].getD p false
      else
        [a == b, a != b, decide (a.toNat < b.toNat), decide (a.toNat ≤ b.toNat), decide (b.toNat < a.toNat),
          decide (b.toNat ≤ a.toNat)].getD (p - 8) false) then 0xFFFFFFFF else 0) ∧
  PlainNode .sel 0x38 2 (· == 0) (fun _ a b c => if a = 0 then c else b)

/-- The Q1.31 operations (R131, R139): exact results saturated; products rounded half up by an arithmetic shift of 31. -/
def Obligations.FixedPointNodes : Prop :=
  PlainNode .qadd 0x10 3 (· == 0) (fun _ a b _ => qWord (a.toInt + b.toInt)) ∧
  PlainNode .qsub 0x11 3 (· == 0) (fun _ a b _ => qWord (a.toInt - b.toInt)) ∧
  PlainNode .qmul 0x12 4 (· == 0) (fun _ a b _ => qWord ((a.toInt * b.toInt + 2 ^ 30) / 2 ^ 31)) ∧
  PlainNode .qmac 0x13 4 (· == 0) (fun _ a b c => qWord ((a.toInt * b.toInt + c.toInt * 2 ^ 31 + 2 ^ 30) / 2 ^ 31)) ∧
  PlainNode .qneg 0x14 3 (· == 0) (fun _ a _ _ => qWord (-a.toInt)) ∧
  PlainNode .qabs 0x15 3 (· == 0) (fun _ a _ _ => qWord (max a.toInt (-a.toInt))) ∧
  PlainNode .qshl 0x16 3 (fun p => decide (p < 64 ∧ p ≠ 32)) (fun p a _ _ =>
    if p < 32 then qWord (a.toInt * 2 ^ p) else qWord ((a.toInt + 2 ^ (63 - p)) / 2 ^ (64 - p))) ∧
  PlainNode .qmin 0x17 3 (· == 0) (fun _ a b _ => BitVec.ofInt 32 (min a.toInt b.toInt)) ∧
  PlainNode .qmax 0x18 3 (· == 0) (fun _ a b _ => BitVec.ofInt 32 (max a.toInt b.toInt)) ∧
  PlainNode .qlim 0x19 3 (· == 0) (fun _ a b c =>
    if b.toInt ≤ c.toInt then BitVec.ofInt 32 (min (max a.toInt b.toInt) c.toInt) else a) ∧
  PlainNode .qcmp 0x1A 3 (fun p => decide (p < 6)) (fun p a b _ =>
    if [a == b, a != b, decide (a.toInt < b.toInt), decide (a.toInt ≤ b.toInt), decide (b.toInt < a.toInt),
      decide (b.toInt ≤ a.toInt)].getD p false then 0xFFFFFFFF else 0)

/-- The FP32 operations (R130, R139): one rounding of the exact value of finite operands; an operand that is none gives +0.0. A
division by zero gives the largest number with the quotient's sign. -/
def Obligations.FloatingPointNodes : Prop :=
  PlainNode .fadd 0x20 4 (· == 0) (fun _ a b _ => fpWord [a, b] (evAdd (ev a) (ev b))) ∧
  PlainNode .fsub 0x21 4 (· == 0) (fun _ a b _ => fpWord [a, b] (evSub (ev a) (ev b))) ∧
  PlainNode .fmul 0x22 4 (· == 0) (fun _ a b _ => fpWord [a, b] (evMul (ev a) (ev b))) ∧
  PlainNode .fmac 0x23 5 (· == 0) (fun _ a b c => fpWord [a, b, c] (evFma (ev a) (ev b) (ev c))) ∧
  PlainNode .fneg 0x24 3 (· == 0) (fun _ a _ _ => fpWord [a] (evNeg (ev a))) ∧
  PlainNode .fabs 0x25 3 (· == 0) (fun _ a _ _ => fpWord [a] (evAbs (ev a))) ∧
  PlainNode .fdiv 0x26 10 (· == 0) (fun _ a b _ =>
    if evZero (ev b) then
      (if allFin [a, b] && !evZero (ev a) then (if fpNeg a != fpNeg b then 0xFF7FFFFF else 0x7F7FFFFF) else 0)
    else fpWord [a, b] (evDiv (ev a) (ev b))) ∧
  PlainNode .fsqrt 0x27 10 (· == 0) (fun _ a _ _ => if evLt (ev a) evZ then 0 else fpWord [a] (evSqrt (ev a))) ∧
  PlainNode .fmin 0x28 3 (· == 0) (fun _ a b _ => fpWord [a, b] (evMin (ev a) (ev b))) ∧
  PlainNode .fmax 0x29 3 (· == 0) (fun _ a b _ => fpWord [a, b] (evMax (ev a) (ev b))) ∧
  PlainNode .flim 0x2A 3 (· == 0) (fun _ a b c =>
    if evBefore (ev c) (ev b) then 0 else fpWord [a, b, c] (evMin (evMax (ev a) (ev b)) (ev c))) ∧
  PlainNode .fcmp 0x2B 3 (fun p => decide (p < 6)) (fun p a b _ => if relFp p a b then 0xFFFFFFFF else 0) ∧
  NodeGives .fsincos 0x2C 8 (fun _ => 1) (fun _ w => Fits 2 w) (fun s w fl =>
    fl.writes = [(nDst w, (evSin (src s w 0 0)).w), (nDst w + 1, (evCos (src s w 0 0)).w)])

/-- The integer operations wrap modulo 2^32 and set no flag (R133): IADD, ISUB and ISHL have the exact result modulo 2^32, and each of
the nine leaves SATFLOW, NEXC and NEXCCNT as they are. -/
def Obligations.IntegersWrap : Prop :=
  ∀ (s : State) (f : Fin 8) (at_ : Nat) (r : Ready),
    (Issuable s f.val at_ 0x30 r → nParam (headBits s r) = 0 → Gives (.iadd f at_) s fun t =>
      Issued s t f.val at_ 2 1 r (fun fl => fl.writes =
        [(nDst (headBits s r), BitVec.ofNat 32 ((src s (headBits s r) 0 0).toNat + (src s (headBits s r) 1 0).toNat))])) ∧
    (Issuable s f.val at_ 0x31 r → nParam (headBits s r) = 0 → Gives (.isub f at_) s fun t =>
      Issued s t f.val at_ 2 1 r (fun fl => fl.writes =
        [(nDst (headBits s r), BitVec.ofInt 32 ((src s (headBits s r) 0 0).toNat - (src s (headBits s r) 1 0).toNat : Int))])) ∧
    (Issuable s f.val at_ 0x35 r → nParam (headBits s r) < 32 → Gives (.ishl f at_) s fun t =>
      Issued s t f.val at_ 2 1 r (fun fl => fl.writes =
        [(nDst (headBits s r), BitVec.ofNat 32 ((src s (headBits s r) 0 0).toNat * 2 ^ nParam (headBits s r)))])) ∧
    ∀ e ∈ [(Instr.iadd, 0x30, 1), (Instr.isub, 0x31, 1), (Instr.and, 0x32, 1), (Instr.or, 0x33, 1), (Instr.xor, 0x34, 1),
        (Instr.ishl, 0x35, 32), (Instr.ishr, 0x36, 64), (Instr.icmp, 0x37, 6), (Instr.sel, 0x38, 1)],
      Issuable s f.val at_ e.2.1 r → nParam (headBits s r) < e.2.2 → nSucc (headBits s r) 0 = 0x3FFF →
      nSucc (headBits s r) 1 = 0x3FFF → Gives (e.1 f at_) s fun t =>
        t.reg (R.PRS_SATFLOW 0) = s.reg (R.PRS_SATFLOW 0) ∧ t.reg (R.PRS_SATFLOW 1) = s.reg (R.PRS_SATFLOW 1) ∧
        t.reg R.PRS_NEXC = s.reg R.PRS_NEXC ∧ t.reg R.PRS_NEXCCNT = s.reg R.PRS_NEXCCNT

/-- The transformations (R142–R145): CLARKE by its mask, PARK and IPARK by the sine and cosine of their angle, the duties of SVM, the
vector of a switching state. Operands that are not finite give +0.0, and 0.5 in SVM. -/
def Obligations.TransformNodes : Prop :=
  NodeGives .clarke 0x40 7 (fun _ => 1) (fun _ w => Fits 2 w) (fun s w fl =>
    let a := src s w 0 0
    let b := src s w 0 1
    let c := src s w 0 2
    let u := ev a
    let v := ev b
    let x := ev c
    let gives := fun (l : List Word) (o : List Ev) =>
      fl.writes = if allFin l then outAt (nDst w) (o.map Ev.w) else [(nDst w, 0), (nDst w + 1, 0)]
    let m := bitsOf (src s w 1 0) 2 0
    (m = 7 → gives [a, b, c] (clarkeOf u v x)) ∧
    (m = 6 → gives [b, c] (clarkeOf (evNeg (evAdd v x)) v x)) ∧
    (m = 5 → gives [a, c] (clarkeOf u (evNeg (evAdd u x)) x)) ∧
    (m = 3 → gives [a, b] (clarkeOf u v (evNeg (evAdd u v)))) ∧
    (m = 0 ∨ m = 1 ∨ m = 2 ∨ m = 4 → gives [src s w 2 0, src s w 2 1] [evPass (ev (src s w 2 0)), evPass (ev (src s w 2 1))])) ∧
  NodeGives .park 0x41 10 (fun _ => 1) (fun _ w => Fits 2 w) (fun s w fl => fl.writes =
    if allFin [src s w 0 0, src s w 0 1] then
      [(nDst w, (evFma (ev (src s w 0 1)) (evSin (src s w 1 0)) (evMul (ev (src s w 0 0)) (evCos (src s w 1 0)))).w),
        (nDst w + 1, (evFma (ev (src s w 0 1)) (evCos (src s w 1 0))
          (evNeg (evMul (ev (src s w 0 0)) (evSin (src s w 1 0))))).w)]
    else [(nDst w, 0), (nDst w + 1, 0)]) ∧
  NodeGives .ipark 0x42 10 (fun _ => 1) (fun _ w => Fits 2 w) (fun s w fl => fl.writes =
    if allFin [src s w 0 0, src s w 0 1] then
      [(nDst w, (evFma (evNeg (ev (src s w 0 1))) (evSin (src s w 1 0)) (evMul (ev (src s w 0 0)) (evCos (src s w 1 0)))).w),
        (nDst w + 1, (evFma (ev (src s w 0 1)) (evCos (src s w 1 0)) (evMul (ev (src s w 0 0)) (evSin (src s w 1 0)))).w)]
    else [(nDst w, 0), (nDst w + 1, 0)]) ∧
  NodeGives .svm 0x43 12 (fun _ => 1) (fun _ w => 64 ≤ nParam w ∧ nParam w ≤ 128 ∧ nDst w + 3 ≤ 0x4000) (fun s w fl =>
    fl.writes =
    if allFin [src s w 0 0, src s w 0 1, src s w 1 0] && !evLe (ev (src s w 1 0)) evZ then
      outAt (nDst w) ((svmOf (nParam w) (ev (src s w 0 0)) (ev (src s w 0 1)) (ev (src s w 1 0))).1.map Ev.w)
    else [(nDst w, 0x3F000000), (nDst w + 1, 0x3F000000), (nDst w + 2, 0x3F000000)]) ∧
  NodeGives .svec 0x44 6 (fun _ => 1) (fun _ w => Fits 2 w) (fun s w fl => fl.writes =
    if fpFinite (src s w 1 0) && decide ((src s w 0 0).toNat ≤ 7) then
      let k := (src s w 0 0).toNat
      [(nDst w, (evMul (ev (src s w 1 0)) (evMul (evInt (2 * (k % 2 : Nat) - (k / 2 % 2 : Nat) - (k / 4 : Nat))) evT3)).w),
        (nDst w + 1, (evMul (ev (src s w 1 0)) (evMul (evInt ((k / 2 % 2 : Nat) - (k / 4 : Nat))) evU3)).w)]
    else [(nDst w, 0), (nDst w + 1, 0)])

/-- The controllers (R146–R153), on finite operands and results that lie in the operand store: what each writes to its destination and
back to its state, within its limits, at them, and where a limit is none. Minimum and maximum order −0 below +0: log 100. -/
def Obligations.ControllerNodes : Prop :=
  NodeGives .pi 0x45 8 (fun _ => 1) (fun s w => Fits 1 w ∧ nSrc w 2 ≠ nDst w ∧ nSrc w 1 + 4 ≤ 0x4000 ∧
      allFin (src s w 0 0 :: src s w 2 0 :: srcs s w 1 4) = true ∧
      evLt (ev (src s w 1 3)) (ev (src s w 1 2)) = false) (fun s w fl =>
    let e := ev (src s w 0 0)
    let lo := ev (src s w 1 2)
    let hi := ev (src s w 1 3)
    let i := ev (src s w 2 0)
    let up := evFma (ev (src s w 1 0)) e i
    fl.writes = [(nDst w, (evMin (evMax up lo) hi).w), (nSrc w 2,
      if (evLt hi up && evLt evZ e) || (evLt up lo && evLt e evZ) then (evPass i).w
      else (evMin (evMax (evFma (ev (src s w 1 1)) e i) lo) hi).w)]) ∧
  NodeGives .pi 0x45 8 (fun _ => 1) (fun s w => Fits 1 w ∧ evLt (ev (src s w 1 3)) (ev (src s w 1 2)) = true)
    (fun _ w fl => fl.writes = [(nDst w, 0)]) ∧
  NodeGives .biq 0x46 10 (fun _ => 1) (fun s w => Fits 1 w ∧ nSrc w 1 + 5 ≤ 0x4000 ∧ nSrc w 2 + 2 ≤ 0x4000 ∧
      nDst w ≠ nSrc w 2 ∧ nDst w ≠ nSrc w 2 + 1 ∧ allFin (src s w 0 0 :: (srcs s w 1 5 ++ srcs s w 2 2)) = true)
    (fun s w fl => fl.writes =
      let y := evFma (ev (src s w 1 0)) (ev (src s w 0 0)) (ev (src s w 2 0))
      [(nDst w, y.w),
        (nSrc w 2, (evFma (evNeg (ev (src s w 1 3))) y (evFma (ev (src s w 1 1)) (ev (src s w 0 0)) (ev (src s w 2 1)))).w),
        (nSrc w 2 + 1, (evFma (evNeg (ev (src s w 1 4))) y (evMul (ev (src s w 1 2)) (ev (src s w 0 0)))).w)]) ∧
  NodeGives .mv44 0x47 12 (fun w => (4 + 4 * mvRows w + nParam w % 2 * mvRows w + 7) / 8) (fun s w => nParam w < 8 ∧
      nDst w + 4 ≤ 0x4000 ∧
      allFin (srcs s w 0 4 ++ srcs s w 1 (4 * mvRows w) ++ if nParam w % 2 = 1 then srcs s w 2 (mvRows w) else []) = true)
    (fun s w fl =>
    fl.writes = outAt (nDst w) ((List.range (mvRows w)).map fun i =>
      (evFma (ev (src s w 1 (4 * i + 3))) (ev (src s w 0 3)) (evFma (ev (src s w 1 (4 * i + 2))) (ev (src s w 0 2))
        (evFma (ev (src s w 1 (4 * i + 1))) (ev (src s w 0 1)) (evFma (ev (src s w 1 (4 * i))) (ev (src s w 0 0))
          (if nParam w % 2 = 1 then ev (src s w 2 i) else evZ))))).w)) ∧
  NodeGives .tint 0x48 8 (fun _ => 1) (fun s w => Fits 1 w ∧ tintOk s w = true ∧
      fpFinite (src s w 1 (3 + tintJ s w)) = true ∧ fpFinite (src s w 1 (4 + tintJ s w)) = true) (fun s w fl =>
    let j := tintJ s w
    let y0 := ev (src s w 1 (3 + j))
    let y1 := ev (src s w 1 (4 + j))
    let pos := tintPos s w
    fl.writes = [(nDst w, (if evLe pos evZ then evPass y0 else if evLe (evInt ((tintN s w : Int) - 1)) pos then evPass y1
      else evFma (evSub pos (evInt j)) (evSub y1 y0) y0).w)]) ∧
  NodeGives .tint 0x48 8 (fun _ => 1) (fun s w => Fits 1 w ∧ tintOk s w = false) (fun _ w fl => fl.writes = [(nDst w, 0)]) ∧
  NodeGives .obs 0x49 14 (fun w => if nParam w = 1 then 2 else 3) (fun s w => nParam w < 2 ∧ nDst w + 2 ≤ 0x4000 ∧
      nSrc w 2 + 14 ≤ 0x4000 ∧ nDst w + 1 < nSrc w 2 + 12 ∧
      allFin ((if nParam w = 0 then srcs s w 0 2 else []) ++ srcs s w 1 2 ++ srcs s w 2 14) = true) (fun s w fl =>
    fl.writes =
      let m (i : Nat) := ev (src s w 2 i)
      let fixed (i : Nat) := evFma (m (4 + 2 * i + 1)) (ev (src s w 1 1)) (evFma (m (4 + 2 * i)) (ev (src s w 1 0))
        (evFma (m (2 * i + 1)) (m 13) (evFma (m (2 * i)) (m 12) evZ)))
      let row (i : Nat) := (if nParam w = 1 then fixed i else evFma (m (8 + 2 * i + 1)) (evSub (ev (src s w 0 1)) (m 13))
        (evFma (m (8 + 2 * i)) (evSub (ev (src s w 0 0)) (m 12)) (fixed i))).w
      [(nDst w, row 0), (nDst w + 1, row 1), (nSrc w 2 + 12, row 0), (nSrc w 2 + 13, row 1)]) ∧
  NodeGives .argmin 0x4A 6 (fun w => if nParam w < 8 then 1 else 2) (fun s w => nParam w < 16 ∧ nDst w + 2 ≤ 0x4000 ∧
      allFin (srcs s w 0 (nParam w + 1)) = true) (fun s w fl =>
    ∃ k, k ≤ nParam w ∧ fl.writes = [(nDst w, BitVec.ofNat 32 k), (nDst w + 1, src s w 0 k)] ∧
      (∀ i, i ≤ nParam w → evBefore (ev (src s w 0 i)) (ev (src s w 0 k)) = false) ∧
      ∀ i, i < k → evBefore (ev (src s w 0 k)) (ev (src s w 0 i)) = true) ∧
  NodeGives .ramp 0x4B 5 (fun _ => 1) (fun s w => Fits 1 w ∧ nSrc w 2 ≠ nDst w ∧
      allFin [(ev (src s w 0 0)).w, (ev (src s w 1 0)).w, (ev (src s w 2 0)).w] = true ∧ evLt (ev (src s w 1 0)) evZ = false)
    (fun s w fl =>
      let x := (evAdd (ev (src s w 2 0)) (evMin (evMax (evSub (ev (src s w 0 0)) (ev (src s w 2 0)))
        (evNeg (ev (src s w 1 0)))) (ev (src s w 1 0)))).w
      fl.writes = [(nDst w, x), (nSrc w 2, x)]) ∧
  NodeGives .ramp 0x4B 5 (fun _ => 1) (fun s w => Fits 1 w ∧
      allFin [(ev (src s w 0 0)).w, (ev (src s w 1 0)).w, (ev (src s w 2 0)).w] = true ∧ evLt (ev (src s w 1 0)) evZ = true)
    (fun s w fl => fl.writes = [(nDst w, (ev (src s w 2 0)).w)]) ∧
  NodeGives .dqlim 0x4C 16 (fun _ => 1) (fun s w => nParam w < 2 ∧ nDst w + 2 ≤ 0x4000 ∧
      allFin [(ev (src s w 0 0)).w, (ev (src s w 0 1)).w, (ev (src s w 1 0)).w] = true) (fun s w fl =>
    let d := ev (src s w 0 0)
    let q := ev (src s w 0 1)
    let lim := ev (src s w 1 0)
    let mag2 := evFma d d (evMul q q)
    let lim2 := evMul lim lim
    let od := evMin (evMax d (evNeg lim)) lim
    fl.writes = outAt (nDst w)
      (if evLt lim evZ then [0, 0]
       else if evLe mag2 lim2 then [(evPass d).w, (evPass q).w]
       else if nParam w = 0 then [(evMul d (evDiv lim (evSqrt mag2))).w, (evMul q (evDiv lim (evSqrt mag2))).w]
       else [od.w, (evCopysign (evSqrt (evMax (evSub lim2 (evMul od od)) evZ)) q).w]))

/-- TSTAMP writes CPT.MTIME[31:0] as it stands in the node's issue cycle; PARAM is 0 (R160). -/
def Obligations.TimeStampNode : Prop :=
  ∀ (s : State) (f : Fin 8) (at_ : Nat) (r : Ready), Issuable s f.val at_ 0x55 r →
    (nParam (headBits s r) = 0 → Gives (.tstamp f at_) s fun t => Issued s t f.val at_ 2 1 r fun fl =>
      fl.writes = [(nDst (headBits s r), t.reg (R.CPT_MTIME 0))]) ∧
    (nParam (headBits s r) = 0 → dRun s = true → Gives (.tstamp f at_) s fun t =>
      t.reg (R.CPT_MTIME 0) = BitVec.ofNat 32 (mtime s + (at_ / 3 - s.now / 3)))

/-- The device accesses (R154–R159; a duty's conversion: log 60): what each reads from the ADC, the observer or its operand, and what it will do when it completes.
A PWM write to a group that the facet does not serve writes nothing and raises GRPDENY; in STANDBY it raises nothing. -/
def Obligations.DeviceNodes : Prop :=
  NodeGives .adcrd 0x50 4 (fun w => if adN (nParam w) = 4 then 2 else 1) (fun s w => nParam w < 384 ∧
      adSh (nParam w) + adN (nParam w) ≤ 4 ∧ nDst w + 5 ≤ 0x4000 ∧
      (256 ≤ nParam w → allFin (src s w 0 0 :: srcs s w 1 (adN (nParam w))) = true)) (fun s w fl =>
    let q := (s.conv (adK (nParam w))).res
    let code (i : Nat) : Nat := (q.codes.getD (adSh (nParam w) + i) 0).toNat
    let value (i : Nat) : Ev :=
      if nParam w < 128 then ev (BitVec.ofNat 32 (code i))
      else if nParam w < 256 then ev (BitVec.ofInt 32 (((code i : Int) - 8192) * 2 ^ 18))
      else evMul (evSub (evInt (code i)) (ev (src s w 1 i))) (ev (src s w 0 0))
    let got := (List.range (adN (nParam w))).filter fun i => q.conv.testBit (adSh (nParam w) + i)
    fl.writes = got.map (fun i => (nDst w + i, (value i).w)) ++
      [(nDst w + adN (nParam w), BitVec.ofNat 32 (got.foldl (fun m i => m + 2 ^ (adSh (nParam w) + i)) 0 +
        (if q.late then q.conv % 16 else 0) * 16 + q.seq % 65536 * 65536))]) ∧
  (∀ (s : State) (f : Fin 8) (at_ : Nat) (r : Ready), Issuable s f.val at_ 0x51 r → s.mode = .standby →
    Gives (.pwmwr f at_) s fun t => (∃ fl, t.prs.flights = s.prs.flights ++ [fl] ∧ fl.node = r.node ∧ fl.writes = []) ∧
      t.reg R.PRS_NEXC = s.reg R.PRS_NEXC ∧ t.reg R.PRS_NEXCCNT = s.reg R.PRS_NEXCCNT ∧ SameMode s t ∧
      Blocks [0x4003, 0x4005, 0xE000] s t) ∧
  (∀ (s : State) (f : Fin 8) (at_ : Nat) (r : Ready), Issuable s f.val at_ 0x51 r →
    nParam (headBits s r) < 128 → nParam (headBits s r) / 8 % 8 ≠ 0 →
    (s.bit (F.MIR_FGRP_GRP f.val) (nParam (headBits s r) % 8) = true → Gives (.pwmwr f at_) s fun t =>
      Issued s t f.val at_ 4 1 r fun fl => fl.writes = [] ∧ fl.grp = nParam (headBits s r) % 8 ∧
        fl.duties = (pwLegs (nParam (headBits s r))).filterMap (fun i =>
          (pwDuty (nParam (headBits s r)) (src s (headBits s r) 0 i)).1.map
            (fun d => (3 * (nParam (headBits s r) % 8) + i, d)))) ∧
    (s.bit (F.MIR_FGRP_GRP f.val) (nParam (headBits s r) % 8) = false → s.mode ≠ .standby → Gives (.pwmwr f at_) s fun t =>
      Issued s t f.val at_ 4 1 r (fun fl => fl.writes = [] ∧ fl.duties = []) ∧
      (s.flag F.PRS_NEXC_VALID = false → nSrc (headBits s r) 0 + 3 ≤ 0x4000 → nSucc (headBits s r) 0 = 0x3FFF →
        nSucc (headBits s r) 1 = 0x3FFF → t.get F.PRS_NEXC_CAUSE = 7)) ∧
    (s.mode = .standby → Gives (.pwmwr f at_) s fun t =>
      Issued s t f.val at_ 4 1 r (fun fl => fl.writes = []) ∧ t.reg R.PRS_NEXC = s.reg R.PRS_NEXC ∧
      t.reg R.PRS_NEXCCNT = s.reg R.PRS_NEXCCNT)) ∧
  NodeGives .obsrd 0x52 4 (fun _ => 1) (fun _ w => nParam w < 8 ∧ nDst w + 4 ≤ 0x4000) (fun s w fl =>
    fl.writes = [(nDst w, s.reg (R.FBK_OANG (nParam w))), (nDst w + 1, s.reg (R.FBK_OSPD (nParam w))),
      (nDst w + 2, s.reg (R.FBK_OACC (nParam w))), (nDst w + 3, s.reg (R.FBK_OSTAT (nParam w)))]) ∧
  NodeGives .flag 0x53 3 (fun _ => 1) (fun _ w => nParam w < 32) (fun s w fl =>
    fl.writes = [] ∧ fl.flag = if src s w 0 0 = 0 then none else some (nParam w)) ∧
  NodeGives .trace 0x54 3 (fun _ => 1) (fun _ w => nParam w < 32) (fun s w fl =>
    fl.writes = [] ∧ fl.trace = some (nParam w % 4, nParam w / 4 % 8, src s w 0 0))

/-- Exceptions (R134, R135, R137; told at the issue, log 66): a reserved opcode, a reserved PARAM, an invalid operand and a
division by zero, where NEXC is free: NEXC holds cause, facet, flow and node, and the count rises. -/
def Obligations.NodeExceptions : Prop :=
  ∀ (s : State) (f : Fin 8) (at_ : Nat), s.flag F.PRS_NEXC_VALID = false →
    (∀ opc r, Issuable s f.val at_ opc r → opc ∉ opcodes → Gives (.nodeReservedOpcode f at_) s fun t =>
      Raised s t f.val 4 r ∧ t.prs.flights = s.prs.flights) ∧
    (∀ r, Issuable s f.val at_ 0x30 r → nParam (headBits s r) ≠ 0 → Gives (.iadd f at_) s fun t =>
      Raised s t f.val 4 r ∧ t.prs.flights = s.prs.flights) ∧
    (∀ r, Issuable s f.val at_ 0x55 r → nParam (headBits s r) ≠ 0 → Gives (.tstamp f at_) s fun t =>
      Raised s t f.val 4 r ∧ t.prs.flights = s.prs.flights) ∧
    (∀ r, Issuable s f.val at_ 0x20 r → nParam (headBits s r) = 0 → fpFinite (src s (headBits s r) 0 0) = false →
      nSucc (headBits s r) 0 = 0x3FFF → nSucc (headBits s r) 1 = 0x3FFF → Gives (.fadd f at_) s fun t => Raised s t f.val 1 r) ∧
    (∀ r, Issuable s f.val at_ 0x26 r → nParam (headBits s r) = 0 → nSucc (headBits s r) 0 = 0x3FFF →
      nSucc (headBits s r) 1 = 0x3FFF →
      allFin [src s (headBits s r) 0 0, src s (headBits s r) 1 0] = true → evZero (ev (src s (headBits s r) 0 0)) = false →
      evZero (ev (src s (headBits s r) 1 0)) = true → Gives (.fdiv f at_) s fun t => Raised s t f.val 2 r)

/-- NODE_COMPLETE (R123, R125, R156, R158): a node that ends writes its word, no other byte of memory, and sends a token to each of its
successors while its instance lives; its duties go to the compare shadow outside STANDBY; its flag rises. -/
def Obligations.NodeCompletes : Prop :=
  ∀ (s : State) (f : Fin 8) (node : BitVec 14) (at_ : Nat), s.now ≤ at_ → (∀ a, s.errs a = 0) → injDue s 128 = none →
    ∀ fl, s.prs.flights.find? (fun k => k.facet == f.val && k.node == node.toNat) = some fl →
    (∀ i v, fl.writes = [(i, v)] → i ≤ 0x3FFF → fl.duties = [] → fl.flag = none → fl.trace = none →
      cycleWords s (fl.done - 1) = [] → Gives (.nodeComplete f node at_) s fun t =>
      t.operand i = v ∧ t.prs.flights = s.prs.flights.erase fl ∧
      ((instId s fl.id).isSome = true → t.prs.toks = s.prs.toks ++ fl.succ.map (fun n =>
        { id := fl.id, node := n, time := if placeOf s fl.half n == fl.facet then fl.done else fl.done + 1
          src := fl.node, facet := fl.facet, quiet := fl.quiet })) ∧
      WritesAt timeRegs (0x30040000 + 4 * i) 4 s t) ∧
    (∀ k d, fl.duties = [(k, d)] → fl.writes = [] → fl.flag = none → fl.trace = none → k < 24 → s.mode ≠ .standby →
      (s.leg k).dutyAt ≠ some (fl.done - 1) → Gives (.nodeComplete f node at_) s fun t =>
      t.reg (R.PWM_DUTY k) = d ∧ Writes (R.PWM_DUTY k :: timeRegs) s t) ∧
    (∀ k, fl.flag = some k → fl.writes = [] → fl.duties = [] → fl.trace = none → k < 32 → Gives (.nodeComplete f node at_) s fun t =>
      t.bit F.PRS_GFLAG_FLAG k = true ∧ Writes (R.PRS_GFLAG :: timeRegs) s t)
/-! ### The Loupe, the converters and the crossing measurement (R177–R180, R184, R192, R203, R204) -/

/-- Captures and conversions (details: logs 59 and 69). START begins a capture that fits, with a new record, or sets
CFGERR; a trigger counts once PRE records are taken; ABORT ends the capture as incomplete. A sequence that completes delivers
its results, late ones marked; a background frame delivers the DC-link code; CLR clears STAT's maxima and the skip counts. A
crossing measurement starts on a group that is all-off, with every write of 1 anew (log 59), and ends with its third consistent edge or with
NOMOTION. -/
def Obligations.CapturesAndConversions : Prop :=
  ∀ s : State,
    (∀ b : Fin 4, s.flag F.CLK_GATE_LUP = true → s.flag (F.LUP_STAT_RUN b.val) = false → lupChans s b.val ≠ [] → s.get (F.LUP_PRE_PRE b.val) < lupCap s b.val →
      0x20000000 ≤ lupBase s b.val → lupBase s b.val + 0x4000 ≤ 0x20400000 → Gives (.lupStart b) s fun t =>
      t.get (F.LUP_STAT_RUN b.val) = 1 ∧ t.get (F.LUP_STAT_INCOMPLETE b.val) = 0 ∧ t.get (F.LUP_STAT_TRIGD b.val) = 0 ∧
      t.get (F.LUP_STAT_LOST b.val) = 0 ∧ t.loupe b.val = {} ∧ Writes [R.LUP_STAT b.val] s t) ∧
    (∀ b : Fin 4, s.flag F.CLK_GATE_LUP = true → s.flag (F.LUP_STAT_RUN b.val) = false → lupChans s b.val = [] ∨ lupCap s b.val ≤ s.get (F.LUP_PRE_PRE b.val) →
      Gives (.lupStart b) s fun t => t.get (F.LUP_STAT_CFGERR b.val) = 1 ∧ t.get (F.LUP_STAT_RUN b.val) = 0 ∧
      Writes [R.LUP_STAT b.val] s t) ∧
    (∀ b : Fin 4, s.flag F.CLK_GATE_LUP = true → s.flag (F.LUP_STAT_RUN b.val) = true → s.get (F.LUP_PRE_PRE b.val) ≤ (s.loupe b.val).taken →
      Gives (.lupSwtrg b) s fun t => t.loupe b.val = { s.loupe b.val with armed := true } ∧ Writes [] s t) ∧
    (∀ b : Fin 4, s.flag F.CLK_GATE_LUP = true → s.flag (F.LUP_STAT_RUN b.val) = true → Gives (.lupAbort b) s fun t =>
      t.get (F.LUP_STAT_RUN b.val) = 0 ∧ t.get (F.LUP_STAT_DONE b.val) = 1 ∧ t.get (F.LUP_STAT_INCOMPLETE b.val) = 1 ∧
      Writes [R.LUP_STAT b.val] s t) ∧
    (∀ (k : Fin 8) (n : Fin 3), ∀ q, (s.conv k.val).busy = some q → s.flag F.SYS_BRGSTAT_UP = true →
      Gives (.adcSequenceComplete k n) s fun t =>
      (t.conv k.val).res = { q with late := decide (0 < n.val) } ∧ (t.conv k.val).busy = none ∧
      t.get F.SYS_BRGERRCNT_COUNT = satTo (fldTop F.SYS_BRGERRCNT_COUNT) (s.get F.SYS_BRGERRCNT_COUNT + n.val) ∧
      (n.val ≠ 0 → t.get F.SYS_BRGSTAT_CRCERR = 1) ∧ (t.conv k.val).before = q ∧
      (injDue s (78 + k.val) = none →
        t.get (F.ADC_STAT_PREDRUN k.val) =
          (if 2 ≤ 3 - popcount 3 q.conv then satTo 15 (s.get (F.ADC_STAT_PREDRUN k.val) + 1) else 0) ∧
        t.get (F.ADC_SKIPCNT_SKIP1 k.val) = satTo (fldTop (F.ADC_SKIPCNT_SKIP1 k.val))
          (s.get (F.ADC_SKIPCNT_SKIP1 k.val) + if 3 - popcount 3 q.conv = 1 then 1 else 0) ∧
        t.get (F.ADC_SKIPCNT_SKIP2 k.val) = satTo (fldTop (F.ADC_SKIPCNT_SKIP2 k.val))
          (s.get (F.ADC_SKIPCNT_SKIP2 k.val) + if 2 ≤ 3 - popcount 3 q.conv then 1 else 0)) ∧
      (∀ i, i < 3 → q.conv.testBit i = true → (q.codes.getD i 0).toNat = 0 ∨ (q.codes.getD i 0).toNat = 16383 →
        t.bit F.CSA_CLIP_CLIP (3 * k.val + i) = true) ∧
      t.prs.events.getLast? = some { src := 8 + k.val, time := s.now } ∧ Reacts [0x4000, 0x400D, 0x5001, 0x5002] s t) ∧
    (∀ (k : Fin 8) (si co dc : BitVec 14), s.flag (F.ADC_SEQCFG_BGSC k.val) = false → s.flag (F.ADC_SEQCFG_BGDC k.val) = true →
      ∀ at_, (slotBlocked s k.val (at_ * 64 / 3 + 640) = false → Gives (.adcBackgroundFrame k si co dc at_) s fun t =>
        t.get (F.ADC_VDC_CODE k.val) = dc.toNat ∧ t.get (F.ADC_VDC_NEW k.val) = 1 ∧ Writes (R.ADC_VDC k.val :: timeRegs) s t) ∧
      (slotBlocked s k.val (at_ * 64 / 3 + 640) = true → Gives (.adcBackgroundFrame k si co dc at_) s fun t =>
        t.get (F.ADC_STAT_BGSKIP k.val) =
          satTo (fldTop (F.ADC_STAT_BGSKIP k.val)) (s.get (F.ADC_STAT_BGSKIP k.val) + 1) ∧
        Writes (R.ADC_STAT k.val :: timeRegs) s t)) ∧
    (∀ k : Fin 8, BridgeIdle s → Gives (.adcStatClr k) s fun t =>
      t.get (F.ADC_STAT_PREDMAX k.val) = 0 ∧ t.get (F.ADC_STAT_BGSKIP k.val) = 0 ∧ t.reg (R.ADC_SKIPCNT k.val) = 0 ∧
      Writes [R.ADC_STAT k.val, R.ADC_SKIPCNT k.val] s t) ∧
    (∀ k : Fin 8, BridgeIdle s → (s.grp k.val).gate = .off → Gives (.zxStart k) s fun t =>
      t.get (F.ADC_ZXCFG_EN k.val) = 1 ∧ t.get (F.ADC_ZX_NOMOTION k.val) = 0 ∧ (t.conv k.val).edges = [] ∧
      Writes [R.ADC_ZXCFG k.val, R.ADC_ZX k.val] s t) ∧
    (∀ k : Fin 8, BridgeIdle s → (s.grp k.val).gate ≠ .off → Gives (.zxStart k) s fun t => t = s) ∧
    (∀ (k : Fin 8) (code : Fin 6) (at_ : Nat), s.flag (F.ADC_ZXCFG_EN k.val) = true → (s.grp k.val).gate = .off →
      stepOn s 8 k.val = false →
      (speedEdge k.val at_ (advanceTo at_ s)).flag (F.ADC_ZXCFG_EN k.val) = true →
      ((s.conv k.val).edges = [] → Gives (.bemfEdge k code at_) s fun t =>
        (t.conv k.val).edges = [(code.val, mtime t % 2 ^ 32)] ∧ Writes (R.HWM_STAT :: (gateRegs ++ timeRegs)) s t) ∧
      (∀ c0 t0, (s.conv k.val).edges = [(c0, t0)] → code.val = (c0 + 1) % 6 ∨ code.val = (c0 + 5) % 6 → c0 < 6 →
        Gives (.bemfEdge k code at_) s fun t =>
        (t.conv k.val).edges = [(code.val, mtime t % 2 ^ 32), (c0, t0)] ∧ Writes (R.HWM_STAT :: (gateRegs ++ timeRegs)) s t) ∧
      (∀ (c0 c1 t0 t1 now i0 i1 : Nat) (up : Bool), (s.conv k.val).edges = [(c1, t1), (c0, t0)] → c0 < 6 → t0 < 2 ^ 32 → t1 < 2 ^ 32 →
        c1 = (if up then c0 + 1 else c0 + 5) % 6 → code.val = (if up then c1 + 1 else c1 + 5) % 6 →
        now = mtime (advanceTo at_ s) % 2 ^ 32 → i0 = (now + 2 ^ 32 - t1) % 2 ^ 32 → i1 = (t1 + 2 ^ 32 - t0) % 2 ^ 32 →
        4 * i1 ≤ 5 * i0 → 4 * i0 ≤ 5 * i1 → Gives (.bemfEdge k code at_) s fun t =>
        t.get (F.ADC_ZX_DONE k.val) = 1 ∧ t.get (F.ADC_ZX_NOMOTION k.val) = 0 ∧ t.get (F.ADC_ZX_DIR k.val) = up.toNat ∧
        t.get (F.ADC_ZX_CODE k.val) = code.val ∧ t.get (F.ADC_ZXT_TIME k.val) = now ∧ t.get (F.ADC_ZXI0_INT k.val) = i0 ∧
        t.get (F.ADC_ZXI1_INT k.val) = i1 ∧ t.get (F.ADC_ZXCFG_EN k.val) = 0 ∧
        Writes ([R.ADC_ZX k.val, R.ADC_ZXT k.val, R.ADC_ZXI0 k.val, R.ADC_ZXI1 k.val, R.HWM_STAT] ++ gateRegs ++ timeRegs) s t)) ∧
    (∀ (k : Fin 8) (code : Fin 6) (at_ : Nat), stepOn s 8 k.val = true → Gives (.bemfEdge k code at_) s fun t =>
      (t.conv k.val).edges = (s.conv k.val).edges ∧ Writes timeRegs s t) ∧
    (∀ k : Fin 8, s.flag (F.ADC_ZXCFG_EN k.val) = true → Gives (.zxTimeout k) s fun t =>
      t.get (F.ADC_ZX_DONE k.val) = 1 ∧ t.get (F.ADC_ZX_NOMOTION k.val) = 1 ∧ t.get (F.ADC_ZXCFG_EN k.val) = 0 ∧
      (t.conv k.val).edges = [] ∧ Writes [R.ADC_ZX k.val, R.ADC_ZXCFG k.val] s t)

/-! ### The pattern generators (R215–R234, R416) -/

/-- The groups of legs. A valley starts the next period, whose length is R215's with the correction in hand, takes the map of the
last calibration, and holds the sampling instant of the group's converter, which starts a sequence where SEQCFG, as it applies
there, has it enabled (R184, R186); the first period of a group enabled takes the values that the registers hold, and its start is
no valley; a group disabled has its lines low; a duty is clamped to 0.0–1.0, and one that is not finite is dropped; a reference's
phase error gives a correction within SLEW; delay lines are trusted from 32 to 63 taps, with LOCK and the placement back at a valley
(a tie of the map goes upward, the first map is taken at once: log 98); a lead-only group without the token is low; an edge of the
pattern reported sets its line, and a turn-off of a switch that was on is measured (extreme duties: log 58). -/
def Obligations.PatternGenerators : Prop :=
  ∀ (s : State) (g : Fin 8),
    (∀ (codes : List (BitVec 14)) (vl vh : List (BitVec 10)) (at_ : Nat), s.flag (F.PWM_GSTAT_RUN g.val) = true → s.now ≤ at_ →
      Gives (.pwmValley g codes vl vh at_) s fun t =>
      let u := advanceTo at_ s
      let x : Int := (s.pg g.val).err +
        ((256 * u.loaded at_ (F.PWM_PRD_HALF g.val) + u.loaded at_ (F.PWM_PRD_FRAC g.val) : Nat) : Int)
      (t.pg g.val).p = ((x + 64) / 128 + (s.pg g.val).corr).toNat ∧ (t.pg g.val).err = x - 128 * ((x + 64) / 128) ∧
      (t.pg g.val).corr = 0 ∧ (t.pg g.val).time = at_ ∧ (t.pg g.val).pos = (s.pg g.val).pos + (s.pg g.val).p ∧
      (t.pg g.val).pulse = some (t.pg g.val).pos ∧
      (t.pg g.val).map = (s.pg g.val).nextMap ∧ (t.pg g.val).fine = !(s.pg g.val).tapsBad ∧
      ((s.pg g.val).fine = false → (s.pg g.val).tapsBad = false → t.get (F.PWM_DLCAL_LOCK g.val) = 1) ∧
      (bitOf (seqcfgAt s g.val at_) 31 = true → ∃ q, (t.conv g.val).busy = some q ∧
        q.codes = (List.range 4).map (fun i => codes.getD i 0) ∧ q.seq = ((s.conv g.val).seq + 1) % 65536 ∧
        (t.conv g.val).seq = q.seq ∧
        (t.conv g.val).inst = some ((t.pg g.val).pos + (80 - (t.pg g.val).pos % 80) % 80)) ∧
      (bitOf (seqcfgAt s g.val at_) 31 = false → (t.conv g.val).busy = none ∧ (t.conv g.val).seq = (s.conv g.val).seq) ∧
      t.prs.events = s.prs.events ++ [{ src := g.val, time := at_ }] ∧
      Blocks [0x4005, 0x4006, 0x400D, 0x400E, 0x5000, 0x5001, 0x5002, 0x7000, 0xE000] s t) ∧
    (∀ codes vl vh at_, s.flag (F.PWM_GSTAT_RUN g.val) = false → Gives (.pwmValley g codes vl vh at_) s fun t =>
      t.pgrp = s.pgrp ∧ Writes timeRegs s t) ∧
    (s.flag (F.PWM_GSTAT_RUN g.val) = false → Gives (.pwmGroupEnable g) s fun t =>
      t.get (F.PWM_GCFG_EN g.val) = 1 ∧ t.get (F.PWM_GSTAT_RUN g.val) = 1 ∧
      (t.pg g.val).p = (256 * s.get (F.PWM_PRD_HALF g.val) + s.get (F.PWM_PRD_FRAC g.val) + 64) / 128 ∧
      (t.pg g.val).map = (s.pg g.val).map ∧ (t.pg g.val).pulse = (s.pg g.val).pulse ∧
      t.prs.events = s.prs.events ∧ t.adc = s.adc ∧
      Writes ([R.PWM_GCFG g.val, R.PWM_GSTAT g.val, R.HWM_STAT] ++ gateRegs ++ (legsOf g.val).map R.PWM_CARRY ++ (legsOf g.val).map R.PWM_APP) s t) ∧
    (Gives (.pwmGroupDisable g) s fun t =>
      t.get (F.PWM_GCFG_EN g.val) = 0 ∧ t.get (F.PWM_GSTAT_RUN g.val) = 0 ∧
      (∀ k, k ∈ legsOf g.val → (t.leg k).lineH = false ∧ (t.leg k).lineL = false ∧ (t.leg k).edges = []) ∧
      Writes (R.PWM_GCFG g.val :: R.PWM_GSTAT g.val :: R.HWM_STAT :: gateRegs) s t) ∧
    (∀ (k : Fin 24) (v : Word), (s.leg k.val).dutyBy ≤ 8 →
      (fpFinite v = true → Gives (.dutyWrite k v) s fun t =>
        t.reg (R.PWM_DUTY k.val) = (if fpLt (fpOf v) (fpOf 0) then 0 else if fpLt (fpOf 0x3F800000) (fpOf v) then 0x3F800000 else v) ∧
        Writes [R.PWM_DUTY k.val] s t) ∧
      (fpFinite v = false → Gives (.dutyWrite k v) s fun t => t = s)) ∧
    (∀ taps : Fin 65, injDue s (86 + g.val) = none →
      (32 ≤ taps.val → taps.val ≤ 63 → Gives (.delayLineCalibration g taps) s fun t =>
        t.get (F.PWM_DLCAL_TAPS g.val) = taps.val ∧ (t.pg g.val).tapsBad = false ∧ (t.pg g.val).fine = (s.pg g.val).fine ∧
        ((s.pg g.val).fine = true → t.get (F.PWM_DLCAL_LOCK g.val) = 1) ∧
        ((s.pg g.val).fine = false → t.get (F.PWM_DLCAL_LOCK g.val) = s.get (F.PWM_DLCAL_LOCK g.val)) ∧
        ((s.pg g.val).map ≠ [] → (t.pg g.val).map = (s.pg g.val).map) ∧
        (t.pg g.val).nextMap = (List.range 32).map (fun f => (2 * f * taps.val + 32) / 64) ∧
        Writes [R.PWM_DLCAL g.val] s t) ∧
      (taps.val < 32 ∨ 63 < taps.val → (s.pg g.val).tapsBad = false → Gives (.delayLineCalibration g taps) s fun t =>
        t.get (F.PWM_DLCAL_LOCK g.val) = 0 ∧ t.get (F.PWM_DLCAL_ERR g.val) = 1 ∧ (t.pg g.val).fine = false ∧
        Writes [R.PWM_DLCAL g.val] s t)) ∧
    (∀ synci rf, syncReference s g.val synci = some rf → syncOn s g.val = true → Gives (.syncReferenceEvent g synci) s fun t =>
      (t.pg g.val).corr = clampInt (-phaseError s g.val rf) (-(s.get (F.PWM_LOCK_SLEW g.val) : Int))
        (s.get (F.PWM_LOCK_SLEW g.val)) ∧
      (s.get (F.PWM_LOCK_LOCKWIN g.val) < (phaseError s g.val rf).natAbs → t.get (F.PWM_GSTAT_LOCKED g.val) = 0) ∧
      ((phaseError s g.val rf).natAbs ≤ s.get (F.PWM_LOCK_LOCKWIN g.val) → 7 ≤ (s.pg g.val).good →
        t.get (F.PWM_GSTAT_LOCKED g.val) = 1) ∧
      Writes [R.PWM_PHERR g.val, R.PWM_GSTAT g.val] s t) ∧
    (syncOn s g.val = true → Gives (.syncReferenceLoss g) s fun t =>
      t.get (F.PWM_GSTAT_LOCKED g.val) = 0 ∧ t.get (F.PWM_GSTAT_REFLOST g.val) = 1 ∧ Writes [R.PWM_GSTAT g.val] s t) ∧
    (∀ v : Word, s.flag F.LNK_STAT_TOKEN = false → Gives (.leadgrpWrite v) s fun t =>
      t.get F.PWM_LEADGRP_GRP = bitsOf v 7 0 ∧
      (bitOf v g.val = true → t.get (F.PWM_GSTAT_LEADBLK g.val) = 1 ∧
        ∀ k, k ∈ legsOf g.val → (t.leg k).lineH = false ∧ (t.leg k).lineL = false) ∧
      Writes (R.PWM_LEADGRP :: (List.range 8).map R.PWM_GSTAT) s t) ∧
    (∀ (k : Fin 24) (high level : Bool) (toff : Option (BitVec 14)) (droop : Option (BitVec 16)) (at_ : Nat), ∀ e,
      (s.leg k.val).edges.find? (fun e => e.high == high && e.level == level) = some e →
      (s.pg (k.val / 3)).frozen = false → Gives (.commandLineEdge k high level toff droop at_) s fun t =>
      (if high then (t.leg k.val).lineH else (t.leg k.val).lineL) = level ∧
      (t.leg k.val).edges = (s.leg k.val).edges.erase e ∧
      (level = true ∨ (if high then (s.leg k.val).onH else (s.leg k.val).onL) = none ∨ (toff = none ∧ droop = none) →
        Writes timeRegs s t) ∧
      (high = false ∨ droop = none ∨ (∀ a, (s.leg k.val).onH = some a → max s.now at_ < a + 3000) →
        t.reg (R.MGN_DROOP k.val) = s.reg (R.MGN_DROOP k.val)) ∧
      Writes ([R.MGN_TOFF k.val, R.MGN_DROOP k.val, R.MGN_STAT] ++ timeRegs) s t)

/-- The fault inputs (R229–R233). An input at its active level for FILT + 1 samples with EN latches its trip and the lines of its groups fall; without EN
only ACT shows it. A latched trip clears on a written 1 once the input is inactive, and its refusal is flagged and counted. FLTCFG is
not written while its trip is latched. -/
def Obligations.FaultInputs : Prop :=
  ∀ (s : State) (m : Fin 6),
    (∀ level n at_, level = s.flag (F.PWM_FLTCFG_POL m.val) → s.get (F.PWM_FLTCFG_FILT m.val) < n →
      s.bit F.PWM_TRIP_ACT m.val = false → s.flag (F.PWM_FLTCFG_EN m.val) = true → Gives (.fltActive m level n at_) s fun t =>
      t.bit F.PWM_TRIP_ACT m.val = true ∧ t.bit F.PWM_TRIP_TRIP m.val = true ∧
      (∀ g, g < 8 → (s.get (F.PWM_FLTCFG_MASK m.val)).testBit g = true → t.get (F.PWM_GSTAT_TRIPPED g) = 1 ∧
        ∀ k, k ∈ legsOf g → (t.leg k).lineH = false ∧ (t.leg k).lineL = false ∧ (t.leg k).edges = []) ∧
      (∀ k, k < 24 → (s.get (F.PWM_FLTCFG_MASK m.val)).testBit (k / 3) = false → t.leg k = s.leg k) ∧
      Writes (R.PWM_TRIP :: (List.range 8).map R.PWM_GSTAT ++ timeRegs) s t) ∧
    (∀ level n at_, level = s.flag (F.PWM_FLTCFG_POL m.val) → s.get (F.PWM_FLTCFG_FILT m.val) < n →
      s.bit F.PWM_TRIP_ACT m.val = false → s.flag (F.PWM_FLTCFG_EN m.val) = false → Gives (.fltActive m level n at_) s fun t =>
      t.bit F.PWM_TRIP_ACT m.val = true ∧ t.get F.PWM_TRIP_TRIP = s.get F.PWM_TRIP_TRIP ∧ t.legs = s.legs ∧
      Writes (R.PWM_TRIP :: timeRegs) s t) ∧
    (∀ level n at_, level ≠ s.flag (F.PWM_FLTCFG_POL m.val) → s.get (F.PWM_FLTCFG_FILT m.val) < n →
      Gives (.fltInactive m level n at_) s fun t =>
      t.bit F.PWM_TRIP_ACT m.val = false ∧ t.get F.PWM_TRIP_TRIP = s.get F.PWM_TRIP_TRIP ∧
      Writes (R.PWM_TRIP :: timeRegs) s t) ∧
    (∀ bits : BitVec 6, Gives (.tripClear bits) s fun t =>
      (bits.getLsbD m.val = true → s.bit F.PWM_TRIP_ACT m.val = false → t.bit F.PWM_TRIP_TRIP m.val = false) ∧
      (bits.getLsbD m.val = true → s.bit F.PWM_TRIP_ACT m.val = true → s.bit F.PWM_TRIP_TRIP m.val = true →
        t.bit F.PWM_TRIP_TRIP m.val = true ∧ t.get F.PWM_STAT_CLRREF = 1 ∧
        t.get (F.PWM_FLTCNT_REFCNT m.val) = satTo (fldTop (F.PWM_FLTCNT_REFCNT m.val)) (s.get (F.PWM_FLTCNT_REFCNT m.val) + 1)) ∧
      (bits.getLsbD m.val = false → t.bit F.PWM_TRIP_TRIP m.val = s.bit F.PWM_TRIP_TRIP m.val) ∧
      t.get F.PWM_TRIP_ACT = s.get F.PWM_TRIP_ACT ∧
      Writes (R.PWM_TRIP :: R.PWM_STAT :: (List.range 6).map R.PWM_FLTCNT ++ (List.range 8).map R.PWM_GSTAT) s t) ∧
    (∀ v : Word, s.bit F.PWM_TRIP_TRIP m.val = false → Gives (.fltcfgWrite m v) s fun t =>
      t.reg (R.PWM_FLTCFG m.val) = v &&& 0xC0FF00FF ∧ Writes [R.PWM_FLTCFG m.val] s t) ∧
    (∀ v : Word, s.bit F.PWM_TRIP_TRIP m.val = true → Gives (.fltcfgWrite m v) s fun t =>
      t.get F.PWM_STAT_CFGREF = 1 ∧ Writes [R.PWM_STAT] s t) ∧
    (Gives (.fltcntClr m) s fun t => t.get (F.PWM_FLTCNT_REFCNT m.val) = 0 ∧ t.get (F.PWM_FLTCNT_GLITCH m.val) = 0 ∧
      Writes [R.PWM_FLTCNT m.val] s t) ∧
    (∀ level n at_, level = s.flag (F.PWM_FLTCFG_POL m.val) → n ≤ s.get (F.PWM_FLTCFG_FILT m.val) →
      Gives (.fltAbsorbedToggle m level n at_) s fun t =>
      t.get (F.PWM_FLTCNT_GLITCH m.val) = satTo (fldTop (F.PWM_FLTCNT_GLITCH m.val)) (s.get (F.PWM_FLTCNT_GLITCH m.val) + 1) ∧
      Writes (R.PWM_FLTCNT m.val :: timeRegs) s t)

/-! ### The gate drivers' detectors (R214, R236–R245) -/

/-- The gate drivers (monitors: log 58; overlaps: log 51; the limit of a turn-on: log 119). A voltage over the threshold at an armed
monitor sets its flag and opens an event or joins the open one; its group, unless stage 2 holds it, is off for the two-step turn-off,
which goes through its second step to the safe state; a self-test step that has the comparator sees none. A turn-on that still waits
for the opposite gate past HSTMO is withheld; one that has its switch on, or waits for less, is not. A bootstrap supply below the
threshold of GDR.DRVk.BSUV keeps the high side off; it is back 0.5 V above the threshold, unless an injection holds the comparator. -/
def Obligations.GateDrivers : Prop :=
  ∀ (s : State) (k : Fin 24),
    (∀ high gross mv up same at_, vdsArmed (advanceTo at_ s) k.val high gross up at_ = true → vdsOver s k.val high gross mv = true →
      vdsTaken s k.val high gross = false →
      s.hwm.vdsWindow = false → Gives (.vdsDetection k high gross mv up same at_) s fun t =>
      t.get (vdsFlag k.val high gross) = 1 ∧ t.hwm.vdsWindow = true ∧ t.hwm.vdsLeg = (same.map Fin.val).foldl min k.val ∧
      t.get F.GDR_EVLEGS_LEGS = 2 ^ k.val ∧
      t.get F.GDR_EVT_COUNT = satTo (fldTop F.GDR_EVT_COUNT) (s.get F.GDR_EVT_COUNT + 1) ∧
      t.get F.HWM_DETCNT_COUNT = satTo (fldTop F.HWM_DETCNT_COUNT) (s.get F.HWM_DETCNT_COUNT + 1) ∧ Reacts [0xE000] s t) ∧
    (∀ high gross mv up same at_, vdsArmed (advanceTo at_ s) k.val high gross up at_ = true → vdsOver s k.val high gross mv = true →
      vdsTaken s k.val high gross = false →
      s.hwm.vdsWindow = true → Gives (.vdsDetection k high gross mv up same at_) s fun t =>
      t.get (vdsFlag k.val high gross) = 1 ∧ t.get F.GDR_EVLEGS_LEGS = withBit (s.get F.GDR_EVLEGS_LEGS) k.val true ∧
      t.get F.GDR_EVT_COUNT = s.get F.GDR_EVT_COUNT ∧ t.get F.HWM_DETCNT_COUNT = s.get F.HWM_DETCNT_COUNT ∧ Reacts [0xE000] s t) ∧
    (∀ high gross mv up same at_, vdsArmed (advanceTo at_ s) k.val high gross up at_ = true → vdsOver s k.val high gross mv = true →
      vdsTaken s k.val high gross = false →
      (s.grp (k.val / 3)).stage2 = false → (s.grp (k.val / 3)).soft ≤ 2 → s.inj.held = none →
      Gives (.vdsDetection k high gross mv up same at_) s fun t => (t.grp (k.val / 3)).gate = .off ∧ Reacts [0xE000] s t) ∧
    (∀ high gross mv up same at_, vdsArmed (advanceTo at_ s) k.val high gross up at_ = false ∨ vdsOver s k.val high gross mv = false ∨
        vdsTaken s k.val high gross = true →
      Gives (.vdsDetection k high gross mv up same at_) s fun t => t.hwm = s.hwm ∧ t.hgrp = s.hgrp ∧ Writes timeRegs s t) ∧
    (Gives .vdsEventWindowEnd s fun t => t.hwm = { s.hwm with vdsWindow := false } ∧ Writes [] s t) ∧
    (∀ (g : Fin 8) (at_ : Nat), (s.grp g.val).soft = 1 → (s.grp g.val).softAt + 60 * s.get (F.GDR_SOFT_WTIME g.val) ≤ at_ →
      Gives (.softOffStep2 g at_) s fun t => t.grp g.val = { s.grp g.val with soft := 2, softAt := at_ } ∧
      (∀ k, k ∈ legsOf g.val → (t.leg k).weakH = false ∧ (t.leg k).weakL = false) ∧ Writes timeRegs s t) ∧
    (∀ (g : Fin 8) (at_ : Nat), (s.grp g.val).soft = 2 → (s.grp g.val).softAt + 300 ≤ at_ → s.mode = .active → softLatch s g.val = true → shortLatch s g.val = false →
      haltLatch s = false → (s.grp g.val).mirror = false → (s.grp g.val).stage2 = false → Gives (.softOffSafeState g at_) s fun t =>
      let u := (advanceTo at_ s).updGrp g.val (fun h => { h with soft := 3, softAt := at_ })
      (t.grp g.val).soft = 3 ∧ (t.grp g.val).gate = faultRule u g.val (safeState u g.val) ∧
      Writes (R.HWM_STAT :: (gateRegs ++ timeRegs)) s t) ∧
    (BridgeIdle s → Gives .gdrEvtClr s fun t => t.get F.GDR_EVT_COUNT = 0 ∧ Writes [R.GDR_EVT] s t) ∧
    (∀ (high : Bool) (at_ c : Nat), (if high then (s.leg k.val).cmdH else (s.leg k.val).cmdL) = some c →
      (if high then (s.leg k.val).onH else (s.leg k.val).onL) = none → (if high then (gateGo s k.val).1 else (gateGo s k.val).2) = true →
      c + 150 * (s.get F.GDR_HSCFG_HSTMO + 1) ≤ at_ → Gives (.handshakeTimeout k high at_) s fun t =>
      t.get (if high then F.GDR_STAT_HSTOHS k.val else F.GDR_STAT_HSTOLS k.val) = 1 ∧
      (if high then (gatePoint t k.val).1 else (gatePoint t k.val).2) = false ∧
      t.get F.HWM_DETCNT_COUNT = satTo (fldTop F.HWM_DETCNT_COUNT) (s.get F.HWM_DETCNT_COUNT + 1) ∧ Reacts [0xE000] s t) ∧
    (∀ vbs, s.pwr.hwmOn = true → stepOn s 7 k.val = false → s.inj.held = none → vbs < 6000 + 1000 * s.get (F.GDR_DRV_BSUV k.val) →
      Gives (.bootstrapUndervoltage k vbs) s fun t =>
      t.get (F.GDR_STAT_BSUV k.val) = 1 ∧ t.get (F.GDR_STAT_BSOK k.val) = 0 ∧ (t.leg k.val).bsHold = true ∧ (t.leg k.val).onH = none ∧
      t.get F.HWM_DETCNT_COUNT = satTo (fldTop F.HWM_DETCNT_COUNT) (s.get F.HWM_DETCNT_COUNT + 1) ∧ Reacts [] s t) ∧
    (∀ (high : Bool) (at_ c : Nat), (if high then (s.leg k.val).cmdH else (s.leg k.val).cmdL) = some c →
      at_ < c + 150 * (s.get F.GDR_HSCFG_HSTMO + 1) ∨ (if high then (s.leg k.val).onH else (s.leg k.val).onL).isSome = true →
      Gives (.handshakeTimeout k high at_) s fun t => t.legs = s.legs ∧ t.hgrp = s.hgrp ∧ Writes timeRegs s t) ∧
    (∀ vbs, 6000 + 1000 * s.get (F.GDR_DRV_BSUV k.val) ≤ vbs → Gives (.bootstrapUndervoltage k vbs) s fun t => t = s) ∧
    (∀ vbs, vbs ≤ 6500 + 1000 * s.get (F.GDR_DRV_BSUV k.val) → Gives (.bootstrapOk k vbs) s fun t => t = s) ∧
    (∀ vbs, s.pwr.hwmOn = true → stepOn s 7 k.val = false → injHeld s (24 + k.val) 0 = true →
      6500 + 1000 * s.get (F.GDR_DRV_BSUV k.val) < vbs →
      Gives (.bootstrapOk k vbs) s fun t => t = { s with inj := { s.inj with before := true } }) ∧
    (∀ vbs, s.pwr.hwmOn = true → stepOn s 7 k.val = false → s.inj.held = none → 6500 + 1000 * s.get (F.GDR_DRV_BSUV k.val) < vbs →
      Gives (.bootstrapOk k vbs) s fun t => t.get (F.GDR_STAT_BSOK k.val) = 1 ∧ (t.leg k.val).bsHold = (s.leg k.val).bsHold ∧
      Writes (R.GDR_STAT k.val :: R.HWM_STAT :: gateRegs) s t)

/-! ### The hard-wired monitor (R211, R213, R327–R329, R339–R353) -/

/-- Reactions (ranks and ends: logs 51 and 87). A reaction frame is recorded in DETLAST and DETCNT, and its class is
applied: Soft-off and Short latch on its groups, Halt takes ACTIVE to STANDBY, Withdraw takes ACTIVE to SAFE, a Flag changes
no mode. The stage-2 overvoltage shorts the groups of SPB[34] until the DC link has stayed low; edges of a group are the ends
of its speed intervals; phase isolation opens and closes at the moments that R328 and R329 allow. -/
def Obligations.Reactions : Prop :=
  ∀ s : State,
    (∀ r l, s.hwm.rxq = r :: l → s.flag F.SYS_BRGSTAT_UP = true → s.fresh.turn = none → Gives .reactionFrameArrival s fun t =>
      t.hwm.rxq = l ∧ t.get F.HWM_DETCNT_COUNT = satTo (fldTop F.HWM_DETCNT_COUNT) (s.get F.HWM_DETCNT_COUNT + 1) ∧
      (s.flag F.HWM_DETLAST_VALID = false → t.get F.HWM_DETLAST_VALID = 1 ∧ t.get F.HWM_DETLAST_DET = r.det % 2 ^ 8 ∧
        t.get F.HWM_DETLAST_POS = r.pos % 2 ^ 8 ∧ t.get F.HWM_DETLAST_CLASS = r.cls % 2 ^ 3) ∧
      (r.cls = 0 → SameMode s t ∧ t.get F.HWM_RXSTAT_SOFT = s.get F.HWM_RXSTAT_SOFT) ∧
      (r.cls = 1 → ∀ g, g < 8 → r.groups.testBit g = true → t.bit F.HWM_RXSTAT_SOFT g = true) ∧
      (r.cls = 2 → ∀ g, g < 8 → r.groups.testBit g = true → t.bit F.HWM_RXSTAT_SHORT g = true) ∧
      (r.cls = 3 → s.mode = .active → s.flag F.HWM_RXSTAT_WDRAW = false → t.mode = .standby ∧ t.get F.HWM_RXSTAT_HALT = 1) ∧
      (r.cls = 4 → s.mode = .active → t.mode = .safe ∧ t.get F.HWM_RXSTAT_WDRAW = 1) ∧ Reacts [] s t) ∧
    (s.flag F.SYS_BRGSTAT_UP = false → Gives .reactionFrameArrival s fun t => t = s) ∧
    (Gives .overvoltageStage2 s fun t =>
      t.get F.HWM_DETCNT_COUNT = satTo (fldTop F.HWM_DETCNT_COUNT) (s.get F.HWM_DETCNT_COUNT + 1) ∧
      (∀ g, g < 8 → (ovMask s).testBit g = true → (t.grp g).stage2 = true ∧
        (s.mode ≠ .dormant → s.pwr.hwmOn = true → (s.grp g).vdsH = false → (s.grp g).vdsL = false → pref s g ≠ 2 → (t.grp g).gate = .shortLow)) ∧
      Writes (R.HWM_STAT :: R.HWM_DETCNT :: R.HWM_DETLAST :: gateRegs) s t) ∧
    (s.hwm.dcLow = true → Gives .stage2ReleaseTimer s fun t => (∀ g, g < 8 → (t.grp g).stage2 = false) ∧
      Writes (R.HWM_STAT :: gateRegs) s t) ∧
    (s.hwm.dcLow = false → Gives .stage2ReleaseTimer s fun t => t = s) ∧
    (∀ below, Gives (.dcLinkOffCrossing below) s fun t => t.hwm = { s.hwm with dcLow := below } ∧ Writes [] s t) ∧
    (∀ (k : Fin 24) (at_ : Nat), (s.grp (k.val / 3)).gate ≠ .off → Gives (.vdsSignChange k at_) s fun t =>
      (t.grp (k.val / 3)).lastEdge = some at_ ∧ ((s.grp (k.val / 3)).pisReq = true → t.bit F.HWM_PISCTL_OPEN (k.val / 3) = true) ∧
      Writes (R.HWM_STAT :: R.HWM_PISCTL :: R.HWM_PISSTAT :: (gateRegs ++ timeRegs)) s t) ∧
    (∀ g : Fin 8, Gives (.alloffConditionMet g) s fun t =>
      (t.grp g.val).slow = true ∧ (t.grp g.val).above = false ∧
      Writes (R.HWM_STAT :: R.HWM_PISCTL :: R.HWM_PISSTAT :: gateRegs) s t) ∧
    (∀ mask : BitVec 8, BridgeIdle s → Gives (.pisOpenRequest mask) s fun t =>
      (∀ g : Fin 8, mask.getLsbD g.val = true → s.bit F.HWM_PISCTL_OPEN g.val = false →
        if (s.grp g.val).gate = .off ∧ (s.grp g.val).slow = true then t.bit F.HWM_PISCTL_OPEN g.val = true
        else (t.grp g.val).pisReq = true ∧ t.bit F.HWM_PISCTL_OPEN g.val = false) ∧
      (∀ g : Fin 8, mask.getLsbD g.val = false → t.bit F.HWM_PISCTL_OPEN g.val = s.bit F.HWM_PISCTL_OPEN g.val) ∧
      Writes [R.HWM_PISCTL, R.HWM_PISSTAT] s t) ∧
    (∀ (g : Fin 8) (m : PisMoment), (s.grp g.val).pisReq = true →
      m = .allOff → (s.grp g.val).gate = .off → (s.grp g.val).slow = true → Gives (.pisOpen g m) s fun t =>
      t.bit F.HWM_PISCTL_OPEN g.val = true ∧ (t.grp g.val).pisReq = false ∧ Writes [R.HWM_PISCTL, R.HWM_PISSTAT] s t) ∧
    (∀ (g : Fin 8) (m : PisMoment), (s.grp g.val).pisReq = true → m ≠ .allOff → Gives (.pisOpen g m) s fun t =>
      t.bit F.HWM_PISCTL_OPEN g.val = true ∧ (t.grp g.val).pisReq = false ∧ Writes [R.HWM_PISCTL, R.HWM_PISSTAT] s t) ∧
    (∀ mask : BitVec 8, BridgeIdle s → Gives (.pisCloseRequest mask) s fun t =>
      (∀ g : Fin 8, mask.getLsbD g.val = true →
        if (s.mode = .service ∨ s.mode = .standby) ∧ (s.grp g.val).gate = .off ∧ (s.grp g.val).slow = true then
          t.bit F.HWM_PISCTL_OPEN g.val = false
        else t.bit F.HWM_PISSTAT_CLREF g.val = true ∧ t.bit F.HWM_PISCTL_OPEN g.val = s.bit F.HWM_PISCTL_OPEN g.val) ∧
      Writes [R.HWM_PISCTL, R.HWM_PISSTAT] s t)

/-- Releases, ENABLE, the pedal and the direct path (details: logs 51, 52 and 54). A release clears the latches of a
group that may be released and else sets RELREF; ENABLE's fall in ACTIVE is a Halt; a valid pedal window sets RAW, X and the
demand, the second invalid one in a row is the pedal fault, with demand 0; the direct path follows its sensors' sector. A heartbeat
that is lost and has not returned refuses the Halt release. -/
def Obligations.ReleasesAndDirectPath : Prop :=
  ∀ s : State,
    (∀ mask : BitVec 8, BridgeIdle s → Gives (.releaseGroup mask) s fun t =>
      (∀ g : Fin 8, mask.getLsbD g.val = true → releaseOk s g.val = true →
        t.bit F.HWM_RXSTAT_SOFT g.val = false ∧ t.bit F.HWM_RXSTAT_SHORT g.val = false) ∧
      (∀ g : Fin 8, mask.getLsbD g.val = true → releaseOk s g.val = false → t.get F.HWM_RXSTAT_RELREF = 1) ∧
      (∀ g : Fin 8, mask.getLsbD g.val = false ∨ releaseOk s g.val = false →
        t.bit F.HWM_RXSTAT_SOFT g.val = s.bit F.HWM_RXSTAT_SOFT g.val ∧
        t.bit F.HWM_RXSTAT_SHORT g.val = s.bit F.HWM_RXSTAT_SHORT g.val) ∧
      Writes (R.HWM_RXSTAT :: R.HWM_STAT :: gateRegs) s t) ∧
    (BridgeIdle s → haltReleaseOk s = true → Gives .releaseHalt s fun t =>
      t.get F.HWM_RXSTAT_HALT = 0 ∧ Writes (R.HWM_RXSTAT :: R.HWM_STAT :: gateRegs) s t) ∧
    (BridgeIdle s → haltReleaseOk s = false → Gives .releaseHalt s fun t =>
      t.get F.HWM_RXSTAT_RELREF = 1 ∧ t.get F.HWM_RXSTAT_HALT = s.get F.HWM_RXSTAT_HALT ∧ Writes [R.HWM_RXSTAT] s t) ∧
    (BridgeIdle s → s.pwr.hbLost = true → Gives .releaseHalt s fun t =>
      t.get F.HWM_RXSTAT_RELREF = 1 ∧ t.get F.HWM_RXSTAT_HALT = s.get F.HWM_RXSTAT_HALT ∧ Writes [R.HWM_RXSTAT] s t) ∧
    (∀ level, level = true ∨ s.mode ≠ .active → Gives (.enableChange level) s fun t =>
      t.get F.HWM_STAT_ENABLE = level.toNat ∧ Writes [R.HWM_STAT] s t) ∧
    (s.flag F.HWM_STAT_ENABLE = true → s.mode = .active → s.flag F.HWM_RXSTAT_WDRAW = false →
      s.fresh.turn = none → Gives (.enableChange false) s fun t =>
      t.get F.HWM_STAT_ENABLE = 0 ∧ t.mode = .standby ∧ t.get F.HWM_RXSTAT_HALT = 1 ∧ Reacts [] s t) ∧
    (BridgeIdle s → Gives .detcntClr s fun t => t.get F.HWM_DETCNT_COUNT = 0 ∧ Writes [R.HWM_DETCNT] s t) ∧
    (bitsOf (s.spb 8) 1 0 ≠ 0 → s.pwr.hwmOn = true →
      (∀ r : BitVec 16, pedalValid s (some r) = true → s.flag F.HWM_STAT_PDLFLT = false → s.hwm.pdl = [] →
        Gives (.pedalWindow (some r)) s fun t =>
        t.get F.HWM_PDL_RAW = r.toNat ∧ t.get F.HWM_PDL_X = pedalPos s r.toNat ∧
        t.get F.HWM_LIMPSTAT_Y = pedalMap s (pedalPos s r.toNat) % 2 ^ 16 ∧ Writes [R.HWM_PDL, R.HWM_LIMPSTAT] s t) ∧
      (∀ raw, pedalValid s raw = false → s.flag F.HWM_STAT_PDLFLT = false → 1 ≤ s.hwm.pdlBad → Gives (.pedalWindow raw) s fun t =>
        t.get F.HWM_STAT_PDLFLT = 1 ∧ t.get F.HWM_LIMPSTAT_Y = 0 ∧
        t.get F.HWM_DETCNT_COUNT = satTo (fldTop F.HWM_DETCNT_COUNT) (s.get F.HWM_DETCNT_COUNT + 1) ∧ Reacts [] s t)) ∧
    (∀ (g : Fin 8) (ha hb hc : Bool), 2 ≤ g.val → g.val ≤ 5 → Gives (.limpSectorChange g ha hb hc) s fun t =>
      t.get F.HWM_LIMPSTAT_SECT / 2 ^ (3 * (g.val - 2)) % 8 = elecSector s g.val (sensorSector ha hb hc) ∧
      (t.grp g.val).hall = sensorSector ha hb hc ∧
      (elecSector s g.val (sensorSector ha hb hc) = (s.grp g.val).sector → t.legs = s.legs ∧
        ∀ h, h < 8 → t.grp h = if h = g.val then { s.grp h with hall := sensorSector ha hb hc } else s.grp h) ∧
      (elecSector s g.val (sensorSector ha hb hc) ≠ (s.grp g.val).sector → (t.grp g.val).sector = elecSector s g.val (sensorSector ha hb hc) ∧
        (t.grp g.val).turning = limpDrives s g.val ∧ (t.grp g.val).chopOn = (s.grp g.val).chopOn) ∧
      Writes [R.HWM_LIMPSTAT] s t) ∧
    (∀ g : Fin 8, Gives (.limpSectorDelayEnd g) s fun t =>
      t.grp g.val = { s.grp g.val with turning := false, keepH := 3, keepL := 3 } ∧ Writes [] s t) ∧
    (∀ g : Fin 8, limpDrives s g.val = true → (s.grp g.val).gate = .limp → Gives (.limpChopPeriod g) s fun t =>
      t.grp g.val = { s.grp g.val with
        driving := decide (pedalDemand s ≠ 0)
        chopOn := decide (pedalDemand s ≠ 0 ∧ (s.grp g.val).sector ≠ 7) } ∧ Writes [] s t) ∧
    (∀ (g : Fin 8) (v : Nat), limpThreshold s < v * limpGain s → Gives (.limpCurrentLimit g v) s fun t =>
      t.grp g.val = { s.grp g.val with chopOn := false } ∧
      ((s.grp g.val).gate = .limp → ∀ k, k ∈ legsOf g.val → (gatePoint t k).1 = false) ∧ Writes [] s t) ∧
    (∀ (g : Fin 8) (v : Nat), v * limpGain s ≤ limpThreshold s → Gives (.limpCurrentLimit g v) s fun t => t = s)

/-! ### Safety parameters, password and change log (R355–R363) -/

/-- The safety parameters (the log's words: log 31; the copies' places: log 56). An open write takes its value at once
and waits for its commit; while they are closed a write is refused and logged. A commit logs the change with the author of the
write; a flash copy holds the image, its number and its CRC-32. The password opens with its fourth word, locks on demand and
by time, and locks out at the fourth wrong entry; a word later than 1 s begins a new entry, words while it is open are ignored, and
of those in a lockout the first is logged; a write of a protected field, of the gate drivers or of the guardian, needs it and is logged
either way (R303, R356). A new SPB[11] moves the sectors of the direct path at once. -/
def Obligations.SafetyParameters : Prop :=
  ∀ s : State,
    (∀ (w : Requester) (i : Fin 256) (v : Word) (at_ : Nat), mayWrite s w (R.HWM_SPB i.val) = true → BridgeIdle s →
      spbOpen s = true → i.val ≠ 0 → s.hwm.commits.length < 8 →
      Gives (.spbWrite w i v at_) s fun t =>
      t.spb i.val = spbStore i.val (s.spb i.val) v ∧
      t.hwm.commits = s.hwm.commits ++ [{
        idx := i.val, src := logSource w, author := s.get F.HWM_PWCTL_AUTHOR, old := s.spb i.val, new := spbStore i.val (s.spb i.val) v }] ∧
      (i.val ≠ 11 → t.reg R.HWM_LIMPSTAT = s.reg R.HWM_LIMPSTAT) ∧
      (i.val = 11 → ∀ g, 2 ≤ g → g ≤ 5 → (t.grp g).sector = elecSector t g (s.grp g).hall) ∧
      t.get F.HWM_SPBSTAT_QUEUE = s.hwm.commits.length + 1 ∧ t.get F.HWM_SPBSTAT_BUSY = 1 ∧
      Writes (R.HWM_SPB i.val :: R.HWM_SPBSTAT :: R.HWM_STAT :: R.HWM_LIMPSTAT :: (gateRegs ++ timeRegs)) s t) ∧
    (∀ (w : Requester) (i : Fin 256) (v : Word) (at_ : Nat), mayWrite s w (R.HWM_SPB i.val) = true → BridgeIdle s →
      spbOpen s = true → i.val ≠ 0 → 8 ≤ s.hwm.commits.length →
      Gives (.spbWrite w i v at_) s fun t => t.get F.HWM_SPBSTAT_FULL = 1 ∧ Writes (R.HWM_SPBSTAT :: timeRegs) s t) ∧
    (∀ (w : Requester) (i : Fin 256) (v : Word) (at_ : Nat), mayWrite s w (R.HWM_SPB i.val) = true → BridgeIdle s →
      spbOpen s = false → i.val ≠ 0 → Gives (.spbWrite w i v at_) s fun t =>
      t.get F.HWM_SPBSTAT_REFUSED = 1 ∧ t.spb i.val = s.spb i.val ∧
      WritesAt ([R.HWM_SPBSTAT, R.HWM_LOGSTAT] ++ timeRegs) logBase 0x800 s t) ∧
    (∀ (w : Requester) (v : Word) (at_ : Nat), BridgeIdle s → Gives (.spbWrite w 0 v at_) s fun t => Writes timeRegs s t) ∧
    (∀ (w : Requester) (i : Fin 256) (v : Word) (at_ : Nat), mayWrite s w (R.HWM_SPB i.val) = false →
      Gives (.spbWrite w i v at_) s fun t => t.hwm = s.hwm ∧ Writes timeRegs s t) ∧
    (∀ c l, s.hwm.commits = c :: l → s.pwr.vbat = true → c.author < 2 ^ 16 → l.length < 8 → Gives .spbCommit s fun t =>
      t.hwm.commits = l ∧ t.hwm.copyDue = true ∧ t.hwm.lifeSaved = s.reg R.HWM_LIFE ∧ t.get F.HWM_SPBSTAT_QUEUE = l.length ∧
      t.words (logBase + 16 * s.get F.HWM_LOGSTAT_NEXT) 4 =
        [s.reg R.HWM_LIFE, BitVec.ofNat 32 (2 ^ 28 + c.src * 2 ^ 26 + c.author * 2 ^ 8 + c.idx), c.old, c.new] ∧
      t.get F.HWM_LOGSTAT_NEXT = (s.get F.HWM_LOGSTAT_NEXT + 1) % 128 ∧
      WritesAt [R.HWM_LOGSTAT, R.HWM_SPBSTAT] (logBase + 16 * s.get F.HWM_LOGSTAT_NEXT) 16 s t) ∧
    (s.pwr.vbat = false → Gives .spbCommit s fun t => t = s) ∧
    (s.hwm.copyDue = true → s.hwm.spbSlot < 32 → s.hwm.logSlot < 16 → Gives .spbFlashCopy s fun t =>
      t.hwm.copyDue = false ∧ t.hwm.spbSlot = s.hwm.spbSlot + 1 ∧ t.hwm.logSlot = s.hwm.logSlot + 1 ∧
      (∀ i : Fin 256, t.word (0x10C20000 + 0x800 * s.hwm.spbSlot + 4 * i.val) = s.spb i.val) ∧
      t.word (0x10C20000 + 0x800 * s.hwm.spbSlot + 0x400) = BitVec.ofNat 32 s.hwm.spbSeq ∧
      t.word (0x10C20000 + 0x800 * s.hwm.spbSlot + 0x404) = crc32 (t.bytes (0x10C20000 + 0x800 * s.hwm.spbSlot) 0x404) ∧
      t.bytes (0x10C30000 + 0x1000 * s.hwm.logSlot) 0x800 = s.bytes logBase 0x800 ∧
      WritesAt [] 0x10C20000 0x20000 s t) ∧
    (s.hwm.copyDue = false → Gives .spbFlashCopy s fun t => t = s) ∧
    (∀ (w : Requester) (x : BitVec 16) (at_ : Nat), s.flag F.HWM_PWSTAT_UNLK = false → s.flag F.HWM_PWSTAT_LOCKOUT = false →
      w = .cp ∨ (w = .spp ∧ sppOn s = true ∧ sppCol s ≠ .fail) → BridgeIdle s → at_ ≤ s.hwm.wordAt + 300000000 →
      (s.hwm.words.length < 3 → Gives (.passwordWord w x at_) s fun t =>
        t.hwm.words = s.hwm.words ++ [x] ∧ t.get F.HWM_PWSTAT_NEXT = s.hwm.words.length + 1 ∧
        Writes (R.HWM_PWSTAT :: timeRegs) s t) ∧
      (s.hwm.words.length = 3 → pwMatches s (s.hwm.words ++ [x]) = true → Gives (.passwordWord w x at_) s fun t =>
        t.get F.HWM_PWSTAT_UNLK = 1 ∧ t.get F.HWM_PWSTAT_WRONG = 0 ∧ t.get F.HWM_PWSTAT_NEXT = 0 ∧
        WritesAt ([R.HWM_PWSTAT, R.HWM_LOGSTAT] ++ timeRegs) logBase 0x800 s t) ∧
      (s.hwm.words.length = 3 → pwMatches s (s.hwm.words ++ [x]) = false → Gives (.passwordWord w x at_) s fun t =>
        t.get F.HWM_PWSTAT_UNLK = 0 ∧
        t.get F.HWM_PWSTAT_WRONG = satTo (fldTop F.HWM_PWSTAT_WRONG) (s.get F.HWM_PWSTAT_WRONG + 1) ∧
        (3 ≤ s.get F.HWM_PWSTAT_WRONG → t.get F.HWM_PWSTAT_LOCKOUT = 1) ∧
        WritesAt ([R.HWM_PWSTAT, R.HWM_LOGSTAT] ++ timeRegs) logBase 0x800 s t)) ∧
    (∀ (w : Requester) (x : BitVec 16) (at_ : Nat), s.flag F.HWM_PWSTAT_UNLK = false → s.flag F.HWM_PWSTAT_LOCKOUT = false →
      w = .cp → BridgeIdle s → s.hwm.wordAt + 300000000 < at_ → Gives (.passwordWord w x at_) s fun t =>
      t.hwm.words = [x] ∧ t.hwm.wordAt = at_ ∧ t.get F.HWM_PWSTAT_NEXT = 1 ∧ Writes (R.HWM_PWSTAT :: timeRegs) s t) ∧
    (∀ (x : BitVec 16) (at_ : Nat), s.flag F.HWM_PWSTAT_UNLK = true → BridgeIdle s → Gives (.passwordWord .cp x at_) s fun t =>
      t.hwm = s.hwm ∧ Writes timeRegs s t) ∧
    (∀ (x : BitVec 16) (at_ : Nat), s.flag F.HWM_PWSTAT_UNLK = false → s.flag F.HWM_PWSTAT_LOCKOUT = true → BridgeIdle s →
      Gives (.passwordWord .cp x at_) s fun t =>
      t.hwm.words = s.hwm.words ∧ t.reg R.HWM_PWSTAT = s.reg R.HWM_PWSTAT ∧
      (s.hwm.lockLogged = false → t.hwm.lockLogged = true ∧
        t.get F.HWM_LOGSTAT_NEXT = (s.get F.HWM_LOGSTAT_NEXT + 1) % 128 ∧
        t.word (logBase + 16 * s.get F.HWM_LOGSTAT_NEXT + 4) = BitVec.ofNat 32 (6 * 2 ^ 28 + s.get F.HWM_PWCTL_AUTHOR * 2 ^ 8)) ∧
      (s.hwm.lockLogged = true → t.hwm = s.hwm ∧ Writes timeRegs s t) ∧
      WritesAt (R.HWM_LOGSTAT :: timeRegs) logBase 0x800 s t) ∧
    (∀ w : Requester, mayWrite s w R.HWM_PWCTL = true → BridgeIdle s → s.flag F.HWM_PWSTAT_UNLK = true → Gives (.passwordLock w) s fun t =>
      t.get F.HWM_PWSTAT_UNLK = 0 ∧ t.get F.HWM_PWCTL_AUTHOR = 0 ∧
      WritesAt [R.HWM_PWSTAT, R.HWM_PWCTL, R.HWM_LOGSTAT] logBase 0x800 s t) ∧
    (s.flag F.HWM_PWSTAT_UNLK = true → Gives .passwordTimeout s fun t =>
      t.get F.HWM_PWSTAT_UNLK = 0 ∧ t.get F.HWM_PWCTL_AUTHOR = 0 ∧
      WritesAt [R.HWM_PWSTAT, R.HWM_PWCTL, R.HWM_LOGSTAT] logBase 0x800 s t) ∧
    (s.pwr.hwmOn = true → Gives .passwordLockoutEnd s fun t => t.get F.HWM_PWSTAT_LOCKOUT = 0 ∧ Writes [R.HWM_PWSTAT] s t) ∧
    (∀ (w : Requester) (k : Fin 24) (v : Word) (at_ : Nat), mayWrite s w (R.GDR_VDS k.val) = true → BridgeIdle s →
      s.flag F.HWM_PWSTAT_UNLK = true → Gives (.rwpWrite w (BitVec.ofNat 32 (R.GDR_VDS k.val)) v at_) s fun t =>
      t.get (F.GDR_VDS_THR k.val) = bitsOf v 12 8 ∧ (bitsOf v 7 5 ≤ 4 → t.get (F.GDR_VDS_GROSS k.val) = bitsOf v 7 5) ∧
      t.get (F.GDR_VDS_BLANK k.val) = bitsOf v 4 0 ∧
      t.get (F.GDR_VDS_THREFF k.val) = (clampInt ((bitsOf v 12 8 : Nat) + s.getS (F.GDR_VDS_THRADJ k.val)) 0 31).toNat ∧
      WritesAt ([R.GDR_VDS k.val, R.HWM_LOGSTAT] ++ timeRegs) logBase 0x800 s t) ∧
    (∀ (w : Requester) (g : Fin 8) (v : Word) (at_ : Nat), mayWrite s w (R.GDR_SOFT g.val) = true → BridgeIdle s →
      s.flag F.HWM_PWSTAT_UNLK = true → Gives (.rwpWrite w (BitVec.ofNat 32 (R.GDR_SOFT g.val)) v at_) s fun t =>
      t.get (F.GDR_SOFT_WTIME g.val) = (if bitsOf v 7 4 = 0 then s.get (F.GDR_SOFT_WTIME g.val) else bitsOf v 7 4) ∧
      t.get (F.GDR_SOFT_WEAK g.val) = bitsOf v 2 0 ∧
      t.words (logBase + 16 * s.get F.HWM_LOGSTAT_NEXT) 4 = [s.reg R.HWM_LIFE,
        BitVec.ofNat 32 (3 * 2 ^ 28 + logSource w * 2 ^ 26 + s.get F.HWM_PWCTL_AUTHOR * 2 ^ 8),
        BitVec.ofNat 32 (R.GDR_SOFT g.val), t.reg (R.GDR_SOFT g.val)] ∧
      WritesAt ([R.GDR_SOFT g.val, R.HWM_LOGSTAT] ++ timeRegs) logBase 0x800 s t) ∧
    (∀ (w : Requester) (v : Word) (at_ : Nat), mayWrite s w R.HWM_GCFG = true → BridgeIdle s →
      s.flag F.HWM_PWSTAT_UNLK = true → Gives (.rwpWrite w (BitVec.ofNat 32 R.HWM_GCFG) v at_) s fun t =>
      t.reg R.HWM_GCFG = v ∧ WritesAt ([R.HWM_GCFG, R.HWM_LOGSTAT] ++ timeRegs) logBase 0x800 s t) ∧
    (∀ (w : Requester) (m : Fin 8) (n : Fin 64) (v : Word) (at_ : Nat), mayWrite s w (R.HWM_GAPT m.val n.val) = true → BridgeIdle s →
      s.flag F.HWM_PWSTAT_UNLK = true → Gives (.rwpWrite w (BitVec.ofNat 32 (R.HWM_GAPT m.val n.val)) v at_) s fun t =>
      t.reg (R.HWM_GAPT m.val n.val) = (v &&& 0xFFFFBFFF) ||| (s.reg (R.HWM_GAPT m.val n.val) &&& 0x4000) ∧
      WritesAt ([R.HWM_GAPT m.val n.val, R.HWM_LOGSTAT] ++ timeRegs) logBase 0x800 s t) ∧
    (∀ (w : Requester) (a v : Word) (at_ : Nat), mayWrite s w a.toNat = true → BridgeIdle s → hasAcc a.toNat .rwp = true →
      a.toNat ≠ R.MGN_APPROVE → ¬ (0x70000800 ≤ a.toNat ∧ a.toNat < 0x70000C00) → s.flag F.HWM_PWSTAT_UNLK = false →
      Gives (.rwpWrite w a v at_) s fun t => WritesAt (R.HWM_LOGSTAT :: timeRegs) logBase 0x800 s t) ∧
    (s.pwr.vbat = true → Gives .lifeSecond s fun t =>
      t.get F.HWM_LIFE_SEC = (s.get F.HWM_LIFE_SEC + 1) % 2 ^ 32 ∧ Writes [R.HWM_LIFE] s t)

/-! ### Position and speed feedback (R248–R266) -/

/-- The feedback ports (details: logs 62 and 63). A pulse-train edge counts up where no other direction is known, at
its time less the filter, and a gap counts two; timeouts gate the decoder out; a quadrature transition moves QCNT by one or is
illegal; a pair outside the amplitude window faults; an index arms where the reference is valid; an observer update takes a
committed seed, unless it was written in the update's own cycle, or the recursion and reports; a seed is taken while SVALID is 0, a
bandwidth from 10 to 5,000 Hz. A short interval holds its edge, with the interval in INTV, until the next one or the timeout, which
moves no mark of QCNT. -/
def Obligations.FeedbackPorts : Prop :=
  ∀ (s : State) (n : Fin 8),
    (∀ at_, s.flag (F.FBK_CFG_PTEN n.val) = true → s.flag (F.FBK_CFG_SCEN n.val) = false → 0 < s.get (F.FBK_SCALE_CPR n.val) →
      (s.flag (F.FBK_STAT_GATED n.val) = false → Gives (.pulseTrainEdge n at_) s fun t =>
        t.get (F.FBK_CNT_CNT n.val) = (s.get (F.FBK_CNT_CNT n.val) + 1) % 2 ^ 32 ∧
        t.get (F.FBK_MCNT_MCNT n.val) = (s.get (F.FBK_MCNT_MCNT n.val) + 1) % s.get (F.FBK_SCALE_CPR n.val) ∧
        t.get (F.FBK_TIME_TIME n.val) = since (s.get (F.FBK_CFG_PFILT n.val) + 1) (stamp t) ∧
        Writes ([R.FBK_CNT n.val, R.FBK_MCNT n.val, R.FBK_TIME n.val, R.FBK_INTV n.val, R.FBK_STAT n.val] ++ timeRegs) s t) ∧
      (∀ l, (s.fb n.val).last = some l → s.flag (F.FBK_STAT_GATED n.val) = true → (s.fb n.val).stepDir = true →
        (s.fb n.val).held = none → s.get (F.FBK_CFG_REFKIND n.val) = 0 →
        ∀ d, d = since l (since (s.get (F.FBK_CFG_PFILT n.val) + 1) (stamp (advanceTo at_ s))) →
        16 * (s.fb n.val).dref2 ≤ 20 * d → 20 * d ≤ 25 * (s.fb n.val).dref2 → near (2 * d) (s.fb n.val).dref2 = false →
        Gives (.pulseTrainEdge n at_) s fun t =>
        t.get (F.FBK_CNT_CNT n.val) = (s.get (F.FBK_CNT_CNT n.val) + 2) % 2 ^ 32 ∧ t.get (F.FBK_STAT_MISSING n.val) = 1 ∧
        Writes ([R.FBK_CNT n.val, R.FBK_MCNT n.val, R.FBK_TIME n.val, R.FBK_INTV n.val, R.FBK_STAT n.val, R.FBK_TOOTH n.val] ++
          timeRegs) s t)) ∧
    (∀ at_ l, s.flag (F.FBK_CFG_PTEN n.val) = true → s.flag (F.FBK_CFG_SCEN n.val) = false → (s.fb n.val).last = some l →
      s.flag (F.FBK_STAT_GATED n.val) = true → (s.fb n.val).stepDir = true → (s.fb n.val).held = none →
      ∀ x d, x = since (s.get (F.FBK_CFG_PFILT n.val) + 1) (stamp (advanceTo at_ s)) → d = since l x →
      3 * (s.fb n.val).dref2 ≤ 20 * d → 20 * d < 7 * (s.fb n.val).dref2 → Gives (.pulseTrainEdge n at_) s fun t =>
      (t.fb n.val).held = some x ∧ t.get (F.FBK_INTV_INTV n.val) = d ∧ (t.fb n.val).qMark = s.reg (R.FBK_QCNT n.val) ∧
      Writes (R.FBK_INTV n.val :: timeRegs) s t) ∧
    (∀ at_ h, (s.fb n.val).held = some h → (s.fb n.val).stepDir = true → Gives (.heldEdgeTimeout n at_) s fun t =>
      t.get (F.FBK_STAT_GATED n.val) = 0 ∧ t.get (F.FBK_STAT_UNCLASS n.val) = 1 ∧ (t.fb n.val).held = none ∧
      t.get (F.FBK_CNT_CNT n.val) = (s.get (F.FBK_CNT_CNT n.val) + 1) % 2 ^ 32 ∧ (t.fb n.val).qMark = (s.fb n.val).qMark ∧
      Writes ([R.FBK_CNT n.val, R.FBK_MCNT n.val, R.FBK_TIME n.val, R.FBK_INTV n.val, R.FBK_STAT n.val, R.FBK_EVCNT n.val] ++
        timeRegs) s t) ∧
    (s.flag (F.FBK_STAT_GATED n.val) = true → (s.fb n.val).held = none → Gives (.gateOutTimeout n) s fun t =>
      t.get (F.FBK_STAT_GATED n.val) = 0 ∧ (t.fb n.val).held = none ∧ Writes [R.FBK_STAT n.val] s t) ∧
    (∀ h, s.flag (F.FBK_STAT_GATED n.val) = true → (s.fb n.val).held = some h → (s.fb n.val).stepDir = false →
      Gives (.gateOutTimeout n) s fun t =>
      t.get (F.FBK_STAT_GATED n.val) = 0 ∧ t.get (F.FBK_STAT_UNCLASS n.val) = 1 ∧ (t.fb n.val).held = none ∧
      t.get (F.FBK_CNT_CNT n.val) = (s.get (F.FBK_CNT_CNT n.val) + (2 ^ 32 - 1)) % 2 ^ 32 ∧
      Writes [R.FBK_CNT n.val, R.FBK_MCNT n.val, R.FBK_TIME n.val, R.FBK_INTV n.val, R.FBK_STAT n.val, R.FBK_EVCNT n.val] s t) ∧
    (∀ a b, s.flag (F.FBK_CFG_SCEN n.val) = true → (s.fb n.val).quadKnown = true →
      ((quadrant a b + 4 - (s.fb n.val).quad) % 4 = 1 → Gives (.quadratureTransition n a b) s fun t =>
        t.get (F.FBK_QCNT_QCNT n.val) = (s.get (F.FBK_QCNT_QCNT n.val) + 1) % 2 ^ 32 ∧ (t.fb n.val).dir = true ∧
        Writes [R.FBK_QCNT n.val, R.FBK_STAT n.val] s t) ∧
      ((quadrant a b + 4 - (s.fb n.val).quad) % 4 = 3 → Gives (.quadratureTransition n a b) s fun t =>
        t.get (F.FBK_QCNT_QCNT n.val) = (s.get (F.FBK_QCNT_QCNT n.val) + (2 ^ 32 - 1)) % 2 ^ 32 ∧ (t.fb n.val).dir = false ∧
        Writes [R.FBK_QCNT n.val, R.FBK_STAT n.val] s t) ∧
      ((quadrant a b + 4 - (s.fb n.val).quad) % 4 = 2 → Gives (.quadratureTransition n a b) s fun t =>
        t.get (F.FBK_STAT_PEND n.val) = 1 ∧ t.get (F.FBK_STAT_ILLEGAL n.val) = 1 ∧
        Writes [R.FBK_EVCNT n.val, R.FBK_STAT n.val] s t)) ∧
    (s.flag (F.FBK_CFG_SCEN n.val) = true → s.flag (F.FBK_STAT_PEND n.val) = true → Gives (.illegalUnresolvedTimeout n) s fun t =>
      t.get (F.FBK_STAT_UNRES n.val) = 1 ∧ (t.fb n.val).svalid = false ∧ Writes [R.FBK_STAT n.val] s t) ∧
    (∀ v, stepsOf s (R.FBK_QCNT n.val) = 0 → Gives (.qcntWrite n v) s fun t =>
      t.get (F.FBK_QCNT_QCNT n.val) = bitsOf v 31 2 * 4 + s.get (F.FBK_QCNT_QCNT n.val) % 4 ∧
      Writes [R.FBK_QCNT n.val, R.FBK_STAT n.val] s t) ∧
    (∀ v d, stepsOf s (R.FBK_QCNT n.val) = d → Gives (.qcntWrite n v) s fun t =>
      (t.get (F.FBK_QCNT_QCNT n.val) : Int) =
        ((bitsOf v 31 2 * 4 : Nat) + (s.get (F.FBK_QCNT_QCNT n.val) - d) % 4 + d) % 2 ^ 32 ∧
      Writes [R.FBK_QCNT n.val, R.FBK_STAT n.val] s t) ∧
    (Gives (.fbkEvcntClr n) s fun t =>
      t.reg (R.FBK_TOOTH n.val) = 0 ∧ t.reg (R.FBK_EVCNT n.val) = 0 ∧ Writes [R.FBK_TOOTH n.val, R.FBK_EVCNT n.val] s t) ∧
    (n.val < 2 → s.flag (F.FBK_STAT_REFOK n.val) = true → Gives (.idxArm n) s fun t =>
      t.get (F.FBK_IDX_ARM n.val) = 1 ∧ Writes [R.FBK_IDX n.val] s t) ∧
    (n.val < 2 → s.flag (F.FBK_STAT_REFOK n.val) = false → Gives (.idxArm n) s fun t =>
      t.get (F.FBK_STAT_ARMREF n.val) = 1 ∧ Writes [R.FBK_STAT n.val] s t) ∧
    (2 ≤ n.val → Gives (.idxArm n) s fun t => t = s) ∧
    (fallbackCond s n.val = true → Gives (.fbrst n) s fun t =>
      t.get (F.FBK_STAT_FBRSTREF n.val) = 1 ∧ t.fbp = s.fbp ∧ Writes [R.FBK_STAT n.val] s t) ∧
    (fallbackCond s n.val = false → s.flag (F.FBK_STAT_FBACT n.val) = true → Gives (.fbrst n) s fun t =>
      t.get (F.FBK_STAT_FBACT n.val) = 0 ∧ (t.fb n.val).svalid = false ∧ Writes [R.FBK_STAT n.val] s t) ∧
    (∀ (si co dc : BitVec 14) (at_ : Nat), s.flag (F.ADC_SEQCFG_BGSC n.val) = true → s.flag (F.ADC_SEQCFG_BGDC n.val) = false →
      s.flag (F.FBK_CFG_SCEN n.val) = true → slotBlocked s n.val (at_ * 64 / 3) = false → slotBlocked s n.val (at_ * 64 / 3 + 320) = false →
      ∀ a : Int, a = (((si.toNat : Int) - s.get (F.FBK_SCCAL_OFSS n.val)) * 32768) ^ 2 +
        (((co.toNat : Int) - s.get (F.FBK_SCCAL_OFSC n.val)) * s.get (F.FBK_SCAMP_GC n.val)) ^ 2 →
      (injHeld s (94 + n.val) 1 = true ∨ a < (s.get (F.FBK_SCAMP_AMPLO n.val) * 64 * 32768) ^ 2 ∨
        (s.get (F.FBK_SCAMP_AMPHI n.val) * 64 * 32768) ^ 2 < a → Gives (.adcBackgroundFrame n si co dc at_) s fun t =>
        t.get (F.FBK_STAT_AMPFLT n.val) = 1 ∧ (t.fb n.val).ampRun = 0 ∧ Writes (R.FBK_STAT n.val :: timeRegs) s t) ∧
      (injHeld s (94 + n.val) 1 = false → (s.get (F.FBK_SCAMP_AMPLO n.val) * 64 * 32768) ^ 2 ≤ a →
        a ≤ (s.get (F.FBK_SCAMP_AMPHI n.val) * 64 * 32768) ^ 2 → s.flag (F.FBK_STAT_PEND n.val) = false → Gives (.adcBackgroundFrame n si co dc at_) s fun t =>
        (t.fb n.val).ampRun = (s.fb n.val).ampRun + 1 ∧ t.reg (R.FBK_QCNT n.val) = s.reg (R.FBK_QCNT n.val) ∧
        Writes (R.FBK_STAT n.val :: R.FBK_INTP n.val :: timeRegs) s t)) ∧
    (∀ th om, (s.fb n.val).seed = some (th, om) → s.fresh.seeded.contains n.val = false → fpFinite om = true → s.flag (F.FBK_CFG_AUTOFB n.val) = false →
      Gives (.observerUpdate n) s fun t =>
      (t.fb n.val).th = th ∧ (t.fb n.val).om = om ∧ (t.fb n.val).al = 0 ∧ (t.fb n.val).seed = none ∧
      t.reg (R.FBK_OANG n.val) = th ∧
      Writes [R.FBK_STAT n.val, R.FBK_OANG n.val, R.FBK_OSPD n.val, R.FBK_OACC n.val, R.FBK_OSTAT n.val] s t) ∧
    ((s.fb n.val).seed = none ∨ s.fresh.seeded.contains n.val = true → s.flag (F.FBK_CFG_AUTOFB n.val) = false → Gives (.observerUpdate n) s fun t =>
      let e : Int := if sourceUsable s n.val then signed 32 (thetaM s n.val + 2 ^ 32 - (s.fb n.val).th.toNat) else 0
      (t.fb n.val).th = (obsStep (s.fb n.val) (s.get (F.FBK_OBSCFG_BW n.val)) e).th ∧
      (t.fb n.val).om = (obsStep (s.fb n.val) (s.get (F.FBK_OBSCFG_BW n.val)) e).om ∧
      (t.fb n.val).al = (obsStep (s.fb n.val) (s.get (F.FBK_OBSCFG_BW n.val)) e).al ∧ (t.fb n.val).seed = (s.fb n.val).seed ∧
      t.reg (R.FBK_OANG n.val) = (t.fb n.val).th ∧
      t.reg (R.FBK_OSPD n.val) = (if standstill t n.val then 0 else (t.fb n.val).om) ∧
      t.reg (R.FBK_OACC n.val) = (if standstill t n.val then 0 else (t.fb n.val).al) ∧
      Writes [R.FBK_STAT n.val, R.FBK_OANG n.val, R.FBK_OSPD n.val, R.FBK_OACC n.val, R.FBK_OSTAT n.val] s t) ∧
    (∀ v, (s.fb n.val).svalid = false → Gives (.obsSeedAngle n v) s fun t => (t.fb n.val).seedAng = some v ∧ Writes [] s t) ∧
    (∀ v, (s.fb n.val).svalid = true → Gives (.obsSeedAngle n v) s fun t =>
      t.get (F.FBK_STAT_SEEDREF n.val) = 1 ∧ (t.fb n.val).seedAng = none ∧ (t.fb n.val).seed = (s.fb n.val).seed ∧
      Writes [R.FBK_STAT n.val] s t) ∧
    (∀ v, (s.fb n.val).svalid = true → Gives (.obsSeedCommit n v) s fun t =>
      t.get (F.FBK_STAT_SEEDREF n.val) = 1 ∧ (t.fb n.val).seedAng = none ∧ (t.fb n.val).seed = (s.fb n.val).seed ∧
      Writes [R.FBK_STAT n.val] s t) ∧
    (∀ v, (s.fb n.val).svalid = false → Gives (.obsSeedCommit n v) s fun t =>
      (t.fb n.val).seed = some ((s.fb n.val).seedAng.getD (s.fb n.val).th, v) ∧ (t.fb n.val).seedAng = none ∧
      t.fresh.seeded.contains n.val = true ∧ Writes [] s t) ∧
    (∀ bw : BitVec 13, 10 ≤ bw.toNat → bw.toNat ≤ 5000 → Gives (.obsBwWrite n bw) s fun t =>
      t.get (F.FBK_OBSCFG_BW n.val) = bw.toNat ∧ Writes [R.FBK_OBSCFG n.val] s t) ∧
    (∀ bw : BitVec 13, bw.toNat < 10 ∨ 5000 < bw.toNat → Gives (.obsBwWrite n bw) s fun t => t = s)

/-! ### Wheel speed and SENT (R267–R270) -/

/-- Wheel-speed inputs and SENT receivers (formats: log 65). A tooth counts and takes its time less the filter, and a
period needs a tooth before it; OPEN and SHORT are told once and clear; standstill ends the period. A good frame delivers its
status and its data nibbles; another one counts its first error, of the sync pulse, a nibble, the CRC or the pause, and leaves them. -/
def Obligations.WheelsAndSent : Prop :=
  ∀ (s : State) (w : Fin 4),
    (∀ at_, s.flag (F.FBK_WSCFG_EN w.val) = true → Gives (.wsTooth w at_) s fun t =>
      t.get (F.FBK_WSCNT_CNT w.val) = (s.get (F.FBK_WSCNT_CNT w.val) + 1) % 2 ^ 32 ∧
      t.get (F.FBK_WSTS_TIME w.val) = since (100 * (s.get (F.FBK_WSCFG_WFILT w.val) + 1)) (stamp t) ∧
      (∀ l, (mget (fun _ => ({} : Wheel)) s.wheels w.val).last = some l → t.get (F.FBK_WSPER_VALID w.val) = 1 ∧
        t.get (F.FBK_WSPER_PER w.val) = satTo 0xFFFFFFF (since l (t.get (F.FBK_WSTS_TIME w.val)))) ∧
      ((mget (fun _ => ({} : Wheel)) s.wheels w.val).last = none → t.get (F.FBK_WSPER_VALID w.val) = 0) ∧
      Writes ([R.FBK_WSCNT w.val, R.FBK_WSTS w.val, R.FBK_WSPER w.val] ++ timeRegs) s t) ∧
    (∀ short : Bool, s.flag (F.FBK_WSCFG_EN w.val) = true →
      s.flag (if short then F.FBK_WSPER_SHORT w.val else F.FBK_WSPER_OPEN w.val) = false → Gives (.wsFault w short) s fun t =>
      t.get (if short then F.FBK_WSPER_SHORT w.val else F.FBK_WSPER_OPEN w.val) = 1 ∧
      (s.flag F.SYS_BRGSTAT_UP = true → t.hwm.rxq.map (·.det) = s.hwm.rxq.map (·.det) ++ [102 + w.val]) ∧
      Writes [R.FBK_WSPER w.val] s t) ∧
    (∀ short : Bool, Gives (.wsFaultClear w short) s fun t =>
      t.get (if short then F.FBK_WSPER_SHORT w.val else F.FBK_WSPER_OPEN w.val) = 0 ∧ Writes [R.FBK_WSPER w.val] s t) ∧
    (s.flag (F.FBK_WSCFG_EN w.val) = true → Gives (.wsStandstill w) s fun t =>
      t.get (F.FBK_WSPER_STOP w.val) = 1 ∧ t.get (F.FBK_WSPER_VALID w.val) = 0 ∧
      (mget (fun _ => ({} : Wheel)) t.wheels w.val).last = none ∧ Writes [R.FBK_WSPER w.val] s t) ∧
    (∀ (sync : Nat) (l : List Nat) (pause at_ : Nat), s.flag (F.FBK_SNTCFG_EN w.val) = true → injDue s (106 + w.val) = none →
      (sentSyncOk s w.val sync = false → Gives (.sentFrame w sync l pause at_) s fun t =>
        t.get (F.FBK_SNTERR_CALERR w.val) = satTo (fldTop (F.FBK_SNTERR_CALERR w.val)) (s.get (F.FBK_SNTERR_CALERR w.val) + 1) ∧
        Writes (R.FBK_SNTERR w.val :: timeRegs) s t) ∧
      (sentSyncOk s w.val sync = true → l.length = s.get (F.FBK_SNTCFG_NDATA w.val) + 2 →
        (∃ x, x ∈ l ∧ (sentTicks sync x < 12 ∨ 27 < sentTicks sync x)) → Gives (.sentFrame w sync l pause at_) s fun t =>
        t.get (F.FBK_SNTERR_NIBERR w.val) = satTo (fldTop (F.FBK_SNTERR_NIBERR w.val)) (s.get (F.FBK_SNTERR_NIBERR w.val) + 1) ∧
        Writes (R.FBK_SNTERR w.val :: timeRegs) s t) ∧
      (sentSyncOk s w.val sync = true → l.length = s.get (F.FBK_SNTCFG_NDATA w.val) + 2 →
        (∀ x, x ∈ l → 12 ≤ sentTicks sync x ∧ sentTicks sync x ≤ 27) →
        crc4 (s.flag (F.FBK_SNTCFG_LEGCRC w.val)) (((l.drop 1).take (s.get (F.FBK_SNTCFG_NDATA w.val))).map
          (fun x => sentTicks sync x - 12)) ≠ sentTicks sync (l.getD (s.get (F.FBK_SNTCFG_NDATA w.val) + 1) 0) - 12 →
        Gives (.sentFrame w sync l pause at_) s fun t =>
        t.get (F.FBK_SNTERR_CRCERR w.val) = satTo (fldTop (F.FBK_SNTERR_CRCERR w.val)) (s.get (F.FBK_SNTERR_CRCERR w.val) + 1) ∧
        Writes (R.FBK_SNTERR w.val :: timeRegs) s t) ∧
      (sentSyncOk s w.val sync = true → l.length = s.get (F.FBK_SNTCFG_NDATA w.val) + 2 →
        (∀ x, x ∈ l → 12 ≤ sentTicks sync x ∧ sentTicks sync x ≤ 27) → sentPauseOk s w.val sync l pause = false →
        crc4 (s.flag (F.FBK_SNTCFG_LEGCRC w.val)) (((l.drop 1).take (s.get (F.FBK_SNTCFG_NDATA w.val))).map
          (fun x => sentTicks sync x - 12)) = sentTicks sync (l.getD (s.get (F.FBK_SNTCFG_NDATA w.val) + 1) 0) - 12 →
        Gives (.sentFrame w sync l pause at_) s fun t =>
        t.get (F.FBK_SNTERR_PAUSEERR w.val) = satTo (fldTop (F.FBK_SNTERR_PAUSEERR w.val)) (s.get (F.FBK_SNTERR_PAUSEERR w.val) + 1) ∧
        Writes (R.FBK_SNTERR w.val :: timeRegs) s t) ∧
      (sentSyncOk s w.val sync = true → l.length = s.get (F.FBK_SNTCFG_NDATA w.val) + 2 →
        (∀ x, x ∈ l → 12 ≤ sentTicks sync x ∧ sentTicks sync x ≤ 27) → sentPauseOk s w.val sync l pause = true →
        crc4 (s.flag (F.FBK_SNTCFG_LEGCRC w.val)) (((l.drop 1).take (s.get (F.FBK_SNTCFG_NDATA w.val))).map
          (fun x => sentTicks sync x - 12)) = sentTicks sync (l.getD (s.get (F.FBK_SNTCFG_NDATA w.val) + 1) 0) - 12 →
        Gives (.sentFrame w sync l pause at_) s fun t =>
        t.get (F.FBK_SNTFAST_STATUS w.val) = sentTicks sync (l.getD 0 0) - 12 ∧
        t.get (F.FBK_SNTFAST_DATA w.val) = (((l.drop 1).take (s.get (F.FBK_SNTCFG_NDATA w.val))).map
          (fun x => sentTicks sync x - 12)).foldl (fun r x => 16 * r + x) 0 % 2 ^ 24 ∧
        Writes ([R.FBK_SNTFAST w.val, R.FBK_SNTTS w.val, R.FBK_SNTSER w.val, R.FBK_SNTERR w.val] ++ timeRegs) s t)) ∧
    (Gives (.sentErrClr w) s fun t => t.reg (R.FBK_SNTERR w.val) = 0 ∧ Writes [R.FBK_SNTERR w.val] s t)

/-! ### KRing and the guardian (R274–R298, R303) -/

/-- Ports and links (details: logs 70 and 71). A link that fails takes its port down, and with the last port the
node leaves the ring and its time is invalid; a link comes up unless its PHY is off; SQIMIN holds the lowest SQI since the
last read. A link-exchange request goes out on every port that has a PHY, it is answered, and the answer gives half the round
trip less 3,000 ns, in units of 0.125 ns, averaged over 16. A node that leaves forgets its voters, its own status and its comparison. -/
def Obligations.RingPorts : Prop :=
  ∀ (s : State) (p : Fin 4),
    (s.flag (F.KRG_PORTSTAT_LOOP p.val) = false → Gives (.phyLinkFail p) s fun t =>
      t.get (F.KRG_PORTSTAT_LINK p.val) = 0 ∧ t.get (F.KRG_PORTSTAT_LOOP p.val) = 1 ∧
      t.get (F.KRG_PORTCNT_DOWN p.val) = satTo (fldTop (F.KRG_PORTCNT_DOWN p.val)) (s.get (F.KRG_PORTCNT_DOWN p.val) + 1) ∧
      ((∀ q, q < 4 → q ≠ p.val → portIsDown s q = true) → ringRuns s = true → ringState t = 1 ∧ t.krg.timeValid = false ∧
        t.get F.KRG_VOTESTAT_VOTERS = 0 ∧ t.lnk.sent = none ∧ t.lnk.xmin = false ∧ t.lnk.rxNext = 0) ∧
      Writes (R.KRG_PORTSTAT p.val :: R.KRG_PORTCNT p.val :: ringLossRegs) s t) ∧
    (s.flag (F.KRG_PORTSTAT_LOOP p.val) = true → Gives (.phyLinkFail p) s fun t =>
      t.get (F.KRG_PORTSTAT_LINK p.val) = 0 ∧ Writes [R.KRG_PORTSTAT p.val] s t) ∧
    (portOff s p.val = false → Gives (.phyLinkUp p) s fun t =>
      t.get (F.KRG_PORTSTAT_LINK p.val) = 1 ∧ Writes [R.KRG_PORTSTAT p.val] s t) ∧
    (portOff s p.val = true → Gives (.phyLinkUp p) s fun t => t = s) ∧
    (∀ sqi : BitVec 3, Gives (.phySqiUpdate p sqi) s fun t =>
      t.get (F.KRG_PORTSTAT_SQI p.val) = sqi.toNat ∧
      t.get (F.KRG_PORTSTAT_SQIMIN p.val) = min sqi.toNat (s.get (F.KRG_PORTSTAT_SQIMIN p.val)) ∧
      Writes [R.KRG_PORTSTAT p.val] s t) ∧
    (Gives (.portstatRead p) s fun t =>
      t.get (F.KRG_PORTSTAT_SQIMIN p.val) = s.get (F.KRG_PORTSTAT_SQI p.val) ∧ Writes [R.KRG_PORTSTAT p.val] s t) ∧
    (∀ at_, ringSynced s = true → Gives (.linkExchangeRequest at_) s fun t =>
      t.krg.asked = true ∧ t.krg.replied = [] ∧
      (driversOn s = true → portOff s p.val = false → mget (fun _ => []) t.krg.wire p.val = linkFrame s) ∧ Writes timeRegs s t) ∧
    (s.flag F.KRG_CTL_EN = true → ringState s ≠ 0 → driversOn s = true → portOff s p.val = false →
      Gives (.linkExchangeReply p) s fun t => mget (fun _ => []) t.krg.wire p.val = linkFrame s ∧ Writes [] s t) ∧
    (∀ req rep : Nat, s.krg.asked = true → s.krg.replied.contains p.val = false → Gives (.linkExchangeReceive p req rep) s fun t =>
      t.krg.replied = s.krg.replied ++ [p.val] ∧
      (t.port p.val).delays = ((rep - req - 24000) / 2 :: (s.port p.val).delays).take 16 ∧
      (15 ≤ (s.port p.val).delays.length →
        t.get (F.KRG_PORTSTAT_LDLY p.val) = satTo 1023 ((t.port p.val).delays.foldl (· + ·) 0 / 16)) ∧
      Writes [R.KRG_PORTSTAT p.val] s t)

/-- Frames (details: log 70). A synchronised node relays a frame that passes its check with one more hop, drops
it at HMAX hops, and counts one that fails by its time alone; an empty slot counts and leaves its trailer, a VALID frame its
payload; an own slot's payload is fetched while ready and its frame leaves on both rings, or ORIG blocks it. -/
def Obligations.RingFrames : Prop :=
  ∀ s : State, (∀ a, s.errs a = 0) → injDue s 128 = none →
    (∀ (p : Fin 4) (h : List Byte) (sof : Int), s.flag F.KRG_CTL_EN = true → ringSynced s = true →
      (hSrc h = ownId s → isWest p.val = true → Gives (.kringFrameStart p h sof) s fun t =>
        t.krg = { s.krg with ownBack := true } ∧ Writes [] s t) ∧
      (hSrc h ≠ ownId s →
        (∀ e, relayTo s p.val = some e → headerFits s h = true →
          (sof - (80 * s.get (F.KRG_APT_START (ringMode s) (hSlot h)) + 12800 * hHops h + ldly s p.val)).natAbs ≤ 8 * rlytol s →
          hHops h < hmax s → driversOn s = true → portOff s e.1 = false → Gives (.kringFrameStart p h sof) s fun t =>
          mget (fun _ => []) t.krg.wire e.1 = relayed h e.2 (hHops h + 1) ∧
          relayOf t p.val = some
            { out := e.1, header := relayed h e.2 (hHops h + 1), sof := sof + 12800 - (min (ldly s p.val) 800 : Nat) } ∧ Writes [] s t) ∧
        (hmax s ≤ hHops h → onTime s (deviation s p.val (ringMode s) h sof) = true → Gives (.kringFrameStart p h sof) s fun t => t = s) ∧
        (headerFits s h = true → onTime s (deviation s p.val (ringMode s) h sof) = false → s.krg.rejects = [] →
          deviation s p.val (ringMode s) h sof < 0 → Gives (.kringFrameStart p h sof) s fun t =>
          t.krg.wire = s.krg.wire ∧ t.krg.rejects = [hSrc h] ∧
          t.get (F.KRG_SCNT_EARLY (p.val / 2) (hSlot h)) =
            satTo (fldTop (F.KRG_SCNT_EARLY (p.val / 2) (hSlot h))) (s.get (F.KRG_SCNT_EARLY (p.val / 2) (hSlot h)) + 1) ∧
          Writes [R.KRG_SCNT (p.val / 2) (hSlot h)] s t))) ∧
    (∀ (p : Fin 4) (k : Fin 64) (sof : Int), BanksFree s → s.flag F.KRG_CTL_EN = true → ringState s ≠ 0 →
      s.krg.seen.contains (64 * (p.val / 2) + k.val) = false → 0x20000000 ≤ rxBuffer s (p.val / 2) k.val →
      rxBuffer s (p.val / 2) k.val + 0x100 ≤ 0x20400000 →
      (Gives (.frameCheckDone p k none sof) s fun t =>
        t.get (F.KRG_SCNT_EMPTY (p.val / 2) k.val) =
          satTo (fldTop (F.KRG_SCNT_EMPTY (p.val / 2) k.val)) (s.get (F.KRG_SCNT_EMPTY (p.val / 2) k.val) + 1) ∧
        t.word (rxBuffer s (p.val / 2) k.val + 0xFC) = trailer 1 0 ∧
        WritesAt [R.KRG_SCNT (p.val / 2) k.val] (rxBuffer s (p.val / 2) k.val + 0xFC) 4 s t) ∧
      (∀ f : RingFrame, frameResult s p.val k.val (some f) sof = 0 → stripped s p.val (some f) = false → collides s f = false → ringRuns s = true →
        f.payload.length % 4 = 0 → f.payload.length ≤ 0xF8 → Gives (.frameCheckDone p k (some f) sof) s fun t =>
        (∀ e, relayOf s p.val = some e → driversOn s = true → portOff s e.out = false →
          mget (fun _ => []) t.krg.wire e.out =
            e.header ++ f.payload ++ f.mac ++ leBytes (crc32 (e.header ++ f.payload ++ f.mac))) ∧ relayOf t p.val = none ∧
        t.krg.seen = s.krg.seen ++ [64 * (p.val / 2) + k.val] ∧
        t.bytes (rxBuffer s (p.val / 2) k.val) f.payload.length = f.payload ∧
        t.word (rxBuffer s (p.val / 2) k.val + 0xFC) = trailer 0 (hHops f.header) ∧
        WritesAt [] (rxBuffer s (p.val / 2) k.val) 0x100 s t)) ∧
    (∀ k : Fin 64, BanksFree s → ringSynced s = true → ownSlot s (ringMode s) k.val = true → chSlot s (ownId s) ≠ some k.val →
      (s.bit (F.KRG_TXRDY_RDY (k.val / 32)) (k.val % 32) = false → Gives (.txPayloadFetch k) s fun t =>
        t.get F.KRG_NRDY_COUNT = satTo (fldTop F.KRG_NRDY_COUNT) (s.get F.KRG_NRDY_COUNT + 1) ∧ Writes [R.KRG_NRDY] s t) ∧
      (s.bit (F.KRG_TXRDY_RDY (k.val / 32)) (k.val % 32) = true → 0x20000000 ≤ s.get F.KRG_TXBASE_BASE * 0x4000 →
        s.get F.KRG_TXBASE_BASE * 0x4000 + 0x4000 ≤ 0x20400000 → Gives (.txPayloadFetch k) s fun t =>
        t.bit (F.KRG_TXRDY_RDY (k.val / 32)) (k.val % 32) = false ∧
        t.krg.payload = some (k.val, (s.words (s.get F.KRG_TXBASE_BASE * 0x4000 + 256 * k.val)
          (slotLen s (ringMode s) k.val / 4)).flatMap leBytes) ∧
        Writes [R.KRG_TXRDY (k.val / 32)] s t)) ∧
    (∀ (k : Fin 64) (b : Nat), s.dma = [] → ringSynced s = true → ownSlot s (ringMode s) k.val = true →
      s.bit (F.KRG_TXRDY_RDY (k.val / 32)) (k.val % 32) = true →
      dmaShut 9 (s.get F.KRG_TXBASE_BASE * 0x4000 + 256 * k.val) (slotLen s (ringMode s) k.val / 4) s = some b →
      (holdsAbove s 9 b = false → Gives (.txPayloadFetch k) s fun t => t.dma = [.ringTx k.val] ∧ t.krg = s.krg ∧ Writes [] s t) ∧
      (holdsAbove s 9 b = true → Gives (.txPayloadFetch k) s fun t => t.dma = [] ∧ t.krg = s.krg ∧ t.get F.ARB_ERR_LKREFUSE = 1 ∧
        Writes [R.ARB_ERR] s t)) ∧
    (∀ (k : Fin 64) (at_ : Nat), ∀ e, s.krg.payload = some e → e.1 = k.val → ringSynced s = true →
      ownSlot s (ringMode s) k.val = true → injDue s 130 = none → s.now ≤ at_ →
      (origOk s k.val at_ e.2.length = true → Gives (.ownFrameSend k at_) s fun t =>
        t.krg.payload = none ∧ t.krg.ownSent = true ∧ t.grd.lastOwn = some at_ ∧
        (∀ r, r < 2 → portIsDown s (2 * r) = false → portOff s (2 * r) = false →
          mget (fun _ => []) t.krg.wire (2 * r) =
            frameBytes s (ownHeader s k.val r (if sendsInt s then none else s.krg.swVote)
              (s.krg.flipVote && s.flag F.CFG_STAT_ARMED && !sendsInt s)) e.2) ∧
        Writes timeRegs s t) ∧
      (origOk s k.val at_ e.2.length = false → Gives (.ownFrameSend k at_) s fun t =>
        t.get F.HWM_GSTAT_ORIGBLK = 1 ∧ t.krg.wire = s.krg.wire ∧
        t.get F.HWM_DETCNT_COUNT = satTo (fldTop F.HWM_DETCNT_COUNT) (s.get F.HWM_DETCNT_COUNT + 1) ∧ Reacts [0xE000] s t))

/-- The cycle (details: logs 71 and 72). A cycle start counts CYC32, takes the voters of the cycle that ended and its
keys; a mode for which all voted becomes the ring's; at the last count, or where the node is in the minority, it leaves. The
action instant applies the set-points. A correction that is too large makes the node leave, another one is taken at NITOFS. -/
def Obligations.RingCycle : Prop :=
  ∀ s : State, (∀ a, s.errs a = 0) → injDue s 128 = none → ringRuns s = true →
    (∀ lsb : Nat,
      (s.get F.KRG_CYC_CYC32 = 0xFFFFFFFF → Gives (.cycleStart lsb) s fun t =>
        ringState t = 1 ∧ t.get F.KRG_STAT_FVEXH = 1 ∧ t.krg.timeValid = false ∧ Writes (ringLossRegs ++ timeRegs) s t) ∧
      (s.get F.KRG_CYC_CYC32 ≠ 0xFFFFFFFF → modeMinority s = true → Gives (.cycleStart lsb) s fun t =>
        ringState t = 1 ∧ t.get F.KRG_STAT_MODEERR = 1 ∧ Writes (ringLossRegs ++ timeRegs) s t) ∧
      (s.get F.KRG_CYC_CYC32 ≠ 0xFFFFFFFF → modeMinority s = false → s.krg.flipVote = false →
        s.krg.flipMirror = false → s.flag F.KRG_VOTE_FLIPREQ = false →
        (∀ p, p < 4 → (s.port p).miss < 3 ∧ s.flag (F.KRG_PORTSTAT_LOOP p) = false) →
        (modesVoted s = [] → s.krg.swVote = none → Gives (.cycleStart lsb) s fun t =>
          t.get F.KRG_CYC_CYC32 = s.get F.KRG_CYC_CYC32 + 1 ∧ t.get F.KRG_VOTESTAT_VOTERS = nextVoters s ∧ ringRuns t = true ∧
          ringMode t = ringMode s ∧ t.krg.keysNext = [] ∧ t.krg.start = lsb ∧
          t.krg.keys = s.krg.keysNext.foldl (fun m e => mset (fun _ => 0) m e.1 e.2) s.krg.keys ∧
          t.prs.events = s.prs.events ++ [{ src := 17, time := t.now }] ∧
          Writes (R.KRG_CYC :: R.KRG_VOTESTAT :: (ringLossRegs ++ timeRegs)) s t) ∧
        (∀ m, modesVoted s = [m] → m < 8 → allVoted s (fun e => e.swv == some m) (s.krg.ownSw == some m) = true →
          Gives (.cycleStart lsb) s fun t =>
          ringMode t = m ∧ t.get F.KRG_VOTESTAT_SWDONE = 1 ∧ t.get F.KRG_VOTE_SWREQ = 0 ∧
          Writes (R.KRG_CYC :: R.KRG_VOTESTAT :: R.KRG_VOTE :: (ringLossRegs ++ timeRegs)) s t) ∧
        (∀ m, modesVoted s = [m] → m < 8 → s.bit F.KRG_VOTE_AUTOMASK m = true → s.flag F.KRG_VOTE_SWREQ = false →
          s.krg.heard.any (fun e => e.src != ownId s && e.swv == some m) = true → s.krg.swVote = none →
          allVoted s (fun e => e.swv == some m) (s.krg.ownSw == some m) = false → Gives (.cycleStart lsb) s fun t =>
          ringMode t = ringMode s ∧ t.krg.swVote = some m))) ∧
    (s.flag F.LNK_STAT_INSTEP = false ∨ s.get F.LNK_XCFG_NSNAP = 0 → Gives .actionInstant s fun t =>
      t.lnk.applied = s.lnk.setp ∧ t.lnk.snap = s.lnk.snap ∧ t.prs.events = s.prs.events ++ [{ src := 16, time := s.now }] ∧
      Writes [] s t) ∧
    (s.flag F.LNK_STAT_INSTEP = true → s.get F.LNK_XCFG_NSNAP ≠ 0 → s.get F.KRG_CYC_CYC32 % s.get F.LNK_XCFG_NSNAP = 0 →
      0x20000000 ≤ (s.reg R.LNK_SNAPSRC).toNat →
      (s.reg R.LNK_SNAPSRC).toNat + 4 * s.get F.LNK_XCFG_NSNAP ≤ 0x20400000 → BanksFree s → Gives .actionInstant s fun t =>
      t.lnk.applied = s.lnk.setp ∧ t.lnk.snap = s.words (s.reg R.LNK_SNAPSRC).toNat (s.get F.LNK_XCFG_NSNAP) ∧ Writes [] s t) ∧
    (ringState s = 4 →
      (32 * (s.get F.KRG_SYNCCFG_OFSLIM * 10) < (midpoint ((devMeans s).map (·.2))).natAbs → Gives .clockCorrection s fun t =>
        ringState t = 1 ∧ t.get F.KRG_STAT_CLKERR = 1 ∧
        Writes ringLossRegs s t) ∧
      ((midpoint ((devMeans s).map (·.2))).natAbs ≤ 32 * (s.get F.KRG_SYNCCFG_OFSLIM * 10) → s.krg.rateRun < 15 →
        Gives .clockCorrection s fun t =>
        t.get F.KRG_CORR_OFS = unsignedOf (F.KRG_CORR_OFS.hi + 1 - F.KRG_CORR_OFS.lo)
          (roundTo (-(midpoint ((devMeans s).map (·.2)))) 32) ∧
        ringState t = 4 ∧ Writes [R.KRG_CORR] s t))

/-- Start-up, the guardian and the controls (details: logs 71 and 72). Eight like intervals calibrate the guardian and
a stray one, or none in time, loses it; its windows open and close, one with OPEN > CLOSE across the cycle start (R291), and the line
drivers' windows, widened by GMARGIN, with them (its copy: log 101). A node that hears nothing and may, or whose back-off ends,
starts cold in its first own slot. EN needs a layout that holds; a flip is armed where R333 allows it; a key word waits for
the cycle start where the node has ring time, and is in force at once where it has none (log 121). -/
def Obligations.RingStartUp : Prop :=
  ∀ s : State,
    (s.krg.timeValid = true → Gives (.guardianCstart none) s fun t => t.get F.HWM_GSTAT_GMODE = ringMode s ∧ t.grd = s.grd ∧
      Writes [R.HWM_GSTAT] s t) ∧
    (∀ i : Nat, s.krg.timeValid = true → 100 * i ≤ 106 * s.get F.HWM_GCFG_CYCLEN → 94 * s.get F.HWM_GCFG_CYCLEN ≤ 100 * i →
      Gives (.guardianCstart (some i)) s fun t =>
      t.get F.HWM_GSTAT_GMODE = ringMode s ∧ t.grd.intervals = (i :: s.grd.intervals).take 8 ∧
      (7 ≤ s.grd.intervals.length → t.get F.HWM_GSTAT_CAL = 1) ∧ Writes [R.HWM_GSTAT] s t) ∧
    (∀ i : Nat, s.krg.timeValid = true → 106 * s.get F.HWM_GCFG_CYCLEN < 100 * i ∨ 100 * i < 94 * s.get F.HWM_GCFG_CYCLEN →
      Gives (.guardianCstart (some i)) s fun t =>
      t.get F.HWM_GSTAT_CAL = 0 ∧ t.get F.HWM_GSTAT_CSTERR = 1 ∧ t.grd.intervals = [] ∧ Writes [R.HWM_GSTAT] s t) ∧
    (∀ i, s.krg.timeValid = false → Gives (.guardianCstart i) s fun t => t = s) ∧
    (Gives .guardianCstartTimeout s fun t =>
      t.get F.HWM_GSTAT_CAL = 0 ∧ t.get F.HWM_GSTAT_CSTERR = 1 ∧ t.grd.intervals = [] ∧ Writes [R.HWM_GSTAT] s t) ∧
    (∀ off : Nat, Gives (.guardianWindowEdge off) s fun t =>
      (∀ k : Fin 64, (s.flag (F.HWM_GAPT_EN (s.get F.HWM_GSTAT_GMODE) k.val) = true →
          10 * s.get (F.HWM_GAPT_OPEN (s.get F.HWM_GSTAT_GMODE) k.val) ≤ off →
          off < 10 * s.get (F.HWM_GAPT_CLOSE (s.get F.HWM_GSTAT_GMODE) k.val) → k.val ∈ t.grd.windows) ∧
        (s.flag (F.HWM_GAPT_EN (s.get F.HWM_GSTAT_GMODE) k.val) = false → k.val ∉ t.grd.windows) ∧
        (10 * s.get (F.HWM_GAPT_OPEN (s.get F.HWM_GSTAT_GMODE) k.val) ≤ 10 * s.get (F.HWM_GAPT_CLOSE (s.get F.HWM_GSTAT_GMODE) k.val) →
          off < 10 * s.get (F.HWM_GAPT_OPEN (s.get F.HWM_GSTAT_GMODE) k.val) ∨
            10 * s.get (F.HWM_GAPT_CLOSE (s.get F.HWM_GSTAT_GMODE) k.val) ≤ off → k.val ∉ t.grd.windows)) ∧
      (∀ k : Fin 64, ∀ op, op = 10 * s.get (F.HWM_GAPT_OPEN (s.get F.HWM_GSTAT_GMODE) k.val) →
        ∀ cl, cl = 10 * s.get (F.HWM_GAPT_CLOSE (s.get F.HWM_GSTAT_GMODE) k.val) → cl < op →
        (s.flag (F.HWM_GAPT_EN (s.get F.HWM_GSTAT_GMODE) k.val) = true → op ≤ off ∨ off < cl → k.val ∈ t.grd.windows) ∧
        (cl ≤ off → off < op → k.val ∉ t.grd.windows)) ∧
      (∀ k : Fin 64, ∀ op, op = 10 * s.get (F.HWM_GAPT_OPEN (s.get F.HWM_GSTAT_GMODE) k.val) →
        ∀ cl, cl = 10 * s.get (F.HWM_GAPT_CLOSE (s.get F.HWM_GSTAT_GMODE) k.val) → ∀ c, c = s.get F.HWM_GCFG_CYCLEN → ∀ m, m = s.get F.KRG_GMARGIN_GM →
        s.flag (F.HWM_GAPT_EN (s.get F.HWM_GSTAT_GMODE) k.val) = true → op ≤ cl → m ≤ op → cl + m < c → op ≤ off + m → off < cl + m →
        t.grd.wide = true) ∧
      (∀ n, n = 10 * s.get F.HWM_GCFG_NITOFS → ∀ c, c = s.get F.HWM_GCFG_CYCLEN → ∀ m, m = s.get F.KRG_GMARGIN_GM → m ≤ n + 2000 →
        n + 3000 + m < c →
        (n + 2000 ≤ off + m → off < n + 3000 + m → t.grd.wide = true) ∧
        (off + m < n + 2000 ∨ n + 3000 + m ≤ off → (∀ k, k < 64 → s.flag (F.HWM_GAPT_EN (s.get F.HWM_GSTAT_GMODE) k) = false) →
          t.grd.wide = false)) ∧
      Writes [] s t) ∧
    (∀ (late : Bool) (at_ : Nat), (if late then ringState s = 3 else ringState s = 1 ∧ s.flag F.KRG_CTL_CSEN = true) →
      (∀ k, firstSlot s (s.get F.KRG_CTL_CSMODE) = some k → allDown s = false → mayJoin s = true → Gives (if late then .backoffExpiry at_ else .listenTimeout at_) s fun t =>
        ringState t = 2 ∧ t.get F.KRG_CYC_CYC32 = 0 ∧ ringMode t = s.get F.KRG_CTL_CSMODE ∧ t.krg.cold = some 0 ∧
        t.get F.KRG_VOTESTAT_VOTERS = (if sendsInt s then 0 else 2 ^ (ownId s % 16)) % 2 ^ (F.KRG_VOTESTAT_VOTERS.hi + 1 - F.KRG_VOTESTAT_VOTERS.lo) ∧
        Reacts [0x4003, 0x4008, 0xE000] s t) ∧
      (firstSlot s (s.get F.KRG_CTL_CSMODE) = none ∨ allDown s = true ∨ mayJoin s = false → Gives (if late then .backoffExpiry at_ else .listenTimeout at_) s fun t =>
        ringState t = 1 ∧ Writes (R.KRG_STAT :: timeRegs) s t)) ∧
    (∀ v, s.flag F.KRG_CTL_EN = false → bitOf v 31 = true → layoutOk s = true → Gives (.krgEnable v) s fun t =>
      t.get F.KRG_CTL_EN = 1 ∧ ringState t = 1 ∧ Writes [R.KRG_CTL, R.KRG_STAT] s t) ∧
    (∀ v, s.flag F.KRG_CTL_EN = false → bitOf v 31 = true → layoutOk s = false → Gives (.krgEnable v) s fun t =>
      t.get F.KRG_CTL_EN = 0 ∧ t.get F.KRG_STAT_APTERR = 1 ∧ Writes [R.KRG_CTL, R.KRG_STAT] s t) ∧
    (∀ v, s.flag F.KRG_CTL_EN = true → bitOf v 31 = false → Gives (.krgEnable v) s fun t =>
      t.get F.KRG_CTL_EN = 0 ∧ ringState t = 0 ∧ t.krg.timeValid = false ∧
      Writes (R.KRG_CTL :: ringLossRegs) s t) ∧
    (∀ m : BitVec 3, Gives (.krgSwreq m) s fun t =>
      t.get F.KRG_VOTE_SWREQ = 1 ∧ t.get F.KRG_VOTE_SWMODE = m.toNat ∧ Writes [R.KRG_VOTE] s t) ∧
    (s.flag F.CFG_STAT_ARMED = false → canArm s = true → Gives .krgFlipreq s fun t =>
      t.get F.KRG_VOTE_FLIPREQ = 1 ∧ t.get F.CFG_STAT_ARMED = 0 ∧ Writes [R.KRG_VOTE] s t) ∧
    (s.flag F.CFG_STAT_ARMED = false → canArm s = false → Gives .krgFlipreq s fun t =>
      t.get F.CFG_STAT_ARMREF = 1 ∧ t.get F.CFG_STAT_ARMED = 0 ∧ Writes [R.KRG_VOTE, R.CFG_STAT] s t) ∧
    (∀ (k : Fin 2) (w : Fin 4) (v : Word), ringRuns s = true → Gives (.krgKeyWrite k w v) s fun t =>
      t.krg = { s.krg with keysNext := s.krg.keysNext.filter (fun e => e.1 != 4 * k.val + w.val) ++ [(4 * k.val + w.val, v)] } ∧
      Writes [] s t) ∧
    (∀ (k : Fin 2) (w : Fin 4) (v : Word), ringRuns s = false → s.krg.keysNext = [] → Gives (.krgKeyWrite k w v) s fun t =>
      mget (fun _ => 0) t.krg.keys (4 * k.val + w.val) = v ∧ t.krg.keysNext = [] ∧ Writes [] s t) ∧
    (Gives .krgCntclr s fun t =>
      (∀ r, r < 2 → ∀ k, k < 64 → t.reg (R.KRG_SCNT r k) = 0) ∧ (∀ p, p < 4 → t.reg (R.KRG_PORTCNT p) = 0) ∧
      Writes ((List.range 128).map (fun i => 0x40080400 + 4 * i) ++ (List.range 4).map R.KRG_PORTCNT) s t)

/-! ### CAN FD (R299–R301, R304) -/

/-- The CAN controllers (counters and order: logs 41 and 75). TXGO and TXABORT set and clear what waits, but for the
frame on the bus; a frame sent ends its element; a frame that a filter takes lies in its queue behind the others, and is
dropped from a full one; RXACK releases; an error sets its code and the counters, bus-off enters the configuration state
unless it recovers by itself. -/
def Obligations.CanControllers : Prop :=
  ∀ (s : State) (c : Fin 2), (∀ a, s.errs a = 0) → injDue s 128 = none → s.flag F.CLK_GATE_CAN = true → BanksFree s →
    (∀ v, Gives (.canTxgo c v) s fun t =>
      t.reg (R.CAN_TXBUSY c.val) = s.reg (R.CAN_TXBUSY c.val) ||| v ∧ Writes [R.CAN_TXBUSY c.val, R.CAN_STAT c.val] s t) ∧
    (∀ v, Gives (.canTxabort c v) s fun t =>
      (∀ b, b < 32 → t.bit (F.CAN_TXBUSY_BUSY c.val) b =
        (s.bit (F.CAN_TXBUSY_BUSY c.val) b && (!bitOf v b || (s.canOf c.val).onBus == some b))) ∧
      Writes [R.CAN_TXBUSY c.val] s t) ∧
    (∀ (b : Fin 32) (meas : BitVec 7), (s.canOf c.val).onBus = some b.val → s.get (F.CAN_MCTL_OPMODE c.val) < 3 → Gives (.canFrameSent c b meas) s fun t =>
      t.bit (F.CAN_TXBUSY_BUSY c.val) b.val = false ∧ t.bit (F.CAN_TXEND_END c.val) b.val = true ∧
      (∀ fr, (s.canOf c.val).frame = some fr → fr.fd = true → t.get (F.CAN_SSP_MEAS c.val) = meas.toNat) ∧
      Writes [R.CAN_TXBUSY c.val, R.CAN_TXEND c.val, R.CAN_SSP c.val, R.CAN_STAT c.val, R.CAN_MCTL c.val] s t) ∧
    (∀ (b : Fin 32) (meas : BitVec 7), (s.canOf c.val).onBus ≠ some b.val → Gives (.canFrameSent c b meas) s fun t => t.can = s.can ∧ Writes [] s t) ∧
    (∀ (fr : CanFrame) (at_ : Nat) (b : Nat), (s.canOf c.val).onBus = some b → b < 32 → s.get (F.CAN_MCTL_OPMODE c.val) ≠ 3 →
      s.flag (F.CAN_MCTL_ONESHOT c.val) = true → rxPlace s c.val fr = none → Gives (.canFrameReceive c fr at_) s fun t =>
      t.bit (F.CAN_TXBUSY_BUSY c.val) b = false ∧
      Writes ([R.CAN_TXBUSY c.val, R.CAN_STAT c.val, R.CAN_MCTL c.val] ++ timeRegs) s t) ∧
    (∀ (fr : CanFrame) (at_ : Nat), s.get (F.CAN_MCTL_OPMODE c.val) = 3 → Gives (.canFrameReceive c fr at_) s fun t =>
      t.can = s.can ∧ Writes timeRegs s t) ∧
    (∀ (fr : CanFrame) (at_ : Nat), (s.canOf c.val).onBus = none → s.get (F.CAN_MCTL_OPMODE c.val) ≠ 3 →
      s.flag (F.CAN_MCTL_CONF c.val) = false → s.flag (F.CAN_STAT_BUSOFF c.val) = false →
      fr.fd = false →
      (rxPlace s c.val fr = none → Gives (.canFrameReceive c fr at_) s fun t => Writes timeRegs s t) ∧
      (∀ x, rxPlace s c.val fr = some x → x.1 ≤ 1 → s.get (qFill c.val x.1) < s.get (qSize c.val x.1) →
        ∀ a, a = rxElement s c.val x.1
          ((s.get (qHead c.val x.1) + s.get (qFill c.val x.1)) % s.get (qSize c.val x.1)) →
        0x20000000 ≤ a → a + 80 ≤ 0x20400000 → Gives (.canFrameReceive c fr at_) s fun t =>
        t.get (qFill c.val x.1) = s.get (qFill c.val x.1) + 1 ∧ t.get (qHead c.val x.1) = s.get (qHead c.val x.1) ∧
        t.word a = BitVec.ofNat 32 (fr.ext.toNat * 2 ^ 31 + fr.rmt.toNat * 2 ^ 30 + fr.ident.toNat) ∧
        t.word (a + 4) = BitVec.ofNat 32 (fr.brs.toNat * 2 ^ 31 + fr.esi.toNat * 2 ^ 30 + x.2 * 2 ^ 24 + fr.dlc.toNat) ∧
        t.bytes (a + 12) (min 64 fr.data.length) = fr.data.take 64 ∧
        WritesAt (R.CAN_RXPTR c.val :: timeRegs) a 80 s t) ∧
      (∀ x, rxPlace s c.val fr = some x → s.get (qSize c.val x.1) ≤ s.get (qFill c.val x.1) → s.flag (qPol c.val x.1) = false →
        Gives (.canFrameReceive c fr at_) s fun t =>
        t.get (qDrop c.val x.1) = satTo (fldTop (qDrop c.val x.1)) (s.get (qDrop c.val x.1) + 1) ∧
        Writes (R.CAN_RXDROP c.val :: timeRegs) s t)) ∧
    (∀ v, bitsOf v 22 16 = 0 → bitsOf v 6 0 ≤ s.get (qFill c.val 0) → Gives (.canRxack c v) s fun t =>
      t.get (qFill c.val 0) = s.get (qFill c.val 0) - bitsOf v 6 0 ∧ t.get (qFill c.val 1) = s.get (qFill c.val 1) ∧
      Writes [R.CAN_RXPTR c.val] s t) ∧
    (∀ v, s.get (qFill c.val 0) < bitsOf v 6 0 → Gives (.canRxack c v) s fun t =>
      t.get (qFill c.val 0) = 0 ∧ t.get (F.CAN_STAT_ACKERR c.val) = 1 ∧ Writes [R.CAN_RXPTR c.val, R.CAN_STAT c.val] s t) ∧
    (∀ (k : CanErrKind) (tec rec : BitVec 8), k ≠ .protocolException → Gives (.canError c k tec rec) s fun t =>
      t.get (F.CAN_STAT_LASTERR c.val) = canErrCode k ∧ t.get (F.CAN_ECNT_TEC c.val) = tec.toNat ∧
      t.get (F.CAN_STAT_ERRPAS c.val) = (decide (128 ≤ tec.toNat ∨ 128 ≤ rec.toNat)).toNat ∧
      t.get (F.CAN_STAT_WARN c.val) = (decide (96 ≤ tec.toNat ∨ 96 ≤ rec.toNat)).toNat ∧
      Writes [R.CAN_STAT c.val, R.CAN_ECNT c.val, R.CAN_TXBUSY c.val, R.CAN_MCTL c.val] s t) ∧
    (∀ tec rec : BitVec 8, s.flag (F.CAN_MCTL_PEXOFF c.val) = false → Gives (.canError c .protocolException tec rec) s fun t =>
      t.get (F.CAN_STAT_PEX c.val) = 1 ∧ t.get (F.CAN_STAT_LASTERR c.val) = s.get (F.CAN_STAT_LASTERR c.val) ∧
      Writes [R.CAN_STAT c.val, R.CAN_ECNT c.val] s t) ∧
    (Gives (.canBusOff c) s fun t =>
      t.get (F.CAN_STAT_BUSOFF c.val) = 1 ∧ (t.canOf c.val).onBus = none ∧
      (s.flag (F.CAN_MCTL_AUTOREC c.val) = false → t.get (F.CAN_MCTL_CONF c.val) = 1) ∧
      Writes [R.CAN_STAT c.val, R.CAN_MCTL c.val] s t) ∧
    (s.flag (F.CAN_STAT_BUSOFF c.val) = true → s.flag (F.CAN_MCTL_CONF c.val) = false → s.pwr.entry = 0 →
      Gives (.canBusOffRecovery c) s fun t =>
      t.get (F.CAN_STAT_BUSOFF c.val) = 0 ∧ Writes [R.CAN_STAT c.val, R.CAN_ECNT c.val] s t) ∧
    (∀ v, s.flag (F.CAN_MCTL_CONF c.val) = true → bitsOf v 30 28 ≤ 4 → Gives (.canConfWrite c v) s fun t =>
      t.get (F.CAN_MCTL_CONF c.val) = bitsOf v 31 31 ∧ t.get (F.CAN_MCTL_OPMODE c.val) = bitsOf v 30 28 ∧
      Writes [R.CAN_MCTL c.val, R.CAN_STAT c.val] s t) ∧
    (∀ v, s.flag (F.CAN_MCTL_CONF c.val) = false → bitOf v 31 = true →
      ((s.canOf c.val).onBus = none → Gives (.canConfWrite c v) s fun t =>
        t.get (F.CAN_MCTL_CONF c.val) = 1 ∧ Writes [R.CAN_MCTL c.val] s t) ∧
      (∀ b, (s.canOf c.val).onBus = some b → Gives (.canConfWrite c v) s fun t =>
        (t.canOf c.val).confDue = true ∧ t.get (F.CAN_MCTL_CONF c.val) = 0 ∧ Writes [] s t))

/-! ### The triplex link and the shadow (R309–R323, R330–R334) -/

/-- The link (details: logs 73 and 74). A comparison notes its reference and its result; a voter in the minority falls
out of step. A LEAD frame whose free slot is claimed and not contested gives the token, the second faulted frame in a row is
the line fault, which takes it; the holder may release it. A local flip waits for BOOT or SERVICE; a shadow address without a
shadowed register is flagged; a shadow write leaves the live side as it is. -/
def Obligations.LinkAndShadow : Prop :=
  ∀ s : State,
    (∀ at_, s.flag F.LNK_CTL_EN = true → s.krg.timeValid = true → s.get F.LNK_XCFG_NSNAP = 0 →
      (∀ v, v = (members s).filter (fun e => isVoter e.2) → v ≠ [] → Gives (.lnkComparison at_) s fun t =>
        t.get F.LNK_STAT_CMPRES = cmpRes (statusOf s (ownId s)) (decide (v.length ≤ 1)) (reference v) ∧
        (∀ r, reference v = some r → t.lnk.setp = (r.1.drop 1).take 8 ∧
          (r.2 = false → t.get F.LNK_EVT_NOMAJ = 1) ∧
          (v.any (fun e => e.1 == ownId s && stBlock e.2 != stBlock r.1) = true →
            t.lnk.xmin = true ∧ t.get F.LNK_EVT_XMIN = 1 ∧ (s.get F.LNK_XCFG_CATCHN ≠ 0 → t.get F.LNK_STAT_INSTEP = 0) ∧
            t.get F.LNK_CNT_XMINCNT = satTo (fldTop F.LNK_CNT_XMINCNT) (s.get F.LNK_CNT_XMINCNT + 1))) ∧
        Reacts [0xE000] s t)) ∧
    (∀ bits, s.flag F.LNK_CTL_EN = true → s.krg.timeValid = true →
      (frameFaulted s bits = false → s.flag F.LNK_STAT_LINEFLT = false → s.flag F.LNK_STAT_TOKEN = false → dom bits 0 = false →
        claimed bits = true → claims s bits = true → lostAt (ownId s) bits = none → s.lnk.faulted = 0 →
        Gives (.leadFrame bits) s fun t =>
        t.get F.LNK_STAT_TOKEN = 1 ∧ t.get F.LNK_EVT_WON = 1 ∧ t.get F.LNK_STAT_LEADID = leadBits bits 2 ∧
        Writes [R.LNK_STAT, R.LNK_EVT, R.LNK_DCI] s t) ∧
      (frameFaulted s bits = true → s.lnk.faulted = 1 → s.flag F.LNK_STAT_LINEFLT = false → Gives (.leadFrame bits) s fun t =>
        t.get F.LNK_STAT_LINEFLT = 1 ∧ t.get F.LNK_STAT_TOKEN = 0 ∧
        t.get F.LNK_CNT_LFCNT = satTo (fldTop F.LNK_CNT_LFCNT) (s.get F.LNK_CNT_LFCNT + 1) ∧
        Writes ([R.LNK_STAT, R.LNK_EVT, R.LNK_CNT, R.LNK_DCI] ++ (List.range 8).map R.PWM_GSTAT) s t)) ∧
    (s.flag F.LNK_STAT_TOKEN = true → Gives .lnkRelease s fun t =>
      t.get F.LNK_STAT_TOKEN = 0 ∧ t.get F.LNK_EVT_LOST = 1 ∧
      (∀ g, g < 8 → s.bit F.PWM_LEADGRP_GRP g = true → t.get (F.PWM_GSTAT_LEADBLK g) = 1) ∧
      Writes ([R.LNK_STAT, R.LNK_EVT, R.LNK_DCI] ++ (List.range 8).map R.PWM_GSTAT) s t) ∧
    (s.mode = .boot ∨ s.mode = .service → Gives .cfgLflip s fun t => t.lnk.lflip = true ∧ Writes [R.PRS_STAT] s t) ∧
    (¬ (s.mode = .boot ∨ s.mode = .service) → Gives .cfgLflip s fun t =>
      t.get F.CFG_STAT_ARMREF = 1 ∧ t.lnk = s.lnk ∧ Writes [R.CFG_STAT] s t) ∧
    (∀ v, Gives (.cfgShaddrWrite v) s fun t =>
      t.get F.CFG_SHADDR_ADDR = v.toNat / 4 % 2 ^ (F.CFG_SHADDR_ADDR.hi + 1 - F.CFG_SHADDR_ADDR.lo) ∧
      (rwsMask (v.toNat / 4 * 4) = 0 → t.get F.CFG_STAT_NOTSH = 1) ∧ Writes [R.CFG_SHADDR, R.CFG_STAT] s t) ∧
    (∀ (a v : Word), 0x30020000 ≤ a.toNat → a.toNat < 0x30040000 → shadowHeld s = false → (∀ a, s.errs a = 0) →
      injDue s 128 = none → Gives (.shadowWrite .cp a v) s fun t =>
      t.word (nodePlace s (a.toNat / 4 * 4)) = v ∧ t.get F.CFG_CTL_SHRDY = 0 ∧
      WritesAt [R.CFG_CTL] (nodePlace s (a.toNat / 4 * 4)) 4 s t) ∧
    (∀ (a v : Word), 0x30000000 ≤ a.toNat → a.toNat < 0x30020000 → Gives (.shadowWrite .cp a v) s fun t =>
      t.get F.CFG_STAT_LIVEWR = 1 ∧ Writes [R.CFG_STAT] s t) ∧
    (∀ v : Word, s.flag F.CFG_STAT_ARMED = false → Gives (.shadowWrite .cp (BitVec.ofNat 32 R.CFG_PLACE) v) s fun t =>
      bitsOf (t.shd R.CFG_PLACE) 7 0 = bitsOf v 7 0 ∧ t.get F.CFG_CTL_SHRDY = 0 ∧ (∀ a, a ≠ R.CFG_CTL → t.reg a = s.reg a) ∧
      (∀ a, a ≠ R.CFG_PLACE → t.shd a = s.shd a) ∧ SameMem s t ∧ SameMode s t)

/-! ### Tests on demand (R365–R373) -/

/-- Tests on demand (details: logs 34 and 42). START in SERVICE with a mask begins with its first region, and is
refused elsewhere; an abort leaves the region incomplete with its cause, the watchdog's cut goes on with copy 1; an analog
step runs where it may, keeps the target and the window of its START, ends with its result by them, or is cut short as incomplete. -/
def Obligations.TestsOnDemand : Prop :=
  ∀ s : State,
    (∀ r l, bitsIn 17 (s.get F.BST_CTL_MASK) = r :: l → s.flag F.BST_STAT_RUN = false → s.mode = .service →
      Gives .bstStart s fun t =>
      t.get F.BST_STAT_RUN = 1 ∧ t.get F.BST_STAT_ORIGIN = 2 ∧ t.get F.BST_STAT_REGION = r ∧ t.get F.BST_STAT_COPY = 0 ∧
      t.bist.regions = r :: l ∧ Writes [R.BST_STAT] s t) ∧
    (s.flag F.BST_STAT_RUN = false → s.mode ≠ .service ∨ bitsIn 17 (s.get F.BST_CTL_MASK) = [] → Gives .bstStart s fun t =>
      t.get F.BST_STAT_REFUSED = 1 ∧ t.get F.BST_STAT_RUN = 0 ∧ Writes [R.BST_STAT] s t) ∧
    (∀ (r c : Nat), s.flag F.BST_STAT_RUN = true → s.get F.BST_STAT_ORIGIN = 2 → r = s.get F.BST_STAT_REGION → r < 17 →
      c = s.get F.BST_STAT_COPY → s.mir.frozen = [] → s.mir.flipFor = [] → Gives .bstAbort s fun t =>
      t.get F.BST_STAT_RUN = 0 ∧ t.get (if c = 0 then F.BST_RES_RES0 r else F.BST_RES_RES1 r) = 3 ∧
      (s.flag F.BST_CUT_VALID = false → t.get F.BST_CUT_VALID = 1 ∧ t.get F.BST_CUT_REGION = r ∧ t.get F.BST_CUT_COPY = c ∧
        t.get F.BST_CUT_CAUSE = 1) ∧
      SameMode s t ∧ Blocks [0x4004, 0x400C] s t) ∧
    (∀ r : Nat, s.flag F.BST_STAT_RUN = true → s.get F.BST_STAT_ORIGIN = 2 → r = s.get F.BST_STAT_REGION → r < 17 →
      s.get F.BST_STAT_COPY = 0 → Gives .bistWatchdog s fun t =>
      t.get (F.BST_RES_RES0 r) = 3 ∧ t.get F.BST_STAT_RUN = 1 ∧ t.get F.BST_STAT_REGION = r ∧ t.get F.BST_STAT_COPY = 1 ∧
      (s.flag F.BST_CUT_VALID = false → t.get F.BST_CUT_CAUSE = 8) ∧ SameMode s t ∧ Blocks [0x4004, 0x400C] s t) ∧
    (∀ step arg, step = s.get F.BST_ACTL_STEP → arg = s.get F.BST_ACTL_ARG →
      s.bist.step = false → anAllowed step arg s = true → Gives .analogStepStart s fun t =>
      t.get F.BST_ARES_RUN = 1 ∧ t.bist.step = true ∧ t.bist.stepNo = step ∧ t.bist.stepArg = arg ∧
      t.bist.window = anWindow s step (arg % 32) ∧ t.bist.drive = (if step = 9 then some (arg % 32, arg.testBit 5) else none) ∧
      (∀ lo hi, anWindow s step (arg % 32) = some (lo, hi) → t.get F.BST_AEXP_LO = lo % 2 ^ 16 ∧ t.get F.BST_AEXP_HI = hi % 2 ^ 16) ∧
      Writes [R.BST_ARES, R.BST_AEXP] s t) ∧
    (s.bist.step = true → Gives .analogStepStart s fun t => t = s) ∧
    (s.bist.step = false → anAllowed (s.get F.BST_ACTL_STEP) (s.get F.BST_ACTL_ARG) s = false → Gives .analogStepStart s fun t =>
      t.get F.BST_ARES_REFUSED = 1 ∧ t.bist = s.bist ∧ Writes [R.BST_ARES] s t) ∧
    (s.bist.step = true → Gives .analogStepAbort s fun t =>
      t.bist.step = false ∧ t.bist.drive = none ∧ t.get F.BST_ARES_RESULT = 3 ∧ t.get F.BST_ARES_RUN = 0 ∧
      t.get F.BST_ARES_DONE = 1 ∧ Writes [R.BST_ARES, R.BST_CUT] s t) ∧
    (∀ (l : List Nat) (v : BitVec 16), s.bist.step = true → Gives (.analogStepDone l v) s fun t =>
      t.bist.step = false ∧ t.bist.drive = none ∧ t.get F.BST_ARES_RESULT = anResult s l v.toNat ∧
      t.get F.BST_ARES_VALUE = v.toNat ∧ t.get F.BST_ARES_RUN = 0 ∧ t.get F.BST_ARES_DONE = 1 ∧ Writes [R.BST_ARES] s t)

/-! ### The margin planner (R375–R381) -/

/-- The planner (averages and proposals: log 61; with the bridge down, and the run of windows: log 113). An offset slot takes its turn,
and the sixteenth sample gives the mean; an evaluation moves the dead time by at most 64 LSB and the threshold by at most one code,
inside the bounds; outside them it holds the proposal and moves the parameter to the bound, unless it has been approved; a slack window
shows its sensors and their least, which is one of them, and counts in the run above SLKHI or ends it; a VID step moves the code by
one; an approval while unlocked applies the held proposal that TYPE and IDX name, and a reserved code of theirs is discarded (R4). -/
def Obligations.MarginPlanner : Prop :=
  ∀ s : State,
    (∀ (k : Fin 8) (code : BitVec 14), mgnOn s = true → Gives (.mgnOffsetSlot k code true) s fun t =>
      mget (fun _ => 0) t.mgn.turn k.val = (mget (fun _ => 0) s.mgn.turn k.val + 1) % 4 ∧ t.mgn.sums = s.mgn.sums ∧ Writes [] s t) ∧
    (∀ (k : Fin 8) (code : BitVec 14), ∀ e, e = mget (fun _ => ((0, 0) : Nat × Int)) s.mgn.sums (128 + 4 * k.val) →
      mgnSees s = true → mget (fun _ => 0) s.mgn.turn k.val = 0 → 0 ≤ e.2 →
      (15 ≤ e.1 → Gives (.mgnOffsetSlot k code false) s fun t =>
        t.get (F.MGN_OFS_OFSU k.val) = ((e.2 + code.toNat).toNat / 16) % 2 ^ 14 ∧
        mget (fun _ => 0) t.mgn.turn k.val = 1 ∧ Writes [R.MGN_OFS k.val, R.MGN_STAT] s t) ∧
      (e.1 < 15 → Gives (.mgnOffsetSlot k code false) s fun t =>
        mget (fun _ => ((0, 0) : Nat × Int)) t.mgn.sums (128 + 4 * k.val) = (e.1 + 1, e.2 + code.toNat) ∧
        mget (fun _ => 0) t.mgn.turn k.val = 1 ∧ Writes [] s t)) ∧
    (∀ (k : Fin 24) (d : Int),
      d = ((max (s.get (F.MGN_TOFF_HS k.val)) (s.get (F.MGN_TOFF_LS k.val)) + bitsOf (s.spb 82) 15 0 : Nat) : Int) -
        s.get (F.PWM_DT_DTBASE k.val) →
      ∀ p : Int, p = s.getS (F.PWM_DT_DTADJ k.val) + clampInt (d - s.getS (F.PWM_DT_DTADJ k.val)) (-64) 64 →
      mgnOn s = true → s.flag F.MGN_CTL_DTEN = true → s.get (F.MGN_TOFF_HS k.val) ≠ 0 → s.get (F.MGN_TOFF_LS k.val) ≠ 0 →
      (p ≠ s.getS (F.PWM_DT_DTADJ k.val) → signed 16 (bitsOf (s.spb (64 + k.val / 3)) 15 0) ≤ p → p ≤ signed 16 (bitsOf (s.spb (64 + k.val / 3)) 31 16) →
        Gives (.mgnDtEvaluation k) s fun t =>
        t.getS (F.PWM_DT_DTADJ k.val) = clampInt p (-8192) 8191 ∧ isApproved t k.val = false ∧
        t.get (F.MGN_DTP_HELD k.val) = 0 ∧ Writes [R.PWM_DT k.val, R.MGN_DTP k.val, R.MGN_STAT] s t) ∧
      (p = s.getS (F.PWM_DT_DTADJ k.val) → signed 16 (bitsOf (s.spb (64 + k.val / 3)) 15 0) ≤ p →
        p ≤ signed 16 (bitsOf (s.spb (64 + k.val / 3)) 31 16) → Gives (.mgnDtEvaluation k) s fun t =>
        t.reg (R.PWM_DT k.val) = s.reg (R.PWM_DT k.val) ∧ (isApproved s k.val = false → t.get (F.MGN_DTP_HELD k.val) = 0) ∧
        Writes [R.MGN_DTP k.val, R.MGN_STAT] s t) ∧
      (p < signed 16 (bitsOf (s.spb (64 + k.val / 3)) 15 0) ∨ signed 16 (bitsOf (s.spb (64 + k.val / 3)) 31 16) < p →
        p ≠ s.getS (F.PWM_DT_DTADJ k.val) ∨ isApproved s k.val = false → Gives (.mgnDtEvaluation k) s fun t =>
        t.getS (F.MGN_DTP_PROP k.val) = clampInt p (-8192) 8191 ∧
        t.getS (F.PWM_DT_DTADJ k.val) = (if isApproved s k.val then s.getS (F.PWM_DT_DTADJ k.val) else
          clampInt (clampInt p (signed 16 (bitsOf (s.spb (64 + k.val / 3)) 15 0)) (signed 16 (bitsOf (s.spb (64 + k.val / 3)) 31 16)))
            (-8192) 8191) ∧
        t.get (F.MGN_DTP_HELD k.val) = 1 ∧ t.bit F.MGN_STAT_HELD 0 = true ∧ t.bit F.MGN_STAT_EXH 0 = true ∧
        Writes [R.PWM_DT k.val, R.MGN_DTP k.val, R.MGN_STAT] s t)) ∧
    (∀ k : Fin 24, mgnOn s = true → BridgeIdle s → s.flag F.MGN_CTL_THREN = true → s.get (F.MGN_RON_HS k.val) ≠ 0xFFFF →
      s.get (F.MGN_RON_LS k.val) ≠ 0xFFFF →
      ∀ p : Int, p = s.getS (F.GDR_VDS_THRADJ k.val) + clampInt ((thrTarget (bitsOf (s.spb (72 + k.val / 3)) 23 16 *
        bitsOf (s.spb (72 + k.val / 3)) 31 24 * max (s.get (F.MGN_RON_HS k.val)) (s.get (F.MGN_RON_LS k.val))) : Int) -
        s.get (F.GDR_VDS_THR k.val) - s.getS (F.GDR_VDS_THRADJ k.val)) (-1) 1 →
      (p = s.getS (F.GDR_VDS_THRADJ k.val) → signed 5 (bitsOf (s.spb (72 + k.val / 3)) 4 0) ≤ p →
        p ≤ signed 5 (bitsOf (s.spb (72 + k.val / 3)) 12 8) → Gives (.mgnThrEvaluation k) s fun t =>
        (isApproved s (32 + k.val) = false → t.get (F.MGN_THRP_HELD k.val) = 0) ∧ t.reg (R.GDR_VDS k.val) = s.reg (R.GDR_VDS k.val) ∧
        Writes [R.MGN_THRP k.val, R.MGN_STAT] s t) ∧
      (p ≠ s.getS (F.GDR_VDS_THRADJ k.val) → signed 5 (bitsOf (s.spb (72 + k.val / 3)) 4 0) ≤ p →
        p ≤ signed 5 (bitsOf (s.spb (72 + k.val / 3)) 12 8) → Gives (.mgnThrEvaluation k) s fun t =>
        t.getS (F.GDR_VDS_THRADJ k.val) = p ∧
        t.get (F.GDR_VDS_THREFF k.val) = (clampInt ((s.get (F.GDR_VDS_THR k.val) : Int) + p) 0 31).toNat ∧
        t.get (F.MGN_THRP_HELD k.val) = 0 ∧ Writes [R.GDR_VDS k.val, R.MGN_THRP k.val, R.MGN_STAT] s t) ∧
      (p < signed 5 (bitsOf (s.spb (72 + k.val / 3)) 4 0) ∨ signed 5 (bitsOf (s.spb (72 + k.val / 3)) 12 8) < p →
        isApproved s (32 + k.val) = false → Gives (.mgnThrEvaluation k) s fun t =>
        t.getS (F.GDR_VDS_THRADJ k.val) = clampInt (clampInt p (signed 5 (bitsOf (s.spb (72 + k.val / 3)) 4 0))
          (signed 5 (bitsOf (s.spb (72 + k.val / 3)) 12 8))) (-16) 15 ∧
        t.get (F.MGN_THRP_HELD k.val) = 1 ∧ t.bit F.MGN_STAT_EXH 1 = true ∧
        Writes [R.GDR_VDS k.val, R.MGN_THRP k.val, R.MGN_STAT] s t)) ∧
    (∀ k : Fin 24, s.flag F.SYS_BRGSTAT_UP = false → Gives (.mgnThrEvaluation k) s fun t => t = s) ∧
    (∀ l : List Int, mgnOn s = true → s.pwr.vidTarget = none → s.flag F.MGN_CTL_VIDEN = false → Gives (.mgnSlackWindow l) s fun t =>
      (∀ j, j < 16 → t.getS (F.MGN_PDS_SLK j) = clampInt (l.getD j 0) (-32768) 32767) ∧
      (∀ j, j < 16 → t.getS F.MGN_SLACK_WIN ≤ clampInt (l.getD j 0) (-32768) 32767) ∧
      (∃ j, j < 16 ∧ t.getS F.MGN_SLACK_WIN = clampInt (l.getD j 0) (-32768) 32767) ∧
      (((bitsOf (s.spb 81) 31 16 : Nat) : Int) < t.getS F.MGN_SLACK_WIN → t.mgn.high = s.mgn.high + 1) ∧
      (t.getS F.MGN_SLACK_WIN ≤ ((bitsOf (s.spb 81) 31 16 : Nat) : Int) → t.mgn.high = 0) ∧
      t.getS F.MGN_SLACK_WORST = min (t.getS F.MGN_SLACK_WIN) (s.getS F.MGN_SLACK_WORST) ∧
      Writes (R.MGN_SLACK :: (List.range 16).map (fun j => (F.MGN_PDS_SLK j).a)) s t) ∧
    (∀ l : List Int, mgnOn s = true → s.pwr.vidTarget = none → s.flag F.MGN_CTL_VIDEN = true →
      (∃ j, j < 16 ∧ clampInt (l.getD j 0) (-32768) 32767 < ((bitsOf (s.spb 81) 15 0 : Nat) : Int)) →
      bitsOf (s.spb 80) 4 0 ≤ s.get F.MGN_VIDP_CUR + 1 → s.get F.MGN_VIDP_CUR + 1 ≤ bitsOf (s.spb 80) 12 8 →
      Gives (.mgnSlackWindow l) s fun t => t.pwr.vidTarget = some (s.get F.MGN_VIDP_CUR + 1) ∧ t.get F.MGN_VIDP_HELD = 0 ∧
      t.get F.MGN_VIDP_CUR = s.get F.MGN_VIDP_CUR) ∧
    (∀ v, s.pwr.vidTarget = some v → s.flag F.BST_STAT_RUN = false → s.get F.MGN_VIDP_CUR < v → v < 32 → Gives .vidStepDone s fun t =>
      t.get F.MGN_VIDP_CUR = s.get F.MGN_VIDP_CUR + 1 ∧
      t.pwr.vidTarget = (if s.get F.MGN_VIDP_CUR + 1 = v then none else some v) ∧ Writes [R.MGN_VIDP] s t) ∧
    (∀ v, s.pwr.vidTarget = some v → s.flag F.BST_STAT_RUN = false → v < s.get F.MGN_VIDP_CUR → Gives .vidStepDone s fun t =>
      t.get F.MGN_VIDP_CUR = s.get F.MGN_VIDP_CUR - 1 ∧ Writes [R.MGN_VIDP] s t) ∧
    (∀ (w : Requester) (k : Fin 24) (at_ : Nat), mayWrite s w R.MGN_APPROVE = true → s.flag F.HWM_PWSTAT_UNLK = true →
      s.flag (F.MGN_DTP_HELD k.val) = true →
      Gives (.mgnApprove w (BitVec.ofNat 32 (0x80000000 + k.val)) at_) s fun t =>
      t.getS (F.PWM_DT_DTADJ k.val) = s.getS (F.MGN_DTP_PROP k.val) ∧
      t.get (F.MGN_DTP_HELD k.val) = 0 ∧ isApproved t k.val = true ∧
      WritesAt ([R.MGN_APPROVE, R.PWM_DT k.val, R.MGN_DTP k.val, R.MGN_STAT, R.HWM_LOGSTAT] ++ timeRegs) logBase 0x800 s t) ∧
    (∀ (w : Requester) (k : Fin 24) (v : Word) (at_ : Nat), mayWrite s w R.MGN_APPROVE = true → s.flag F.HWM_PWSTAT_UNLK = true →
      bitOf v 31 = true → bitsOf v 17 16 = 3 → 24 ≤ bitsOf v 4 0 → s.get F.MGN_APPROVE_TYPE = 0 → s.get F.MGN_APPROVE_IDX = k.val →
      s.flag (F.MGN_DTP_HELD k.val) = true → Gives (.mgnApprove w v at_) s fun t =>
      t.getS (F.PWM_DT_DTADJ k.val) = s.getS (F.MGN_DTP_PROP k.val) ∧ t.get F.MGN_STAT_APPREF = s.get F.MGN_STAT_APPREF ∧
      t.get (F.MGN_DTP_HELD k.val) = 0) ∧
    (∀ (w : Requester) (k : Fin 24) (at_ : Nat), mayWrite s w R.MGN_APPROVE = true → s.flag F.HWM_PWSTAT_UNLK = true → BridgeIdle s →
      s.flag (F.MGN_THRP_HELD k.val) = true → Gives (.mgnApprove w (BitVec.ofNat 32 (0x80010000 + k.val)) at_) s fun t =>
      t.getS (F.GDR_VDS_THRADJ k.val) = clampInt (s.getS (F.MGN_THRP_PROP k.val)) (-16) 15 ∧
      t.get (F.MGN_THRP_HELD k.val) = 0 ∧ isApproved t (32 + k.val) = true ∧
      WritesAt ([R.MGN_APPROVE, R.GDR_VDS k.val, R.MGN_THRP k.val, R.MGN_STAT, R.HWM_LOGSTAT] ++ timeRegs) logBase 0x800 s t) ∧
    (∀ (w : Requester) (k : Fin 24) (at_ : Nat), mayWrite s w R.MGN_APPROVE = true → s.flag F.HWM_PWSTAT_UNLK = true →
      s.flag (F.MGN_DTP_HELD k.val) = false → Gives (.mgnApprove w (BitVec.ofNat 32 (0x80000000 + k.val)) at_) s fun t =>
      t.get F.MGN_STAT_APPREF = 1 ∧ t.reg (R.PWM_DT k.val) = s.reg (R.PWM_DT k.val) ∧
      WritesAt ([R.MGN_APPROVE, R.MGN_STAT, R.HWM_LOGSTAT] ++ timeRegs) logBase 0x800 s t) ∧
    (∀ (w : Requester) (v : Word) (at_ : Nat), mayWrite s w R.MGN_APPROVE = true → s.flag F.HWM_PWSTAT_UNLK = false →
      Gives (.mgnApprove w v at_) s fun t =>
      WritesAt (R.HWM_LOGSTAT :: timeRegs) logBase 0x800 s t)

/-! ### Fault injection (R383–R386) -/

/-- Injection (details: log 76). The two key words within 1 ms arm, expiry and DISARM end the arming, and so does a FIRE; one that is
not armed or not allowed is refused, one behind an injection under way with BUSY, and both where both hold; one into a detector that
waits for its moment is taken and noted, one into a VDS detector is held and acts at once; a level's end puts back what it covered: a
bootstrap supply, a fault input, a wheel-speed input, or what a supervisor shows by now. -/
def Obligations.FaultInjection : Prop :=
  ∀ s : State, s.flag F.CLK_GATE_INJ = true →
    (∀ (w : Word) (at_ : Nat), bitsOf w 15 0 = 0x1A3C → Gives (.injKey w at_) s fun t =>
      t.inj = { s.inj with key1 := some at_ } ∧ Writes timeRegs s t) ∧
    (∀ (w : Word) (at_ t0 : Nat), s.inj.key1 = some t0 → bitsOf w 15 0 = 0xE5C3 → at_ ≤ t0 + 300000 → Gives (.injKey w at_) s fun t =>
      t.get F.INJ_STAT_ARMED = 1 ∧ t.inj = { s.inj with key1 := none } ∧ Writes (R.INJ_STAT :: timeRegs) s t) ∧
    (Gives .injArmExpiry s fun t => t.get F.INJ_STAT_ARMED = 0 ∧ t.inj = s.inj ∧ Writes [R.INJ_STAT] s t) ∧
    (Gives .injDisarm s fun t => t.get F.INJ_STAT_ARMED = 0 ∧ Writes [R.INJ_STAT] s t) ∧
    (∀ (w : Requester) (at_ : Nat), mayWrite s w R.INJ_CTL = true → injAllowed s = false → injBusy s = false → s.mode ≠ .active →
      Gives (.injFire w at_) s fun t => t.get F.INJ_STAT_REFUSED = 1 ∧ t.get F.INJ_STAT_BUSY = s.get F.INJ_STAT_BUSY ∧
      t.get F.INJ_STAT_ARMED = 0 ∧ t.inj.held = s.inj.held ∧ t.inj.waiting = s.inj.waiting ∧ Writes (R.INJ_STAT :: timeRegs) s t) ∧
    (∀ (w : Requester) (at_ : Nat), mayWrite s w R.INJ_CTL = true → injBusy s = true → s.mode ≠ .active →
      Gives (.injFire w at_) s fun t => t.get F.INJ_STAT_BUSY = 1 ∧
      (injAllowed s = false → t.get F.INJ_STAT_REFUSED = 1) ∧ (injAllowed s = true → t.get F.INJ_STAT_REFUSED = s.get F.INJ_STAT_REFUSED) ∧
      t.get F.INJ_STAT_ARMED = 0 ∧ t.inj.held = s.inj.held ∧ t.inj.waiting = s.inj.waiting ∧ Writes (R.INJ_STAT :: timeRegs) s t) ∧
    (∀ (w : Requester) (at_ : Nat), mayWrite s w R.INJ_CTL = true → injAllowed s = true → injBusy s = false → s.mode ≠ .active →
      78 ≤ s.get F.INJ_SEL_DET → s.get F.INJ_SEL_DET < 94 → Gives (.injFire w at_) s fun t =>
      injDue t (s.get F.INJ_SEL_DET) = some 0 ∧ t.get F.INJ_STAT_LAST = s.get F.INJ_SEL_DET ∧ t.get F.INJ_STAT_ARMED = 0 ∧
      Writes (R.INJ_STAT :: timeRegs) s t) ∧
    (∀ (w : Requester) (at_ : Nat), mayWrite s w R.INJ_CTL = true → injAllowed s = true → injBusy s = false → s.get F.INJ_SEL_DET < 24 →
      Gives (.injFire w at_) s fun t =>
      t.get (vdsFlag (s.get F.INJ_SEL_DET) ((s.get F.INJ_SEL_ARG).testBit 0) ((s.get F.INJ_SEL_ARG).testBit 1)) = 1 ∧
      t.get F.INJ_STAT_LAST = s.get F.INJ_SEL_DET ∧ t.get F.INJ_STAT_FIRED = 1 ∧
      t.get F.INJ_STAT_HELD = 1 ∧ t.inj.held = some (s.get F.INJ_SEL_DET, 0) ∧ t.inj.before = false ∧ Reacts [0xE000] s t) ∧
    (∀ det arg, s.inj.held = some (det, arg) → 24 ≤ det → det < 48 → Gives .injLevelEnd s fun t =>
      t.inj.held = none ∧ t.get F.INJ_STAT_HELD = 0 ∧ t.get (F.GDR_STAT_BSOK (det - 24)) = s.inj.before.toNat ∧
      Writes (R.INJ_STAT :: R.GDR_STAT (det - 24) :: R.HWM_STAT :: gateRegs) s t) ∧
    (∀ det arg, s.inj.held = some (det, arg) → 72 ≤ det → det < 78 → Gives .injLevelEnd s fun t =>
      t.inj.held = none ∧ t.get F.INJ_STAT_HELD = 0 ∧ t.bit F.PWM_TRIP_ACT (det - 72) = s.inj.before ∧
      t.get F.PWM_TRIP_TRIP = s.get F.PWM_TRIP_TRIP ∧ Writes (R.INJ_STAT :: R.PWM_TRIP :: R.HWM_STAT :: gateRegs) s t) ∧
    (∀ det arg, s.inj.held = some (det, arg) → 102 ≤ det → det < 106 → Gives .injLevelEnd s fun t =>
      t.inj.held = none ∧ t.get F.INJ_STAT_HELD = 0 ∧ t.get (F.FBK_WSPER_OPEN (det - 102)) = s.inj.before.toNat ∧
      Writes (R.INJ_STAT :: R.FBK_WSPER (det - 102) :: R.HWM_STAT :: gateRegs) s t) ∧
    (∀ det arg, s.inj.held = some (det, arg) → 121 ≤ det → det < 127 → Gives .injLevelEnd s fun t =>
      t.inj.held = none ∧ t.get F.INJ_STAT_HELD = 0 ∧
      (s.flag F.SYS_BRGSTAT_UP = true →
        bitOf (t.reg R.PWR_SUPSTAT) (det - 121) = (s.pwr.hwmOn && s.pwr.supRaw.testBit (det - 121))) ∧
      Writes (R.INJ_STAT :: R.PWR_SUPSTAT :: R.HWM_STAT :: gateRegs) s t) ∧
    (∀ det arg, s.inj.held = some (det, arg) → det < 24 ∨ det = 133 ∨ det = 134 → Gives .injLevelEnd s fun t =>
      t.inj.held = none ∧ t.get F.INJ_STAT_HELD = 0 ∧ Writes (R.INJ_STAT :: R.HWM_STAT :: gateRegs) s t) ∧
    (s.inj.held = none → Gives .injLevelEnd s fun t => t = s)

/-! ### The service port (R50–R62) -/

/-- The port (details: logs 48 and 88). A frame with a wrong CRC is answered 0x01 and not executed. RD and WR move words in
order; FERASE erases a sector and FPROG programs erased words in SERVICE, in the areas that are not the device's own; FCRC
checks flash; UNLOCK is a password word; SVCREQ and RESET ask for their mode change; an unknown OP is answered 0x03. A
response is stored, and a complete GET takes it. -/
def Obligations.ServicePort : Prop :=
  ∀ (s : State) (fr : SppFrame),
    (GoodFrame s 9 fr → fr.len = 0 → Gives (.sppNop fr) s fun t => Answers fr 0 [] t ∧ Writes [R.SPP_STAT, R.SPP_ERRCNT] s t) ∧
    (sppOn s = true → s.flag F.SPP_STAT_BUSY = false → fr.raw = none → crc16 (frameBody 9 fr) ≠ fr.crc → Gives (.sppNop fr) s fun t =>
      Answers fr 1 [] t ∧ t.get F.SPP_STAT_CRCERR = 1 ∧ Writes [R.SPP_STAT, R.SPP_ERRCNT] s t) ∧
    (sppOn s = true → s.flag F.SPP_STAT_BUSY = false → fr.raw = none → crc16 (frameBody 9 fr) = fr.crc →
      fr.data.length ≠ fr.len.toNat → Gives (.sppNop fr) s fun t => Answers fr 2 [] t ∧ Writes [R.SPP_STAT, R.SPP_ERRCNT] s t) ∧
    (∀ x l, fr.raw = some (x :: l) → sppOn s = true → s.flag F.SPP_STAT_BUSY = false → Gives (.sppNop fr) s fun t =>
      t.get F.SPP_STAT_BUSY = 1 ∧
      t.spp.staged = some { seq := x.toNat, result := if frameCrcBad 9 fr then 1 else 2, data := [] } ∧
      Writes [R.SPP_STAT, R.SPP_ERRCNT] s t) ∧
    (sppOn s = true → s.flag F.SPP_STAT_BUSY = true → Gives (.sppNop fr) s fun t =>
      t.get F.SPP_STAT_BUSYREJ = 1 ∧ t.get F.SPP_ERRCNT_CRCCNT = s.get F.SPP_ERRCNT_CRCCNT ∧
      t.get F.SPP_ERRCNT_REFCNT = satTo (fldTop F.SPP_ERRCNT_REFCNT) (s.get F.SPP_ERRCNT_REFCNT + 1) ∧
      t.spp.staged = s.spp.staged ∧ t.spp.resp = s.spp.resp ∧ Writes [R.SPP_STAT, R.SPP_ERRCNT] s t) ∧
    (∀ r, s.spp.resp = some r → sppOn s = true → ∀ n : Nat,
      ((respBytes (BitVec.ofNat 8 r.seq) r).length ≤ n → Gives (.sppGet n) s fun t =>
        t.spp.out = respBytes (BitVec.ofNat 8 r.seq) r ++
          List.replicate (n - (respBytes (BitVec.ofNat 8 r.seq) r).length) 0xFF ∧ t.spp.resp = none ∧ t.get F.SPP_STAT_READY = 0 ∧ Writes [R.SPP_STAT] s t) ∧
      (n < (respBytes (BitVec.ofNat 8 r.seq) r).length → Gives (.sppGet n) s fun t =>
        t.spp.out = (respBytes (BitVec.ofNat 8 r.seq) r).take n ∧ t.spp.resp = some r ∧ Writes [] s t)) ∧
    (s.spp.resp = none → sppOn s = true → ∀ n, 2 ≤ n → Gives (.sppGet n) s fun t => t.spp.out.getD 1 0 = 8 ∧ Writes [] s t) ∧
    (GoodFrame s 1 fr → blockShape fr = true → rdAllowed s fr = true → (∀ a, s.errs a = 0) → injDue s 128 = none →
      0x20000000 ≤ fr.addr.toNat → fr.addr.toNat + 4 * fr.len.toNat ≤ 0x20400000 → (∀ b, b < 8 → lockOpen s 12 b = true) →
      Gives (.sppRd fr) s fun t =>
      Answers fr 0 (s.words fr.addr.toNat fr.len.toNat) t ∧ Writes [R.SPP_STAT, R.SPP_ERRCNT] s t) ∧
    (GoodFrame s 1 fr → blockShape fr = true → rdAllowed s fr = false → Gives (.sppRd fr) s fun t =>
      Answers fr 4 [] t ∧ Writes [R.SPP_STAT, R.SPP_ERRCNT] s t) ∧
    (∀ at_, GoodFrame s 2 fr → blockShape fr = true → wrAllowed s fr = true → (∀ a, s.errs a = 0) → injDue s 128 = none →
      0x20000000 ≤ fr.addr.toNat → fr.addr.toNat + 4 * fr.len.toNat ≤ 0x20400000 → (∀ b, b < 8 → lockOpen s 12 b = true) →
      Gives (.sppWr fr at_) s fun t =>
      Answers fr 0 [] t ∧ t.words fr.addr.toNat fr.len.toNat = fr.data ∧
      WritesAt ([R.SPP_STAT, R.SPP_ERRCNT] ++ timeRegs) fr.addr.toNat (4 * fr.len.toNat) s t) ∧
    (GoodFrame s 3 fr → fr.len = 0 → fr.addr.toNat % 0x10000 = 0 → s.mode = .service → inFlash fr.addr.toNat = true →
      protectedFlash fr.addr.toNat = false → Gives (.sppFerase fr false) s fun t =>
        Answers fr 0 [] t ∧ (∀ i, i < 0x10000 → t.byte (fr.addr.toNat + i) = 0xFF) ∧
        WritesAt [R.SPP_STAT, R.SPP_ERRCNT] fr.addr.toNat 0x10000 s t) ∧
    (GoodFrame s 3 fr → fr.len = 0 → fr.addr.toNat % 0x10000 = 0 → s.mode = .service → inFlash fr.addr.toNat = true →
      protectedFlash fr.addr.toNat = false → Gives (.sppFerase fr true) s fun t =>
        Answers fr 7 [] t ∧ WritesAt [R.SPP_STAT, R.SPP_ERRCNT] fr.addr.toNat 0x10000 s t) ∧
    (GoodFrame s 4 fr → blockShape fr = true → onePage fr = true → s.mode = .service → inFlash fr.addr.toNat = true →
      protectedFlash fr.addr.toNat = false →
      (∀ a, a ∈ sppWords fr → s.word a = 0xFFFFFFFF) → Gives (.sppFprog fr false) s fun t =>
        Answers fr 0 [] t ∧ t.words fr.addr.toNat fr.len.toNat = fr.data ∧
        WritesAt [R.SPP_STAT, R.SPP_ERRCNT] fr.addr.toNat (4 * fr.len.toNat) s t) ∧
    (∀ n, n = (fr.data.headD 0).toNat → GoodFrame s 5 fr → fr.len = 1 → fr.addr.toNat % 4 = 0 → s.mode = .service →
      inFlash fr.addr.toNat = true → fr.addr.toNat + n ≤ 0x11000000 → (∀ a, s.errs a = 0) → injDue s 128 = none →
      Gives (.sppFcrc fr) s fun t =>
      Answers fr 0 [crc32 (s.bytes fr.addr.toNat n)] t ∧ Writes [R.SPP_STAT, R.SPP_ERRCNT] s t) ∧
    (∀ at_, GoodFrame s 6 fr → fr.len = 0 → sppCol s ≠ .fail → s.flag F.SYS_BRGSTAT_UP = true → s.brg.queue = [] →
      s.flag F.HWM_PWSTAT_UNLK = false → s.flag F.HWM_PWSTAT_LOCKOUT = false → at_ ≤ s.hwm.wordAt + 300000000 →
      s.hwm.words.length < 3 → Gives (.sppUnlock fr at_) s fun t =>
      Answers fr 0 [] t ∧ t.hwm.words = s.hwm.words ++ [fr.addr.extractLsb' 0 16] ∧
      Writes ([R.SPP_STAT, R.SPP_ERRCNT, R.HWM_PWSTAT] ++ timeRegs) s t) ∧
    (GoodFrame s 7 fr → fr.len = 0 → svcRow s = true → Gives (.sppSvcreq fr .alone) s fun t =>
      Answers fr 0 [] t ∧ t.mode = .service ∧ (s.sub = .listen → s.mode = .boot → t.get F.SYS_BOOTSTAT_SVCREQ = 1) ∧
      Reacts [0x4011] s t) ∧
    (GoodFrame s 7 fr → fr.len = 0 → sppCol s = .boot ∨ sppCol s = .ring → svcRow s = false → Gives (.sppSvcreq fr .alone) s fun t =>
      Answers fr 4 [] t ∧ t.get F.SYS_MODE_REFCODE = 2 ∧ SameMode s t) ∧
    (GoodFrame s 8 fr → fr.len = 0 → resetAllowed s fr = true → resetRow s = true → Gives (.sppReset fr .alone) s fun t =>
      t.pwr.rstDue = some .spp ∧ t.get F.SPP_STAT_BUSY = 1 ∧ Writes [R.SPP_STAT, R.SPP_ERRCNT] s t) ∧
    (GoodFrame s 8 fr → fr.len = 0 → resetAllowed s fr = false → ∀ cyc, Gives (.sppReset fr cyc) s fun t =>
      Answers fr 4 [] t ∧ t.pwr.rstDue = s.pwr.rstDue ∧ Writes [R.SPP_STAT, R.SPP_ERRCNT] s t) ∧
    (∀ op : Byte, 10 ≤ op.toNat → GoodFrame s op fr → Gives (.sppUnknownOp op fr) s fun t =>
      Answers fr 3 [] t ∧ Writes [R.SPP_STAT, R.SPP_ERRCNT] s t) ∧
    (∀ r, s.spp.staged = some r → s.spp.wait = none → Gives .sppResponseReady s fun t =>
      t.spp.resp = some r ∧ t.spp.staged = none ∧ t.get F.SPP_STAT_READY = 1 ∧ t.get F.SPP_STAT_BUSY = 0 ∧ Writes [R.SPP_STAT] s t)

/-- FPROG to a word that is not erased is answered 0x07 and programs nothing; FERASE and FPROG aimed at 0x10C2_0000–0x10C3_FFFF are
answered 0x06 and change nothing (R57). -/
def Obligations.FlashCommandsRefused : Prop :=
  ∀ (s : State) (fr : SppFrame), s.mode = .service →
    (GoodFrame s 4 fr → blockShape fr = true → onePage fr = true → inFlash fr.addr.toNat = true →
      ¬ (0x10C20000 ≤ fr.addr.toNat ∧ fr.addr.toNat < 0x10C40000) → (∃ a, a ∈ sppWords fr ∧ s.word a ≠ 0xFFFFFFFF) →
      ∀ fail, Gives (.sppFprog fr fail) s fun t => Answers fr 7 [] t ∧ Writes [R.SPP_STAT, R.SPP_ERRCNT] s t) ∧
    (GoodFrame s 4 fr → blockShape fr = true → onePage fr = true → 0x10C20000 ≤ fr.addr.toNat → fr.addr.toNat < 0x10C40000 →
      ∀ fail, Gives (.sppFprog fr fail) s fun t => Answers fr 6 [] t ∧ Writes [R.SPP_STAT, R.SPP_ERRCNT] s t) ∧
    (GoodFrame s 3 fr → fr.len = 0 → fr.addr.toNat % 0x10000 = 0 → 0x10C20000 ≤ fr.addr.toNat → fr.addr.toNat < 0x10C40000 →
      ∀ fail, Gives (.sppFerase fr fail) s fun t => Answers fr 6 [] t ∧ Writes [R.SPP_STAT, R.SPP_ERRCNT] s t)

/-! ### Register writes and the event counters (R4, R18, R100, R387, R390) -/

/-- Writes of registers and of memory (encodings: log 28; the cycle: log 106). A field takes the written value where its encodings list
it, a read-only register and ROM take nothing, a register of the A-die takes its write when the bridge carries it, memory
takes the word. GCTL, CNTL's latch and CLR act on the counts that they name. -/
def Obligations.WritesAndCounters : Prop :=
  ∀ (s : State) (v : Word) (at_ : Nat),
    (∀ g : Fin 8, Gives (.registerWrite .cp (BitVec.ofNat 32 (R.PWM_PRD g.val)) v at_) s fun t =>
      t.get (F.PWM_PRD_FRAC g.val) = bitsOf v 7 0 ∧
      t.get (F.PWM_PRD_HALF g.val) =
        (if 16000 ≤ bitsOf v 28 8 ∧ bitsOf v 28 8 ≤ 1600000 then bitsOf v 28 8 else s.get (F.PWM_PRD_HALF g.val)) ∧
      Writes (R.PWM_PRD g.val :: timeRegs) s t) ∧
    (Gives (.registerWrite .cp (BitVec.ofNat 32 R.SYS_DEVID) v at_) s fun t => Writes timeRegs s t) ∧
    (∀ a : Fin 0x10000, Gives (.registerWrite .cp (BitVec.ofNat 32 a.val) v at_) s fun t => Writes timeRegs s t) ∧
    (∀ k : Fin 24, s.flag F.SYS_BRGSTAT_UP = true → Gives (.registerWrite .cp (BitVec.ofNat 32 (R.GDR_DRV k.val)) v at_) s fun t =>
      t.brg.queue = s.brg.queue ++ [{ who := .cp, addr := R.GDR_DRV k.val, val := v, time := t.now }] ∧ Writes timeRegs s t) ∧
    (∀ k : Fin 24, s.flag F.SYS_BRGSTAT_UP = false → Gives (.registerWrite .cp (BitVec.ofNat 32 (R.GDR_DRV k.val)) v at_) s fun t =>
      t.brg = s.brg ∧ t.get F.PWR_OFFSTAT_VALID = 1 ∧ Writes ([R.PWR_OFFSTAT, R.PWR_OFFACC] ++ timeRegs) s t) ∧
    (∀ i : Fin 0x10000, (∀ a, s.errs a = 0) → injDue s 128 = none →
      Gives (.registerWrite .cp (BitVec.ofNat 32 (0x01000000 + 4 * i.val)) v at_) s fun t =>
      t.word (0x01000000 + 4 * i.val) = v ∧ WritesAt timeRegs (0x01000000 + 4 * i.val) 4 s t) ∧
    (s.flag F.CLK_GATE_EVC = true → Gives (.evcGctl v) s fun t => t.reg R.EVC_GCTL = v ∧ t.evc = s.evc ∧ Writes [R.EVC_GCTL] s t) ∧
    (∀ c : Fin 32, s.flag F.CLK_GATE_EVC = true → Gives (.evcCntlRead c) s fun t =>
      t.get (F.EVC_CNTH_CNT c.val) = s.evcOf c.val / 2 ^ 32 % 2 ^ 16 ∧ t.evc = s.evc ∧ Writes [R.EVC_CNTH c.val] s t) ∧
    (s.flag F.CLK_GATE_EVC = true → Gives (.evcClr v at_) s fun t =>
      (∀ c, c < 32 → t.evcOf c =
        if bitOf v c then freshCount (advanceTo at_ s) c % 2 ^ 48 else (advanceTo at_ s).evcOf c) ∧
      (at_ ≤ s.now → s.fresh.counts = [] → ∀ c, c < 32 → t.evcOf c = if bitOf v c then 0 else s.evcOf c) ∧
      Writes timeRegs s t)
end

