-- ==== Sys2Proof/Laws/Map.lean ====
section
/-! SUPPORT. What the operations on sparse tables do: a read after a write, and that every operation keeps the canonical form. -/

namespace Sys2Proof

theorem mget_merase_same (d : Nat → α) (m : List (Nat × α)) (j : Nat) : mget d (merase m j) j = d j := by
  induction m with
  | nil => rfl
  | cons e m ih =>
    obtain ⟨i, v⟩ := e
    by_cases h : i = j
    · simpa [merase, h] using ih
    · simpa [merase, h, mget] using ih

theorem mget_merase_ne (d : Nat → α) (m : List (Nat × α)) {j a : Nat} (h : a ≠ j) : mget d (merase m j) a = mget d m a := by
  induction m with
  | nil => rfl
  | cons e m ih =>
    obtain ⟨i, v⟩ := e
    by_cases hi : i = j
    · subst hi
      simpa [merase, mget, Ne.symm h] using ih
    · by_cases ha : i = a
      · subst ha
        simp [merase, hi, mget]
      · simpa [merase, hi, mget, ha] using ih

theorem mget_minsert_same (d : Nat → α) (m : List (Nat × α)) (j : Nat) (v : α)
    (h : mget (fun _ => none) (m.map fun e => (e.1, some e.2)) j = none) : mget d (minsert m j v) j = v := by
  induction m with
  | nil => simp [minsert, mget]
  | cons e m ih =>
    obtain ⟨i, w⟩ := e
    by_cases hi : i = j
    · simp [mget, hi] at h
    · simp only [List.map_cons, mget, hi, if_false] at h
      unfold minsert
      split
      · simp [mget]
      · simp [mget, hi, ih h]

theorem mget_minsert_ne (d : Nat → α) (m : List (Nat × α)) {j a : Nat} (v : α) (h : a ≠ j) :
    mget d (minsert m j v) a = mget d m a := by
  induction m with
  | nil => simp [minsert, mget, Ne.symm h]
  | cons e m ih =>
    obtain ⟨i, w⟩ := e
    unfold minsert
    split
    · simp [mget, Ne.symm h]
    · by_cases ha : i = a
      · simp [mget, ha]
      · simp [mget, ha, ih]

theorem merase_absent (m : List (Nat × α)) (j : Nat) :
    mget (fun _ => none) ((merase m j).map fun e => (e.1, some e.2)) j = none := by
  induction m with
  | nil => rfl
  | cons e m ih =>
    obtain ⟨i, v⟩ := e
    by_cases h : i = j
    · simpa [merase, h] using ih
    · simpa [merase, h, mget] using ih

/-- A read of the key just written gives the value. -/
theorem mget_mset_same [DecidableEq α] (d : Nat → α) (m : List (Nat × α)) (j : Nat) (v : α) : mget d (mset d m j v) j = v := by
  unfold mset
  split
  · next h => rw [mget_merase_same, h]
  · exact mget_minsert_same d _ j v (merase_absent m j)

/-- A read of another key gives what it gave. -/
theorem mget_mset_ne [DecidableEq α] (d : Nat → α) (m : List (Nat × α)) {j a : Nat} (v : α) (h : a ≠ j) :
    mget d (mset d m j v) a = mget d m a := by
  unfold mset
  split
  · exact mget_merase_ne d m h
  · rw [mget_minsert_ne d _ v h, mget_merase_ne d m h]

theorem mget_mset [DecidableEq α] (d : Nat → α) (m : List (Nat × α)) (j a : Nat) (v : α) :
    mget d (mset d m j v) a = if a = j then v else mget d m a := by
  split
  · next h => rw [h, mget_mset_same]
  · next h => exact mget_mset_ne d m v h

/-! ### The canonical form -/

theorem mrising_some_of_none {b : Nat} : ∀ {m : List (Nat × α)}, mrising (some b) m = true → mrising none m = true
  | [], _ => rfl
  | (i, v) :: m, h => by simp only [mrising, Bool.and_eq_true] at h ⊢; exact h.2

theorem mrising_mono {b c : Nat} (hbc : b ≤ c) : ∀ {m : List (Nat × α)}, mrising (some c) m = true → mrising (some b) m = true
  | [], _ => rfl
  | (i, v) :: m, h => by
    simp only [mrising, Bool.and_eq_true, decide_eq_true_eq] at h ⊢
    exact ⟨by omega, h.2⟩

theorem mrising_filter (p : Nat × α → Bool) : ∀ {b : Option Nat} {m : List (Nat × α)}, mrising b m = true → mrising b (m.filter p) = true
  | b, [], _ => by cases b <;> rfl
  | none, (i, v) :: m, h => by
    simp only [mrising] at h
    simp only [List.filter_cons]
    split
    · simpa only [mrising] using mrising_filter p h
    · exact mrising_some_of_none (mrising_filter p h)
  | some b, (i, v) :: m, h => by
    simp only [mrising, Bool.and_eq_true, decide_eq_true_eq] at h
    simp only [List.filter_cons]
    split
    · simp only [mrising, Bool.and_eq_true, decide_eq_true_eq]
      exact ⟨h.1, mrising_filter p h.2⟩
    · exact mrising_mono (by omega) (mrising_filter p h.2)

theorem merase_eq_filter (m : List (Nat × α)) (j : Nat) : merase m j = m.filter (fun e => decide (e.1 ≠ j)) := by
  induction m with
  | nil => rfl
  | cons e m ih =>
    obtain ⟨i, v⟩ := e
    by_cases h : i = j
    · simpa [merase, h] using ih
    · simpa [merase, h] using ih

theorem mrising_minsert {j : Nat} (v : α) : ∀ {b : Option Nat} {m : List (Nat × α)}, mrising b m = true →
    (∀ e ∈ m, e.1 ≠ j) → (∀ x, b = some x → x < j) → mrising b (minsert m j v) = true
  | none, [], _, _, _ => rfl
  | some b, [], _, _, hb => by simp [minsert, mrising, hb b rfl]
  | none, (i, w) :: m, h, hj, hb => by
    have hi : i ≠ j := hj (i, w) (by simp)
    simp only [mrising] at h
    unfold minsert
    split
    · simp only [mrising, Bool.and_eq_true, decide_eq_true_eq]
      exact ⟨by assumption, h⟩
    · simp only [mrising]
      exact mrising_minsert v h (fun e he => hj e (by simp [he])) (fun x hx => by cases hx; omega)
  | some b, (i, w) :: m, h, hj, hb => by
    have hi : i ≠ j := hj (i, w) (by simp)
    simp only [mrising, Bool.and_eq_true, decide_eq_true_eq] at h
    unfold minsert
    split
    · simp only [mrising, Bool.and_eq_true, decide_eq_true_eq]
      exact ⟨hb b rfl, by assumption, h.2⟩
    · simp only [mrising, Bool.and_eq_true, decide_eq_true_eq]
      exact ⟨h.1, mrising_minsert v h.2 (fun e he => hj e (by simp [he])) (fun x hx => by cases hx; omega)⟩

theorem mem_minsert {e : Nat × α} {j : Nat} {v : α} : ∀ {m : List (Nat × α)}, e ∈ minsert m j v → e = (j, v) ∨ e ∈ m
  | [], h => by simpa [minsert] using h
  | (i, w) :: m, h => by
    unfold minsert at h
    split at h
    · simpa using h
    · rcases List.mem_cons.1 h with h | h
      · exact .inr (by simp [h])
      · rcases mem_minsert h with h | h
        · exact .inl h
        · exact .inr (by simp [h])

/-- Taking a key out keeps the canonical form. -/
theorem mwf_filter [DecidableEq α] (d : Nat → α) (p : Nat × α → Bool) {m : List (Nat × α)} (h : mwf d m = true) :
    mwf d (m.filter p) = true := by
  simp only [mwf, Bool.and_eq_true, List.all_eq_true] at h ⊢
  exact ⟨mrising_filter p h.1, fun e he => h.2 e (List.mem_filter.1 he).1⟩

/-- A write keeps the canonical form. -/
theorem mwf_mset [DecidableEq α] (d : Nat → α) {m : List (Nat × α)} (j : Nat) (v : α) (h : mwf d m = true) :
    mwf d (mset d m j v) = true := by
  have he := mwf_filter d (fun e => decide (e.1 ≠ j)) h
  rw [← merase_eq_filter] at he
  unfold mset
  split
  · exact he
  · next hv =>
    simp only [mwf, Bool.and_eq_true, List.all_eq_true, decide_eq_true_eq] at he ⊢
    refine ⟨mrising_minsert v he.1 (fun e hm => ?_) (by simp), fun e hm => ?_⟩
    · rw [merase_eq_filter, List.mem_filter] at hm
      simpa using hm.2
    · rcases mem_minsert hm with rfl | hm
      · exact hv
      · exact he.2 e hm

theorem mwf_mupd [DecidableEq α] (d : Nat → α) {m : List (Nat × α)} (j : Nat) (f : α → α) (h : mwf d m = true) :
    mwf d (mupd d m j f) = true := mwf_mset d j _ h

theorem mwf_mkeep [DecidableEq α] (d : Nat → α) (p : Nat → Bool) {m : List (Nat × α)} (h : mwf d m = true) :
    mwf d (mkeep p m) = true := mwf_filter d _ h

/-! ### Ranges -/

theorem mget_append_none (d : Nat → α) {j : Nat} : ∀ {m : List (Nat × α)} (n : List (Nat × α)), (∀ e ∈ m, e.1 ≠ j) →
    mget d (m ++ n) j = mget d n j
  | [], _, _ => rfl
  | (i, v) :: m, n, h => by
    have hi : i ≠ j := h (i, v) (by simp)
    simp only [List.cons_append, mget, hi, if_false]
    exact mget_append_none d n (fun e he => h e (by simp [he]))

theorem mget_absent (d : Nat → α) {j : Nat} : ∀ {m : List (Nat × α)}, (∀ e ∈ m, e.1 ≠ j) → mget d m j = d j
  | [], _ => rfl
  | (i, v) :: m, h => by
    have hi : i ≠ j := h (i, v) (by simp)
    simp only [mget, hi, if_false]
    exact mget_absent d (fun e he => h e (by simp [he]))

theorem mget_mkeep (d : Nat → α) (p : Nat → Bool) (m : List (Nat × α)) {j : Nat} (h : p j = true) :
    mget d (mkeep p m) j = mget d m j := by
  induction m with
  | nil => rfl
  | cons e m ih =>
    obtain ⟨i, v⟩ := e
    by_cases hi : i = j
    · subst hi
      simp [mkeep, h, mget]
    · simp only [mkeep, List.filter_cons, mget, hi, if_false] at ih ⊢
      split
      · simp only [mget, hi, if_false]
        exact ih
      · exact ih

theorem mkeep_ne {p : Nat → Bool} {m : List (Nat × α)} {j : Nat} (h : p j = false) : ∀ e ∈ mkeep p m, e.1 ≠ j := by
  intro e he hj
  simp only [mkeep, List.mem_filter] at he
  rw [hj, h] at he
  exact absurd he.2 (by simp)

theorem mem_mspan [DecidableEq α] (d : Nat → α) {e : Nat × α} : ∀ {p : Nat} {l : List α}, e ∈ mspan d p l →
    p ≤ e.1 ∧ e.1 < p + l.length ∧ e.2 ≠ d e.1
  | _, [], h => by simp [mspan] at h
  | p, v :: l, h => by
    unfold mspan at h
    split at h
    · have := mem_mspan d h
      simp only [List.length_cons]
      exact ⟨by omega, by omega, this.2.2⟩
    · rcases List.mem_cons.1 h with rfl | h
      · simp only [List.length_cons]
        exact ⟨by omega, by omega, by assumption⟩
      · have := mem_mspan d h
        simp only [List.length_cons]
        exact ⟨by omega, by omega, this.2.2⟩

/-- A read outside a range written gives what it gave. -/
theorem mget_mrange_out [DecidableEq α] (d : Nat → α) (m : List (Nat × α)) (p : Nat) (l : List α) {j : Nat}
    (h : j < p ∨ p + l.length ≤ j) : mget d (mrange d m p l) j = mget d m j := by
  unfold mrange
  have hs : ∀ e ∈ mspan d p l, e.1 ≠ j := fun e he => by have := mem_mspan d he; omega
  rcases h with h | h
  · by_cases hm : ∃ e ∈ m, e.1 = j
    · have key : mget d (mkeep (fun i => decide (i < p)) m) j = mget d m j := mget_mkeep d _ m (by simpa using h)
      have aux : ∀ (a b : List (Nat × α)), (∃ e ∈ a, e.1 = j) → mget d (a ++ b) j = mget d a j := by
        intro a b
        induction a with
        | nil => rintro ⟨e, he, -⟩; cases he
        | cons e a ih =>
          obtain ⟨i, v⟩ := e
          rintro ⟨e', he', hj⟩
          by_cases hi : i = j
          · simp [mget, hi]
          · simp only [List.cons_append, mget, hi, if_false]
            refine ih ⟨e', ?_, hj⟩
            rcases List.mem_cons.1 he' with h' | h'
            · rw [h'] at hj; exact absurd hj hi
            · exact h'
      rw [aux, key]
      obtain ⟨e, he, hj⟩ := hm
      exact ⟨e, by simp only [mkeep, List.mem_filter]; exact ⟨he, by rw [hj]; simpa using h⟩, hj⟩
    · have hn : ∀ e ∈ m, e.1 ≠ j := fun e he hj => hm ⟨e, he, hj⟩
      have h1 : ∀ e ∈ mkeep (fun i => decide (i < p)) m, e.1 ≠ j := fun e he => hn e (List.mem_filter.1 he).1
      have h2 : ∀ e ∈ mkeep (fun i => decide (p + l.length ≤ i)) m, e.1 ≠ j := fun e he => hn e (List.mem_filter.1 he).1
      rw [mget_append_none d _ h1, mget_append_none d _ hs, mget_absent d h2, mget_absent d hn]
  · rw [mget_append_none d _ (mkeep_ne (by simp; omega)), mget_append_none d _ hs, mget_mkeep d _ m (by simpa using h)]

theorem mget_mspan [DecidableEq α] (d : Nat → α) (n : List (Nat × α)) : ∀ (p : Nat) (l : List α) (i : Nat) (hi : i < l.length),
    (∀ e ∈ n, p + l.length ≤ e.1) → mget d (mspan d p l ++ n) (p + i) = l[i]
  | _, [], _, hi, _ => by simp at hi
  | p, v :: l, 0, _, hn => by
    unfold mspan
    split
    · next hv =>
      rw [mget_absent]
      · simp [hv]
      · intro e he
        rcases List.mem_append.1 he with he | he
        · have := mem_mspan d he; omega
        · have := hn e he
          simp only [List.length_cons] at this; omega
    · simp [mget]
  | p, v :: l, i + 1, hi, hn => by
    have ih := mget_mspan d n (p + 1) l i (by simpa using hi) (fun e he => by have := hn e he; simp only [List.length_cons] at this; omega)
    rw [show p + 1 + i = p + (i + 1) by omega] at ih
    unfold mspan
    split
    · simpa using ih
    · simp only [List.cons_append, mget]
      rw [if_neg (by omega)]
      simpa using ih

/-- A read inside a range written gives the value. -/
theorem mget_mrange_in [DecidableEq α] (d : Nat → α) (m : List (Nat × α)) (p : Nat) (l : List α) (i : Nat) (hi : i < l.length) :
    mget d (mrange d m p l) (p + i) = l[i] := by
  unfold mrange
  rw [mget_append_none d _ (mkeep_ne (by simp))]
  exact mget_mspan d _ p l i hi (fun e he => by simpa using (List.mem_filter.1 he).2)

theorem mrising_append {a b : List (Nat × α)} : ∀ {o : Option Nat}, mrising o a = true → mrising o b = true →
    (∀ x ∈ a, ∀ y ∈ b, x.1 < y.1) → mrising o (a ++ b) = true := by
  induction a with
  | nil => intro o _ hb _; exact hb
  | cons e a ih =>
    obtain ⟨i, v⟩ := e
    intro o ha hb h
    have hbi : mrising (some i) b = true := by
      cases b with
      | nil => rfl
      | cons f b =>
        obtain ⟨k, w⟩ := f
        have := h (i, v) (by simp) (k, w) (by simp)
        cases o with
        | none => simp only [mrising] at hb ⊢; simp [hb, this]
        | some o => simp only [mrising, Bool.and_eq_true] at hb ⊢; simp [hb.2, this]
    cases o with
    | none =>
      simp only [List.cons_append, mrising] at ha ⊢
      exact ih ha hbi (fun x hx y hy => h x (by simp [hx]) y hy)
    | some o =>
      simp only [List.cons_append, mrising, Bool.and_eq_true] at ha ⊢
      exact ⟨ha.1, ih ha.2 hbi (fun x hx y hy => h x (by simp [hx]) y hy)⟩

theorem mrising_mspan [DecidableEq α] (d : Nat → α) : ∀ (p : Nat) (l : List α) (o : Option Nat), (∀ x, o = some x → x < p) →
    mrising o (mspan d p l) = true
  | _, [], o, _ => by cases o <;> rfl
  | p, v :: l, o, h => by
    unfold mspan
    split
    · exact mrising_mspan d (p + 1) l o (fun x hx => by have := h x hx; omega)
    · have ih := mrising_mspan d (p + 1) l (some p) (fun x hx => by cases hx; omega)
      cases o with
      | none => simpa only [mrising] using ih
      | some o => simp only [mrising, Bool.and_eq_true, decide_eq_true_eq]; exact ⟨h o rfl, ih⟩

/-- A range write keeps the canonical form. -/
theorem mwf_mrange [DecidableEq α] (d : Nat → α) {m : List (Nat × α)} (p : Nat) (l : List α) (h : mwf d m = true) :
    mwf d (mrange d m p l) = true := by
  have hl := mwf_mkeep d (fun i => decide (i < p)) h
  have hr := mwf_mkeep d (fun i => decide (p + l.length ≤ i)) h
  have hlm : ∀ e ∈ mkeep (fun i => decide (i < p)) m, e.1 < p := fun e he => by simpa using (List.mem_filter.1 he).2
  have hrm : ∀ e ∈ mkeep (fun i => decide (p + l.length ≤ i)) m, p + l.length ≤ e.1 :=
    fun e he => by simpa using (List.mem_filter.1 he).2
  simp only [mwf, Bool.and_eq_true, List.all_eq_true, decide_eq_true_eq, mrange] at hl hr ⊢
  refine ⟨mrising_append hl.1 (mrising_append (mrising_mspan d p l none (by simp)) hr.1 ?_) ?_, ?_⟩
  · intro x hx y hy
    have := mem_mspan d hx; have := hrm y hy; omega
  · intro x hx y hy
    have := hlm x hx
    rcases List.mem_append.1 hy with hy | hy
    · have := mem_mspan d hy; omega
    · have := hrm y hy; omega
  · intro e he
    rcases List.mem_append.1 he with he | he
    · exact hl.2 e he
    · rcases List.mem_append.1 he with he | he
      · exact (mem_mspan d he).2.2
      · exact hr.2 e he

end Sys2Proof
end

