-- ==== Sys2Proof/Laws/State.lean ====
section
/-! SUPPORT. What each update of the state leaves in each field: one lemma per field per update. -/

namespace Sys2Proof.Machine

@[simp] theorem State.setReg_now (s : State) (a w) : (s.setReg a w).now = s.now := rfl
@[simp] theorem State.setReg_draws (s : State) (a w) : (s.setReg a w).draws = s.draws := rfl
@[simp] theorem State.setReg_fresh (s : State) (a w) : (s.setReg a w).fresh = s.fresh := rfl
@[simp] theorem State.setReg_mode (s : State) (a w) : (s.setReg a w).mode = s.mode := rfl
@[simp] theorem State.setReg_sub (s : State) (a w) : (s.setReg a w).sub = s.sub := rfl
@[simp] theorem State.setReg_regs (s : State) (a w) : (s.setReg a w).regs = mset regDflt s.regs a w := rfl
@[simp] theorem State.setReg_shadow (s : State) (a w) : (s.setReg a w).shadow = s.shadow := rfl
@[simp] theorem State.setReg_mem (s : State) (a w) : (s.setReg a w).mem = s.mem := rfl
@[simp] theorem State.setReg_ecc (s : State) (a w) : (s.setReg a w).ecc = s.ecc := rfl
@[simp] theorem State.setReg_pwr (s : State) (a w) : (s.setReg a w).pwr = s.pwr := rfl
@[simp] theorem State.setReg_brg (s : State) (a w) : (s.setReg a w).brg = s.brg := rfl
@[simp] theorem State.setReg_spp (s : State) (a w) : (s.setReg a w).spp = s.spp := rfl
@[simp] theorem State.setReg_cp (s : State) (a w) : (s.setReg a w).cp = s.cp := rfl
@[simp] theorem State.setReg_icu (s : State) (a w) : (s.setReg a w).icu = s.icu := rfl
@[simp] theorem State.setReg_banks (s : State) (a w) : (s.setReg a w).banks = s.banks := rfl
@[simp] theorem State.setReg_dma (s : State) (a w) : (s.setReg a w).dma = s.dma := rfl
@[simp] theorem State.setReg_scrub (s : State) (a w) : (s.setReg a w).scrub = s.scrub := rfl
@[simp] theorem State.setReg_mir (s : State) (a w) : (s.setReg a w).mir = s.mir := rfl
@[simp] theorem State.setReg_hgrp (s : State) (a w) : (s.setReg a w).hgrp = s.hgrp := rfl
@[simp] theorem State.setReg_hwm (s : State) (a w) : (s.setReg a w).hwm = s.hwm := rfl
@[simp] theorem State.setReg_evc (s : State) (a w) : (s.setReg a w).evc = s.evc := rfl
@[simp] theorem State.setReg_bist (s : State) (a w) : (s.setReg a w).bist = s.bist := rfl
@[simp] theorem State.setReg_mgn (s : State) (a w) : (s.setReg a w).mgn = s.mgn := rfl
@[simp] theorem State.setReg_inj (s : State) (a w) : (s.setReg a w).inj = s.inj := rfl
@[simp] theorem State.setReg_lnk (s : State) (a w) : (s.setReg a w).lnk = s.lnk := rfl
@[simp] theorem State.setReg_legs (s : State) (a w) : (s.setReg a w).legs = s.legs := rfl
@[simp] theorem State.setReg_pgrp (s : State) (a w) : (s.setReg a w).pgrp = s.pgrp := rfl
@[simp] theorem State.setReg_adc (s : State) (a w) : (s.setReg a w).adc = s.adc := rfl
@[simp] theorem State.setReg_fbp (s : State) (a w) : (s.setReg a w).fbp = s.fbp := rfl
@[simp] theorem State.setReg_wheels (s : State) (a w) : (s.setReg a w).wheels = s.wheels := rfl
@[simp] theorem State.setReg_sents (s : State) (a w) : (s.setReg a w).sents = s.sents := rfl
@[simp] theorem State.setReg_prs (s : State) (a w) : (s.setReg a w).prs = s.prs := rfl
@[simp] theorem State.setReg_lup (s : State) (a w) : (s.setReg a w).lup = s.lup := rfl
@[simp] theorem State.setReg_fifo (s : State) (a w) : (s.setReg a w).fifo = s.fifo := rfl
@[simp] theorem State.setReg_krg (s : State) (a w) : (s.setReg a w).krg = s.krg := rfl
@[simp] theorem State.setReg_grd (s : State) (a w) : (s.setReg a w).grd = s.grd := rfl
@[simp] theorem State.setReg_can (s : State) (a w) : (s.setReg a w).can = s.can := rfl
@[simp] theorem State.setReg_pending (s : State) (a w) : (s.setReg a w).pending = s.pending := rfl

@[simp] theorem State.setShd_now (s : State) (a w) : (s.setShd a w).now = s.now := rfl
@[simp] theorem State.setShd_draws (s : State) (a w) : (s.setShd a w).draws = s.draws := rfl
@[simp] theorem State.setShd_fresh (s : State) (a w) : (s.setShd a w).fresh = s.fresh := rfl
@[simp] theorem State.setShd_mode (s : State) (a w) : (s.setShd a w).mode = s.mode := rfl
@[simp] theorem State.setShd_sub (s : State) (a w) : (s.setShd a w).sub = s.sub := rfl
@[simp] theorem State.setShd_regs (s : State) (a w) : (s.setShd a w).regs = s.regs := rfl
@[simp] theorem State.setShd_shadow (s : State) (a w) : (s.setShd a w).shadow = mset regDflt s.shadow a w := rfl
@[simp] theorem State.setShd_mem (s : State) (a w) : (s.setShd a w).mem = s.mem := rfl
@[simp] theorem State.setShd_ecc (s : State) (a w) : (s.setShd a w).ecc = s.ecc := rfl
@[simp] theorem State.setShd_pwr (s : State) (a w) : (s.setShd a w).pwr = s.pwr := rfl
@[simp] theorem State.setShd_brg (s : State) (a w) : (s.setShd a w).brg = s.brg := rfl
@[simp] theorem State.setShd_spp (s : State) (a w) : (s.setShd a w).spp = s.spp := rfl
@[simp] theorem State.setShd_cp (s : State) (a w) : (s.setShd a w).cp = s.cp := rfl
@[simp] theorem State.setShd_icu (s : State) (a w) : (s.setShd a w).icu = s.icu := rfl
@[simp] theorem State.setShd_banks (s : State) (a w) : (s.setShd a w).banks = s.banks := rfl
@[simp] theorem State.setShd_dma (s : State) (a w) : (s.setShd a w).dma = s.dma := rfl
@[simp] theorem State.setShd_scrub (s : State) (a w) : (s.setShd a w).scrub = s.scrub := rfl
@[simp] theorem State.setShd_mir (s : State) (a w) : (s.setShd a w).mir = s.mir := rfl
@[simp] theorem State.setShd_hgrp (s : State) (a w) : (s.setShd a w).hgrp = s.hgrp := rfl
@[simp] theorem State.setShd_hwm (s : State) (a w) : (s.setShd a w).hwm = s.hwm := rfl
@[simp] theorem State.setShd_evc (s : State) (a w) : (s.setShd a w).evc = s.evc := rfl
@[simp] theorem State.setShd_bist (s : State) (a w) : (s.setShd a w).bist = s.bist := rfl
@[simp] theorem State.setShd_mgn (s : State) (a w) : (s.setShd a w).mgn = s.mgn := rfl
@[simp] theorem State.setShd_inj (s : State) (a w) : (s.setShd a w).inj = s.inj := rfl
@[simp] theorem State.setShd_lnk (s : State) (a w) : (s.setShd a w).lnk = s.lnk := rfl
@[simp] theorem State.setShd_legs (s : State) (a w) : (s.setShd a w).legs = s.legs := rfl
@[simp] theorem State.setShd_pgrp (s : State) (a w) : (s.setShd a w).pgrp = s.pgrp := rfl
@[simp] theorem State.setShd_adc (s : State) (a w) : (s.setShd a w).adc = s.adc := rfl
@[simp] theorem State.setShd_fbp (s : State) (a w) : (s.setShd a w).fbp = s.fbp := rfl
@[simp] theorem State.setShd_wheels (s : State) (a w) : (s.setShd a w).wheels = s.wheels := rfl
@[simp] theorem State.setShd_sents (s : State) (a w) : (s.setShd a w).sents = s.sents := rfl
@[simp] theorem State.setShd_prs (s : State) (a w) : (s.setShd a w).prs = s.prs := rfl
@[simp] theorem State.setShd_lup (s : State) (a w) : (s.setShd a w).lup = s.lup := rfl
@[simp] theorem State.setShd_fifo (s : State) (a w) : (s.setShd a w).fifo = s.fifo := rfl
@[simp] theorem State.setShd_krg (s : State) (a w) : (s.setShd a w).krg = s.krg := rfl
@[simp] theorem State.setShd_grd (s : State) (a w) : (s.setShd a w).grd = s.grd := rfl
@[simp] theorem State.setShd_can (s : State) (a w) : (s.setShd a w).can = s.can := rfl
@[simp] theorem State.setShd_pending (s : State) (a w) : (s.setShd a w).pending = s.pending := rfl

@[simp] theorem State.setByte_now (s : State) (a b) : (s.setByte a b).now = s.now := rfl
@[simp] theorem State.setByte_draws (s : State) (a b) : (s.setByte a b).draws = s.draws := rfl
@[simp] theorem State.setByte_fresh (s : State) (a b) : (s.setByte a b).fresh = s.fresh := rfl
@[simp] theorem State.setByte_mode (s : State) (a b) : (s.setByte a b).mode = s.mode := rfl
@[simp] theorem State.setByte_sub (s : State) (a b) : (s.setByte a b).sub = s.sub := rfl
@[simp] theorem State.setByte_regs (s : State) (a b) : (s.setByte a b).regs = s.regs := rfl
@[simp] theorem State.setByte_shadow (s : State) (a b) : (s.setByte a b).shadow = s.shadow := rfl
@[simp] theorem State.setByte_mem (s : State) (a b) : (s.setByte a b).mem = mset memDflt s.mem a b := rfl
@[simp] theorem State.setByte_ecc (s : State) (a b) : (s.setByte a b).ecc = s.ecc := rfl
@[simp] theorem State.setByte_pwr (s : State) (a b) : (s.setByte a b).pwr = s.pwr := rfl
@[simp] theorem State.setByte_brg (s : State) (a b) : (s.setByte a b).brg = s.brg := rfl
@[simp] theorem State.setByte_spp (s : State) (a b) : (s.setByte a b).spp = s.spp := rfl
@[simp] theorem State.setByte_cp (s : State) (a b) : (s.setByte a b).cp = s.cp := rfl
@[simp] theorem State.setByte_icu (s : State) (a b) : (s.setByte a b).icu = s.icu := rfl
@[simp] theorem State.setByte_banks (s : State) (a b) : (s.setByte a b).banks = s.banks := rfl
@[simp] theorem State.setByte_dma (s : State) (a b) : (s.setByte a b).dma = s.dma := rfl
@[simp] theorem State.setByte_scrub (s : State) (a b) : (s.setByte a b).scrub = s.scrub := rfl
@[simp] theorem State.setByte_mir (s : State) (a b) : (s.setByte a b).mir = s.mir := rfl
@[simp] theorem State.setByte_hgrp (s : State) (a b) : (s.setByte a b).hgrp = s.hgrp := rfl
@[simp] theorem State.setByte_hwm (s : State) (a b) : (s.setByte a b).hwm = s.hwm := rfl
@[simp] theorem State.setByte_evc (s : State) (a b) : (s.setByte a b).evc = s.evc := rfl
@[simp] theorem State.setByte_bist (s : State) (a b) : (s.setByte a b).bist = s.bist := rfl
@[simp] theorem State.setByte_mgn (s : State) (a b) : (s.setByte a b).mgn = s.mgn := rfl
@[simp] theorem State.setByte_inj (s : State) (a b) : (s.setByte a b).inj = s.inj := rfl
@[simp] theorem State.setByte_lnk (s : State) (a b) : (s.setByte a b).lnk = s.lnk := rfl
@[simp] theorem State.setByte_legs (s : State) (a b) : (s.setByte a b).legs = s.legs := rfl
@[simp] theorem State.setByte_pgrp (s : State) (a b) : (s.setByte a b).pgrp = s.pgrp := rfl
@[simp] theorem State.setByte_adc (s : State) (a b) : (s.setByte a b).adc = s.adc := rfl
@[simp] theorem State.setByte_fbp (s : State) (a b) : (s.setByte a b).fbp = s.fbp := rfl
@[simp] theorem State.setByte_wheels (s : State) (a b) : (s.setByte a b).wheels = s.wheels := rfl
@[simp] theorem State.setByte_sents (s : State) (a b) : (s.setByte a b).sents = s.sents := rfl
@[simp] theorem State.setByte_prs (s : State) (a b) : (s.setByte a b).prs = s.prs := rfl
@[simp] theorem State.setByte_lup (s : State) (a b) : (s.setByte a b).lup = s.lup := rfl
@[simp] theorem State.setByte_fifo (s : State) (a b) : (s.setByte a b).fifo = s.fifo := rfl
@[simp] theorem State.setByte_krg (s : State) (a b) : (s.setByte a b).krg = s.krg := rfl
@[simp] theorem State.setByte_grd (s : State) (a b) : (s.setByte a b).grd = s.grd := rfl
@[simp] theorem State.setByte_can (s : State) (a b) : (s.setByte a b).can = s.can := rfl
@[simp] theorem State.setByte_pending (s : State) (a b) : (s.setByte a b).pending = s.pending := rfl

@[simp] theorem State.setBytes_now (s : State) (a l) : (s.setBytes a l).now = s.now := rfl
@[simp] theorem State.setBytes_draws (s : State) (a l) : (s.setBytes a l).draws = s.draws := rfl
@[simp] theorem State.setBytes_fresh (s : State) (a l) : (s.setBytes a l).fresh = s.fresh := rfl
@[simp] theorem State.setBytes_mode (s : State) (a l) : (s.setBytes a l).mode = s.mode := rfl
@[simp] theorem State.setBytes_sub (s : State) (a l) : (s.setBytes a l).sub = s.sub := rfl
@[simp] theorem State.setBytes_regs (s : State) (a l) : (s.setBytes a l).regs = s.regs := rfl
@[simp] theorem State.setBytes_shadow (s : State) (a l) : (s.setBytes a l).shadow = s.shadow := rfl
@[simp] theorem State.setBytes_mem (s : State) (a l) : (s.setBytes a l).mem = mrange memDflt s.mem a l := rfl
@[simp] theorem State.setBytes_ecc (s : State) (a l) : (s.setBytes a l).ecc = s.ecc := rfl
@[simp] theorem State.setBytes_pwr (s : State) (a l) : (s.setBytes a l).pwr = s.pwr := rfl
@[simp] theorem State.setBytes_brg (s : State) (a l) : (s.setBytes a l).brg = s.brg := rfl
@[simp] theorem State.setBytes_spp (s : State) (a l) : (s.setBytes a l).spp = s.spp := rfl
@[simp] theorem State.setBytes_cp (s : State) (a l) : (s.setBytes a l).cp = s.cp := rfl
@[simp] theorem State.setBytes_icu (s : State) (a l) : (s.setBytes a l).icu = s.icu := rfl
@[simp] theorem State.setBytes_banks (s : State) (a l) : (s.setBytes a l).banks = s.banks := rfl
@[simp] theorem State.setBytes_dma (s : State) (a l) : (s.setBytes a l).dma = s.dma := rfl
@[simp] theorem State.setBytes_scrub (s : State) (a l) : (s.setBytes a l).scrub = s.scrub := rfl
@[simp] theorem State.setBytes_mir (s : State) (a l) : (s.setBytes a l).mir = s.mir := rfl
@[simp] theorem State.setBytes_hgrp (s : State) (a l) : (s.setBytes a l).hgrp = s.hgrp := rfl
@[simp] theorem State.setBytes_hwm (s : State) (a l) : (s.setBytes a l).hwm = s.hwm := rfl
@[simp] theorem State.setBytes_evc (s : State) (a l) : (s.setBytes a l).evc = s.evc := rfl
@[simp] theorem State.setBytes_bist (s : State) (a l) : (s.setBytes a l).bist = s.bist := rfl
@[simp] theorem State.setBytes_mgn (s : State) (a l) : (s.setBytes a l).mgn = s.mgn := rfl
@[simp] theorem State.setBytes_inj (s : State) (a l) : (s.setBytes a l).inj = s.inj := rfl
@[simp] theorem State.setBytes_lnk (s : State) (a l) : (s.setBytes a l).lnk = s.lnk := rfl
@[simp] theorem State.setBytes_legs (s : State) (a l) : (s.setBytes a l).legs = s.legs := rfl
@[simp] theorem State.setBytes_pgrp (s : State) (a l) : (s.setBytes a l).pgrp = s.pgrp := rfl
@[simp] theorem State.setBytes_adc (s : State) (a l) : (s.setBytes a l).adc = s.adc := rfl
@[simp] theorem State.setBytes_fbp (s : State) (a l) : (s.setBytes a l).fbp = s.fbp := rfl
@[simp] theorem State.setBytes_wheels (s : State) (a l) : (s.setBytes a l).wheels = s.wheels := rfl
@[simp] theorem State.setBytes_sents (s : State) (a l) : (s.setBytes a l).sents = s.sents := rfl
@[simp] theorem State.setBytes_prs (s : State) (a l) : (s.setBytes a l).prs = s.prs := rfl
@[simp] theorem State.setBytes_lup (s : State) (a l) : (s.setBytes a l).lup = s.lup := rfl
@[simp] theorem State.setBytes_fifo (s : State) (a l) : (s.setBytes a l).fifo = s.fifo := rfl
@[simp] theorem State.setBytes_krg (s : State) (a l) : (s.setBytes a l).krg = s.krg := rfl
@[simp] theorem State.setBytes_grd (s : State) (a l) : (s.setBytes a l).grd = s.grd := rfl
@[simp] theorem State.setBytes_can (s : State) (a l) : (s.setBytes a l).can = s.can := rfl
@[simp] theorem State.setBytes_pending (s : State) (a l) : (s.setBytes a l).pending = s.pending := rfl

@[simp] theorem State.mark_now (s : State) (a m) : (s.mark a m).now = s.now := rfl
@[simp] theorem State.mark_draws (s : State) (a m) : (s.mark a m).draws = s.draws := rfl
@[simp] theorem State.mark_fresh (s : State) (a m) : (s.mark a m).fresh = { s.fresh with bits := if m = 0 then s.fresh.bits else (a, m) :: s.fresh.bits } := rfl
@[simp] theorem State.mark_mode (s : State) (a m) : (s.mark a m).mode = s.mode := rfl
@[simp] theorem State.mark_sub (s : State) (a m) : (s.mark a m).sub = s.sub := rfl
@[simp] theorem State.mark_regs (s : State) (a m) : (s.mark a m).regs = s.regs := rfl
@[simp] theorem State.mark_shadow (s : State) (a m) : (s.mark a m).shadow = s.shadow := rfl
@[simp] theorem State.mark_mem (s : State) (a m) : (s.mark a m).mem = s.mem := rfl
@[simp] theorem State.mark_ecc (s : State) (a m) : (s.mark a m).ecc = s.ecc := rfl
@[simp] theorem State.mark_pwr (s : State) (a m) : (s.mark a m).pwr = s.pwr := rfl
@[simp] theorem State.mark_brg (s : State) (a m) : (s.mark a m).brg = s.brg := rfl
@[simp] theorem State.mark_spp (s : State) (a m) : (s.mark a m).spp = s.spp := rfl
@[simp] theorem State.mark_cp (s : State) (a m) : (s.mark a m).cp = s.cp := rfl
@[simp] theorem State.mark_icu (s : State) (a m) : (s.mark a m).icu = s.icu := rfl
@[simp] theorem State.mark_banks (s : State) (a m) : (s.mark a m).banks = s.banks := rfl
@[simp] theorem State.mark_dma (s : State) (a m) : (s.mark a m).dma = s.dma := rfl
@[simp] theorem State.mark_scrub (s : State) (a m) : (s.mark a m).scrub = s.scrub := rfl
@[simp] theorem State.mark_mir (s : State) (a m) : (s.mark a m).mir = s.mir := rfl
@[simp] theorem State.mark_hgrp (s : State) (a m) : (s.mark a m).hgrp = s.hgrp := rfl
@[simp] theorem State.mark_hwm (s : State) (a m) : (s.mark a m).hwm = s.hwm := rfl
@[simp] theorem State.mark_evc (s : State) (a m) : (s.mark a m).evc = s.evc := rfl
@[simp] theorem State.mark_bist (s : State) (a m) : (s.mark a m).bist = s.bist := rfl
@[simp] theorem State.mark_mgn (s : State) (a m) : (s.mark a m).mgn = s.mgn := rfl
@[simp] theorem State.mark_inj (s : State) (a m) : (s.mark a m).inj = s.inj := rfl
@[simp] theorem State.mark_lnk (s : State) (a m) : (s.mark a m).lnk = s.lnk := rfl
@[simp] theorem State.mark_legs (s : State) (a m) : (s.mark a m).legs = s.legs := rfl
@[simp] theorem State.mark_pgrp (s : State) (a m) : (s.mark a m).pgrp = s.pgrp := rfl
@[simp] theorem State.mark_adc (s : State) (a m) : (s.mark a m).adc = s.adc := rfl
@[simp] theorem State.mark_fbp (s : State) (a m) : (s.mark a m).fbp = s.fbp := rfl
@[simp] theorem State.mark_wheels (s : State) (a m) : (s.mark a m).wheels = s.wheels := rfl
@[simp] theorem State.mark_sents (s : State) (a m) : (s.mark a m).sents = s.sents := rfl
@[simp] theorem State.mark_prs (s : State) (a m) : (s.mark a m).prs = s.prs := rfl
@[simp] theorem State.mark_lup (s : State) (a m) : (s.mark a m).lup = s.lup := rfl
@[simp] theorem State.mark_fifo (s : State) (a m) : (s.mark a m).fifo = s.fifo := rfl
@[simp] theorem State.mark_krg (s : State) (a m) : (s.mark a m).krg = s.krg := rfl
@[simp] theorem State.mark_grd (s : State) (a m) : (s.mark a m).grd = s.grd := rfl
@[simp] theorem State.mark_can (s : State) (a m) : (s.mark a m).can = s.can := rfl
@[simp] theorem State.mark_pending (s : State) (a m) : (s.mark a m).pending = s.pending := rfl

@[simp] theorem State.setErrs_now (s : State) (a n) : (s.setErrs a n).now = s.now := rfl
@[simp] theorem State.setErrs_draws (s : State) (a n) : (s.setErrs a n).draws = s.draws := rfl
@[simp] theorem State.setErrs_fresh (s : State) (a n) : (s.setErrs a n).fresh = s.fresh := rfl
@[simp] theorem State.setErrs_mode (s : State) (a n) : (s.setErrs a n).mode = s.mode := rfl
@[simp] theorem State.setErrs_sub (s : State) (a n) : (s.setErrs a n).sub = s.sub := rfl
@[simp] theorem State.setErrs_regs (s : State) (a n) : (s.setErrs a n).regs = s.regs := rfl
@[simp] theorem State.setErrs_shadow (s : State) (a n) : (s.setErrs a n).shadow = s.shadow := rfl
@[simp] theorem State.setErrs_mem (s : State) (a n) : (s.setErrs a n).mem = s.mem := rfl
@[simp] theorem State.setErrs_ecc (s : State) (a n) : (s.setErrs a n).ecc = mset (fun _ => 0) s.ecc (a / 8 * 8) n := rfl
@[simp] theorem State.setErrs_pwr (s : State) (a n) : (s.setErrs a n).pwr = s.pwr := rfl
@[simp] theorem State.setErrs_brg (s : State) (a n) : (s.setErrs a n).brg = s.brg := rfl
@[simp] theorem State.setErrs_spp (s : State) (a n) : (s.setErrs a n).spp = s.spp := rfl
@[simp] theorem State.setErrs_cp (s : State) (a n) : (s.setErrs a n).cp = s.cp := rfl
@[simp] theorem State.setErrs_icu (s : State) (a n) : (s.setErrs a n).icu = s.icu := rfl
@[simp] theorem State.setErrs_banks (s : State) (a n) : (s.setErrs a n).banks = s.banks := rfl
@[simp] theorem State.setErrs_dma (s : State) (a n) : (s.setErrs a n).dma = s.dma := rfl
@[simp] theorem State.setErrs_scrub (s : State) (a n) : (s.setErrs a n).scrub = s.scrub := rfl
@[simp] theorem State.setErrs_mir (s : State) (a n) : (s.setErrs a n).mir = s.mir := rfl
@[simp] theorem State.setErrs_hgrp (s : State) (a n) : (s.setErrs a n).hgrp = s.hgrp := rfl
@[simp] theorem State.setErrs_hwm (s : State) (a n) : (s.setErrs a n).hwm = s.hwm := rfl
@[simp] theorem State.setErrs_evc (s : State) (a n) : (s.setErrs a n).evc = s.evc := rfl
@[simp] theorem State.setErrs_bist (s : State) (a n) : (s.setErrs a n).bist = s.bist := rfl
@[simp] theorem State.setErrs_mgn (s : State) (a n) : (s.setErrs a n).mgn = s.mgn := rfl
@[simp] theorem State.setErrs_inj (s : State) (a n) : (s.setErrs a n).inj = s.inj := rfl
@[simp] theorem State.setErrs_lnk (s : State) (a n) : (s.setErrs a n).lnk = s.lnk := rfl
@[simp] theorem State.setErrs_legs (s : State) (a n) : (s.setErrs a n).legs = s.legs := rfl
@[simp] theorem State.setErrs_pgrp (s : State) (a n) : (s.setErrs a n).pgrp = s.pgrp := rfl
@[simp] theorem State.setErrs_adc (s : State) (a n) : (s.setErrs a n).adc = s.adc := rfl
@[simp] theorem State.setErrs_fbp (s : State) (a n) : (s.setErrs a n).fbp = s.fbp := rfl
@[simp] theorem State.setErrs_wheels (s : State) (a n) : (s.setErrs a n).wheels = s.wheels := rfl
@[simp] theorem State.setErrs_sents (s : State) (a n) : (s.setErrs a n).sents = s.sents := rfl
@[simp] theorem State.setErrs_prs (s : State) (a n) : (s.setErrs a n).prs = s.prs := rfl
@[simp] theorem State.setErrs_lup (s : State) (a n) : (s.setErrs a n).lup = s.lup := rfl
@[simp] theorem State.setErrs_fifo (s : State) (a n) : (s.setErrs a n).fifo = s.fifo := rfl
@[simp] theorem State.setErrs_krg (s : State) (a n) : (s.setErrs a n).krg = s.krg := rfl
@[simp] theorem State.setErrs_grd (s : State) (a n) : (s.setErrs a n).grd = s.grd := rfl
@[simp] theorem State.setErrs_can (s : State) (a n) : (s.setErrs a n).can = s.can := rfl
@[simp] theorem State.setErrs_pending (s : State) (a n) : (s.setErrs a n).pending = s.pending := rfl

@[simp] theorem State.updGrp_now (s : State) (g f) : (s.updGrp g f).now = s.now := rfl
@[simp] theorem State.updGrp_draws (s : State) (g f) : (s.updGrp g f).draws = s.draws := rfl
@[simp] theorem State.updGrp_fresh (s : State) (g f) : (s.updGrp g f).fresh = s.fresh := rfl
@[simp] theorem State.updGrp_mode (s : State) (g f) : (s.updGrp g f).mode = s.mode := rfl
@[simp] theorem State.updGrp_sub (s : State) (g f) : (s.updGrp g f).sub = s.sub := rfl
@[simp] theorem State.updGrp_regs (s : State) (g f) : (s.updGrp g f).regs = s.regs := rfl
@[simp] theorem State.updGrp_shadow (s : State) (g f) : (s.updGrp g f).shadow = s.shadow := rfl
@[simp] theorem State.updGrp_mem (s : State) (g f) : (s.updGrp g f).mem = s.mem := rfl
@[simp] theorem State.updGrp_ecc (s : State) (g f) : (s.updGrp g f).ecc = s.ecc := rfl
@[simp] theorem State.updGrp_pwr (s : State) (g f) : (s.updGrp g f).pwr = s.pwr := rfl
@[simp] theorem State.updGrp_brg (s : State) (g f) : (s.updGrp g f).brg = s.brg := rfl
@[simp] theorem State.updGrp_spp (s : State) (g f) : (s.updGrp g f).spp = s.spp := rfl
@[simp] theorem State.updGrp_cp (s : State) (g f) : (s.updGrp g f).cp = s.cp := rfl
@[simp] theorem State.updGrp_icu (s : State) (g f) : (s.updGrp g f).icu = s.icu := rfl
@[simp] theorem State.updGrp_banks (s : State) (g f) : (s.updGrp g f).banks = s.banks := rfl
@[simp] theorem State.updGrp_dma (s : State) (g f) : (s.updGrp g f).dma = s.dma := rfl
@[simp] theorem State.updGrp_scrub (s : State) (g f) : (s.updGrp g f).scrub = s.scrub := rfl
@[simp] theorem State.updGrp_mir (s : State) (g f) : (s.updGrp g f).mir = s.mir := rfl
@[simp] theorem State.updGrp_hgrp (s : State) (g f) : (s.updGrp g f).hgrp = mupd (fun _ => {}) s.hgrp g f := rfl
@[simp] theorem State.updGrp_hwm (s : State) (g f) : (s.updGrp g f).hwm = s.hwm := rfl
@[simp] theorem State.updGrp_evc (s : State) (g f) : (s.updGrp g f).evc = s.evc := rfl
@[simp] theorem State.updGrp_bist (s : State) (g f) : (s.updGrp g f).bist = s.bist := rfl
@[simp] theorem State.updGrp_mgn (s : State) (g f) : (s.updGrp g f).mgn = s.mgn := rfl
@[simp] theorem State.updGrp_inj (s : State) (g f) : (s.updGrp g f).inj = s.inj := rfl
@[simp] theorem State.updGrp_lnk (s : State) (g f) : (s.updGrp g f).lnk = s.lnk := rfl
@[simp] theorem State.updGrp_legs (s : State) (g f) : (s.updGrp g f).legs = s.legs := rfl
@[simp] theorem State.updGrp_pgrp (s : State) (g f) : (s.updGrp g f).pgrp = s.pgrp := rfl
@[simp] theorem State.updGrp_adc (s : State) (g f) : (s.updGrp g f).adc = s.adc := rfl
@[simp] theorem State.updGrp_fbp (s : State) (g f) : (s.updGrp g f).fbp = s.fbp := rfl
@[simp] theorem State.updGrp_wheels (s : State) (g f) : (s.updGrp g f).wheels = s.wheels := rfl
@[simp] theorem State.updGrp_sents (s : State) (g f) : (s.updGrp g f).sents = s.sents := rfl
@[simp] theorem State.updGrp_prs (s : State) (g f) : (s.updGrp g f).prs = s.prs := rfl
@[simp] theorem State.updGrp_lup (s : State) (g f) : (s.updGrp g f).lup = s.lup := rfl
@[simp] theorem State.updGrp_fifo (s : State) (g f) : (s.updGrp g f).fifo = s.fifo := rfl
@[simp] theorem State.updGrp_krg (s : State) (g f) : (s.updGrp g f).krg = s.krg := rfl
@[simp] theorem State.updGrp_grd (s : State) (g f) : (s.updGrp g f).grd = s.grd := rfl
@[simp] theorem State.updGrp_can (s : State) (g f) : (s.updGrp g f).can = s.can := rfl
@[simp] theorem State.updGrp_pending (s : State) (g f) : (s.updGrp g f).pending = s.pending := rfl

@[simp] theorem State.updPwr_now (s : State) (f) : (s.updPwr f).now = s.now := rfl
@[simp] theorem State.updPwr_draws (s : State) (f) : (s.updPwr f).draws = s.draws := rfl
@[simp] theorem State.updPwr_fresh (s : State) (f) : (s.updPwr f).fresh = s.fresh := rfl
@[simp] theorem State.updPwr_mode (s : State) (f) : (s.updPwr f).mode = s.mode := rfl
@[simp] theorem State.updPwr_sub (s : State) (f) : (s.updPwr f).sub = s.sub := rfl
@[simp] theorem State.updPwr_regs (s : State) (f) : (s.updPwr f).regs = s.regs := rfl
@[simp] theorem State.updPwr_shadow (s : State) (f) : (s.updPwr f).shadow = s.shadow := rfl
@[simp] theorem State.updPwr_mem (s : State) (f) : (s.updPwr f).mem = s.mem := rfl
@[simp] theorem State.updPwr_ecc (s : State) (f) : (s.updPwr f).ecc = s.ecc := rfl
@[simp] theorem State.updPwr_pwr (s : State) (f) : (s.updPwr f).pwr = f s.pwr := rfl
@[simp] theorem State.updPwr_brg (s : State) (f) : (s.updPwr f).brg = s.brg := rfl
@[simp] theorem State.updPwr_spp (s : State) (f) : (s.updPwr f).spp = s.spp := rfl
@[simp] theorem State.updPwr_cp (s : State) (f) : (s.updPwr f).cp = s.cp := rfl
@[simp] theorem State.updPwr_icu (s : State) (f) : (s.updPwr f).icu = s.icu := rfl
@[simp] theorem State.updPwr_banks (s : State) (f) : (s.updPwr f).banks = s.banks := rfl
@[simp] theorem State.updPwr_dma (s : State) (f) : (s.updPwr f).dma = s.dma := rfl
@[simp] theorem State.updPwr_scrub (s : State) (f) : (s.updPwr f).scrub = s.scrub := rfl
@[simp] theorem State.updPwr_mir (s : State) (f) : (s.updPwr f).mir = s.mir := rfl
@[simp] theorem State.updPwr_hgrp (s : State) (f) : (s.updPwr f).hgrp = s.hgrp := rfl
@[simp] theorem State.updPwr_hwm (s : State) (f) : (s.updPwr f).hwm = s.hwm := rfl
@[simp] theorem State.updPwr_evc (s : State) (f) : (s.updPwr f).evc = s.evc := rfl
@[simp] theorem State.updPwr_bist (s : State) (f) : (s.updPwr f).bist = s.bist := rfl
@[simp] theorem State.updPwr_mgn (s : State) (f) : (s.updPwr f).mgn = s.mgn := rfl
@[simp] theorem State.updPwr_inj (s : State) (f) : (s.updPwr f).inj = s.inj := rfl
@[simp] theorem State.updPwr_lnk (s : State) (f) : (s.updPwr f).lnk = s.lnk := rfl
@[simp] theorem State.updPwr_legs (s : State) (f) : (s.updPwr f).legs = s.legs := rfl
@[simp] theorem State.updPwr_pgrp (s : State) (f) : (s.updPwr f).pgrp = s.pgrp := rfl
@[simp] theorem State.updPwr_adc (s : State) (f) : (s.updPwr f).adc = s.adc := rfl
@[simp] theorem State.updPwr_fbp (s : State) (f) : (s.updPwr f).fbp = s.fbp := rfl
@[simp] theorem State.updPwr_wheels (s : State) (f) : (s.updPwr f).wheels = s.wheels := rfl
@[simp] theorem State.updPwr_sents (s : State) (f) : (s.updPwr f).sents = s.sents := rfl
@[simp] theorem State.updPwr_prs (s : State) (f) : (s.updPwr f).prs = s.prs := rfl
@[simp] theorem State.updPwr_lup (s : State) (f) : (s.updPwr f).lup = s.lup := rfl
@[simp] theorem State.updPwr_fifo (s : State) (f) : (s.updPwr f).fifo = s.fifo := rfl
@[simp] theorem State.updPwr_krg (s : State) (f) : (s.updPwr f).krg = s.krg := rfl
@[simp] theorem State.updPwr_grd (s : State) (f) : (s.updPwr f).grd = s.grd := rfl
@[simp] theorem State.updPwr_can (s : State) (f) : (s.updPwr f).can = s.can := rfl
@[simp] theorem State.updPwr_pending (s : State) (f) : (s.updPwr f).pending = s.pending := rfl

@[simp] theorem State.updHwm_now (s : State) (f) : (s.updHwm f).now = s.now := rfl
@[simp] theorem State.updHwm_draws (s : State) (f) : (s.updHwm f).draws = s.draws := rfl
@[simp] theorem State.updHwm_fresh (s : State) (f) : (s.updHwm f).fresh = s.fresh := rfl
@[simp] theorem State.updHwm_mode (s : State) (f) : (s.updHwm f).mode = s.mode := rfl
@[simp] theorem State.updHwm_sub (s : State) (f) : (s.updHwm f).sub = s.sub := rfl
@[simp] theorem State.updHwm_regs (s : State) (f) : (s.updHwm f).regs = s.regs := rfl
@[simp] theorem State.updHwm_shadow (s : State) (f) : (s.updHwm f).shadow = s.shadow := rfl
@[simp] theorem State.updHwm_mem (s : State) (f) : (s.updHwm f).mem = s.mem := rfl
@[simp] theorem State.updHwm_ecc (s : State) (f) : (s.updHwm f).ecc = s.ecc := rfl
@[simp] theorem State.updHwm_pwr (s : State) (f) : (s.updHwm f).pwr = s.pwr := rfl
@[simp] theorem State.updHwm_brg (s : State) (f) : (s.updHwm f).brg = s.brg := rfl
@[simp] theorem State.updHwm_spp (s : State) (f) : (s.updHwm f).spp = s.spp := rfl
@[simp] theorem State.updHwm_cp (s : State) (f) : (s.updHwm f).cp = s.cp := rfl
@[simp] theorem State.updHwm_icu (s : State) (f) : (s.updHwm f).icu = s.icu := rfl
@[simp] theorem State.updHwm_banks (s : State) (f) : (s.updHwm f).banks = s.banks := rfl
@[simp] theorem State.updHwm_dma (s : State) (f) : (s.updHwm f).dma = s.dma := rfl
@[simp] theorem State.updHwm_scrub (s : State) (f) : (s.updHwm f).scrub = s.scrub := rfl
@[simp] theorem State.updHwm_mir (s : State) (f) : (s.updHwm f).mir = s.mir := rfl
@[simp] theorem State.updHwm_hgrp (s : State) (f) : (s.updHwm f).hgrp = s.hgrp := rfl
@[simp] theorem State.updHwm_hwm (s : State) (f) : (s.updHwm f).hwm = f s.hwm := rfl
@[simp] theorem State.updHwm_evc (s : State) (f) : (s.updHwm f).evc = s.evc := rfl
@[simp] theorem State.updHwm_bist (s : State) (f) : (s.updHwm f).bist = s.bist := rfl
@[simp] theorem State.updHwm_mgn (s : State) (f) : (s.updHwm f).mgn = s.mgn := rfl
@[simp] theorem State.updHwm_inj (s : State) (f) : (s.updHwm f).inj = s.inj := rfl
@[simp] theorem State.updHwm_lnk (s : State) (f) : (s.updHwm f).lnk = s.lnk := rfl
@[simp] theorem State.updHwm_legs (s : State) (f) : (s.updHwm f).legs = s.legs := rfl
@[simp] theorem State.updHwm_pgrp (s : State) (f) : (s.updHwm f).pgrp = s.pgrp := rfl
@[simp] theorem State.updHwm_adc (s : State) (f) : (s.updHwm f).adc = s.adc := rfl
@[simp] theorem State.updHwm_fbp (s : State) (f) : (s.updHwm f).fbp = s.fbp := rfl
@[simp] theorem State.updHwm_wheels (s : State) (f) : (s.updHwm f).wheels = s.wheels := rfl
@[simp] theorem State.updHwm_sents (s : State) (f) : (s.updHwm f).sents = s.sents := rfl
@[simp] theorem State.updHwm_prs (s : State) (f) : (s.updHwm f).prs = s.prs := rfl
@[simp] theorem State.updHwm_lup (s : State) (f) : (s.updHwm f).lup = s.lup := rfl
@[simp] theorem State.updHwm_fifo (s : State) (f) : (s.updHwm f).fifo = s.fifo := rfl
@[simp] theorem State.updHwm_krg (s : State) (f) : (s.updHwm f).krg = s.krg := rfl
@[simp] theorem State.updHwm_grd (s : State) (f) : (s.updHwm f).grd = s.grd := rfl
@[simp] theorem State.updHwm_can (s : State) (f) : (s.updHwm f).can = s.can := rfl
@[simp] theorem State.updHwm_pending (s : State) (f) : (s.updHwm f).pending = s.pending := rfl

@[simp] theorem State.updCp_now (s : State) (f) : (s.updCp f).now = s.now := rfl
@[simp] theorem State.updCp_draws (s : State) (f) : (s.updCp f).draws = s.draws := rfl
@[simp] theorem State.updCp_fresh (s : State) (f) : (s.updCp f).fresh = s.fresh := rfl
@[simp] theorem State.updCp_mode (s : State) (f) : (s.updCp f).mode = s.mode := rfl
@[simp] theorem State.updCp_sub (s : State) (f) : (s.updCp f).sub = s.sub := rfl
@[simp] theorem State.updCp_regs (s : State) (f) : (s.updCp f).regs = s.regs := rfl
@[simp] theorem State.updCp_shadow (s : State) (f) : (s.updCp f).shadow = s.shadow := rfl
@[simp] theorem State.updCp_mem (s : State) (f) : (s.updCp f).mem = s.mem := rfl
@[simp] theorem State.updCp_ecc (s : State) (f) : (s.updCp f).ecc = s.ecc := rfl
@[simp] theorem State.updCp_pwr (s : State) (f) : (s.updCp f).pwr = s.pwr := rfl
@[simp] theorem State.updCp_brg (s : State) (f) : (s.updCp f).brg = s.brg := rfl
@[simp] theorem State.updCp_spp (s : State) (f) : (s.updCp f).spp = s.spp := rfl
@[simp] theorem State.updCp_cp (s : State) (f) : (s.updCp f).cp = f s.cp := rfl
@[simp] theorem State.updCp_icu (s : State) (f) : (s.updCp f).icu = s.icu := rfl
@[simp] theorem State.updCp_banks (s : State) (f) : (s.updCp f).banks = s.banks := rfl
@[simp] theorem State.updCp_dma (s : State) (f) : (s.updCp f).dma = s.dma := rfl
@[simp] theorem State.updCp_scrub (s : State) (f) : (s.updCp f).scrub = s.scrub := rfl
@[simp] theorem State.updCp_mir (s : State) (f) : (s.updCp f).mir = s.mir := rfl
@[simp] theorem State.updCp_hgrp (s : State) (f) : (s.updCp f).hgrp = s.hgrp := rfl
@[simp] theorem State.updCp_hwm (s : State) (f) : (s.updCp f).hwm = s.hwm := rfl
@[simp] theorem State.updCp_evc (s : State) (f) : (s.updCp f).evc = s.evc := rfl
@[simp] theorem State.updCp_bist (s : State) (f) : (s.updCp f).bist = s.bist := rfl
@[simp] theorem State.updCp_mgn (s : State) (f) : (s.updCp f).mgn = s.mgn := rfl
@[simp] theorem State.updCp_inj (s : State) (f) : (s.updCp f).inj = s.inj := rfl
@[simp] theorem State.updCp_lnk (s : State) (f) : (s.updCp f).lnk = s.lnk := rfl
@[simp] theorem State.updCp_legs (s : State) (f) : (s.updCp f).legs = s.legs := rfl
@[simp] theorem State.updCp_pgrp (s : State) (f) : (s.updCp f).pgrp = s.pgrp := rfl
@[simp] theorem State.updCp_adc (s : State) (f) : (s.updCp f).adc = s.adc := rfl
@[simp] theorem State.updCp_fbp (s : State) (f) : (s.updCp f).fbp = s.fbp := rfl
@[simp] theorem State.updCp_wheels (s : State) (f) : (s.updCp f).wheels = s.wheels := rfl
@[simp] theorem State.updCp_sents (s : State) (f) : (s.updCp f).sents = s.sents := rfl
@[simp] theorem State.updCp_prs (s : State) (f) : (s.updCp f).prs = s.prs := rfl
@[simp] theorem State.updCp_lup (s : State) (f) : (s.updCp f).lup = s.lup := rfl
@[simp] theorem State.updCp_fifo (s : State) (f) : (s.updCp f).fifo = s.fifo := rfl
@[simp] theorem State.updCp_krg (s : State) (f) : (s.updCp f).krg = s.krg := rfl
@[simp] theorem State.updCp_grd (s : State) (f) : (s.updCp f).grd = s.grd := rfl
@[simp] theorem State.updCp_can (s : State) (f) : (s.updCp f).can = s.can := rfl
@[simp] theorem State.updCp_pending (s : State) (f) : (s.updCp f).pending = s.pending := rfl

@[simp] theorem State.updSpp_now (s : State) (f) : (s.updSpp f).now = s.now := rfl
@[simp] theorem State.updSpp_draws (s : State) (f) : (s.updSpp f).draws = s.draws := rfl
@[simp] theorem State.updSpp_fresh (s : State) (f) : (s.updSpp f).fresh = s.fresh := rfl
@[simp] theorem State.updSpp_mode (s : State) (f) : (s.updSpp f).mode = s.mode := rfl
@[simp] theorem State.updSpp_sub (s : State) (f) : (s.updSpp f).sub = s.sub := rfl
@[simp] theorem State.updSpp_regs (s : State) (f) : (s.updSpp f).regs = s.regs := rfl
@[simp] theorem State.updSpp_shadow (s : State) (f) : (s.updSpp f).shadow = s.shadow := rfl
@[simp] theorem State.updSpp_mem (s : State) (f) : (s.updSpp f).mem = s.mem := rfl
@[simp] theorem State.updSpp_ecc (s : State) (f) : (s.updSpp f).ecc = s.ecc := rfl
@[simp] theorem State.updSpp_pwr (s : State) (f) : (s.updSpp f).pwr = s.pwr := rfl
@[simp] theorem State.updSpp_brg (s : State) (f) : (s.updSpp f).brg = s.brg := rfl
@[simp] theorem State.updSpp_spp (s : State) (f) : (s.updSpp f).spp = f s.spp := rfl
@[simp] theorem State.updSpp_cp (s : State) (f) : (s.updSpp f).cp = s.cp := rfl
@[simp] theorem State.updSpp_icu (s : State) (f) : (s.updSpp f).icu = s.icu := rfl
@[simp] theorem State.updSpp_banks (s : State) (f) : (s.updSpp f).banks = s.banks := rfl
@[simp] theorem State.updSpp_dma (s : State) (f) : (s.updSpp f).dma = s.dma := rfl
@[simp] theorem State.updSpp_scrub (s : State) (f) : (s.updSpp f).scrub = s.scrub := rfl
@[simp] theorem State.updSpp_mir (s : State) (f) : (s.updSpp f).mir = s.mir := rfl
@[simp] theorem State.updSpp_hgrp (s : State) (f) : (s.updSpp f).hgrp = s.hgrp := rfl
@[simp] theorem State.updSpp_hwm (s : State) (f) : (s.updSpp f).hwm = s.hwm := rfl
@[simp] theorem State.updSpp_evc (s : State) (f) : (s.updSpp f).evc = s.evc := rfl
@[simp] theorem State.updSpp_bist (s : State) (f) : (s.updSpp f).bist = s.bist := rfl
@[simp] theorem State.updSpp_mgn (s : State) (f) : (s.updSpp f).mgn = s.mgn := rfl
@[simp] theorem State.updSpp_inj (s : State) (f) : (s.updSpp f).inj = s.inj := rfl
@[simp] theorem State.updSpp_lnk (s : State) (f) : (s.updSpp f).lnk = s.lnk := rfl
@[simp] theorem State.updSpp_legs (s : State) (f) : (s.updSpp f).legs = s.legs := rfl
@[simp] theorem State.updSpp_pgrp (s : State) (f) : (s.updSpp f).pgrp = s.pgrp := rfl
@[simp] theorem State.updSpp_adc (s : State) (f) : (s.updSpp f).adc = s.adc := rfl
@[simp] theorem State.updSpp_fbp (s : State) (f) : (s.updSpp f).fbp = s.fbp := rfl
@[simp] theorem State.updSpp_wheels (s : State) (f) : (s.updSpp f).wheels = s.wheels := rfl
@[simp] theorem State.updSpp_sents (s : State) (f) : (s.updSpp f).sents = s.sents := rfl
@[simp] theorem State.updSpp_prs (s : State) (f) : (s.updSpp f).prs = s.prs := rfl
@[simp] theorem State.updSpp_lup (s : State) (f) : (s.updSpp f).lup = s.lup := rfl
@[simp] theorem State.updSpp_fifo (s : State) (f) : (s.updSpp f).fifo = s.fifo := rfl
@[simp] theorem State.updSpp_krg (s : State) (f) : (s.updSpp f).krg = s.krg := rfl
@[simp] theorem State.updSpp_grd (s : State) (f) : (s.updSpp f).grd = s.grd := rfl
@[simp] theorem State.updSpp_can (s : State) (f) : (s.updSpp f).can = s.can := rfl
@[simp] theorem State.updSpp_pending (s : State) (f) : (s.updSpp f).pending = s.pending := rfl

@[simp] theorem State.updMir_now (s : State) (f) : (s.updMir f).now = s.now := rfl
@[simp] theorem State.updMir_draws (s : State) (f) : (s.updMir f).draws = s.draws := rfl
@[simp] theorem State.updMir_fresh (s : State) (f) : (s.updMir f).fresh = s.fresh := rfl
@[simp] theorem State.updMir_mode (s : State) (f) : (s.updMir f).mode = s.mode := rfl
@[simp] theorem State.updMir_sub (s : State) (f) : (s.updMir f).sub = s.sub := rfl
@[simp] theorem State.updMir_regs (s : State) (f) : (s.updMir f).regs = s.regs := rfl
@[simp] theorem State.updMir_shadow (s : State) (f) : (s.updMir f).shadow = s.shadow := rfl
@[simp] theorem State.updMir_mem (s : State) (f) : (s.updMir f).mem = s.mem := rfl
@[simp] theorem State.updMir_ecc (s : State) (f) : (s.updMir f).ecc = s.ecc := rfl
@[simp] theorem State.updMir_pwr (s : State) (f) : (s.updMir f).pwr = s.pwr := rfl
@[simp] theorem State.updMir_brg (s : State) (f) : (s.updMir f).brg = s.brg := rfl
@[simp] theorem State.updMir_spp (s : State) (f) : (s.updMir f).spp = s.spp := rfl
@[simp] theorem State.updMir_cp (s : State) (f) : (s.updMir f).cp = s.cp := rfl
@[simp] theorem State.updMir_icu (s : State) (f) : (s.updMir f).icu = s.icu := rfl
@[simp] theorem State.updMir_banks (s : State) (f) : (s.updMir f).banks = s.banks := rfl
@[simp] theorem State.updMir_dma (s : State) (f) : (s.updMir f).dma = s.dma := rfl
@[simp] theorem State.updMir_scrub (s : State) (f) : (s.updMir f).scrub = s.scrub := rfl
@[simp] theorem State.updMir_mir (s : State) (f) : (s.updMir f).mir = f s.mir := rfl
@[simp] theorem State.updMir_hgrp (s : State) (f) : (s.updMir f).hgrp = s.hgrp := rfl
@[simp] theorem State.updMir_hwm (s : State) (f) : (s.updMir f).hwm = s.hwm := rfl
@[simp] theorem State.updMir_evc (s : State) (f) : (s.updMir f).evc = s.evc := rfl
@[simp] theorem State.updMir_bist (s : State) (f) : (s.updMir f).bist = s.bist := rfl
@[simp] theorem State.updMir_mgn (s : State) (f) : (s.updMir f).mgn = s.mgn := rfl
@[simp] theorem State.updMir_inj (s : State) (f) : (s.updMir f).inj = s.inj := rfl
@[simp] theorem State.updMir_lnk (s : State) (f) : (s.updMir f).lnk = s.lnk := rfl
@[simp] theorem State.updMir_legs (s : State) (f) : (s.updMir f).legs = s.legs := rfl
@[simp] theorem State.updMir_pgrp (s : State) (f) : (s.updMir f).pgrp = s.pgrp := rfl
@[simp] theorem State.updMir_adc (s : State) (f) : (s.updMir f).adc = s.adc := rfl
@[simp] theorem State.updMir_fbp (s : State) (f) : (s.updMir f).fbp = s.fbp := rfl
@[simp] theorem State.updMir_wheels (s : State) (f) : (s.updMir f).wheels = s.wheels := rfl
@[simp] theorem State.updMir_sents (s : State) (f) : (s.updMir f).sents = s.sents := rfl
@[simp] theorem State.updMir_prs (s : State) (f) : (s.updMir f).prs = s.prs := rfl
@[simp] theorem State.updMir_lup (s : State) (f) : (s.updMir f).lup = s.lup := rfl
@[simp] theorem State.updMir_fifo (s : State) (f) : (s.updMir f).fifo = s.fifo := rfl
@[simp] theorem State.updMir_krg (s : State) (f) : (s.updMir f).krg = s.krg := rfl
@[simp] theorem State.updMir_grd (s : State) (f) : (s.updMir f).grd = s.grd := rfl
@[simp] theorem State.updMir_can (s : State) (f) : (s.updMir f).can = s.can := rfl
@[simp] theorem State.updMir_pending (s : State) (f) : (s.updMir f).pending = s.pending := rfl

@[simp] theorem State.updMgn_now (s : State) (f) : (s.updMgn f).now = s.now := rfl
@[simp] theorem State.updMgn_draws (s : State) (f) : (s.updMgn f).draws = s.draws := rfl
@[simp] theorem State.updMgn_fresh (s : State) (f) : (s.updMgn f).fresh = s.fresh := rfl
@[simp] theorem State.updMgn_mode (s : State) (f) : (s.updMgn f).mode = s.mode := rfl
@[simp] theorem State.updMgn_sub (s : State) (f) : (s.updMgn f).sub = s.sub := rfl
@[simp] theorem State.updMgn_regs (s : State) (f) : (s.updMgn f).regs = s.regs := rfl
@[simp] theorem State.updMgn_shadow (s : State) (f) : (s.updMgn f).shadow = s.shadow := rfl
@[simp] theorem State.updMgn_mem (s : State) (f) : (s.updMgn f).mem = s.mem := rfl
@[simp] theorem State.updMgn_ecc (s : State) (f) : (s.updMgn f).ecc = s.ecc := rfl
@[simp] theorem State.updMgn_pwr (s : State) (f) : (s.updMgn f).pwr = s.pwr := rfl
@[simp] theorem State.updMgn_brg (s : State) (f) : (s.updMgn f).brg = s.brg := rfl
@[simp] theorem State.updMgn_spp (s : State) (f) : (s.updMgn f).spp = s.spp := rfl
@[simp] theorem State.updMgn_cp (s : State) (f) : (s.updMgn f).cp = s.cp := rfl
@[simp] theorem State.updMgn_icu (s : State) (f) : (s.updMgn f).icu = s.icu := rfl
@[simp] theorem State.updMgn_banks (s : State) (f) : (s.updMgn f).banks = s.banks := rfl
@[simp] theorem State.updMgn_dma (s : State) (f) : (s.updMgn f).dma = s.dma := rfl
@[simp] theorem State.updMgn_scrub (s : State) (f) : (s.updMgn f).scrub = s.scrub := rfl
@[simp] theorem State.updMgn_mir (s : State) (f) : (s.updMgn f).mir = s.mir := rfl
@[simp] theorem State.updMgn_hgrp (s : State) (f) : (s.updMgn f).hgrp = s.hgrp := rfl
@[simp] theorem State.updMgn_hwm (s : State) (f) : (s.updMgn f).hwm = s.hwm := rfl
@[simp] theorem State.updMgn_evc (s : State) (f) : (s.updMgn f).evc = s.evc := rfl
@[simp] theorem State.updMgn_bist (s : State) (f) : (s.updMgn f).bist = s.bist := rfl
@[simp] theorem State.updMgn_mgn (s : State) (f) : (s.updMgn f).mgn = f s.mgn := rfl
@[simp] theorem State.updMgn_inj (s : State) (f) : (s.updMgn f).inj = s.inj := rfl
@[simp] theorem State.updMgn_lnk (s : State) (f) : (s.updMgn f).lnk = s.lnk := rfl
@[simp] theorem State.updMgn_legs (s : State) (f) : (s.updMgn f).legs = s.legs := rfl
@[simp] theorem State.updMgn_pgrp (s : State) (f) : (s.updMgn f).pgrp = s.pgrp := rfl
@[simp] theorem State.updMgn_adc (s : State) (f) : (s.updMgn f).adc = s.adc := rfl
@[simp] theorem State.updMgn_fbp (s : State) (f) : (s.updMgn f).fbp = s.fbp := rfl
@[simp] theorem State.updMgn_wheels (s : State) (f) : (s.updMgn f).wheels = s.wheels := rfl
@[simp] theorem State.updMgn_sents (s : State) (f) : (s.updMgn f).sents = s.sents := rfl
@[simp] theorem State.updMgn_prs (s : State) (f) : (s.updMgn f).prs = s.prs := rfl
@[simp] theorem State.updMgn_lup (s : State) (f) : (s.updMgn f).lup = s.lup := rfl
@[simp] theorem State.updMgn_fifo (s : State) (f) : (s.updMgn f).fifo = s.fifo := rfl
@[simp] theorem State.updMgn_krg (s : State) (f) : (s.updMgn f).krg = s.krg := rfl
@[simp] theorem State.updMgn_grd (s : State) (f) : (s.updMgn f).grd = s.grd := rfl
@[simp] theorem State.updMgn_can (s : State) (f) : (s.updMgn f).can = s.can := rfl
@[simp] theorem State.updMgn_pending (s : State) (f) : (s.updMgn f).pending = s.pending := rfl

@[simp] theorem State.updInj_now (s : State) (f) : (s.updInj f).now = s.now := rfl
@[simp] theorem State.updInj_draws (s : State) (f) : (s.updInj f).draws = s.draws := rfl
@[simp] theorem State.updInj_fresh (s : State) (f) : (s.updInj f).fresh = s.fresh := rfl
@[simp] theorem State.updInj_mode (s : State) (f) : (s.updInj f).mode = s.mode := rfl
@[simp] theorem State.updInj_sub (s : State) (f) : (s.updInj f).sub = s.sub := rfl
@[simp] theorem State.updInj_regs (s : State) (f) : (s.updInj f).regs = s.regs := rfl
@[simp] theorem State.updInj_shadow (s : State) (f) : (s.updInj f).shadow = s.shadow := rfl
@[simp] theorem State.updInj_mem (s : State) (f) : (s.updInj f).mem = s.mem := rfl
@[simp] theorem State.updInj_ecc (s : State) (f) : (s.updInj f).ecc = s.ecc := rfl
@[simp] theorem State.updInj_pwr (s : State) (f) : (s.updInj f).pwr = s.pwr := rfl
@[simp] theorem State.updInj_brg (s : State) (f) : (s.updInj f).brg = s.brg := rfl
@[simp] theorem State.updInj_spp (s : State) (f) : (s.updInj f).spp = s.spp := rfl
@[simp] theorem State.updInj_cp (s : State) (f) : (s.updInj f).cp = s.cp := rfl
@[simp] theorem State.updInj_icu (s : State) (f) : (s.updInj f).icu = s.icu := rfl
@[simp] theorem State.updInj_banks (s : State) (f) : (s.updInj f).banks = s.banks := rfl
@[simp] theorem State.updInj_dma (s : State) (f) : (s.updInj f).dma = s.dma := rfl
@[simp] theorem State.updInj_scrub (s : State) (f) : (s.updInj f).scrub = s.scrub := rfl
@[simp] theorem State.updInj_mir (s : State) (f) : (s.updInj f).mir = s.mir := rfl
@[simp] theorem State.updInj_hgrp (s : State) (f) : (s.updInj f).hgrp = s.hgrp := rfl
@[simp] theorem State.updInj_hwm (s : State) (f) : (s.updInj f).hwm = s.hwm := rfl
@[simp] theorem State.updInj_evc (s : State) (f) : (s.updInj f).evc = s.evc := rfl
@[simp] theorem State.updInj_bist (s : State) (f) : (s.updInj f).bist = s.bist := rfl
@[simp] theorem State.updInj_mgn (s : State) (f) : (s.updInj f).mgn = s.mgn := rfl
@[simp] theorem State.updInj_inj (s : State) (f) : (s.updInj f).inj = f s.inj := rfl
@[simp] theorem State.updInj_lnk (s : State) (f) : (s.updInj f).lnk = s.lnk := rfl
@[simp] theorem State.updInj_legs (s : State) (f) : (s.updInj f).legs = s.legs := rfl
@[simp] theorem State.updInj_pgrp (s : State) (f) : (s.updInj f).pgrp = s.pgrp := rfl
@[simp] theorem State.updInj_adc (s : State) (f) : (s.updInj f).adc = s.adc := rfl
@[simp] theorem State.updInj_fbp (s : State) (f) : (s.updInj f).fbp = s.fbp := rfl
@[simp] theorem State.updInj_wheels (s : State) (f) : (s.updInj f).wheels = s.wheels := rfl
@[simp] theorem State.updInj_sents (s : State) (f) : (s.updInj f).sents = s.sents := rfl
@[simp] theorem State.updInj_prs (s : State) (f) : (s.updInj f).prs = s.prs := rfl
@[simp] theorem State.updInj_lup (s : State) (f) : (s.updInj f).lup = s.lup := rfl
@[simp] theorem State.updInj_fifo (s : State) (f) : (s.updInj f).fifo = s.fifo := rfl
@[simp] theorem State.updInj_krg (s : State) (f) : (s.updInj f).krg = s.krg := rfl
@[simp] theorem State.updInj_grd (s : State) (f) : (s.updInj f).grd = s.grd := rfl
@[simp] theorem State.updInj_can (s : State) (f) : (s.updInj f).can = s.can := rfl
@[simp] theorem State.updInj_pending (s : State) (f) : (s.updInj f).pending = s.pending := rfl

@[simp] theorem State.updLnk_now (s : State) (f) : (s.updLnk f).now = s.now := rfl
@[simp] theorem State.updLnk_draws (s : State) (f) : (s.updLnk f).draws = s.draws := rfl
@[simp] theorem State.updLnk_fresh (s : State) (f) : (s.updLnk f).fresh = s.fresh := rfl
@[simp] theorem State.updLnk_mode (s : State) (f) : (s.updLnk f).mode = s.mode := rfl
@[simp] theorem State.updLnk_sub (s : State) (f) : (s.updLnk f).sub = s.sub := rfl
@[simp] theorem State.updLnk_regs (s : State) (f) : (s.updLnk f).regs = s.regs := rfl
@[simp] theorem State.updLnk_shadow (s : State) (f) : (s.updLnk f).shadow = s.shadow := rfl
@[simp] theorem State.updLnk_mem (s : State) (f) : (s.updLnk f).mem = s.mem := rfl
@[simp] theorem State.updLnk_ecc (s : State) (f) : (s.updLnk f).ecc = s.ecc := rfl
@[simp] theorem State.updLnk_pwr (s : State) (f) : (s.updLnk f).pwr = s.pwr := rfl
@[simp] theorem State.updLnk_brg (s : State) (f) : (s.updLnk f).brg = s.brg := rfl
@[simp] theorem State.updLnk_spp (s : State) (f) : (s.updLnk f).spp = s.spp := rfl
@[simp] theorem State.updLnk_cp (s : State) (f) : (s.updLnk f).cp = s.cp := rfl
@[simp] theorem State.updLnk_icu (s : State) (f) : (s.updLnk f).icu = s.icu := rfl
@[simp] theorem State.updLnk_banks (s : State) (f) : (s.updLnk f).banks = s.banks := rfl
@[simp] theorem State.updLnk_dma (s : State) (f) : (s.updLnk f).dma = s.dma := rfl
@[simp] theorem State.updLnk_scrub (s : State) (f) : (s.updLnk f).scrub = s.scrub := rfl
@[simp] theorem State.updLnk_mir (s : State) (f) : (s.updLnk f).mir = s.mir := rfl
@[simp] theorem State.updLnk_hgrp (s : State) (f) : (s.updLnk f).hgrp = s.hgrp := rfl
@[simp] theorem State.updLnk_hwm (s : State) (f) : (s.updLnk f).hwm = s.hwm := rfl
@[simp] theorem State.updLnk_evc (s : State) (f) : (s.updLnk f).evc = s.evc := rfl
@[simp] theorem State.updLnk_bist (s : State) (f) : (s.updLnk f).bist = s.bist := rfl
@[simp] theorem State.updLnk_mgn (s : State) (f) : (s.updLnk f).mgn = s.mgn := rfl
@[simp] theorem State.updLnk_inj (s : State) (f) : (s.updLnk f).inj = s.inj := rfl
@[simp] theorem State.updLnk_lnk (s : State) (f) : (s.updLnk f).lnk = f s.lnk := rfl
@[simp] theorem State.updLnk_legs (s : State) (f) : (s.updLnk f).legs = s.legs := rfl
@[simp] theorem State.updLnk_pgrp (s : State) (f) : (s.updLnk f).pgrp = s.pgrp := rfl
@[simp] theorem State.updLnk_adc (s : State) (f) : (s.updLnk f).adc = s.adc := rfl
@[simp] theorem State.updLnk_fbp (s : State) (f) : (s.updLnk f).fbp = s.fbp := rfl
@[simp] theorem State.updLnk_wheels (s : State) (f) : (s.updLnk f).wheels = s.wheels := rfl
@[simp] theorem State.updLnk_sents (s : State) (f) : (s.updLnk f).sents = s.sents := rfl
@[simp] theorem State.updLnk_prs (s : State) (f) : (s.updLnk f).prs = s.prs := rfl
@[simp] theorem State.updLnk_lup (s : State) (f) : (s.updLnk f).lup = s.lup := rfl
@[simp] theorem State.updLnk_fifo (s : State) (f) : (s.updLnk f).fifo = s.fifo := rfl
@[simp] theorem State.updLnk_krg (s : State) (f) : (s.updLnk f).krg = s.krg := rfl
@[simp] theorem State.updLnk_grd (s : State) (f) : (s.updLnk f).grd = s.grd := rfl
@[simp] theorem State.updLnk_can (s : State) (f) : (s.updLnk f).can = s.can := rfl
@[simp] theorem State.updLnk_pending (s : State) (f) : (s.updLnk f).pending = s.pending := rfl

@[simp] theorem State.updKrg_now (s : State) (f) : (s.updKrg f).now = s.now := rfl
@[simp] theorem State.updKrg_draws (s : State) (f) : (s.updKrg f).draws = s.draws := rfl
@[simp] theorem State.updKrg_fresh (s : State) (f) : (s.updKrg f).fresh = s.fresh := rfl
@[simp] theorem State.updKrg_mode (s : State) (f) : (s.updKrg f).mode = s.mode := rfl
@[simp] theorem State.updKrg_sub (s : State) (f) : (s.updKrg f).sub = s.sub := rfl
@[simp] theorem State.updKrg_regs (s : State) (f) : (s.updKrg f).regs = s.regs := rfl
@[simp] theorem State.updKrg_shadow (s : State) (f) : (s.updKrg f).shadow = s.shadow := rfl
@[simp] theorem State.updKrg_mem (s : State) (f) : (s.updKrg f).mem = s.mem := rfl
@[simp] theorem State.updKrg_ecc (s : State) (f) : (s.updKrg f).ecc = s.ecc := rfl
@[simp] theorem State.updKrg_pwr (s : State) (f) : (s.updKrg f).pwr = s.pwr := rfl
@[simp] theorem State.updKrg_brg (s : State) (f) : (s.updKrg f).brg = s.brg := rfl
@[simp] theorem State.updKrg_spp (s : State) (f) : (s.updKrg f).spp = s.spp := rfl
@[simp] theorem State.updKrg_cp (s : State) (f) : (s.updKrg f).cp = s.cp := rfl
@[simp] theorem State.updKrg_icu (s : State) (f) : (s.updKrg f).icu = s.icu := rfl
@[simp] theorem State.updKrg_banks (s : State) (f) : (s.updKrg f).banks = s.banks := rfl
@[simp] theorem State.updKrg_dma (s : State) (f) : (s.updKrg f).dma = s.dma := rfl
@[simp] theorem State.updKrg_scrub (s : State) (f) : (s.updKrg f).scrub = s.scrub := rfl
@[simp] theorem State.updKrg_mir (s : State) (f) : (s.updKrg f).mir = s.mir := rfl
@[simp] theorem State.updKrg_hgrp (s : State) (f) : (s.updKrg f).hgrp = s.hgrp := rfl
@[simp] theorem State.updKrg_hwm (s : State) (f) : (s.updKrg f).hwm = s.hwm := rfl
@[simp] theorem State.updKrg_evc (s : State) (f) : (s.updKrg f).evc = s.evc := rfl
@[simp] theorem State.updKrg_bist (s : State) (f) : (s.updKrg f).bist = s.bist := rfl
@[simp] theorem State.updKrg_mgn (s : State) (f) : (s.updKrg f).mgn = s.mgn := rfl
@[simp] theorem State.updKrg_inj (s : State) (f) : (s.updKrg f).inj = s.inj := rfl
@[simp] theorem State.updKrg_lnk (s : State) (f) : (s.updKrg f).lnk = s.lnk := rfl
@[simp] theorem State.updKrg_legs (s : State) (f) : (s.updKrg f).legs = s.legs := rfl
@[simp] theorem State.updKrg_pgrp (s : State) (f) : (s.updKrg f).pgrp = s.pgrp := rfl
@[simp] theorem State.updKrg_adc (s : State) (f) : (s.updKrg f).adc = s.adc := rfl
@[simp] theorem State.updKrg_fbp (s : State) (f) : (s.updKrg f).fbp = s.fbp := rfl
@[simp] theorem State.updKrg_wheels (s : State) (f) : (s.updKrg f).wheels = s.wheels := rfl
@[simp] theorem State.updKrg_sents (s : State) (f) : (s.updKrg f).sents = s.sents := rfl
@[simp] theorem State.updKrg_prs (s : State) (f) : (s.updKrg f).prs = s.prs := rfl
@[simp] theorem State.updKrg_lup (s : State) (f) : (s.updKrg f).lup = s.lup := rfl
@[simp] theorem State.updKrg_fifo (s : State) (f) : (s.updKrg f).fifo = s.fifo := rfl
@[simp] theorem State.updKrg_krg (s : State) (f) : (s.updKrg f).krg = f s.krg := rfl
@[simp] theorem State.updKrg_grd (s : State) (f) : (s.updKrg f).grd = s.grd := rfl
@[simp] theorem State.updKrg_can (s : State) (f) : (s.updKrg f).can = s.can := rfl
@[simp] theorem State.updKrg_pending (s : State) (f) : (s.updKrg f).pending = s.pending := rfl

@[simp] theorem State.updPrs_now (s : State) (f) : (s.updPrs f).now = s.now := rfl
@[simp] theorem State.updPrs_draws (s : State) (f) : (s.updPrs f).draws = s.draws := rfl
@[simp] theorem State.updPrs_fresh (s : State) (f) : (s.updPrs f).fresh = s.fresh := rfl
@[simp] theorem State.updPrs_mode (s : State) (f) : (s.updPrs f).mode = s.mode := rfl
@[simp] theorem State.updPrs_sub (s : State) (f) : (s.updPrs f).sub = s.sub := rfl
@[simp] theorem State.updPrs_regs (s : State) (f) : (s.updPrs f).regs = s.regs := rfl
@[simp] theorem State.updPrs_shadow (s : State) (f) : (s.updPrs f).shadow = s.shadow := rfl
@[simp] theorem State.updPrs_mem (s : State) (f) : (s.updPrs f).mem = s.mem := rfl
@[simp] theorem State.updPrs_ecc (s : State) (f) : (s.updPrs f).ecc = s.ecc := rfl
@[simp] theorem State.updPrs_pwr (s : State) (f) : (s.updPrs f).pwr = s.pwr := rfl
@[simp] theorem State.updPrs_brg (s : State) (f) : (s.updPrs f).brg = s.brg := rfl
@[simp] theorem State.updPrs_spp (s : State) (f) : (s.updPrs f).spp = s.spp := rfl
@[simp] theorem State.updPrs_cp (s : State) (f) : (s.updPrs f).cp = s.cp := rfl
@[simp] theorem State.updPrs_icu (s : State) (f) : (s.updPrs f).icu = s.icu := rfl
@[simp] theorem State.updPrs_banks (s : State) (f) : (s.updPrs f).banks = s.banks := rfl
@[simp] theorem State.updPrs_dma (s : State) (f) : (s.updPrs f).dma = s.dma := rfl
@[simp] theorem State.updPrs_scrub (s : State) (f) : (s.updPrs f).scrub = s.scrub := rfl
@[simp] theorem State.updPrs_mir (s : State) (f) : (s.updPrs f).mir = s.mir := rfl
@[simp] theorem State.updPrs_hgrp (s : State) (f) : (s.updPrs f).hgrp = s.hgrp := rfl
@[simp] theorem State.updPrs_hwm (s : State) (f) : (s.updPrs f).hwm = s.hwm := rfl
@[simp] theorem State.updPrs_evc (s : State) (f) : (s.updPrs f).evc = s.evc := rfl
@[simp] theorem State.updPrs_bist (s : State) (f) : (s.updPrs f).bist = s.bist := rfl
@[simp] theorem State.updPrs_mgn (s : State) (f) : (s.updPrs f).mgn = s.mgn := rfl
@[simp] theorem State.updPrs_inj (s : State) (f) : (s.updPrs f).inj = s.inj := rfl
@[simp] theorem State.updPrs_lnk (s : State) (f) : (s.updPrs f).lnk = s.lnk := rfl
@[simp] theorem State.updPrs_legs (s : State) (f) : (s.updPrs f).legs = s.legs := rfl
@[simp] theorem State.updPrs_pgrp (s : State) (f) : (s.updPrs f).pgrp = s.pgrp := rfl
@[simp] theorem State.updPrs_adc (s : State) (f) : (s.updPrs f).adc = s.adc := rfl
@[simp] theorem State.updPrs_fbp (s : State) (f) : (s.updPrs f).fbp = s.fbp := rfl
@[simp] theorem State.updPrs_wheels (s : State) (f) : (s.updPrs f).wheels = s.wheels := rfl
@[simp] theorem State.updPrs_sents (s : State) (f) : (s.updPrs f).sents = s.sents := rfl
@[simp] theorem State.updPrs_prs (s : State) (f) : (s.updPrs f).prs = f s.prs := rfl
@[simp] theorem State.updPrs_lup (s : State) (f) : (s.updPrs f).lup = s.lup := rfl
@[simp] theorem State.updPrs_fifo (s : State) (f) : (s.updPrs f).fifo = s.fifo := rfl
@[simp] theorem State.updPrs_krg (s : State) (f) : (s.updPrs f).krg = s.krg := rfl
@[simp] theorem State.updPrs_grd (s : State) (f) : (s.updPrs f).grd = s.grd := rfl
@[simp] theorem State.updPrs_can (s : State) (f) : (s.updPrs f).can = s.can := rfl
@[simp] theorem State.updPrs_pending (s : State) (f) : (s.updPrs f).pending = s.pending := rfl

@[simp] theorem State.updLeg_now (s : State) (k f) : (s.updLeg k f).now = s.now := rfl
@[simp] theorem State.updLeg_draws (s : State) (k f) : (s.updLeg k f).draws = s.draws := rfl
@[simp] theorem State.updLeg_fresh (s : State) (k f) : (s.updLeg k f).fresh = s.fresh := rfl
@[simp] theorem State.updLeg_mode (s : State) (k f) : (s.updLeg k f).mode = s.mode := rfl
@[simp] theorem State.updLeg_sub (s : State) (k f) : (s.updLeg k f).sub = s.sub := rfl
@[simp] theorem State.updLeg_regs (s : State) (k f) : (s.updLeg k f).regs = s.regs := rfl
@[simp] theorem State.updLeg_shadow (s : State) (k f) : (s.updLeg k f).shadow = s.shadow := rfl
@[simp] theorem State.updLeg_mem (s : State) (k f) : (s.updLeg k f).mem = s.mem := rfl
@[simp] theorem State.updLeg_ecc (s : State) (k f) : (s.updLeg k f).ecc = s.ecc := rfl
@[simp] theorem State.updLeg_pwr (s : State) (k f) : (s.updLeg k f).pwr = s.pwr := rfl
@[simp] theorem State.updLeg_brg (s : State) (k f) : (s.updLeg k f).brg = s.brg := rfl
@[simp] theorem State.updLeg_spp (s : State) (k f) : (s.updLeg k f).spp = s.spp := rfl
@[simp] theorem State.updLeg_cp (s : State) (k f) : (s.updLeg k f).cp = s.cp := rfl
@[simp] theorem State.updLeg_icu (s : State) (k f) : (s.updLeg k f).icu = s.icu := rfl
@[simp] theorem State.updLeg_banks (s : State) (k f) : (s.updLeg k f).banks = s.banks := rfl
@[simp] theorem State.updLeg_dma (s : State) (k f) : (s.updLeg k f).dma = s.dma := rfl
@[simp] theorem State.updLeg_scrub (s : State) (k f) : (s.updLeg k f).scrub = s.scrub := rfl
@[simp] theorem State.updLeg_mir (s : State) (k f) : (s.updLeg k f).mir = s.mir := rfl
@[simp] theorem State.updLeg_hgrp (s : State) (k f) : (s.updLeg k f).hgrp = s.hgrp := rfl
@[simp] theorem State.updLeg_hwm (s : State) (k f) : (s.updLeg k f).hwm = s.hwm := rfl
@[simp] theorem State.updLeg_evc (s : State) (k f) : (s.updLeg k f).evc = s.evc := rfl
@[simp] theorem State.updLeg_bist (s : State) (k f) : (s.updLeg k f).bist = s.bist := rfl
@[simp] theorem State.updLeg_mgn (s : State) (k f) : (s.updLeg k f).mgn = s.mgn := rfl
@[simp] theorem State.updLeg_inj (s : State) (k f) : (s.updLeg k f).inj = s.inj := rfl
@[simp] theorem State.updLeg_lnk (s : State) (k f) : (s.updLeg k f).lnk = s.lnk := rfl
@[simp] theorem State.updLeg_legs (s : State) (k f) : (s.updLeg k f).legs = mupd (fun _ => {}) s.legs k f := rfl
@[simp] theorem State.updLeg_pgrp (s : State) (k f) : (s.updLeg k f).pgrp = s.pgrp := rfl
@[simp] theorem State.updLeg_adc (s : State) (k f) : (s.updLeg k f).adc = s.adc := rfl
@[simp] theorem State.updLeg_fbp (s : State) (k f) : (s.updLeg k f).fbp = s.fbp := rfl
@[simp] theorem State.updLeg_wheels (s : State) (k f) : (s.updLeg k f).wheels = s.wheels := rfl
@[simp] theorem State.updLeg_sents (s : State) (k f) : (s.updLeg k f).sents = s.sents := rfl
@[simp] theorem State.updLeg_prs (s : State) (k f) : (s.updLeg k f).prs = s.prs := rfl
@[simp] theorem State.updLeg_lup (s : State) (k f) : (s.updLeg k f).lup = s.lup := rfl
@[simp] theorem State.updLeg_fifo (s : State) (k f) : (s.updLeg k f).fifo = s.fifo := rfl
@[simp] theorem State.updLeg_krg (s : State) (k f) : (s.updLeg k f).krg = s.krg := rfl
@[simp] theorem State.updLeg_grd (s : State) (k f) : (s.updLeg k f).grd = s.grd := rfl
@[simp] theorem State.updLeg_can (s : State) (k f) : (s.updLeg k f).can = s.can := rfl
@[simp] theorem State.updLeg_pending (s : State) (k f) : (s.updLeg k f).pending = s.pending := rfl

@[simp] theorem State.updPg_now (s : State) (g f) : (s.updPg g f).now = s.now := rfl
@[simp] theorem State.updPg_draws (s : State) (g f) : (s.updPg g f).draws = s.draws := rfl
@[simp] theorem State.updPg_fresh (s : State) (g f) : (s.updPg g f).fresh = s.fresh := rfl
@[simp] theorem State.updPg_mode (s : State) (g f) : (s.updPg g f).mode = s.mode := rfl
@[simp] theorem State.updPg_sub (s : State) (g f) : (s.updPg g f).sub = s.sub := rfl
@[simp] theorem State.updPg_regs (s : State) (g f) : (s.updPg g f).regs = s.regs := rfl
@[simp] theorem State.updPg_shadow (s : State) (g f) : (s.updPg g f).shadow = s.shadow := rfl
@[simp] theorem State.updPg_mem (s : State) (g f) : (s.updPg g f).mem = s.mem := rfl
@[simp] theorem State.updPg_ecc (s : State) (g f) : (s.updPg g f).ecc = s.ecc := rfl
@[simp] theorem State.updPg_pwr (s : State) (g f) : (s.updPg g f).pwr = s.pwr := rfl
@[simp] theorem State.updPg_brg (s : State) (g f) : (s.updPg g f).brg = s.brg := rfl
@[simp] theorem State.updPg_spp (s : State) (g f) : (s.updPg g f).spp = s.spp := rfl
@[simp] theorem State.updPg_cp (s : State) (g f) : (s.updPg g f).cp = s.cp := rfl
@[simp] theorem State.updPg_icu (s : State) (g f) : (s.updPg g f).icu = s.icu := rfl
@[simp] theorem State.updPg_banks (s : State) (g f) : (s.updPg g f).banks = s.banks := rfl
@[simp] theorem State.updPg_dma (s : State) (g f) : (s.updPg g f).dma = s.dma := rfl
@[simp] theorem State.updPg_scrub (s : State) (g f) : (s.updPg g f).scrub = s.scrub := rfl
@[simp] theorem State.updPg_mir (s : State) (g f) : (s.updPg g f).mir = s.mir := rfl
@[simp] theorem State.updPg_hgrp (s : State) (g f) : (s.updPg g f).hgrp = s.hgrp := rfl
@[simp] theorem State.updPg_hwm (s : State) (g f) : (s.updPg g f).hwm = s.hwm := rfl
@[simp] theorem State.updPg_evc (s : State) (g f) : (s.updPg g f).evc = s.evc := rfl
@[simp] theorem State.updPg_bist (s : State) (g f) : (s.updPg g f).bist = s.bist := rfl
@[simp] theorem State.updPg_mgn (s : State) (g f) : (s.updPg g f).mgn = s.mgn := rfl
@[simp] theorem State.updPg_inj (s : State) (g f) : (s.updPg g f).inj = s.inj := rfl
@[simp] theorem State.updPg_lnk (s : State) (g f) : (s.updPg g f).lnk = s.lnk := rfl
@[simp] theorem State.updPg_legs (s : State) (g f) : (s.updPg g f).legs = s.legs := rfl
@[simp] theorem State.updPg_pgrp (s : State) (g f) : (s.updPg g f).pgrp = mupd (fun _ => {}) s.pgrp g f := rfl
@[simp] theorem State.updPg_adc (s : State) (g f) : (s.updPg g f).adc = s.adc := rfl
@[simp] theorem State.updPg_fbp (s : State) (g f) : (s.updPg g f).fbp = s.fbp := rfl
@[simp] theorem State.updPg_wheels (s : State) (g f) : (s.updPg g f).wheels = s.wheels := rfl
@[simp] theorem State.updPg_sents (s : State) (g f) : (s.updPg g f).sents = s.sents := rfl
@[simp] theorem State.updPg_prs (s : State) (g f) : (s.updPg g f).prs = s.prs := rfl
@[simp] theorem State.updPg_lup (s : State) (g f) : (s.updPg g f).lup = s.lup := rfl
@[simp] theorem State.updPg_fifo (s : State) (g f) : (s.updPg g f).fifo = s.fifo := rfl
@[simp] theorem State.updPg_krg (s : State) (g f) : (s.updPg g f).krg = s.krg := rfl
@[simp] theorem State.updPg_grd (s : State) (g f) : (s.updPg g f).grd = s.grd := rfl
@[simp] theorem State.updPg_can (s : State) (g f) : (s.updPg g f).can = s.can := rfl
@[simp] theorem State.updPg_pending (s : State) (g f) : (s.updPg g f).pending = s.pending := rfl

@[simp] theorem State.updConv_now (s : State) (k f) : (s.updConv k f).now = s.now := rfl
@[simp] theorem State.updConv_draws (s : State) (k f) : (s.updConv k f).draws = s.draws := rfl
@[simp] theorem State.updConv_fresh (s : State) (k f) : (s.updConv k f).fresh = s.fresh := rfl
@[simp] theorem State.updConv_mode (s : State) (k f) : (s.updConv k f).mode = s.mode := rfl
@[simp] theorem State.updConv_sub (s : State) (k f) : (s.updConv k f).sub = s.sub := rfl
@[simp] theorem State.updConv_regs (s : State) (k f) : (s.updConv k f).regs = s.regs := rfl
@[simp] theorem State.updConv_shadow (s : State) (k f) : (s.updConv k f).shadow = s.shadow := rfl
@[simp] theorem State.updConv_mem (s : State) (k f) : (s.updConv k f).mem = s.mem := rfl
@[simp] theorem State.updConv_ecc (s : State) (k f) : (s.updConv k f).ecc = s.ecc := rfl
@[simp] theorem State.updConv_pwr (s : State) (k f) : (s.updConv k f).pwr = s.pwr := rfl
@[simp] theorem State.updConv_brg (s : State) (k f) : (s.updConv k f).brg = s.brg := rfl
@[simp] theorem State.updConv_spp (s : State) (k f) : (s.updConv k f).spp = s.spp := rfl
@[simp] theorem State.updConv_cp (s : State) (k f) : (s.updConv k f).cp = s.cp := rfl
@[simp] theorem State.updConv_icu (s : State) (k f) : (s.updConv k f).icu = s.icu := rfl
@[simp] theorem State.updConv_banks (s : State) (k f) : (s.updConv k f).banks = s.banks := rfl
@[simp] theorem State.updConv_dma (s : State) (k f) : (s.updConv k f).dma = s.dma := rfl
@[simp] theorem State.updConv_scrub (s : State) (k f) : (s.updConv k f).scrub = s.scrub := rfl
@[simp] theorem State.updConv_mir (s : State) (k f) : (s.updConv k f).mir = s.mir := rfl
@[simp] theorem State.updConv_hgrp (s : State) (k f) : (s.updConv k f).hgrp = s.hgrp := rfl
@[simp] theorem State.updConv_hwm (s : State) (k f) : (s.updConv k f).hwm = s.hwm := rfl
@[simp] theorem State.updConv_evc (s : State) (k f) : (s.updConv k f).evc = s.evc := rfl
@[simp] theorem State.updConv_bist (s : State) (k f) : (s.updConv k f).bist = s.bist := rfl
@[simp] theorem State.updConv_mgn (s : State) (k f) : (s.updConv k f).mgn = s.mgn := rfl
@[simp] theorem State.updConv_inj (s : State) (k f) : (s.updConv k f).inj = s.inj := rfl
@[simp] theorem State.updConv_lnk (s : State) (k f) : (s.updConv k f).lnk = s.lnk := rfl
@[simp] theorem State.updConv_legs (s : State) (k f) : (s.updConv k f).legs = s.legs := rfl
@[simp] theorem State.updConv_pgrp (s : State) (k f) : (s.updConv k f).pgrp = s.pgrp := rfl
@[simp] theorem State.updConv_adc (s : State) (k f) : (s.updConv k f).adc = mupd (fun _ => {}) s.adc k f := rfl
@[simp] theorem State.updConv_fbp (s : State) (k f) : (s.updConv k f).fbp = s.fbp := rfl
@[simp] theorem State.updConv_wheels (s : State) (k f) : (s.updConv k f).wheels = s.wheels := rfl
@[simp] theorem State.updConv_sents (s : State) (k f) : (s.updConv k f).sents = s.sents := rfl
@[simp] theorem State.updConv_prs (s : State) (k f) : (s.updConv k f).prs = s.prs := rfl
@[simp] theorem State.updConv_lup (s : State) (k f) : (s.updConv k f).lup = s.lup := rfl
@[simp] theorem State.updConv_fifo (s : State) (k f) : (s.updConv k f).fifo = s.fifo := rfl
@[simp] theorem State.updConv_krg (s : State) (k f) : (s.updConv k f).krg = s.krg := rfl
@[simp] theorem State.updConv_grd (s : State) (k f) : (s.updConv k f).grd = s.grd := rfl
@[simp] theorem State.updConv_can (s : State) (k f) : (s.updConv k f).can = s.can := rfl
@[simp] theorem State.updConv_pending (s : State) (k f) : (s.updConv k f).pending = s.pending := rfl

@[simp] theorem State.updFb_now (s : State) (n f) : (s.updFb n f).now = s.now := rfl
@[simp] theorem State.updFb_draws (s : State) (n f) : (s.updFb n f).draws = s.draws := rfl
@[simp] theorem State.updFb_fresh (s : State) (n f) : (s.updFb n f).fresh = s.fresh := rfl
@[simp] theorem State.updFb_mode (s : State) (n f) : (s.updFb n f).mode = s.mode := rfl
@[simp] theorem State.updFb_sub (s : State) (n f) : (s.updFb n f).sub = s.sub := rfl
@[simp] theorem State.updFb_regs (s : State) (n f) : (s.updFb n f).regs = s.regs := rfl
@[simp] theorem State.updFb_shadow (s : State) (n f) : (s.updFb n f).shadow = s.shadow := rfl
@[simp] theorem State.updFb_mem (s : State) (n f) : (s.updFb n f).mem = s.mem := rfl
@[simp] theorem State.updFb_ecc (s : State) (n f) : (s.updFb n f).ecc = s.ecc := rfl
@[simp] theorem State.updFb_pwr (s : State) (n f) : (s.updFb n f).pwr = s.pwr := rfl
@[simp] theorem State.updFb_brg (s : State) (n f) : (s.updFb n f).brg = s.brg := rfl
@[simp] theorem State.updFb_spp (s : State) (n f) : (s.updFb n f).spp = s.spp := rfl
@[simp] theorem State.updFb_cp (s : State) (n f) : (s.updFb n f).cp = s.cp := rfl
@[simp] theorem State.updFb_icu (s : State) (n f) : (s.updFb n f).icu = s.icu := rfl
@[simp] theorem State.updFb_banks (s : State) (n f) : (s.updFb n f).banks = s.banks := rfl
@[simp] theorem State.updFb_dma (s : State) (n f) : (s.updFb n f).dma = s.dma := rfl
@[simp] theorem State.updFb_scrub (s : State) (n f) : (s.updFb n f).scrub = s.scrub := rfl
@[simp] theorem State.updFb_mir (s : State) (n f) : (s.updFb n f).mir = s.mir := rfl
@[simp] theorem State.updFb_hgrp (s : State) (n f) : (s.updFb n f).hgrp = s.hgrp := rfl
@[simp] theorem State.updFb_hwm (s : State) (n f) : (s.updFb n f).hwm = s.hwm := rfl
@[simp] theorem State.updFb_evc (s : State) (n f) : (s.updFb n f).evc = s.evc := rfl
@[simp] theorem State.updFb_bist (s : State) (n f) : (s.updFb n f).bist = s.bist := rfl
@[simp] theorem State.updFb_mgn (s : State) (n f) : (s.updFb n f).mgn = s.mgn := rfl
@[simp] theorem State.updFb_inj (s : State) (n f) : (s.updFb n f).inj = s.inj := rfl
@[simp] theorem State.updFb_lnk (s : State) (n f) : (s.updFb n f).lnk = s.lnk := rfl
@[simp] theorem State.updFb_legs (s : State) (n f) : (s.updFb n f).legs = s.legs := rfl
@[simp] theorem State.updFb_pgrp (s : State) (n f) : (s.updFb n f).pgrp = s.pgrp := rfl
@[simp] theorem State.updFb_adc (s : State) (n f) : (s.updFb n f).adc = s.adc := rfl
@[simp] theorem State.updFb_fbp (s : State) (n f) : (s.updFb n f).fbp = mupd (fun _ => {}) s.fbp n f := rfl
@[simp] theorem State.updFb_wheels (s : State) (n f) : (s.updFb n f).wheels = s.wheels := rfl
@[simp] theorem State.updFb_sents (s : State) (n f) : (s.updFb n f).sents = s.sents := rfl
@[simp] theorem State.updFb_prs (s : State) (n f) : (s.updFb n f).prs = s.prs := rfl
@[simp] theorem State.updFb_lup (s : State) (n f) : (s.updFb n f).lup = s.lup := rfl
@[simp] theorem State.updFb_fifo (s : State) (n f) : (s.updFb n f).fifo = s.fifo := rfl
@[simp] theorem State.updFb_krg (s : State) (n f) : (s.updFb n f).krg = s.krg := rfl
@[simp] theorem State.updFb_grd (s : State) (n f) : (s.updFb n f).grd = s.grd := rfl
@[simp] theorem State.updFb_can (s : State) (n f) : (s.updFb n f).can = s.can := rfl
@[simp] theorem State.updFb_pending (s : State) (n f) : (s.updFb n f).pending = s.pending := rfl

@[simp] theorem State.updWheel_now (s : State) (w f) : (s.updWheel w f).now = s.now := rfl
@[simp] theorem State.updWheel_draws (s : State) (w f) : (s.updWheel w f).draws = s.draws := rfl
@[simp] theorem State.updWheel_fresh (s : State) (w f) : (s.updWheel w f).fresh = s.fresh := rfl
@[simp] theorem State.updWheel_mode (s : State) (w f) : (s.updWheel w f).mode = s.mode := rfl
@[simp] theorem State.updWheel_sub (s : State) (w f) : (s.updWheel w f).sub = s.sub := rfl
@[simp] theorem State.updWheel_regs (s : State) (w f) : (s.updWheel w f).regs = s.regs := rfl
@[simp] theorem State.updWheel_shadow (s : State) (w f) : (s.updWheel w f).shadow = s.shadow := rfl
@[simp] theorem State.updWheel_mem (s : State) (w f) : (s.updWheel w f).mem = s.mem := rfl
@[simp] theorem State.updWheel_ecc (s : State) (w f) : (s.updWheel w f).ecc = s.ecc := rfl
@[simp] theorem State.updWheel_pwr (s : State) (w f) : (s.updWheel w f).pwr = s.pwr := rfl
@[simp] theorem State.updWheel_brg (s : State) (w f) : (s.updWheel w f).brg = s.brg := rfl
@[simp] theorem State.updWheel_spp (s : State) (w f) : (s.updWheel w f).spp = s.spp := rfl
@[simp] theorem State.updWheel_cp (s : State) (w f) : (s.updWheel w f).cp = s.cp := rfl
@[simp] theorem State.updWheel_icu (s : State) (w f) : (s.updWheel w f).icu = s.icu := rfl
@[simp] theorem State.updWheel_banks (s : State) (w f) : (s.updWheel w f).banks = s.banks := rfl
@[simp] theorem State.updWheel_dma (s : State) (w f) : (s.updWheel w f).dma = s.dma := rfl
@[simp] theorem State.updWheel_scrub (s : State) (w f) : (s.updWheel w f).scrub = s.scrub := rfl
@[simp] theorem State.updWheel_mir (s : State) (w f) : (s.updWheel w f).mir = s.mir := rfl
@[simp] theorem State.updWheel_hgrp (s : State) (w f) : (s.updWheel w f).hgrp = s.hgrp := rfl
@[simp] theorem State.updWheel_hwm (s : State) (w f) : (s.updWheel w f).hwm = s.hwm := rfl
@[simp] theorem State.updWheel_evc (s : State) (w f) : (s.updWheel w f).evc = s.evc := rfl
@[simp] theorem State.updWheel_bist (s : State) (w f) : (s.updWheel w f).bist = s.bist := rfl
@[simp] theorem State.updWheel_mgn (s : State) (w f) : (s.updWheel w f).mgn = s.mgn := rfl
@[simp] theorem State.updWheel_inj (s : State) (w f) : (s.updWheel w f).inj = s.inj := rfl
@[simp] theorem State.updWheel_lnk (s : State) (w f) : (s.updWheel w f).lnk = s.lnk := rfl
@[simp] theorem State.updWheel_legs (s : State) (w f) : (s.updWheel w f).legs = s.legs := rfl
@[simp] theorem State.updWheel_pgrp (s : State) (w f) : (s.updWheel w f).pgrp = s.pgrp := rfl
@[simp] theorem State.updWheel_adc (s : State) (w f) : (s.updWheel w f).adc = s.adc := rfl
@[simp] theorem State.updWheel_fbp (s : State) (w f) : (s.updWheel w f).fbp = s.fbp := rfl
@[simp] theorem State.updWheel_wheels (s : State) (w f) : (s.updWheel w f).wheels = mupd (fun _ => {}) s.wheels w f := rfl
@[simp] theorem State.updWheel_sents (s : State) (w f) : (s.updWheel w f).sents = s.sents := rfl
@[simp] theorem State.updWheel_prs (s : State) (w f) : (s.updWheel w f).prs = s.prs := rfl
@[simp] theorem State.updWheel_lup (s : State) (w f) : (s.updWheel w f).lup = s.lup := rfl
@[simp] theorem State.updWheel_fifo (s : State) (w f) : (s.updWheel w f).fifo = s.fifo := rfl
@[simp] theorem State.updWheel_krg (s : State) (w f) : (s.updWheel w f).krg = s.krg := rfl
@[simp] theorem State.updWheel_grd (s : State) (w f) : (s.updWheel w f).grd = s.grd := rfl
@[simp] theorem State.updWheel_can (s : State) (w f) : (s.updWheel w f).can = s.can := rfl
@[simp] theorem State.updWheel_pending (s : State) (w f) : (s.updWheel w f).pending = s.pending := rfl

@[simp] theorem State.updSent_now (s : State) (i f) : (s.updSent i f).now = s.now := rfl
@[simp] theorem State.updSent_draws (s : State) (i f) : (s.updSent i f).draws = s.draws := rfl
@[simp] theorem State.updSent_fresh (s : State) (i f) : (s.updSent i f).fresh = s.fresh := rfl
@[simp] theorem State.updSent_mode (s : State) (i f) : (s.updSent i f).mode = s.mode := rfl
@[simp] theorem State.updSent_sub (s : State) (i f) : (s.updSent i f).sub = s.sub := rfl
@[simp] theorem State.updSent_regs (s : State) (i f) : (s.updSent i f).regs = s.regs := rfl
@[simp] theorem State.updSent_shadow (s : State) (i f) : (s.updSent i f).shadow = s.shadow := rfl
@[simp] theorem State.updSent_mem (s : State) (i f) : (s.updSent i f).mem = s.mem := rfl
@[simp] theorem State.updSent_ecc (s : State) (i f) : (s.updSent i f).ecc = s.ecc := rfl
@[simp] theorem State.updSent_pwr (s : State) (i f) : (s.updSent i f).pwr = s.pwr := rfl
@[simp] theorem State.updSent_brg (s : State) (i f) : (s.updSent i f).brg = s.brg := rfl
@[simp] theorem State.updSent_spp (s : State) (i f) : (s.updSent i f).spp = s.spp := rfl
@[simp] theorem State.updSent_cp (s : State) (i f) : (s.updSent i f).cp = s.cp := rfl
@[simp] theorem State.updSent_icu (s : State) (i f) : (s.updSent i f).icu = s.icu := rfl
@[simp] theorem State.updSent_banks (s : State) (i f) : (s.updSent i f).banks = s.banks := rfl
@[simp] theorem State.updSent_dma (s : State) (i f) : (s.updSent i f).dma = s.dma := rfl
@[simp] theorem State.updSent_scrub (s : State) (i f) : (s.updSent i f).scrub = s.scrub := rfl
@[simp] theorem State.updSent_mir (s : State) (i f) : (s.updSent i f).mir = s.mir := rfl
@[simp] theorem State.updSent_hgrp (s : State) (i f) : (s.updSent i f).hgrp = s.hgrp := rfl
@[simp] theorem State.updSent_hwm (s : State) (i f) : (s.updSent i f).hwm = s.hwm := rfl
@[simp] theorem State.updSent_evc (s : State) (i f) : (s.updSent i f).evc = s.evc := rfl
@[simp] theorem State.updSent_bist (s : State) (i f) : (s.updSent i f).bist = s.bist := rfl
@[simp] theorem State.updSent_mgn (s : State) (i f) : (s.updSent i f).mgn = s.mgn := rfl
@[simp] theorem State.updSent_inj (s : State) (i f) : (s.updSent i f).inj = s.inj := rfl
@[simp] theorem State.updSent_lnk (s : State) (i f) : (s.updSent i f).lnk = s.lnk := rfl
@[simp] theorem State.updSent_legs (s : State) (i f) : (s.updSent i f).legs = s.legs := rfl
@[simp] theorem State.updSent_pgrp (s : State) (i f) : (s.updSent i f).pgrp = s.pgrp := rfl
@[simp] theorem State.updSent_adc (s : State) (i f) : (s.updSent i f).adc = s.adc := rfl
@[simp] theorem State.updSent_fbp (s : State) (i f) : (s.updSent i f).fbp = s.fbp := rfl
@[simp] theorem State.updSent_wheels (s : State) (i f) : (s.updSent i f).wheels = s.wheels := rfl
@[simp] theorem State.updSent_sents (s : State) (i f) : (s.updSent i f).sents = mupd (fun _ => {}) s.sents i f := rfl
@[simp] theorem State.updSent_prs (s : State) (i f) : (s.updSent i f).prs = s.prs := rfl
@[simp] theorem State.updSent_lup (s : State) (i f) : (s.updSent i f).lup = s.lup := rfl
@[simp] theorem State.updSent_fifo (s : State) (i f) : (s.updSent i f).fifo = s.fifo := rfl
@[simp] theorem State.updSent_krg (s : State) (i f) : (s.updSent i f).krg = s.krg := rfl
@[simp] theorem State.updSent_grd (s : State) (i f) : (s.updSent i f).grd = s.grd := rfl
@[simp] theorem State.updSent_can (s : State) (i f) : (s.updSent i f).can = s.can := rfl
@[simp] theorem State.updSent_pending (s : State) (i f) : (s.updSent i f).pending = s.pending := rfl

@[simp] theorem State.updLoupe_now (s : State) (b f) : (s.updLoupe b f).now = s.now := rfl
@[simp] theorem State.updLoupe_draws (s : State) (b f) : (s.updLoupe b f).draws = s.draws := rfl
@[simp] theorem State.updLoupe_fresh (s : State) (b f) : (s.updLoupe b f).fresh = s.fresh := rfl
@[simp] theorem State.updLoupe_mode (s : State) (b f) : (s.updLoupe b f).mode = s.mode := rfl
@[simp] theorem State.updLoupe_sub (s : State) (b f) : (s.updLoupe b f).sub = s.sub := rfl
@[simp] theorem State.updLoupe_regs (s : State) (b f) : (s.updLoupe b f).regs = s.regs := rfl
@[simp] theorem State.updLoupe_shadow (s : State) (b f) : (s.updLoupe b f).shadow = s.shadow := rfl
@[simp] theorem State.updLoupe_mem (s : State) (b f) : (s.updLoupe b f).mem = s.mem := rfl
@[simp] theorem State.updLoupe_ecc (s : State) (b f) : (s.updLoupe b f).ecc = s.ecc := rfl
@[simp] theorem State.updLoupe_pwr (s : State) (b f) : (s.updLoupe b f).pwr = s.pwr := rfl
@[simp] theorem State.updLoupe_brg (s : State) (b f) : (s.updLoupe b f).brg = s.brg := rfl
@[simp] theorem State.updLoupe_spp (s : State) (b f) : (s.updLoupe b f).spp = s.spp := rfl
@[simp] theorem State.updLoupe_cp (s : State) (b f) : (s.updLoupe b f).cp = s.cp := rfl
@[simp] theorem State.updLoupe_icu (s : State) (b f) : (s.updLoupe b f).icu = s.icu := rfl
@[simp] theorem State.updLoupe_banks (s : State) (b f) : (s.updLoupe b f).banks = s.banks := rfl
@[simp] theorem State.updLoupe_dma (s : State) (b f) : (s.updLoupe b f).dma = s.dma := rfl
@[simp] theorem State.updLoupe_scrub (s : State) (b f) : (s.updLoupe b f).scrub = s.scrub := rfl
@[simp] theorem State.updLoupe_mir (s : State) (b f) : (s.updLoupe b f).mir = s.mir := rfl
@[simp] theorem State.updLoupe_hgrp (s : State) (b f) : (s.updLoupe b f).hgrp = s.hgrp := rfl
@[simp] theorem State.updLoupe_hwm (s : State) (b f) : (s.updLoupe b f).hwm = s.hwm := rfl
@[simp] theorem State.updLoupe_evc (s : State) (b f) : (s.updLoupe b f).evc = s.evc := rfl
@[simp] theorem State.updLoupe_bist (s : State) (b f) : (s.updLoupe b f).bist = s.bist := rfl
@[simp] theorem State.updLoupe_mgn (s : State) (b f) : (s.updLoupe b f).mgn = s.mgn := rfl
@[simp] theorem State.updLoupe_inj (s : State) (b f) : (s.updLoupe b f).inj = s.inj := rfl
@[simp] theorem State.updLoupe_lnk (s : State) (b f) : (s.updLoupe b f).lnk = s.lnk := rfl
@[simp] theorem State.updLoupe_legs (s : State) (b f) : (s.updLoupe b f).legs = s.legs := rfl
@[simp] theorem State.updLoupe_pgrp (s : State) (b f) : (s.updLoupe b f).pgrp = s.pgrp := rfl
@[simp] theorem State.updLoupe_adc (s : State) (b f) : (s.updLoupe b f).adc = s.adc := rfl
@[simp] theorem State.updLoupe_fbp (s : State) (b f) : (s.updLoupe b f).fbp = s.fbp := rfl
@[simp] theorem State.updLoupe_wheels (s : State) (b f) : (s.updLoupe b f).wheels = s.wheels := rfl
@[simp] theorem State.updLoupe_sents (s : State) (b f) : (s.updLoupe b f).sents = s.sents := rfl
@[simp] theorem State.updLoupe_prs (s : State) (b f) : (s.updLoupe b f).prs = s.prs := rfl
@[simp] theorem State.updLoupe_lup (s : State) (b f) : (s.updLoupe b f).lup = mupd (fun _ => {}) s.lup b f := rfl
@[simp] theorem State.updLoupe_fifo (s : State) (b f) : (s.updLoupe b f).fifo = s.fifo := rfl
@[simp] theorem State.updLoupe_krg (s : State) (b f) : (s.updLoupe b f).krg = s.krg := rfl
@[simp] theorem State.updLoupe_grd (s : State) (b f) : (s.updLoupe b f).grd = s.grd := rfl
@[simp] theorem State.updLoupe_can (s : State) (b f) : (s.updLoupe b f).can = s.can := rfl
@[simp] theorem State.updLoupe_pending (s : State) (b f) : (s.updLoupe b f).pending = s.pending := rfl

@[simp] theorem State.updBank_now (s : State) (b f) : (s.updBank b f).now = s.now := rfl
@[simp] theorem State.updBank_draws (s : State) (b f) : (s.updBank b f).draws = s.draws := rfl
@[simp] theorem State.updBank_fresh (s : State) (b f) : (s.updBank b f).fresh = s.fresh := rfl
@[simp] theorem State.updBank_mode (s : State) (b f) : (s.updBank b f).mode = s.mode := rfl
@[simp] theorem State.updBank_sub (s : State) (b f) : (s.updBank b f).sub = s.sub := rfl
@[simp] theorem State.updBank_regs (s : State) (b f) : (s.updBank b f).regs = s.regs := rfl
@[simp] theorem State.updBank_shadow (s : State) (b f) : (s.updBank b f).shadow = s.shadow := rfl
@[simp] theorem State.updBank_mem (s : State) (b f) : (s.updBank b f).mem = s.mem := rfl
@[simp] theorem State.updBank_ecc (s : State) (b f) : (s.updBank b f).ecc = s.ecc := rfl
@[simp] theorem State.updBank_pwr (s : State) (b f) : (s.updBank b f).pwr = s.pwr := rfl
@[simp] theorem State.updBank_brg (s : State) (b f) : (s.updBank b f).brg = s.brg := rfl
@[simp] theorem State.updBank_spp (s : State) (b f) : (s.updBank b f).spp = s.spp := rfl
@[simp] theorem State.updBank_cp (s : State) (b f) : (s.updBank b f).cp = s.cp := rfl
@[simp] theorem State.updBank_icu (s : State) (b f) : (s.updBank b f).icu = s.icu := rfl
@[simp] theorem State.updBank_banks (s : State) (b f) : (s.updBank b f).banks = mupd (fun _ => {}) s.banks b f := rfl
@[simp] theorem State.updBank_dma (s : State) (b f) : (s.updBank b f).dma = s.dma := rfl
@[simp] theorem State.updBank_scrub (s : State) (b f) : (s.updBank b f).scrub = s.scrub := rfl
@[simp] theorem State.updBank_mir (s : State) (b f) : (s.updBank b f).mir = s.mir := rfl
@[simp] theorem State.updBank_hgrp (s : State) (b f) : (s.updBank b f).hgrp = s.hgrp := rfl
@[simp] theorem State.updBank_hwm (s : State) (b f) : (s.updBank b f).hwm = s.hwm := rfl
@[simp] theorem State.updBank_evc (s : State) (b f) : (s.updBank b f).evc = s.evc := rfl
@[simp] theorem State.updBank_bist (s : State) (b f) : (s.updBank b f).bist = s.bist := rfl
@[simp] theorem State.updBank_mgn (s : State) (b f) : (s.updBank b f).mgn = s.mgn := rfl
@[simp] theorem State.updBank_inj (s : State) (b f) : (s.updBank b f).inj = s.inj := rfl
@[simp] theorem State.updBank_lnk (s : State) (b f) : (s.updBank b f).lnk = s.lnk := rfl
@[simp] theorem State.updBank_legs (s : State) (b f) : (s.updBank b f).legs = s.legs := rfl
@[simp] theorem State.updBank_pgrp (s : State) (b f) : (s.updBank b f).pgrp = s.pgrp := rfl
@[simp] theorem State.updBank_adc (s : State) (b f) : (s.updBank b f).adc = s.adc := rfl
@[simp] theorem State.updBank_fbp (s : State) (b f) : (s.updBank b f).fbp = s.fbp := rfl
@[simp] theorem State.updBank_wheels (s : State) (b f) : (s.updBank b f).wheels = s.wheels := rfl
@[simp] theorem State.updBank_sents (s : State) (b f) : (s.updBank b f).sents = s.sents := rfl
@[simp] theorem State.updBank_prs (s : State) (b f) : (s.updBank b f).prs = s.prs := rfl
@[simp] theorem State.updBank_lup (s : State) (b f) : (s.updBank b f).lup = s.lup := rfl
@[simp] theorem State.updBank_fifo (s : State) (b f) : (s.updBank b f).fifo = s.fifo := rfl
@[simp] theorem State.updBank_krg (s : State) (b f) : (s.updBank b f).krg = s.krg := rfl
@[simp] theorem State.updBank_grd (s : State) (b f) : (s.updBank b f).grd = s.grd := rfl
@[simp] theorem State.updBank_can (s : State) (b f) : (s.updBank b f).can = s.can := rfl
@[simp] theorem State.updBank_pending (s : State) (b f) : (s.updBank b f).pending = s.pending := rfl

@[simp] theorem State.updCan_now (s : State) (c f) : (s.updCan c f).now = s.now := rfl
@[simp] theorem State.updCan_draws (s : State) (c f) : (s.updCan c f).draws = s.draws := rfl
@[simp] theorem State.updCan_fresh (s : State) (c f) : (s.updCan c f).fresh = s.fresh := rfl
@[simp] theorem State.updCan_mode (s : State) (c f) : (s.updCan c f).mode = s.mode := rfl
@[simp] theorem State.updCan_sub (s : State) (c f) : (s.updCan c f).sub = s.sub := rfl
@[simp] theorem State.updCan_regs (s : State) (c f) : (s.updCan c f).regs = s.regs := rfl
@[simp] theorem State.updCan_shadow (s : State) (c f) : (s.updCan c f).shadow = s.shadow := rfl
@[simp] theorem State.updCan_mem (s : State) (c f) : (s.updCan c f).mem = s.mem := rfl
@[simp] theorem State.updCan_ecc (s : State) (c f) : (s.updCan c f).ecc = s.ecc := rfl
@[simp] theorem State.updCan_pwr (s : State) (c f) : (s.updCan c f).pwr = s.pwr := rfl
@[simp] theorem State.updCan_brg (s : State) (c f) : (s.updCan c f).brg = s.brg := rfl
@[simp] theorem State.updCan_spp (s : State) (c f) : (s.updCan c f).spp = s.spp := rfl
@[simp] theorem State.updCan_cp (s : State) (c f) : (s.updCan c f).cp = s.cp := rfl
@[simp] theorem State.updCan_icu (s : State) (c f) : (s.updCan c f).icu = s.icu := rfl
@[simp] theorem State.updCan_banks (s : State) (c f) : (s.updCan c f).banks = s.banks := rfl
@[simp] theorem State.updCan_dma (s : State) (c f) : (s.updCan c f).dma = s.dma := rfl
@[simp] theorem State.updCan_scrub (s : State) (c f) : (s.updCan c f).scrub = s.scrub := rfl
@[simp] theorem State.updCan_mir (s : State) (c f) : (s.updCan c f).mir = s.mir := rfl
@[simp] theorem State.updCan_hgrp (s : State) (c f) : (s.updCan c f).hgrp = s.hgrp := rfl
@[simp] theorem State.updCan_hwm (s : State) (c f) : (s.updCan c f).hwm = s.hwm := rfl
@[simp] theorem State.updCan_evc (s : State) (c f) : (s.updCan c f).evc = s.evc := rfl
@[simp] theorem State.updCan_bist (s : State) (c f) : (s.updCan c f).bist = s.bist := rfl
@[simp] theorem State.updCan_mgn (s : State) (c f) : (s.updCan c f).mgn = s.mgn := rfl
@[simp] theorem State.updCan_inj (s : State) (c f) : (s.updCan c f).inj = s.inj := rfl
@[simp] theorem State.updCan_lnk (s : State) (c f) : (s.updCan c f).lnk = s.lnk := rfl
@[simp] theorem State.updCan_legs (s : State) (c f) : (s.updCan c f).legs = s.legs := rfl
@[simp] theorem State.updCan_pgrp (s : State) (c f) : (s.updCan c f).pgrp = s.pgrp := rfl
@[simp] theorem State.updCan_adc (s : State) (c f) : (s.updCan c f).adc = s.adc := rfl
@[simp] theorem State.updCan_fbp (s : State) (c f) : (s.updCan c f).fbp = s.fbp := rfl
@[simp] theorem State.updCan_wheels (s : State) (c f) : (s.updCan c f).wheels = s.wheels := rfl
@[simp] theorem State.updCan_sents (s : State) (c f) : (s.updCan c f).sents = s.sents := rfl
@[simp] theorem State.updCan_prs (s : State) (c f) : (s.updCan c f).prs = s.prs := rfl
@[simp] theorem State.updCan_lup (s : State) (c f) : (s.updCan c f).lup = s.lup := rfl
@[simp] theorem State.updCan_fifo (s : State) (c f) : (s.updCan c f).fifo = s.fifo := rfl
@[simp] theorem State.updCan_krg (s : State) (c f) : (s.updCan c f).krg = s.krg := rfl
@[simp] theorem State.updCan_grd (s : State) (c f) : (s.updCan c f).grd = s.grd := rfl
@[simp] theorem State.updCan_can (s : State) (c f) : (s.updCan c f).can = mupd (fun _ => {}) s.can c f := rfl
@[simp] theorem State.updCan_pending (s : State) (c f) : (s.updCan c f).pending = s.pending := rfl

end Sys2Proof.Machine
end

