-- ==== Sys2Proof/Laws/Get.lean ====
section
/-! SUPPORT. Reading after writing: registers, their fields and their bits, shadow copies, bytes of memory and the records of the
units. -/

namespace Sys2Proof.Machine

/-! ### Registers and memory -/

@[simp] theorem State.reg_setReg_same (s : State) (a w) : (s.setReg a w).reg a = w := mget_mset_same _ _ _ _

@[simp] theorem State.reg_mark (s : State) (a m b) : (s.mark a m).reg b = s.reg b := rfl

theorem State.reg_setReg_ne (s : State) {a b} (w) (h : b ≠ a) : (s.setReg a w).reg b = s.reg b := mget_mset_ne _ _ _ h

@[simp] theorem State.shd_setReg (s : State) (a w b) : (s.setReg a w).shd b = s.shd b := rfl

@[simp] theorem State.byte_setReg (s : State) (a w b) : (s.setReg a w).byte b = s.byte b := rfl

@[simp] theorem State.shd_setShd_same (s : State) (a w) : (s.setShd a w).shd a = w := mget_mset_same _ _ _ _

@[simp] theorem State.reg_setShd (s : State) (a w b) : (s.setShd a w).reg b = s.reg b := rfl

@[simp] theorem State.byte_setByte_same (s : State) (a b) : (s.setByte a b).byte a = b := mget_mset_same _ _ _ _

theorem State.byte_setByte_ne (s : State) {a c} (b) (h : c ≠ a) : (s.setByte a b).byte c = s.byte c := mget_mset_ne _ _ _ h

@[simp] theorem State.reg_setByte (s : State) (a b c) : (s.setByte a b).reg c = s.reg c := rfl

theorem State.byte_setBytes_in (s : State) (a) (l : List Byte) (i : Nat) (h : i < l.length) :
    (s.setBytes a l).byte (a + i) = l[i] := mget_mrange_in _ _ _ _ _ h

theorem State.byte_setBytes_out (s : State) (a) (l : List Byte) {c} (h : c < a ∨ a + l.length ≤ c) :
    (s.setBytes a l).byte c = s.byte c := mget_mrange_out _ _ _ _ h

theorem State.byte_setWord_out (s : State) (a w) {c} (h : c < a ∨ a + 4 ≤ c) : (s.setWord a w).byte c = s.byte c := by
  unfold State.setWord
  rw [State.byte_setByte_ne _ _ (by omega), State.byte_setByte_ne _ _ (by omega), State.byte_setByte_ne _ _ (by omega),
    State.byte_setByte_ne _ _ (by omega)]

/-- A word written to memory reads back. -/
theorem State.word_setWord_same (s : State) (a w) : (s.setWord a w).word a = w := by
  have h0 : (s.setWord a w).byte a = w.extractLsb' 0 8 := by
    unfold State.setWord
    rw [State.byte_setByte_ne _ _ (by omega), State.byte_setByte_ne _ _ (by omega), State.byte_setByte_ne _ _ (by omega),
      State.byte_setByte_same]
  have h1 : (s.setWord a w).byte (a + 1) = w.extractLsb' 8 8 := by
    unfold State.setWord
    rw [State.byte_setByte_ne _ _ (by omega), State.byte_setByte_ne _ _ (by omega), State.byte_setByte_same]
  have h2 : (s.setWord a w).byte (a + 2) = w.extractLsb' 16 8 := by
    unfold State.setWord
    rw [State.byte_setByte_ne _ _ (by omega), State.byte_setByte_same]
  have h3 : (s.setWord a w).byte (a + 3) = w.extractLsb' 24 8 := by
    unfold State.setWord
    rw [State.byte_setByte_same]
  unfold State.word
  rw [h0, h1, h2, h3]
  apply BitVec.eq_of_toNat_eq
  simp only [BitVec.extractLsb'_toNat, BitVec.toNat_ofNat, Nat.shiftRight_eq_div_pow]
  have := w.isLt
  omega

/-! ### Fields -/

theorem bitsOf_testBit (w : Word) (hi lo i : Nat) :
    (bitsOf w hi lo).testBit i = (decide (i < hi + 1 - lo) && w.toNat.testBit (lo + i)) := by
  unfold bitsOf
  rw [Nat.testBit_mod_two_pow, Nat.testBit_shiftRight]

/-- The number of a word with a field replaced: what lies above the field, the new field, what lies below. -/
theorem putBits_nat (W lo n v : Nat) :
    W - W / 2 ^ lo % 2 ^ n * 2 ^ lo + v % 2 ^ n * 2 ^ lo
      = 2 ^ lo * (2 ^ n * (W / 2 ^ lo / 2 ^ n) + v % 2 ^ n) + W % 2 ^ lo := by
  have h1 := Nat.div_add_mod W (2 ^ lo)
  have h2 := Nat.div_add_mod (W / 2 ^ lo) (2 ^ n)
  generalize W / 2 ^ lo = q at *
  generalize q / 2 ^ n = p at *
  generalize q % 2 ^ n = b at *
  generalize W % 2 ^ lo = r at *
  generalize v % 2 ^ n = c at *
  generalize 2 ^ lo = L at *
  subst h2
  subst h1
  generalize 2 ^ n * p = e at *
  rw [Nat.mul_add, Nat.mul_add, Nat.mul_comm b L, Nat.mul_comm c L]
  omega

/-- Bit by bit, a word with a field replaced. -/
theorem putBits_testBit (w : Word) {hi lo : Nat} (v i : Nat) (h : lo ≤ hi) (h2 : hi < 32) :
    (putBits w hi lo v).toNat.testBit i = if lo ≤ i ∧ i ≤ hi then v.testBit (i - lo) else w.toNat.testBit i := by
  obtain ⟨n, hn⟩ : ∃ n, hi + 1 = lo + n := ⟨hi + 1 - lo, by omega⟩
  have e : hi + 1 - lo = n := by omega
  unfold putBits bitsOf
  rw [BitVec.toNat_ofNat, e, Nat.shiftRight_eq_div_pow, putBits_nat, Nat.testBit_mod_two_pow]
  have hr : w.toNat % 2 ^ lo < 2 ^ lo := Nat.mod_lt _ (Nat.two_pow_pos _)
  have hv : v % 2 ^ n < 2 ^ n := Nat.mod_lt _ (Nat.two_pow_pos _)
  have hw : ∀ j, 32 ≤ j → w.toNat.testBit j = false := fun j hj =>
    Nat.testBit_lt_two_pow (Nat.lt_of_lt_of_le w.isLt (Nat.pow_le_pow_right (by omega) hj))
  rw [Nat.testBit_two_pow_mul_add _ hr]
  by_cases hi32 : i < 32
  · by_cases h3 : i < lo
    · have : ¬ (lo ≤ i ∧ i ≤ hi) := by omega
      simp only [h3, hi32, decide_true, Bool.true_and, if_true, this, if_false, Nat.testBit_mod_two_pow]
    · rw [if_neg h3, Nat.testBit_two_pow_mul_add _ hv]
      by_cases h4 : i - lo < n
      · have : lo ≤ i ∧ i ≤ hi := by omega
        simp only [h4, hi32, decide_true, Bool.true_and, if_true, this, Nat.testBit_mod_two_pow, and_self]
      · have : ¬ (lo ≤ i ∧ i ≤ hi) := by omega
        rw [if_neg h4, if_neg this]
        simp only [hi32, decide_true, Bool.true_and]
        rw [← Nat.shiftRight_eq_div_pow, ← Nat.shiftRight_eq_div_pow, Nat.testBit_shiftRight, Nat.testBit_shiftRight]
        congr 1
        omega
  · have : ¬ (lo ≤ i ∧ i ≤ hi) := by omega
    rw [if_neg this, hw i (by omega)]
    simp [hi32]

/-- A field written reads back, cut to its width. -/
theorem bitsOf_putBits_same (w : Word) {hi lo : Nat} (v : Nat) (h : lo ≤ hi) (h2 : hi < 32) :
    bitsOf (putBits w hi lo v) hi lo = v % 2 ^ (hi + 1 - lo) := by
  apply Nat.eq_of_testBit_eq
  intro i
  rw [bitsOf_testBit, putBits_testBit w v _ h h2, Nat.testBit_mod_two_pow]
  by_cases h3 : i < hi + 1 - lo
  · have : lo ≤ lo + i ∧ lo + i ≤ hi := by omega
    rw [if_pos this]
    congr 2
    omega
  · simp [h3]

/-- A field that shares no bit with the one written keeps its value. -/
theorem bitsOf_putBits_ne (w : Word) {hi lo hi' lo' : Nat} (v : Nat) (h : lo ≤ hi) (h2 : hi < 32)
    (d : hi' < lo ∨ hi < lo') : bitsOf (putBits w hi lo v) hi' lo' = bitsOf w hi' lo' := by
  apply Nat.eq_of_testBit_eq
  intro i
  rw [bitsOf_testBit, bitsOf_testBit, putBits_testBit w v _ h h2]
  by_cases h3 : i < hi' + 1 - lo'
  · have : ¬ (lo ≤ lo' + i ∧ lo' + i ≤ hi) := by omega
    rw [if_neg this]
  · simp [h3]

/-- A field of the device: it lies in a word. -/
def FldOk (f : Fld) : Prop := f.lo ≤ f.hi ∧ f.hi < 32

/-- Two fields share no bit. -/
def Apart (f g : Fld) : Prop := f.a ≠ g.a ∨ g.hi < f.lo ∨ f.hi < g.lo

theorem State.get_put_same (s : State) {f : Fld} (v) (h : FldOk f) : (s.put f v).get f = v % 2 ^ (f.hi + 1 - f.lo) := by
  unfold State.get State.put
  rw [State.reg_mark, State.reg_setReg_same]
  exact bitsOf_putBits_same _ _ h.1 h.2

theorem State.get_put_ne (s : State) {f g : Fld} (v) (h : FldOk f) (d : Apart f g) : (s.put f v).get g = s.get g := by
  unfold State.get State.put
  rw [State.reg_mark]
  by_cases e : g.a = f.a
  · rw [e, State.reg_setReg_same]
    refine bitsOf_putBits_ne _ _ h.1 h.2 ?_
    rcases d with d | d | d
    · exact absurd e.symm d
    · exact .inl d
    · exact .inr d
  · rw [State.reg_setReg_ne _ _ e]

theorem State.reg_put_ne (s : State) {f : Fld} {a} (v) (h : a ≠ f.a) : (s.put f v).reg a = s.reg a :=
  State.reg_setReg_ne _ _ h

/-! ### The records of the units -/

theorem State.grp_updGrp_same (s : State) (g f) : (s.updGrp g f).grp g = f (s.grp g) := mget_mset_same _ _ _ _

theorem State.grp_updGrp_ne (s : State) {g k} (f) (h : k ≠ g) : (s.updGrp g f).grp k = s.grp k := mget_mset_ne _ _ _ h

@[simp] theorem State.reg_updGrp (s : State) (g f a) : (s.updGrp g f).reg a = s.reg a := rfl

@[simp] theorem State.grp_setReg (s : State) (a w g) : (s.setReg a w).grp g = s.grp g := rfl

theorem State.leg_updLeg_same (s : State) (k f) : (s.updLeg k f).leg k = f (s.leg k) := mget_mset_same _ _ _ _

theorem State.leg_updLeg_ne (s : State) {k j} (f) (h : j ≠ k) : (s.updLeg k f).leg j = s.leg j := mget_mset_ne _ _ _ h

theorem State.pg_updPg_same (s : State) (k f) : (s.updPg k f).pg k = f (s.pg k) := mget_mset_same _ _ _ _

theorem State.facet_updFacet_same (s : State) (k f) : (s.updFacet k f).facet k = f (s.facet k) := mget_mset_same _ _ _ _

theorem State.facet_updFacet_ne (s : State) {k j} (f) (h : j ≠ k) : (s.updFacet k f).facet j = s.facet j :=
  mget_mset_ne _ _ _ h

theorem State.fb_updFb_same (s : State) (k f) : (s.updFb k f).fb k = f (s.fb k) := mget_mset_same _ _ _ _

end Sys2Proof.Machine
end

