-- ==== Sys2Proof/Laws/Frame.lean ====
section
/-! SUPPORT. What the shared operations leave alone: each one's lemma names the registers that it may write. -/

namespace Sys2Proof.Machine

theorem Writes.refl (l : List Nat) (s : State) : Writes l s s := ⟨fun _ _ _ => rfl, fun _ => rfl, fun _ => rfl, rfl, rfl⟩

theorem Writes.trans {l m : List Nat} {s t u : State} (h : Writes l s t) (k : Writes m t u) : Writes (l ++ m) s u := by
  refine ⟨fun a ha he => ?_, fun a => (k.2.1 a).trans (h.2.1 a), fun a => (k.2.2.1 a).trans (h.2.2.1 a),
    k.2.2.2.1.trans h.2.2.2.1, k.2.2.2.2.trans h.2.2.2.2⟩
  rw [List.mem_append, not_or] at ha
  exact (k.1 a ha.2 he).trans (h.1 a ha.1 he)

theorem Writes.mono {l m : List Nat} {s t : State} (h : Writes l s t) (k : ∀ a ∈ l, a ∈ m) : Writes m s t :=
  ⟨fun a ha => h.1 a (fun x => ha (k a x)), h.2⟩

theorem Writes.step {l : List Nat} {s t u : State} (h : Writes l s t) (k : Writes l t u) : Writes l s u :=
  (h.trans k).mono (by simp)

theorem Writes.ite {l : List Nat} {c : Prop} [Decidable c] {s t u : State} (h : Writes l s t) (k : Writes l s u) :
    Writes l s (if c then t else u) := by
  split
  · exact h
  · exact k

/-- A field outside the list keeps its value. -/
theorem Writes.get {l : List Nat} {s t : State} (h : Writes l s t) {f : Fld} (hf : f.a ∉ l) (he : eventReg f.a = false) :
    t.get f = s.get f := by
  unfold State.get
  rw [h.1 _ hf he]

/-- An update of other fields of the state. -/
theorem writes_keep {l : List Nat} {s t : State} (h1 : t.regs = s.regs) (h2 : t.shadow = s.shadow) (h3 : t.mem = s.mem)
    (h4 : t.mode = s.mode) (h5 : t.sub = s.sub) : Writes l s t := by
  refine ⟨fun a _ _ => ?_, fun a => ?_, fun a => ?_, h4, h5⟩
  · unfold State.reg
    rw [h1]
  · unfold State.shd
    rw [h2]
  · unfold State.byte
    rw [h3]

theorem setReg_writes (s : State) (a w) : Writes [a] s (s.setReg a w) :=
  ⟨fun b hb _ => State.reg_setReg_ne _ _ (by simpa using hb), fun _ => rfl, fun _ => rfl, rfl, rfl⟩

theorem setReg_event (s : State) {a} (w) (h : eventReg a = true) : Writes [] s (s.setReg a w) :=
  ⟨fun b _ he => State.reg_setReg_ne _ _ (fun e => by rw [e, h] at he; exact absurd he (by simp)), fun _ => rfl, fun _ => rfl,
    rfl, rfl⟩

theorem mark_writes (l : List Nat) (s : State) (a m) : Writes l s (s.mark a m) := writes_keep rfl rfl rfl rfl rfl

theorem put_writes (s : State) (f v) : Writes [f.a] s (s.put f v) := (setReg_writes s f.a _).step (mark_writes _ _ _ _)

theorem put_event (s : State) {f : Fld} (v) (h : eventReg f.a = true) : Writes [] s (s.put f v) :=
  (setReg_event s _ h).step (mark_writes _ _ _ _)

theorem putB_writes (s : State) (f b) : Writes [f.a] s (s.putB f b) := put_writes _ _ _

theorem putBit_writes (s : State) (f i b) : Writes [f.a] s (s.putBit f i b) := (setReg_writes s f.a _).step (mark_writes _ _ _ _)

theorem putBit_event (s : State) {f : Fld} (i b) (h : eventReg f.a = true) : Writes [] s (s.putBit f i b) :=
  (setReg_event s _ h).step (mark_writes _ _ _ _)

theorem bump_writes (s : State) (f n) : Writes [f.a] s (s.bump f n) := put_writes _ _ _

theorem putS_writes (s : State) (f v) : Writes [f.a] s (s.putS f v) := put_writes _ _ _

theorem updGrp_writes (s : State) (g f) : Writes [] s (s.updGrp g f) := writes_keep rfl rfl rfl rfl rfl

theorem updHwm_writes (s : State) (f) : Writes [] s (s.updHwm f) := writes_keep rfl rfl rfl rfl rfl

theorem updPwr_writes (s : State) (f) : Writes [] s (s.updPwr f) := writes_keep rfl rfl rfl rfl rfl

theorem updPrs_writes (s : State) (f) : Writes [] s (s.updPrs f) := writes_keep rfl rfl rfl rfl rfl

theorem updFacet_writes (s : State) (k f) : Writes [] s (s.updFacet k f) := writes_keep rfl rfl rfl rfl rfl

theorem updLeg_writes (s : State) (k f) : Writes [] s (s.updLeg k f) := writes_keep rfl rfl rfl rfl rfl

theorem updPg_writes (s : State) (g f) : Writes [] s (s.updPg g f) := writes_keep rfl rfl rfl rfl rfl

theorem draw_writes (s : State) : Writes [] s (draw s).2 := writes_keep rfl rfl rfl rfl rfl

theorem forAll_writes {m : List Nat} {f : Nat → State → State} (hf : ∀ i t, Writes m t (f i t)) :
    ∀ (l : List Nat) (s : State), Writes m s (forAll l f s)
  | [], s => Writes.refl _ s
  | i :: l, s => (hf i s).step (forAll_writes hf l (f i s))

theorem forAll_writesIn {m : List Nat} {f : Nat → State → State} :
    ∀ {l : List Nat}, (∀ i ∈ l, ∀ t, Writes m t (f i t)) → ∀ s : State, Writes m s (forAll l f s)
  | [], _, s => Writes.refl _ s
  | i :: l, hf, s => (hf i (by simp) s).step (forAll_writesIn (l := l) (fun j hj t => hf j (by simp [hj]) t) (f i s))

/-! ### Events and time -/

theorem evcOne_writes (n c : Nat) (s : State) : Writes [] s (evcOne n c s) := by
  unfold evcOne
  extract_lets old sum new fr x0 x1 sh
  have h0 : Writes [] s x0 := writes_keep rfl rfl rfl rfl rfl
  have h1 : Writes [] s x1 := Writes.ite (h0.step (putBit_event _ _ _ (by decide))) h0
  exact Writes.ite (h1.step (putBit_event _ _ _ (by decide))) h1

theorem evcAdd_writes (src n : Nat) (s : State) : Writes [] s (evcAdd src n s) :=
  Writes.ite (Writes.refl _ _) (forAll_writes (fun i t => evcOne_writes n i t) _ _)

theorem icuSrc_event {n : Nat} (h : n < 100) : eventReg (F.ICU_SRC_PEND n).a = true := by
  unfold eventReg
  have : R.ICU_SRC 0 ≤ (F.ICU_SRC_PEND n).a ∧ (F.ICU_SRC_PEND n).a < R.ICU_SRC 100 := by
    show R.ICU_SRC 0 ≤ R.ICU_SRC n ∧ R.ICU_SRC n < R.ICU_SRC 100
    unfold R.ICU_SRC
    omega
  rw [decide_eq_true this]
  rfl

theorem icuPend_writes {n : Nat} (h : n < 100) (s : State) : Writes [] s (icuPend n s) :=
  Writes.ite (put_event _ _ (icuSrc_event h)) ((put_event _ _ (icuSrc_event h)).step (evcAdd_writes _ _ _))

theorem icuMoveLine_writes {n : Nat} (h : n < 100) (up : Bool) (s : State) : Writes [] s (icuMoveLine n up s) := by
  unfold icuMoveLine
  extract_lets was ic x0
  have h0 : Writes [] s x0 := writes_keep rfl rfl rfl rfl rfl
  exact Writes.ite (Writes.ite (h0.step (icuPend_writes h _)) (h0.step (evcAdd_writes _ _ _))) h0

theorem evcSettle_writes (s : State) : Writes [] s (evcSettle s) := icuMoveLine_writes (by decide) _ _

theorem icuSetLine_writes {n : Nat} (h : n < 100) (up : Bool) (s : State) : Writes [] s (icuSetLine n up s) :=
  (icuMoveLine_writes h _ _).step (evcSettle_writes _)

theorem evcCount_writes (src n : Nat) (s : State) : Writes [] s (evcCount src n s) :=
  (evcAdd_writes _ _ _).step (evcSettle_writes _)

theorem icuEvent_writes {n : Nat} (h : n < 100) (s : State) : Writes [] s (icuEvent n s) :=
  Writes.ite (Writes.refl _ _) (Writes.ite ((icuPend_writes h _).step (evcSettle_writes _)) (Writes.refl _ _))

theorem hwmEvent_writes {n : Nat} (h : n < 100) (s : State) : Writes [] s (hwmEvent n s) :=
  Writes.ite (icuEvent_writes h _) (Writes.refl _ _)

theorem setMtime_writes (s : State) (v : Nat) : Writes [R.CPT_MTIME 0, R.CPT_MTIME 1] s (setMtime s v) :=
  ((setReg_writes s (R.CPT_MTIME 0) _).trans (setReg_writes _ (R.CPT_MTIME 1) _)).mono (fun _ h => h)

theorem withCp_writes (l : List Nat) (s : State) (c : Cp) : Writes l s { s with cp := c } := writes_keep rfl rfl rfl rfl rfl

theorem countCycles_writes (n : Nat) (s : State) : Writes [] s (countCycles n s) := by
  unfold countCycles setCpCount
  exact Writes.ite (Writes.refl _ _) (withCp_writes _ _ _)

theorem heldTick_writes (t : Nat) {f : Nat} (h : f < 8) (s : State) : Writes timeRegs s (heldTick t f s) := by
  unfold heldTick
  refine Writes.ite (Writes.refl _ _) (((bump_writes s (F.PRS_FRF_COUNT f) _).step ((updFacet_writes _ _ _).step
    (evcAdd_writes _ _ _) |>.mono fun _ h => absurd h (by simp))).mono fun a ha => ?_)
  rw [List.mem_singleton.mp ha]
  exact List.mem_append_right _ (List.mem_map.mpr ⟨f, List.mem_range.mpr h, rfl⟩)

theorem newCycle_writes (l : List Nat) (s : State) : Writes l s (newCycle s) := writes_keep rfl rfl rfl rfl rfl

/-- The passing of time touches CPT.MTIME and PRS.FRF alone. -/
theorem passTo_writes (t : Nat) (s : State) : Writes timeRegs s (passTo t s) := by
  unfold passTo
  extract_lets d p x0 x1
  have h0 : Writes timeRegs s x0 := writes_keep rfl rfl rfl rfl rfl
  have h1 : Writes timeRegs s x1 := h0.step
    (((setMtime_writes _ _).step ((countCycles_writes _ _).mono (fun _ h => absurd h (by simp)))).mono
      (fun _ h => List.mem_append_left _ h))
  refine Writes.ite (Writes.refl _ _) (Writes.ite (h1.step ?_) h0)
  refine Writes.step ?_ ((evcSettle_writes _).mono (fun _ h => absurd h (by simp)))
  exact Writes.step (((evcAdd_writes _ _ _).step (evcAdd_writes _ _ _)).mono (fun _ h => absurd h (by simp)))
    (forAll_writesIn (fun i hi t' => heldTick_writes t (List.mem_range.mp hi) t') _)

theorem advanceTo_writes (t : Nat) (s : State) : Writes timeRegs s (advanceTo t s) := by
  unfold advanceTo
  extract_lets edge x0
  have h0 : Writes timeRegs s x0 :=
    Writes.step (Writes.ite ((passTo_writes _ _).step (newCycle_writes _ _)) (Writes.refl _ _)) (passTo_writes _ _)
  exact h0.step (writes_keep rfl rfl rfl rfl rfl)

/-! ### Gating and FAULTn -/

theorem updConv_writes (s : State) (g f) : Writes [] s (s.updConv g f) := writes_keep rfl rfl rfl rfl rfl

theorem settleLeg_writes (t : Nat) (w : Option Nat) (k : Nat) (s : State) : Writes [] s (settleLeg t w k s) := by
  unfold settleLeg
  extract_lets l raw go endH endL fallH fallL cmdH cmdL stayL onH onL newH newL moved drv thr peakOn x0
  have h0 : Writes [] s x0 := Writes.ite (writes_keep rfl rfl rfl rfl rfl) (Writes.refl _ _)
  exact h0.step (updLeg_writes _ _ _)

theorem settleLegs_writes (g : Nat) (s : State) : Writes [] s (settleLegs g s) :=
  forAll_writes (fun _ _ => settleLeg_writes _ none _ _) _ _

theorem zxStop_writes {g : Nat} (h : g < 8) (s : State) : Writes gateRegs s (zxStop g s) :=
  ((put_writes s (F.ADC_ZXCFG_EN g) 0).step ((updConv_writes _ _ _).mono (fun _ h => absurd h (by simp)))).mono
    (fun a ha => List.mem_map.mpr ⟨g, List.mem_range.mpr h, (List.mem_singleton.mp ha).symm⟩)

theorem settleGroup_writes {g : Nat} (h : g < 8) (s : State) : Writes gateRegs s (settleGroup g s) := by
  unfold settleGroup
  extract_lets why was x0
  have h0 : Writes gateRegs s x0 :=
    ((updGrp_writes s g _).step (settleLegs_writes g _)).mono (fun _ h => absurd h (by simp))
  exact Writes.ite (h0.step (zxStop_writes h _)) h0

theorem settleGroups_writes (s : State) : Writes gateRegs s (settleGroups s) :=
  forAll_writesIn (fun i hi t => settleGroup_writes (List.mem_range.mp hi) t) s

theorem settleFault_writes (s : State) : Writes [R.HWM_STAT] s (settleFault s) :=
  Writes.ite (Writes.refl _ _) ((putB_writes s F.HWM_STAT_FAULT _).step
    ((hwmEvent_writes (n := 73) (by decide) _).mono (fun _ h => absurd h (by simp))))

/-- The gating points and FAULTn touch HWM.STAT and the enables of the crossing measurements alone. -/
theorem settle_writes (s : State) : Writes (R.HWM_STAT :: gateRegs) s (settle s) :=
  ((settleGroups_writes s).trans (settleFault_writes _)).mono (fun a h => by
    rcases List.mem_append.mp h with k | k
    · exact List.mem_cons_of_mem _ k
    · rw [List.mem_singleton.mp k]; exact List.mem_cons_self)

theorem detRecord_writes (det pos cls : Nat) (s : State) : Writes [R.HWM_DETLAST] s (detRecord det pos cls s) :=
  Writes.ite (put_writes s F.HWM_DETLAST_OVR _) ((put_writes s F.HWM_DETLAST_VALID _).step
    ((put_writes _ F.HWM_DETLAST_CLASS _).step ((put_writes _ F.HWM_DETLAST_POS _).step (put_writes _ F.HWM_DETLAST_DET _))))

theorem recordRaise_writes (det pos cls : Nat) (s : State) :
    Writes [R.HWM_DETLAST, R.HWM_DETCNT] s (recordRaise det pos cls s) := by
  have h0 := ((detRecord_writes det pos cls s).trans (bump_writes _ F.HWM_DETCNT_COUNT 1)).step
    ((hwmEvent_writes (n := 72) (by decide) _).mono (fun _ h => absurd h (by simp)))
  exact Writes.ite (h0.step ((evcCount_writes _ _ _).mono (fun _ h => absurd h (by simp)))) h0

theorem sendRaise_writes (det pos groups : Nat) (s : State) : Writes [] s (sendRaise det pos groups s) :=
  Writes.ite (writes_keep rfl rfl rfl rfl rfl) (Writes.refl _ _)

theorem linesLow_writes (g : Nat) (s : State) : Writes [] s (linesLow g s) :=
  (((updPg_writes _ _ _).step (forAll_writes (fun _ _ => updLeg_writes _ _ _) _ _)).step (updConv_writes _ _ _)).step
    (settleLegs_writes _ _)

end Sys2Proof.Machine
end

