-- ==== Sys2Proof/Laws/Inv.lean ====
section
/-! SUPPORT. The primitive updates keep `Inv`; how it passes through conditionals, folds and outcomes. -/

namespace Sys2Proof.Machine

theorem State.setReg_inv {s : State} {a w} (h : Inv s) : Inv (s.setReg a w) := ⟨h.1, mwf_mset _ _ _ h.2.1, h.2.2⟩

theorem State.setShd_inv {s : State} {a w} (h : Inv s) : Inv (s.setShd a w) := ⟨h.1, h.2.1, mwf_mset _ _ _ h.2.2.1, h.2.2.2⟩

theorem State.setByte_inv {s : State} {a b} (h : Inv s) : Inv (s.setByte a b) :=
  ⟨h.1, h.2.1, h.2.2.1, mwf_mset _ _ _ h.2.2.2.1, h.2.2.2.2⟩

theorem State.setBytes_inv {s : State} {a l} (h : Inv s) : Inv (s.setBytes a l) :=
  ⟨h.1, h.2.1, h.2.2.1, mwf_mrange _ _ _ h.2.2.2.1, h.2.2.2.2⟩

theorem State.setErrs_inv {s : State} {a n} (h : Inv s) : Inv (s.setErrs a n) :=
  ⟨h.1, h.2.1, h.2.2.1, h.2.2.2.1, mwf_mset _ _ _ h.2.2.2.2⟩

theorem State.setWord_inv {s : State} {a w} (h : Inv s) : Inv (s.setWord a w) :=
  State.setByte_inv (State.setByte_inv (State.setByte_inv (State.setByte_inv h)))

theorem State.setWords_inv {l : List Word} : ∀ {s : State} {a}, Inv s → Inv (s.setWords a l) := by
  induction l with
  | nil => exact fun h => h
  | cons w l ih => exact fun h => ih (State.setWord_inv h)

/-- An update of other fields keeps it. -/
theorem inv_mk {s : State} {now draws fresh pwr brg spp cp icu banks dma scrub mir hgrp hwm evc bist mgn inj lnk legs pgrp adc fbp wheels sents prs lup fifo krg grd can pending} (h : Inv s) :
    Inv ⟨now, draws, fresh, s.mode, s.sub, s.regs, s.shadow, s.mem, s.ecc, pwr, brg, spp, cp, icu, banks, dma, scrub, mir, hgrp, hwm, evc, bist, mgn, inj, lnk, legs, pgrp, adc, fbp, wheels, sents, prs, lup, fifo, krg, grd, can, pending⟩ :=
  ⟨h.1, h.2⟩

theorem snd_inv {α : Type} {a : α} {s : State} (h : Inv s) : Inv (a, s).2 := h

theorem snd2_inv {α β : Type} {a : α} {b : β} {s : State} (h : Inv s) : Inv (a, b, s).2.2 := h

theorem bus_inv {e st : Bool} {d : Word} {s : State} (h : Inv s) : Inv (Bus.mk e st d s).st := h

theorem foldl_inv {α : Type} {f : State → α → State} (hf : ∀ t x, Inv t → Inv (f t x)) :
    ∀ {l : List α} {s : State}, Inv s → Inv (l.foldl f s)
  | [], _, h => h
  | _ :: l, _, h => foldl_inv hf (l := l) (hf _ _ h)

theorem foldl_inv2 {α β : Type} {f : α × State → β → α × State} (hf : ∀ q x, Inv q.2 → Inv (f q x).2) :
    ∀ {l : List β} {q}, Inv q.2 → Inv (l.foldl f q).2
  | [], _, h => h
  | x :: _, q, h => foldl_inv2 (q := f q x) hf (hf q x h)

theorem forAll_inv {f : Nat → State → State} {l s} (hf : ∀ i t, Inv t → Inv (f i t)) (h : Inv s) : Inv (forAll l f s) :=
  foldl_inv (fun t i ht => hf i t ht) h

theorem ite_inv {c : Prop} [Decidable c] {a b : State} (ha : Inv a) (hb : Inv b) : Inv (if c then a else b) := by
  split
  · exact ha
  · exact hb

theorem ite_inv2 {c : Prop} [Decidable c] {α : Type} {a b : α × State} (ha : Inv a.2) (hb : Inv b.2) :
    Inv (if c then a else b).2 := by
  split
  · exact ha
  · exact hb

theorem ite_inv3 {c : Prop} [Decidable c] {α β : Type} {a b : α × β × State} (ha : Inv a.2.2) (hb : Inv b.2.2) :
    Inv (if c then a else b).2.2 := by
  split
  · exact ha
  · exact hb

theorem ite_bus {c : Prop} [Decidable c] {a b : Bus} (ha : Inv a.st) (hb : Inv b.st) : Inv (if c then a else b).st := by
  split
  · exact ha
  · exact hb

/-- The state that a CP instruction leaves meets `Inv`. -/
def EffInv : Eff → Prop
  | .ok _ t => Inv t
  | .trap _ _ t => Inv t
  | .stall t => Inv t
  | .halt _ t => Inv t

/-- The same of one that may be illegal. -/
def OEffInv (o : Option Eff) : Prop := ∀ e, o = some e → EffInv e

theorem some_eff {e : Eff} (h : EffInv e) : OEffInv (some e) := by
  intro x hx
  cases hx
  exact h

theorem none_eff : OEffInv none := by
  intro x hx
  cases hx

theorem map_eff {α : Type} {f : α → Eff} {o : Option α} (h : ∀ y, EffInv (f y)) : OEffInv (o.map f) := by
  intro x hx
  cases o with
  | none => cases hx
  | some y =>
    cases hx
    exact h y

theorem ite_eff {c : Prop} [Decidable c] {a b : Eff} (ha : EffInv a) (hb : EffInv b) : EffInv (if c then a else b) := by
  split
  · exact ha
  · exact hb

theorem ite_oeff {c : Prop} [Decidable c] {a b : Option Eff} (ha : OEffInv a) (hb : OEffInv b) :
    OEffInv (if c then a else b) := by
  split
  · exact ha
  · exact hb

/-- A next state meets `Inv`. -/
def OutInv (o : Out) : Prop := ∀ t, o = .next t → Inv t

theorem next_inv {s : State} (h : Inv s) : OutInv (.next s) := by
  intro t ht
  cases ht
  exact h

theorem ite_out {c : Prop} [Decidable c] {a b : Out} (ha : OutInv a) (hb : OutInv b) : OutInv (if c then a else b) := by
  split
  · exact ha
  · exact hb

end Sys2Proof.Machine
end

