-- ==== Sys2Proof/Laws/InvOps.lean ====
section
/-! SUPPORT. The operations of Machine/Ops.lean keep `Inv`. -/

namespace Sys2Proof.Machine

theorem State.mark_inv {s0 : State} {a1 a2} (k0 : Inv s0) : Inv (State.mark s0 a1 a2) := by
  unfold State.mark
  exact inv_mk k0

theorem State.put_inv {s0 : State} {a1 a2} (k0 : Inv s0) : Inv (State.put s0 a1 a2) := by
  unfold State.put
  exact State.mark_inv (State.setReg_inv k0)

theorem newCycle_inv {s0 : State} (k0 : Inv s0) : Inv (newCycle s0) := by
  unfold newCycle
  exact inv_mk k0

theorem State.putB_inv {s0 : State} {a1 a2} (k0 : Inv s0) : Inv (State.putB s0 a1 a2) := by
  unfold State.putB
  exact State.put_inv k0

theorem State.putBit_inv {s0 : State} {a1 a2 a3} (k0 : Inv s0) : Inv (State.putBit s0 a1 a2 a3) := by
  unfold State.putBit
  exact State.mark_inv (State.setReg_inv k0)

theorem State.putMax_inv {s0 : State} {a1 a2} (k0 : Inv s0) : Inv (State.putMax s0 a1 a2) := by
  unfold State.putMax
  exact ite_inv (State.put_inv k0) k0

theorem State.clearMax_inv {s0 : State} {a1} (k0 : Inv s0) : Inv (State.clearMax s0 a1) := by
  unfold State.clearMax
  exact ite_inv k0 (State.put_inv k0)

theorem State.bump_inv {s0 : State} {a1 a2} (k0 : Inv s0) : Inv (State.bump s0 a1 a2) := by
  unfold State.bump
  exact State.put_inv k0

theorem State.putS_inv {s0 : State} {a1 a2} (k0 : Inv s0) : Inv (State.putS s0 a1 a2) := by
  unfold State.putS
  exact State.put_inv k0

theorem noteOld_inv {a0} {s1 : State} (k1 : Inv s1) : Inv (noteOld a0 s1) := by
  unfold noteOld
  exact ite_inv k1 (inv_mk k1)

theorem State.updGrp_inv {s0 : State} {a1 a2} (k0 : Inv s0) : Inv (State.updGrp s0 a1 a2) := by
  unfold State.updGrp
  exact inv_mk k0

theorem evcOne_inv {a0 a1} {s2 : State} (k2 : Inv s2) : Inv (evcOne a0 a1 s2) := by
  unfold evcOne
  lift_lets -merge -useContext -underBinder
  extract_lets -merge -useContext +onlyGivenNames x0
  clear_value x0
  extract_lets -merge -useContext +onlyGivenNames x1
  clear_value x1
  extract_lets -merge -useContext +onlyGivenNames x2
  clear_value x2
  extract_lets -merge -useContext +onlyGivenNames x3
  clear_value x3
  extract_lets -merge -useContext +onlyGivenNames x4
  have h4 : Inv x4 := inv_mk k2
  clear_value x4
  extract_lets -merge -useContext +onlyGivenNames x5
  have h5 : Inv x5 := ite_inv (State.putBit_inv h4) h4
  clear_value x5
  extract_lets -merge -useContext +onlyGivenNames x6
  clear_value x6
  exact ite_inv (State.putBit_inv h5) h5

theorem evcAdd_inv {a0 a1} {s2 : State} (k2 : Inv s2) : Inv (evcAdd a0 a1 s2) := by
  unfold evcAdd
  exact ite_inv k2 (forAll_inv (fun y0_0 y0_1 g0_1 => evcOne_inv g0_1) k2)

theorem icuPend_inv {a0} {s1 : State} (k1 : Inv s1) : Inv (icuPend a0 s1) := by
  unfold icuPend
  exact ite_inv (State.put_inv k1) (evcAdd_inv (State.put_inv k1))

theorem icuMoveLine_inv {a0 a1} {s2 : State} (k2 : Inv s2) : Inv (icuMoveLine a0 a1 s2) := by
  unfold icuMoveLine
  lift_lets -merge -useContext -underBinder
  extract_lets -merge -useContext +onlyGivenNames x0
  clear_value x0
  extract_lets -merge -useContext +onlyGivenNames x1
  clear_value x1
  extract_lets -merge -useContext +onlyGivenNames x2
  have h2 : Inv x2 := inv_mk k2
  clear_value x2
  exact ite_inv (ite_inv (icuPend_inv h2) (evcAdd_inv h2)) h2

theorem evcSettle_inv {s0 : State} (k0 : Inv s0) : Inv (evcSettle s0) := by
  unfold evcSettle
  exact icuMoveLine_inv k0

theorem icuSetLine_inv {a0 a1} {s2 : State} (k2 : Inv s2) : Inv (icuSetLine a0 a1 s2) := by
  unfold icuSetLine
  exact evcSettle_inv (icuMoveLine_inv k2)

theorem evcCount_inv {a0 a1} {s2 : State} (k2 : Inv s2) : Inv (evcCount a0 a1 s2) := by
  unfold evcCount
  exact evcSettle_inv (evcAdd_inv k2)

theorem icuEvent_inv {a0} {s1 : State} (k1 : Inv s1) : Inv (icuEvent a0 s1) := by
  unfold icuEvent
  exact ite_inv k1 (ite_inv (evcSettle_inv (icuPend_inv k1)) k1)

theorem hwmEvent_inv {a0} {s1 : State} (k1 : Inv s1) : Inv (hwmEvent a0 s1) := by
  unfold hwmEvent
  exact ite_inv (icuEvent_inv k1) k1

theorem setMtime_inv {s0 : State} {a1} (k0 : Inv s0) : Inv (setMtime s0 a1) := by
  unfold setMtime
  exact State.setReg_inv (State.setReg_inv k0)

theorem setCpCount_inv {a0 a1} {s2 : State} (k2 : Inv s2) : Inv (setCpCount a0 a1 s2) := by
  unfold setCpCount
  lift_lets -merge -useContext -underBinder
  extract_lets -merge -useContext +onlyGivenNames x0
  clear_value x0
  extract_lets -merge -useContext +onlyGivenNames x1
  clear_value x1
  exact inv_mk k2

theorem countCycles_inv {a0} {s1 : State} (k1 : Inv s1) : Inv (countCycles a0 s1) := by
  unfold countCycles
  exact ite_inv k1 (setCpCount_inv k1)

theorem State.updPrs_inv {s0 : State} {a1} (k0 : Inv s0) : Inv (State.updPrs s0 a1) := by
  unfold State.updPrs
  exact inv_mk k0

theorem State.updFacet_inv {s0 : State} {a1 a2} (k0 : Inv s0) : Inv (State.updFacet s0 a1 a2) := by
  unfold State.updFacet
  exact State.updPrs_inv k0

theorem heldTick_inv {a0 a1} {s2 : State} (k2 : Inv s2) : Inv (heldTick a0 a1 s2) := by
  unfold heldTick
  lift_lets -merge -useContext -underBinder
  extract_lets -merge -useContext +onlyGivenNames x0
  clear_value x0
  extract_lets -merge -useContext +onlyGivenNames x1
  clear_value x1
  exact ite_inv k2 (evcAdd_inv (State.updFacet_inv (State.bump_inv k2)))

theorem passTo_inv {a0} {s1 : State} (k1 : Inv s1) : Inv (passTo a0 s1) := by
  unfold passTo
  refine ite_inv ?_ ?_
  · exact k1
  · lift_lets -merge -useContext -underBinder
    extract_lets -merge -useContext +onlyGivenNames x0
    clear_value x0
    extract_lets -merge -useContext +onlyGivenNames x1
    clear_value x1
    extract_lets -merge -useContext +onlyGivenNames x2
    have h2 : Inv x2 := inv_mk k1
    clear_value x2
    extract_lets -merge -useContext +onlyGivenNames x3
    have h3 : Inv x3 := countCycles_inv (setMtime_inv h2)
    clear_value x3
    exact ite_inv (evcSettle_inv (forAll_inv (fun y4_0 y4_1 g4_1 => heldTick_inv g4_1) (evcAdd_inv (evcAdd_inv h3)))) h2

theorem advanceTo_inv {a0} {s1 : State} (k1 : Inv s1) : Inv (advanceTo a0 s1) := by
  unfold advanceTo
  lift_lets -merge -useContext -underBinder
  extract_lets -merge -useContext +onlyGivenNames x0
  clear_value x0
  extract_lets -merge -useContext +onlyGivenNames x1
  have h1 : Inv x1 := passTo_inv (ite_inv (newCycle_inv (passTo_inv k1)) k1)
  clear_value x1
  extract_lets -merge -useContext +onlyGivenNames x2
  clear_value x2
  exact inv_mk h1

theorem draw_inv {s0 : State} (k0 : Inv s0) : Inv (draw s0).2 := by
  unfold draw
  exact snd_inv (inv_mk k0)

theorem State.setOperand_inv {s0 : State} {a1 a2} (k0 : Inv s0) : Inv (State.setOperand s0 a1 a2) := by
  unfold State.setOperand
  exact State.setWord_inv k0

theorem offAccess_inv {a0 a1} {s2 : State} (k2 : Inv s2) : Inv (offAccess a0 a1 s2) := by
  unfold offAccess
  lift_lets -merge -useContext -underBinder
  extract_lets -merge -useContext +onlyGivenNames x0
  clear_value x0
  extract_lets -merge -useContext +onlyGivenNames x1
  have h1 : Inv x1 := inv_mk k2
  clear_value x1
  extract_lets -merge -useContext +onlyGivenNames x2
  have h2 : Inv x2 := ite_inv (State.put_inv h1) (State.setReg_inv (State.put_inv (State.put_inv h1)))
  clear_value x2
  exact icuEvent_inv h2

theorem access_inv {a0 a1 a2} {s3 : State} (k2 : ∀ y0, Inv y0 → Inv (a2 y0)) (k3 : Inv s3) : Inv (access a0 a1 a2 s3) := by
  unfold access
  exact ite_inv (offAccess_inv k3) (k2 _ k3)

theorem clocked_inv {a0 a1} {s2 : State} (k1 : ∀ y0, Inv y0 → Inv (a1 y0)) (k2 : Inv s2) : Inv (clocked a0 a1 s2) := by
  unfold clocked
  exact ite_inv k2 (k1 _ k2)

end Sys2Proof.Machine
end

