-- ==== Sys2Proof/Laws/InvGate.lean ====
section
/-! SUPPORT. The operations of Machine/Gate.lean keep `Inv`. -/

namespace Sys2Proof.Machine

theorem State.updLeg_inv {s0 : State} {a1 a2} (k0 : Inv s0) : Inv (State.updLeg s0 a1 a2) := by
  unfold State.updLeg
  exact inv_mk k0

theorem State.updPg_inv {s0 : State} {a1 a2} (k0 : Inv s0) : Inv (State.updPg s0 a1 a2) := by
  unfold State.updPg
  exact inv_mk k0

theorem settleLeg_inv {a0 a1 a2} {s3 : State} (k3 : Inv s3) : Inv (settleLeg a0 a1 a2 s3) := by
  unfold settleLeg
  extract_lets -merge -useContext +onlyGivenNames x0
  clear_value x0
  extract_lets -merge -useContext +onlyGivenNames x1
  clear_value x1
  extract_lets -merge -useContext +onlyGivenNames x2
  clear_value x2
  extract_lets -merge -useContext +onlyGivenNames x3
  clear_value x3
  extract_lets -merge -useContext +onlyGivenNames x4
  clear_value x4
  extract_lets -merge -useContext +onlyGivenNames x5
  clear_value x5
  extract_lets -merge -useContext +onlyGivenNames x6
  clear_value x6
  extract_lets -merge -useContext +onlyGivenNames x7
  clear_value x7
  extract_lets -merge -useContext +onlyGivenNames x8
  clear_value x8
  extract_lets -merge -useContext +onlyGivenNames x9
  clear_value x9
  extract_lets -merge -useContext +onlyGivenNames x10
  clear_value x10
  extract_lets -merge -useContext +onlyGivenNames x11
  clear_value x11
  extract_lets -merge -useContext +onlyGivenNames x12
  clear_value x12
  extract_lets -merge -useContext +onlyGivenNames x13
  clear_value x13
  extract_lets -merge -useContext +onlyGivenNames x14
  clear_value x14
  extract_lets -merge -useContext +onlyGivenNames x15
  clear_value x15
  extract_lets -merge -useContext +onlyGivenNames x16
  clear_value x16
  extract_lets -merge -useContext +onlyGivenNames x17
  clear_value x17
  extract_lets -merge -useContext +onlyGivenNames x18
  have h18 : Inv x18 := ite_inv (inv_mk k3) k3
  clear_value x18
  exact State.updLeg_inv h18

theorem settleLegs_inv {a0} {s1 : State} (k1 : Inv s1) : Inv (settleLegs a0 s1) := by
  unfold settleLegs
  exact forAll_inv (fun y0_0 y0_1 g0_1 => settleLeg_inv g0_1) k1

end Sys2Proof.Machine
end

