-- ==== Sys2Proof/Laws/InvEcc.lean ====
section
/-! SUPPORT. The operations of Machine/Ecc.lean keep `Inv`. -/

namespace Sys2Proof.Machine

theorem sendRaise_inv {a0 a1 a2} {s3 : State} (k3 : Inv s3) : Inv (sendRaise a0 a1 a2 s3) := by
  unfold sendRaise
  exact ite_inv (inv_mk k3) k3

theorem sendRaiseAs_inv {a0 a1 a2 a3} {s4 : State} (k4 : Inv s4) : Inv (sendRaiseAs a0 a1 a2 a3 s4) := by
  unfold sendRaiseAs
  exact ite_inv (inv_mk k4) k4

theorem injActed_inv {s0 : State} (k0 : Inv s0) : Inv (injActed s0) := by
  unfold injActed
  exact evcCount_inv (icuEvent_inv (State.put_inv k0))

theorem injPop_inv {a0} {s1 : State} (k1 : Inv s1) : Inv (injPop a0 s1) := by
  unfold injPop
  exact injActed_inv (inv_mk k1)

theorem eccCorrected_inv {a0} {s1 : State} (k1 : Inv s1) : Inv (eccCorrected a0 s1) := by
  unfold eccCorrected
  extract_lets -merge -useContext +onlyGivenNames x0
  have h0 : Inv x0 := State.put_inv k1
  clear_value x0
  exact evcCount_inv (icuEvent_inv (State.bump_inv h0))

theorem eccFailed_inv {a0} {s1 : State} (k1 : Inv s1) : Inv (eccFailed a0 s1) := by
  unfold eccFailed
  extract_lets -merge -useContext +onlyGivenNames x0
  have h0 : Inv x0 := ite_inv k1 (State.setReg_inv k1)
  clear_value x0
  extract_lets -merge -useContext +onlyGivenNames x1
  have h1 : Inv x1 := State.bump_inv (State.put_inv h0)
  clear_value x1
  exact sendRaise_inv (icuEvent_inv h1)

theorem eccInject_inv {a0} {s1 : State} (k1 : Inv s1) : Inv (eccInject a0 s1).2 := by
  unfold eccInject
  split
  · exact snd_inv k1
  · exact ite_inv2 (snd_inv (injPop_inv k1)) (snd_inv k1)

theorem eccRead_inv {a0 a1} {s2 : State} (k2 : Inv s2) : Inv (eccRead a0 a1 s2).2 := by
  unfold eccRead
  extract_lets -merge -useContext +onlyGivenNames x0
  have h0 : Inv x0.2 := eccInject_inv k2
  clear_value x0
  extract_lets -merge -useContext +onlyGivenNames x1
  clear_value x1
  extract_lets -merge -useContext +onlyGivenNames x2
  have h2 : Inv x2 := h0
  clear_value x2
  exact ite_inv2 (snd_inv h2) (ite_inv2 (ite_inv2 (snd_inv (eccCorrected_inv h2)) (snd_inv (eccCorrected_inv
      (State.setErrs_inv h2)))) (snd_inv (eccFailed_inv h2)))

theorem eccWritePart_inv {a0 a1} {s2 : State} (k2 : Inv s2) : Inv (eccWritePart a0 a1 s2).2 := by
  unfold eccWritePart
  extract_lets -merge -useContext +onlyGivenNames x0
  have h0 : Inv x0.2 := eccRead_inv k2
  clear_value x0
  exact snd_inv h0

theorem eccReadAll_inv : ∀ {l : List Nat} {s0 : State}, Inv s0 → Inv (eccReadAll s0 l).2
  | [], _, h => h
  | _ :: l, _, h => eccReadAll_inv (l := l) (eccRead_inv h)

theorem eccFlip_inv {a0 a1} {s2 : State} (k2 : Inv s2) : Inv (eccFlip a0 a1 s2) := by
  unfold eccFlip
  exact ite_inv k2 (State.setErrs_inv k2)

end Sys2Proof.Machine
end

