-- ==== Sys2Proof/Laws/InvLock.lean ====
section
/-! SUPPORT. The operations of Machine/Lock.lean keep `Inv`. -/

namespace Sys2Proof.Machine

theorem State.updBank_inv {s0 : State} {a1 a2} (k0 : Inv s0) : Inv (State.updBank s0 a1 a2) := by
  unfold State.updBank
  exact inv_mk k0

theorem arbFault_inv {a0 a1 a2 a3} {s4 : State} (k4 : Inv s4) : Inv (arbFault a0 a1 a2 a3 s4) := by
  unfold arbFault
  extract_lets -merge -useContext +onlyGivenNames x0
  clear_value x0
  extract_lets -merge -useContext +onlyGivenNames x1
  have h1 : Inv x1 := ite_inv (State.put_inv (State.put_inv k4)) k4
  clear_value x1
  exact icuEvent_inv (State.put_inv h1)

theorem arbEnd_inv {a0 a1} {s2 : State} (k2 : Inv s2) : Inv (arbEnd a0 a1 s2) := by
  unfold arbEnd
  exact State.updBank_inv k2

theorem lockRefuse_inv {a0 a1} {s2 : State} (k2 : Inv s2) : Inv (lockRefuse a0 a1 s2) := by
  unfold lockRefuse
  exact arbEnd_inv (evcCount_inv (arbFault_inv k2))

theorem dmaNarrow_inv : ∀ {l : List Word} {a : Nat} {s : State}, Inv s → Inv (dmaNarrow a l s).2
  | [], _, _, h => h
  | w :: l, a, s, h => by
    unfold dmaNarrow
    split
    · dsimp only
      split
      · exact dmaNarrow_inv (State.setWord_inv (eccWritePart_inv h))
      · exact eccWritePart_inv h
    · exact dmaNarrow_inv h

theorem dmaWrite_inv : ∀ {l : List Word} {a : Nat} {s : State}, Inv s → Inv (dmaWrite a l s).2
  | [], _, _, h => h
  | [_], _, _, h => dmaNarrow_inv h
  | w :: v :: l, a, s, h => by
    unfold dmaWrite
    refine ite_inv2 (dmaWrite_inv (ite_inv (State.setWord_inv (State.setWord_inv (State.setErrs_inv h))) h)) ?_
    dsimp only
    split
    · exact dmaWrite_inv (dmaNarrow_inv h)
    · exact dmaNarrow_inv h

theorem dmaRead_inv {a0 a1} {s2 : State} (k2 : Inv s2) : Inv (dmaRead a0 a1 s2).2 := by
  unfold dmaRead
  extract_lets -merge -useContext +onlyGivenNames x0
  have h0 : Inv x0.2 := eccReadAll_inv k2
  clear_value x0
  exact ite_inv2 (snd_inv h0) (snd_inv h0)

theorem dmaMove_inv {a0 a1 a2 a3} {s4 : State} (k3 : ∀ y0, Inv y0 → Inv (a3 y0)) (k4 : Inv s4) : Inv (dmaMove a0 a1 a2 a3
    s4) := by
  unfold dmaMove
  extract_lets -merge -useContext +onlyGivenNames x0
  clear_value x0
  extract_lets -merge -useContext +onlyGivenNames x1
  have h1 : Inv x1 := inv_mk k4
  clear_value x1
  refine ite_inv ?_ ?_
  · exact h1
  · split
    · exact k3 _ k4
    · exact ite_inv (lockRefuse_inv k4) h1

end Sys2Proof.Machine
end

