-- ==== Sys2Proof/Laws/InvReact.lean ====
section
/-! SUPPORT. The operations of Machine/React.lean keep `Inv`. -/

namespace Sys2Proof.Machine

theorem State.updConv_inv {s0 : State} {a1 a2} (k0 : Inv s0) : Inv (State.updConv s0 a1 a2) := by
  unfold State.updConv
  exact inv_mk k0

theorem zxStop_inv {a0} {s1 : State} (k1 : Inv s1) : Inv (zxStop a0 s1) := by
  unfold zxStop
  exact State.updConv_inv (State.put_inv k1)

theorem settleGroup_inv {a0} {s1 : State} (k1 : Inv s1) : Inv (settleGroup a0 s1) := by
  unfold settleGroup
  extract_lets -merge -useContext +onlyGivenNames x0
  extract_lets -merge -useContext +onlyGivenNames x1
  extract_lets -merge -useContext +onlyGivenNames x2
  have h2 : Inv x2 := settleLegs_inv (State.updGrp_inv k1)
  clear_value x2
  exact ite_inv (zxStop_inv h2) h2

theorem settleGroups_inv {s0 : State} (k0 : Inv s0) : Inv (settleGroups s0) := by
  unfold settleGroups
  exact forAll_inv (fun y0_0 y0_1 g0_1 => settleGroup_inv g0_1) k0

theorem settleFault_inv {s0 : State} (k0 : Inv s0) : Inv (settleFault s0) := by
  unfold settleFault
  exact ite_inv k0 (hwmEvent_inv (State.putB_inv k0))

theorem vdsEnd_inv {a0} {s1 : State} (k1 : Inv s1) : Inv (vdsEnd a0 s1) := by
  unfold vdsEnd
  exact State.updGrp_inv k1

theorem vdsEndFree_inv {a0} {s1 : State} (k1 : Inv s1) : Inv (vdsEndFree a0 s1) := by
  unfold vdsEndFree
  exact ite_inv k1 (vdsEnd_inv k1)

theorem settle_inv {s0 : State} (k0 : Inv s0) : Inv (settle s0) := by
  unfold settle
  exact settleFault_inv (settleGroups_inv k0)

theorem boundaryRelease_inv {a0} {s1 : State} (k1 : Inv s1) : Inv (boundaryRelease a0 s1) := by
  unfold boundaryRelease
  exact ite_inv (settle_inv (State.updGrp_inv k1)) k1

theorem pisOpenNow_inv {a0} {s1 : State} (k1 : Inv s1) : Inv (pisOpenNow a0 s1) := by
  unfold pisOpenNow
  extract_lets -merge -useContext +onlyGivenNames x0
  have h0 : Inv x0 := ite_inv (State.putBit_inv k1) k1
  exact State.updGrp_inv (State.putBit_inv h0)

theorem pisRequest_inv {a0} {s1 : State} (k1 : Inv s1) : Inv (pisRequest a0 s1) := by
  unfold pisRequest
  exact ite_inv k1 (ite_inv (pisOpenNow_inv k1) (State.updGrp_inv k1))

theorem pisAuto_inv {a0} {s1 : State} (k1 : Inv s1) : Inv (pisAuto a0 s1) := by
  unfold pisAuto
  exact ite_inv (pisRequest_inv (State.updGrp_inv k1)) k1

theorem bstCutRecord_inv {a0 a1 a2} {s3 : State} (k3 : Inv s3) : Inv (bstCutRecord a0 a1 a2 s3) := by
  unfold bstCutRecord
  exact ite_inv k3 (State.put_inv (State.put_inv (State.put_inv (State.put_inv k3))))

theorem stepEnd_inv {s0 : State} (k0 : Inv s0) : Inv (stepEnd s0) := by
  unfold stepEnd
  lift_lets -merge -useContext -underBinder
  extract_lets -merge -useContext +onlyGivenNames x0
  clear_value x0
  extract_lets -merge -useContext +onlyGivenNames x1
  have h1 : Inv x1 := inv_mk k0
  clear_value x1
  split
  · exact h1
  · exact settleLeg_inv h1

theorem analogCut_inv {a0} {s1 : State} (k1 : Inv s1) : Inv (analogCut a0 s1) := by
  unfold analogCut
  refine ite_inv ?_ ?_
  · extract_lets -merge -useContext +onlyGivenNames x0
    have h0 : Inv x0 := stepEnd_inv k1
    clear_value x0
    extract_lets -merge -useContext +onlyGivenNames x1
    have h1 : Inv x1 := State.put_inv (State.put_inv (State.put_inv h0))
    clear_value x1
    exact icuEvent_inv (bstCutRecord_inv h1)
  · exact k1

theorem cutCopy_inv {a0 a1} {s2 : State} (k2 : Inv s2) : Inv (cutCopy a0 a1 s2) := by
  unfold cutCopy
  extract_lets -merge -useContext +onlyGivenNames x0
  clear_value x0
  split
  · rename_i z1_0_0 z1_0_1 e1_0
    have h1_0 : Inv z1_0_1 := by
      have q1 : _ = z1_0_1 := congrArg Prod.snd e1_0
      rw [← q1]
      exact draw_inv k2
    extract_lets -merge -useContext +onlyGivenNames x2
    have h2 : Inv x2 := State.setReg_inv h1_0
    clear_value x2
    extract_lets -merge -useContext +onlyGivenNames x3
    have h3 : Inv x3 := ite_inv (State.put_inv (State.put_inv h2)) (State.put_inv (State.put_inv h2))
    clear_value x3
    exact State.put_inv h3

theorem logicCut_inv {a0} {s1 : State} (k1 : Inv s1) : Inv (logicCut a0 s1) := by
  unfold logicCut
  refine ite_inv ?_ ?_
  · extract_lets -merge -useContext +onlyGivenNames x0
    have h0 : Inv x0 := foldl_inv (fun t x ht => cutCopy_inv ht) k1
    clear_value x0
    exact bstCutRecord_inv h0
  · exact k1

theorem injSpend_inv {a0} {s1 : State} (k1 : Inv s1) : Inv (injSpend a0 s1) := by
  unfold injSpend
  split
  · exact k1
  · lift_lets -merge -useContext -underBinder
    extract_lets -merge -useContext +onlyGivenNames x2
    clear_value x2
    extract_lets -merge -useContext +onlyGivenNames x3
    clear_value x3
    extract_lets -merge -useContext +onlyGivenNames x4
    clear_value x4
    extract_lets -merge -useContext +onlyGivenNames x5
    have h5 : Inv x5 := inv_mk k1
    clear_value x5
    exact ite_inv (injActed_inv h5) h5

theorem supShow_inv {a0} {s1 : State} (k1 : Inv s1) : Inv (supShow a0 s1) := by
  unfold supShow
  refine ite_inv ?_ ?_
  · extract_lets -merge -useContext +onlyGivenNames x0
    clear_value x0
    extract_lets -merge -useContext +onlyGivenNames x1
    clear_value x1
    extract_lets -merge -useContext +onlyGivenNames x2
    have h2 : Inv x2 := State.setReg_inv k1
    clear_value x2
    exact ite_inv (icuEvent_inv (State.putBit_inv h2)) h2
  · exact k1

theorem injUndo_inv {a0 a1} {s2 : State} (k2 : Inv s2) : Inv (injUndo a0 a1 s2) := by
  unfold injUndo
  refine ite_inv ?_ ?_
  · exact State.putB_inv k2
  · refine ite_inv ?_ ?_
    · exact State.putBit_inv k2
    · refine ite_inv ?_ ?_
      · exact State.putB_inv k2
      · refine ite_inv ?_ ?_
        · lift_lets -merge -useContext -underBinder
          extract_lets -merge -useContext +onlyGivenNames x0
          have h0 : Inv x0 := supShow_inv k2
          clear_value x0
          extract_lets -merge -useContext +onlyGivenNames x1
          clear_value x1
          exact inv_mk h0
        · exact ite_inv (supShow_inv k2) (ite_inv (State.putB_inv k2) (ite_inv (inv_mk k2) k2))

theorem injEnd_inv {s0 : State} (k0 : Inv s0) : Inv (injEnd s0) := by
  unfold injEnd
  split
  · exact k0
  · lift_lets -merge -useContext -underBinder
    extract_lets -merge -useContext +onlyGivenNames x2
    clear_value x2
    extract_lets -merge -useContext +onlyGivenNames x3
    have h3 : Inv x3 := State.put_inv k0
    clear_value x3
    extract_lets -merge -useContext +onlyGivenNames x4
    clear_value x4
    exact settle_inv (injUndo_inv (inv_mk h3))

theorem shuntsCut_inv {a0} {s1 : State} (k1 : Inv s1) : Inv (shuntsCut a0 s1) := by
  unfold shuntsCut
  exact State.updConv_inv k1

theorem linesLow_inv {a0} {s1 : State} (k1 : Inv s1) : Inv (linesLow a0 s1) := by
  unfold linesLow
  exact settleLegs_inv (shuntsCut_inv (forAll_inv (fun y0_0 y0_1 g0_1 => State.updLeg_inv g0_1) (State.updPg_inv k1)))

theorem leadBlock_inv {s0 : State} (k0 : Inv s0) : Inv (leadBlock s0) := by
  unfold leadBlock
  exact ite_inv k0 (forAll_inv (fun y0_0 y0_1 g0_1 => linesLow_inv (State.put_inv g0_1)) k0)

theorem settleDci_inv {s0 : State} (k0 : Inv s0) : Inv (settleDci s0) := by
  unfold settleDci
  exact State.putB_inv k0

theorem tokenRelease_inv {s0 : State} (k0 : Inv s0) : Inv (tokenRelease s0) := by
  unfold tokenRelease
  exact ite_inv (leadBlock_inv (icuEvent_inv (settleDci_inv (State.put_inv (State.put_inv (State.put_inv k0)))))) k0

theorem ringLeadDrop_inv {s0 : State} (k0 : Inv s0) : Inv (ringLeadDrop s0) := by
  unfold ringLeadDrop
  exact ite_inv (leadBlock_inv (settleDci_inv (State.put_inv k0))) k0

theorem instepFall_inv {s0 : State} (k0 : Inv s0) : Inv (instepFall s0) := by
  unfold instepFall
  exact ite_inv (tokenRelease_inv (State.put_inv (State.put_inv k0))) k0

theorem logNew_inv {a0 a1 a2 a3 a4} {s5 : State} (k5 : Inv s5) : Inv (logNew a0 a1 a2 a3 a4 s5) := by
  unfold logNew
  lift_lets -merge -useContext -underBinder
  extract_lets -merge -useContext +onlyGivenNames x0
  clear_value x0
  extract_lets -merge -useContext +onlyGivenNames x1
  clear_value x1
  extract_lets -merge -useContext +onlyGivenNames x2
  clear_value x2
  extract_lets -merge -useContext +onlyGivenNames x3
  have h3 : Inv x3 := State.setWords_inv (State.setErrs_inv (State.setErrs_inv k5))
  clear_value x3
  extract_lets -merge -useContext +onlyGivenNames x4
  have h4 : Inv x4 := State.bump_inv h3
  clear_value x4
  extract_lets -merge -useContext +onlyGivenNames x5
  have h5 : Inv x5 := ite_inv (State.put_inv (State.put_inv h4)) (State.put_inv h4)
  clear_value x5
  extract_lets -merge -useContext +onlyGivenNames x6
  clear_value x6
  exact hwmEvent_inv (inv_mk h5)

theorem logRefused_inv {a0 a1 a2 a3 a4} {s5 : State} (k5 : Inv s5) : Inv (logRefused a0 a1 a2 a3 a4 s5) := by
  unfold logRefused
  lift_lets -merge -useContext -underBinder
  extract_lets -merge -useContext +onlyGivenNames x0
  clear_value x0
  extract_lets -merge -useContext +onlyGivenNames x1
  clear_value x1
  extract_lets -merge -useContext +onlyGivenNames x2
  have h2 : Inv x2.2 := eccWritePart_inv k5
  clear_value x2
  exact ite_inv (ite_inv (State.setWord_inv h2) h2) (logNew_inv k5)

theorem pwLock_inv {a0 a1} {s2 : State} (k2 : Inv s2) : Inv (pwLock a0 a1 s2) := by
  unfold pwLock
  refine ite_inv ?_ ?_
  · extract_lets -merge -useContext +onlyGivenNames x0
    have h0 : Inv x0 := logNew_inv (State.put_inv k2)
    clear_value x0
    exact hwmEvent_inv (State.put_inv h0)
  · exact k2

theorem subTo_inv {a0} {s1 : State} (k1 : Inv s1) : Inv (subTo a0 s1) := by
  unfold subTo
  split
  · exact ⟨.inl (by assumption), k1.2⟩
  · exact k1

theorem modeTo_inv {a0 a1} {s2 : State} (k2 : Inv s2) : Inv (modeTo a0 a1 s2) := by
  refine ⟨?_, k2.2⟩
  unfold SubOk modeTo
  by_cases h : a0 = .boot <;> simp [h]

theorem settleSupplies_inv {s0 : State} (k0 : Inv s0) : Inv (settleSupplies s0) := by
  unfold settleSupplies
  lift_lets -merge -useContext -underBinder
  extract_lets -merge -useContext +onlyGivenNames x0
  clear_value x0
  extract_lets -merge -useContext +onlyGivenNames x1
  clear_value x1
  exact inv_mk k0

theorem carryShorts_inv {a0} {s1 : State} (k1 : Inv s1) : Inv (carryShorts a0 s1) := by
  unfold carryShorts
  exact forAll_inv (fun y0_0 y0_1 g0_1 => State.updGrp_inv g0_1) k1

theorem changeMode_inv {a0 a1} {s2 : State} (k2 : Inv s2) : Inv (changeMode a0 a1 s2) := by
  unfold changeMode
  refine ite_inv ?_ ?_
  · exact subTo_inv k2
  · lift_lets -merge -useContext -underBinder
    extract_lets -merge -useContext +onlyGivenNames x0
    clear_value x0
    extract_lets -merge -useContext +onlyGivenNames x1
    have h1 : Inv x1 := carryShorts_inv k2
    clear_value x1
    extract_lets -merge -useContext +onlyGivenNames x2
    have h2 : Inv x2 := State.put_inv h1
    clear_value x2
    extract_lets -merge -useContext +onlyGivenNames x3
    have h3 : Inv x3 := modeTo_inv h2
    clear_value x3
    extract_lets -merge -useContext +onlyGivenNames x4
    have h4 : Inv x4 := icuEvent_inv h3
    clear_value x4
    extract_lets -merge -useContext +onlyGivenNames x5
    have h5 : Inv x5 := ite_inv (tokenRelease_inv h4) h4
    clear_value x5
    extract_lets -merge -useContext +onlyGivenNames x6
    have h6 : Inv x6 := ite_inv h5 (injEnd_inv h5)
    clear_value x6
    extract_lets -merge -useContext +onlyGivenNames x7
    have h7 : Inv x7 := ite_inv (analogCut_inv h6) h6
    clear_value x7
    extract_lets -merge -useContext +onlyGivenNames x8
    have h8 : Inv x8 := ite_inv (pwLock_inv h7) h7
    clear_value x8
    extract_lets -merge -useContext +onlyGivenNames x9
    clear_value x9
    extract_lets -merge -useContext +onlyGivenNames x10
    have h10 : Inv x10 := settleSupplies_inv (inv_mk h8)
    clear_value x10
    extract_lets -merge -useContext +onlyGivenNames x11
    have h11 : Inv x11 := State.put_inv (State.putB_inv h10)
    clear_value x11
    extract_lets -merge -useContext +onlyGivenNames x12
    clear_value x12
    extract_lets -merge -useContext +onlyGivenNames x13
    clear_value x13
    exact ite_inv (inv_mk h11) h10

theorem pisOnEntry_inv {s0 : State} (k0 : Inv s0) : Inv (pisOnEntry s0) := by
  unfold pisOnEntry
  exact ite_inv (forAll_inv (fun y0_0 y0_1 g0_1 => ite_inv g0_1 (pisAuto_inv g0_1)) k0) k0

theorem enterMode_inv {a0 a1} {s2 : State} (k2 : Inv s2) : Inv (enterMode a0 a1 s2) := by
  unfold enterMode
  extract_lets -merge -useContext +onlyGivenNames x0
  have h0 : Inv x0 := changeMode_inv k2
  clear_value x0
  extract_lets -merge -useContext +onlyGivenNames x1
  have h1 : Inv x1 := ite_inv (changeMode_inv h0) h0
  clear_value x1
  exact pisOnEntry_inv (settle_inv h1)

theorem outrank_inv {a0 a1} {s2 : State} (k2 : Inv s2) : Inv (outrank a0 a1 s2) := by
  unfold outrank
  split
  · exact k2
  · exact ite_inv (modeTo_inv k2) k2

theorem turned_inv {a0} {s1 : State} {s2 : State} (k1 : Inv s1) (k2 : Inv s2) : Inv (turned a0 s1 s2) := by
  unfold turned
  exact ite_inv k2 (inv_mk k2)

theorem enterBy_inv {a0 a1 a2} {s3 : State} (k3 : Inv s3) : Inv (enterBy a0 a1 a2 s3) := by
  unfold enterBy
  exact turned_inv k3 (enterMode_inv k3)

theorem limpTrigger_inv {a0} {s1 : State} (k1 : Inv s1) : Inv (limpTrigger a0 s1) := by
  unfold limpTrigger
  refine ite_inv ?_ ?_
  · lift_lets -merge -useContext -underBinder
    extract_lets -merge -useContext +onlyGivenNames x0
    have h0 : Inv x0 := State.put_inv (outrank_inv k1)
    clear_value x0
    extract_lets -merge -useContext +onlyGivenNames x1
    clear_value x1
    exact enterBy_inv (inv_mk h0)
  · exact k1

theorem softBegin_inv {a0} {s1 : State} (k1 : Inv s1) : Inv (softBegin a0 s1) := by
  unfold softBegin
  exact forAll_inv (fun y0_0 y0_1 g0_1 => State.updLeg_inv g0_1) (State.updGrp_inv k1)

theorem softOffGroup_inv {a0} {s1 : State} (k1 : Inv s1) : Inv (softOffGroup a0 s1) := by
  unfold softOffGroup
  lift_lets -merge -useContext -underBinder
  extract_lets -merge -useContext +onlyGivenNames x0
  have h0 : Inv x0 := ite_inv (State.putBit_inv k1) k1
  extract_lets -merge -useContext +onlyGivenNames x1
  extract_lets -merge -useContext +onlyGivenNames x2
  clear_value x2
  extract_lets -merge -useContext +onlyGivenNames x3
  have h3 : Inv x3 := State.putBit_inv h0
  clear_value x3
  exact ite_inv h0 (ite_inv (softBegin_inv h3) h3)

theorem shortGroup_inv {a0} {s1 : State} (k1 : Inv s1) : Inv (shortGroup a0 s1) := by
  unfold shortGroup
  extract_lets -merge -useContext +onlyGivenNames x0
  have h0 : Inv x0 := ite_inv (State.putBit_inv k1) k1
  clear_value x0
  exact State.putBit_inv h0

theorem haltNow_inv {s0 : State} (k0 : Inv s0) : Inv (haltNow s0) := by
  unfold haltNow
  refine ite_inv ?_ ?_
  · exact k0
  · extract_lets -merge -useContext +onlyGivenNames x0
    have h0 : Inv x0 := outrank_inv (State.put_inv k0)
    clear_value x0
    exact ite_inv (enterBy_inv h0) h0

theorem withdrawNow_inv {s0 : State} (k0 : Inv s0) : Inv (withdrawNow s0) := by
  unfold withdrawNow
  refine ite_inv ?_ ?_
  · exact k0
  · extract_lets -merge -useContext +onlyGivenNames x0
    have h0 : Inv x0 := outrank_inv (State.put_inv k0)
    clear_value x0
    exact ite_inv (enterBy_inv h0) h0

theorem applyClass_inv {a0 a1} {s2 : State} (k2 : Inv s2) : Inv (applyClass a0 a1 s2) := by
  unfold applyClass
  split
  · exact forAll_inv (fun y1_0 y1_1 g1_1 => softOffGroup_inv g1_1) k2
  · exact forAll_inv (fun y3_0 y3_1 g3_1 => shortGroup_inv g3_1) k2
  · exact haltNow_inv k2
  · exact withdrawNow_inv k2
  · exact k2

theorem detRecord_inv {a0 a1 a2} {s3 : State} (k3 : Inv s3) : Inv (detRecord a0 a1 a2 s3) := by
  unfold detRecord
  exact ite_inv (State.put_inv k3) (State.put_inv (State.put_inv (State.put_inv (State.put_inv k3))))

theorem recordRaise_inv {a0 a1 a2} {s3 : State} (k3 : Inv s3) : Inv (recordRaise a0 a1 a2 s3) := by
  unfold recordRaise
  extract_lets -merge -useContext +onlyGivenNames x0
  have h0 : Inv x0 := hwmEvent_inv (State.bump_inv (detRecord_inv k3))
  clear_value x0
  exact ite_inv (evcCount_inv h0) h0

theorem raiseAs_inv {a0 a1 a2 a3} {s4 : State} (k4 : Inv s4) : Inv (raiseAs a0 a1 a2 a3 s4) := by
  unfold raiseAs
  exact settle_inv (applyClass_inv (recordRaise_inv k4))

theorem raise_inv {a0 a1} {s2 : State} (k2 : Inv s2) : Inv (raise a0 a1 s2) := by
  unfold raise
  exact raiseAs_inv k2

theorem speedEdge_inv {a0 a1} {s2 : State} (k2 : Inv s2) : Inv (speedEdge a0 a1 s2) := by
  unfold speedEdge
  extract_lets -merge -useContext +onlyGivenNames x0
  extract_lets -merge -useContext +onlyGivenNames x1
  extract_lets -merge -useContext +onlyGivenNames x2
  extract_lets -merge -useContext +onlyGivenNames x3
  extract_lets -merge -useContext +onlyGivenNames x4
  have h4 : Inv x4 := State.updGrp_inv k2
  clear_value x4
  exact settleFault_inv (settleGroup_inv h4)

theorem pisIfWaiting_inv {a0} {s1 : State} (k1 : Inv s1) : Inv (pisIfWaiting a0 s1) := by
  unfold pisIfWaiting
  exact ite_inv (pisOpenNow_inv k1) k1

end Sys2Proof.Machine
end

