-- ==== Sys2Proof/Laws/InvPower.lean ====
section
/-! SUPPORT. The operations of Machine/Power.lean keep `Inv`. -/

namespace Sys2Proof.Machine

theorem wlogNew_inv {a0} {s1 : State} (k1 : Inv s1) : Inv (wlogNew a0 s1) := by
  unfold wlogNew
  extract_lets -merge -useContext +onlyGivenNames x0
  have h0 : Inv x0 := forAll_inv (fun y1_0 y1_1 g1_1 => State.setReg_inv g1_1) k1
  clear_value x0
  exact State.put_inv (State.setReg_inv h0)

theorem wlogStep_inv {a0} {s1 : State} (k1 : Inv s1) : Inv (wlogStep a0 s1) := by
  unfold wlogStep
  exact State.put_inv k1

theorem State.updPwr_inv {s0 : State} {a1} (k0 : Inv s0) : Inv (State.updPwr s0 a1) := by
  unfold State.updPwr
  exact inv_mk k0

theorem seqStep_inv {a0} {s1 : State} (k1 : Inv s1) : Inv (seqStep a0 s1) := by
  unfold seqStep
  exact wlogStep_inv (State.updPwr_inv k1)

theorem loadChid_inv {s0 : State} (k0 : Inv s0) : Inv (loadChid s0) := by
  unfold loadChid
  extract_lets -merge -useContext +onlyGivenNames x0
  clear_value x0
  exact State.put_inv (State.put_inv k0)

theorem dieReset_inv {s0 : State} (k0 : Inv s0) : Inv (dieReset s0) := by
  unfold dieReset
  extract_lets -merge -useContext +onlyGivenNames x0
  have h0 : Inv x0 := analogCut_inv (logicCut_inv (injEnd_inv k0))
  clear_value x0
  extract_lets -merge -useContext +onlyGivenNames x1
  have h1 : Inv x1 := pwLock_inv h0
  clear_value x1
  extract_lets -merge -useContext +onlyGivenNames u0 u2 x2
  have h2 : Inv x2 := by
    refine ⟨h1.1, ?_, rfl, h1.2.2.2.1, h1.2.2.2.2⟩
    exact mwf_mkeep _ (fun a => !dieBlock a || keptWhole a) h1.2.1
  clear_value x2
  extract_lets -merge -useContext +onlyGivenNames x3
  have h3 : Inv x3 := State.put_inv h2
  clear_value x3
  extract_lets -merge -useContext +onlyGivenNames x4
  have h4 : Inv x4 := State.put_inv (State.put_inv (State.put_inv h3))
  clear_value x4
  extract_lets -merge -useContext +onlyGivenNames x5
  have h5 : Inv x5 := State.put_inv (State.put_inv (State.put_inv (State.put_inv h4)))
  clear_value x5
  extract_lets -merge -useContext +onlyGivenNames x6
  have h6 : Inv x6 := State.setReg_inv h5
  clear_value x6
  extract_lets -merge -useContext +onlyGivenNames u7 x7
  have h7 : Inv x7 := inv_mk (State.put_inv h6)
  clear_value x7
  extract_lets -merge -useContext +onlyGivenNames x8
  have h8 : Inv x8 := forAll_inv (fun _ _ h => State.updLeg_inv (State.put_inv h)) h7
  clear_value x8
  extract_lets -merge -useContext +onlyGivenNames x9
  have h9 : Inv x9 := forAll_inv (fun _ _ h => State.updGrp_inv h) h8
  clear_value x9
  exact settleSupplies_inv (forAll_inv (fun _ _ h => vdsEndFree_inv h) (State.put_inv (loadChid_inv (inv_mk h9))))

theorem coreOff_inv {s0 : State} (k0 : Inv s0) : Inv (coreOff s0) := by
  unfold coreOff
  extract_lets kept
  refine ⟨k0.1, k0.2.1, k0.2.2.1, ?_, ?_⟩
  · exact mwf_mkeep _ kept k0.2.2.2.1
  · exact mwf_mkeep _ kept k0.2.2.2.2

theorem toBoot_inv {a0} {s1 : State} (k1 : Inv s1) : Inv (toBoot a0 s1) := by
  unfold toBoot
  exact enterMode_inv k1

theorem spbUndone_inv {s0 : State} (k0 : Inv s0) : Inv (spbUndone s0) := by
  unfold spbUndone
  generalize s0.hwm.commits = l
  induction l with
  | nil => exact k0
  | cons c l ih => exact State.setReg_inv ih

theorem powerOn_inv {a0} {s1 : State} (k : Inv s1) : Inv (powerOn a0 s1) := by
  unfold powerOn
  extract_lets -merge -useContext +onlyGivenNames y0
  have k1 : Inv y0 := State.setReg_inv (spbUndone_inv k)
  clear_value y0
  extract_lets -merge -useContext +onlyGivenNames x0
  extract_lets -merge -useContext +onlyGivenNames x1
  extract_lets -merge -useContext +onlyGivenNames u0 x2
  have h2 : Inv x2 := ⟨.inl rfl, mwf_mkeep _ x0 k1.2.1, rfl, mwf_mkeep _ x1 k1.2.2.2.1, mwf_mkeep _ x1 k1.2.2.2.2⟩
  clear_value x2
  extract_lets -merge -useContext +onlyGivenNames x3
  have h3 : Inv x3 := State.put_inv (State.put_inv h2)
  clear_value x3
  extract_lets -merge -useContext +onlyGivenNames x4
  have h4 : Inv x4 := State.putB_inv h3
  clear_value x4
  exact wlogNew_inv (loadChid_inv h4)

theorem execVbatPowerOn_inv {a0} {s1 : State} (k1 : Inv s1) : OutInv (execVbatPowerOn a0 s1) := by
  unfold execVbatPowerOn
  exact next_inv (powerOn_inv k1)

theorem execVbatPowerLoss_inv {s0 : State} (k0 : Inv s0) : OutInv (execVbatPowerLoss s0) :=
  next_inv (settleGroups_inv ⟨.inr rfl, (coreOff_inv k0).2⟩)

theorem supervise_inv {s0 : State} (k0 : Inv s0) : Inv (supervise s0) := by
  unfold supervise
  exact forAll_inv (fun y0_0 y0_1 g0_1 => raise_inv (supShow_inv g0_1)) k0

theorem execPwrseqStep1_inv {s0 : State} (k0 : Inv s0) : OutInv (execPwrseqStep1 s0) := by
  unfold execPwrseqStep1
  refine ite_out ?_ ?_
  · extract_lets -merge -useContext +onlyGivenNames x0
    have h0 : Inv x0 := State.updPwr_inv (seqStep_inv k0)
    clear_value x0
    exact next_inv (settle_inv (supervise_inv (settleSupplies_inv h0)))
  · exact next_inv k0

theorem execPwrseqStep2_inv {s0 : State} (k0 : Inv s0) : OutInv (execPwrseqStep2 s0) := by
  unfold execPwrseqStep2
  exact ite_out (next_inv (State.put_inv (State.updPwr_inv (seqStep_inv k0)))) (next_inv k0)

theorem execPwrseqStep3_inv {s0 : State} (k0 : Inv s0) : OutInv (execPwrseqStep3 s0) := by
  unfold execPwrseqStep3
  refine ite_out ?_ ?_
  · extract_lets -merge -useContext +onlyGivenNames x0
    clear_value x0
    exact next_inv (State.updPwr_inv (seqStep_inv k0))
  · exact next_inv k0

theorem execPgoodCoreRise_inv {s0 : State} (k0 : Inv s0) : OutInv (execPgoodCoreRise s0) := by
  unfold execPgoodCoreRise
  exact next_inv (State.put_inv (State.updPwr_inv k0))

theorem execPwrseqStep4_inv {s0 : State} (k0 : Inv s0) : OutInv (execPwrseqStep4 s0) := by
  unfold execPwrseqStep4
  exact ite_out (next_inv (State.put_inv (State.updPwr_inv (seqStep_inv k0)))) (next_inv k0)

theorem execPwrseqStep5_inv {s0 : State} (k0 : Inv s0) : OutInv (execPwrseqStep5 s0) := by
  unfold execPwrseqStep5
  exact ite_out (next_inv (State.updPwr_inv (seqStep_inv k0))) (next_inv k0)

theorem execPwrseqStep6_inv {s0 : State} (k0 : Inv s0) : OutInv (execPwrseqStep6 s0) := by
  unfold execPwrseqStep6
  exact ite_out (next_inv (State.updPwr_inv (seqStep_inv k0))) (next_inv k0)

theorem execCrystalReady_inv {s0 : State} (k0 : Inv s0) : OutInv (execCrystalReady s0) := by
  unfold execCrystalReady
  exact ite_out (next_inv (State.updPwr_inv k0)) (next_inv k0)

theorem execPllLock_inv {s0 : State} (k0 : Inv s0) : OutInv (execPllLock s0) := by
  unfold execPllLock
  extract_lets -merge -useContext +onlyGivenNames x0
  have h0 : ∀ y0_0, Inv y0_0 → Inv (x0 y0_0) := by
    intro y0_0 g0_0
    exact State.putB_inv (State.put_inv g0_0)
  clear_value x0
  extract_lets -merge -useContext +onlyGivenNames x1
  have h1 : ∀ y1_0, Inv y1_0 → Inv (x1 y1_0) := by
    intro y1_0 g1_0
    exact ite_inv (State.updPwr_inv (h0 _ g1_0)) g1_0
  clear_value x1
  split
  · exact ite_out (next_inv (State.updPwr_inv (h0 _ k0))) (next_inv k0)
  · exact next_inv (h1 _ k0)
  · exact next_inv (h1 _ k0)
  · exact ite_out (next_inv k0) (next_inv (h1 _ k0))
  · exact next_inv k0

theorem execCrystalTimeout_inv {s0 : State} (k0 : Inv s0) : OutInv (execCrystalTimeout s0) := by
  unfold execCrystalTimeout
  refine ite_out ?_ ?_
  · extract_lets -merge -useContext +onlyGivenNames x0
    have h0 : Inv x0 := State.updPwr_inv k0
    clear_value x0
    exact next_inv (State.put_inv (State.put_inv h0))
  · exact next_inv k0

theorem bridgeTrain_inv {s0 : State} (k0 : Inv s0) : Inv (bridgeTrain s0) := by
  unfold bridgeTrain
  refine forAll_inv (fun y0_0 y0_1 g0_1 => ?_) ?_
  · exact supShow_inv g0_1
  · extract_lets -merge -useContext +onlyGivenNames x1
    have h1 : Inv x1 := State.put_inv k0
    clear_value x1
    exact inv_mk h1

theorem startLbist_inv {a0} {s1 : State} (k1 : Inv s1) : Inv (startLbist a0 s1) := by
  unfold startLbist
  extract_lets -merge -useContext +onlyGivenNames x0
  have h0 : Inv x0 := State.updPwr_inv k1
  clear_value x0
  extract_lets -merge -useContext +onlyGivenNames x1
  have h1 : Inv x1 := State.put_inv (State.put_inv (State.put_inv (State.put_inv h0)))
  clear_value x1
  exact inv_mk h1

theorem execPwrseqStep7_inv {a0} {s1 : State} (k1 : Inv s1) : OutInv (execPwrseqStep7 a0 s1) := by
  unfold execPwrseqStep7
  refine ite_out ?_ ?_
  · lift_lets -merge -useContext -underBinder
    extract_lets -merge -useContext +onlyGivenNames x0
    have h0 : Inv x0 := seqStep_inv k1
    clear_value x0
    extract_lets -merge -useContext +onlyGivenNames x1
    have h1 : Inv x1 := State.put_inv h0
    clear_value x1
    extract_lets -merge -useContext +onlyGivenNames x2
    have h2 : Inv x2 := bridgeTrain_inv (State.updPwr_inv h1)
    clear_value x2
    extract_lets -merge -useContext +onlyGivenNames x3
    have h3 : Inv x3 := State.putB_inv h2
    clear_value x3
    extract_lets -merge -useContext +onlyGivenNames x4
    have h4 : Inv x4 := wlogStep_inv h3
    clear_value x4
    exact next_inv (startLbist_inv (inv_mk h4))
  · exact next_inv k1

theorem wakefail_inv {s0 : State} (k0 : Inv s0) : Inv (wakefail s0) := by
  unfold wakefail
  exact limpTrigger_inv (settle_inv (wlogStep_inv (subTo_inv k0)))

theorem attemptFails_inv {s0 : State} (k0 : Inv s0) : Inv (attemptFails s0) := by
  unfold attemptFails
  extract_lets -merge -useContext +onlyGivenNames x0
  have h0 : Inv x0 := subTo_inv (coreOff_inv (dieReset_inv k0))
  clear_value x0
  extract_lets -merge -useContext +onlyGivenNames x1
  have h1 : Inv x1 := State.put_inv (State.put_inv (State.put_inv h0))
  clear_value x1
  extract_lets -merge -useContext +onlyGivenNames x2
  have h2 : Inv x2 := State.updPwr_inv h1
  clear_value x2
  exact ite_inv (State.updPwr_inv h2) (wakefail_inv (State.updPwr_inv h2))

theorem execPgoodCoreTimeout_inv {s0 : State} (k0 : Inv s0) : OutInv (execPgoodCoreTimeout s0) := by
  unfold execPgoodCoreTimeout
  exact ite_out (next_inv (attemptFails_inv k0)) (next_inv k0)

theorem execPwrseqRetry_inv {s0 : State} (k0 : Inv s0) : OutInv (execPwrseqRetry s0) := by
  unfold execPwrseqRetry
  refine ite_out ?_ ?_
  · extract_lets -merge -useContext +onlyGivenNames x0
    clear_value x0
    extract_lets -merge -useContext +onlyGivenNames x1
    have h1 : Inv x1 := State.updPwr_inv k0
    clear_value x1
    exact next_inv (State.put_inv (State.put_inv (seqStep_inv h1)))
  · refine ite_out ?_ ?_
    · extract_lets -merge -useContext +onlyGivenNames x2
      have h2 : Inv x2 := State.updPwr_inv k0
      clear_value x2
      exact next_inv (State.put_inv (seqStep_inv h2))
    · exact next_inv k0

theorem coreLoss_inv {a0 a1 a2} {s3 : State} (k3 : Inv s3) : Inv (coreLoss a0 a1 a2 s3) := by
  unfold coreLoss
  extract_lets -merge -useContext +onlyGivenNames x0
  have h0 : Inv x0 := State.put_inv k3
  clear_value x0
  extract_lets -merge -useContext +onlyGivenNames x1
  have h1 : Inv x1 := toBoot_inv (coreOff_inv (dieReset_inv h0))
  clear_value x1
  extract_lets -merge -useContext +onlyGivenNames x2
  have h2 : Inv x2 := State.put_inv (State.put_inv (State.put_inv h1))
  clear_value x2
  extract_lets -merge -useContext +onlyGivenNames x3
  have h3 : Inv x3 := State.updPwr_inv h2
  clear_value x3
  exact wlogNew_inv (State.put_inv h3)

theorem pglowFlag_inv {s0 : State} (k0 : Inv s0) : Inv (pglowFlag s0) := by
  unfold pglowFlag
  extract_lets -merge -useContext +onlyGivenNames x0
  have h0 : Inv x0 := State.updPwr_inv k0
  clear_value x0
  exact ite_inv (State.putBit_inv (State.put_inv h0)) h0

theorem pgoodLow_inv {a0} {s1 : State} (k1 : Inv s1) : Inv (pgoodLow a0 s1) := by
  unfold pgoodLow
  extract_lets -merge -useContext +onlyGivenNames x0
  have h0 : Inv x0 := outrank_inv (advanceTo_inv k1)
  clear_value x0
  split
  · exact h0
  · exact hwmEvent_inv (pglowFlag_inv h0)
  · exact ite_inv (attemptFails_inv (raiseAs_inv (pglowFlag_inv (logicCut_inv h0)))) h0
  · exact turned_inv h0 (coreLoss_inv (raiseAs_inv (pglowFlag_inv (analogCut_inv (logicCut_inv h0)))))

theorem execPgoodCoreLow_inv {a0} {s1 : State} (k1 : Inv s1) : OutInv (execPgoodCoreLow a0 s1) := by
  unfold execPgoodCoreLow
  exact next_inv (pgoodLow_inv k1)

theorem bistRecord_inv {a0 a1 a2 a3} {s4 : State} (k4 : Inv s4) : Inv (bistRecord a0 a1 a2 a3 s4) := by
  unfold bistRecord
  extract_lets -merge -useContext +onlyGivenNames x0
  clear_value x0
  extract_lets -merge -useContext +onlyGivenNames x1
  have h1 : Inv x1 := State.setReg_inv k4
  clear_value x1
  extract_lets -merge -useContext +onlyGivenNames x2
  have h2 : Inv x2 := ite_inv (State.put_inv (State.put_inv h1)) (State.put_inv (State.put_inv h1))
  clear_value x2
  exact State.put_inv h2

theorem bistWave_inv {a0 : Nat} : ∀ {l : List BistEnd} {n : Nat} {s1 : State}, Inv s1 → Inv (bistWave a0 s1 n l)
  | [], _, _, h => h
  | e :: l, n, s, h => by
    unfold bistWave
    exact bistWave_inv (ite_inv (bistRecord_inv h) (bistRecord_inv h))

theorem romRead_inv {a0 a1} {s2 : State} (k2 : Inv s2) : Inv (romRead a0 a1 s2).2 := by
  unfold romRead
  refine foldl_inv2 (q := (true, s2)) (fun q a h => ?_) k2
  exact eccRead_inv (a0 := a) (a1 := a) h

theorem slotRead_inv {a0 a1} {s2 : State} (k2 : Inv s2) : Inv (slotRead a0 a1 s2).2 := by
  unfold slotRead
  extract_lets -merge -useContext +onlyGivenNames x0
  have h0 : Inv x0.2 := romRead_inv k2
  clear_value x0
  exact snd_inv h0

theorem newestSpb_inv {s0 : State} (k0 : Inv s0) : Inv (newestSpb s0).2 := by
  unfold newestSpb
  refine foldl_inv2 (q := (none, s0)) (fun q k h => ?_) k0
  extract_lets b x
  have g : Inv x.2 := slotRead_inv h
  clear_value b x
  refine ite_inv2 ?_ g
  split
  · exact g
  · exact ite_inv2 g g

theorem spbMismatch_inv {s0 : State} (k0 : Inv s0) : Inv (spbMismatch s0).2 := by
  unfold spbMismatch
  extract_lets -merge -useContext +onlyGivenNames x0
  have h0 : Inv x0.2 := newestSpb_inv k0
  clear_value x0
  exact snd_inv h0

theorem romStart_inv {s0 : State} (k0 : Inv s0) : Inv (romStart s0) := by
  unfold romStart
  lift_lets -merge -useContext -underBinder
  extract_lets -merge -useContext +onlyGivenNames x0
  have h0 : Inv x0 := subTo_inv k0
  clear_value x0
  extract_lets -merge -useContext +onlyGivenNames x1
  have h1 : Inv x1 := State.putB_inv h0
  clear_value x1
  extract_lets -merge -useContext +onlyGivenNames x2
  clear_value x2
  extract_lets -merge -useContext +onlyGivenNames x3
  have h3 : Inv x3.2 := spbMismatch_inv h1
  clear_value x3
  exact ite_inv (settle_inv (subTo_inv (State.put_inv h1))) (subTo_inv (State.putB_inv h3))

theorem bistOutcome_inv {s0 : State} (k0 : Inv s0) : Inv (bistOutcome s0) := by
  unfold bistOutcome
  extract_lets -merge -useContext +onlyGivenNames x0
  clear_value x0
  extract_lets -merge -useContext +onlyGivenNames x1
  have h1 : Inv x1 := State.put_inv k0
  clear_value x1
  exact ite_inv (limpTrigger_inv (settle_inv (subTo_inv h1))) (ite_inv (settle_inv (subTo_inv h1)) (romStart_inv
      (State.put_inv h1)))

theorem startupDone_inv {s0 : State} (k0 : Inv s0) : Inv (startupDone s0) := by
  unfold startupDone
  extract_lets -merge -useContext +onlyGivenNames x0
  clear_value x0
  extract_lets -merge -useContext +onlyGivenNames x1
  clear_value x1
  extract_lets -merge -useContext +onlyGivenNames x2
  have h2 : Inv x2 := State.put_inv (State.put_inv (State.put_inv k0))
  clear_value x2
  extract_lets -merge -useContext +onlyGivenNames x3
  have h3 : Inv x3 := State.putB_inv (State.put_inv h2)
  clear_value x3
  extract_lets -merge -useContext +onlyGivenNames x4
  have h4 : Inv x4 := State.updPwr_inv (State.put_inv h3)
  clear_value x4
  exact bistOutcome_inv h4

theorem waveNext_inv {a0} {s1 : State} (k1 : Inv s1) : Inv (waveNext a0 s1) := by
  unfold waveNext
  refine ite_inv ?_ ?_
  · lift_lets -merge -useContext -underBinder
    extract_lets -merge -useContext +onlyGivenNames x0
    have h0 : Inv x0 := State.put_inv (State.updPwr_inv k1)
    clear_value x0
    extract_lets -merge -useContext +onlyGivenNames x1
    have h1 : Inv x1 := State.put_inv h0
    clear_value x1
    extract_lets -merge -useContext +onlyGivenNames x2
    clear_value x2
    exact inv_mk h1
  · exact startupDone_inv k1

theorem waveDone_inv {a0 a1} {s2 : State} (k2 : Inv s2) : Inv (waveDone a0 a1 s2) := by
  unfold waveDone
  exact waveNext_inv (bistWave_inv k2)

theorem resetAssert_inv {a0} {s1 : State} (k1 : Inv s1) : Inv (resetAssert a0 s1) := by
  unfold resetAssert
  extract_lets -merge -useContext +onlyGivenNames x0
  have h0 : Inv x0 := by
    unfold x0
    split
    · exact State.put_inv k1
    · exact State.put_inv k1
    · exact State.put_inv k1
  clear_value x0
  extract_lets -merge -useContext +onlyGivenNames x4
  clear_value x4
  extract_lets -merge -useContext +onlyGivenNames x5
  have h5 : Inv x5 := dieReset_inv h0
  clear_value x5
  extract_lets -merge -useContext +onlyGivenNames x6
  clear_value x6
  extract_lets -merge -useContext +onlyGivenNames x7
  have h7 : Inv x7 := toBoot_inv h5
  clear_value x7
  extract_lets -merge -useContext +onlyGivenNames x8
  have h8 : Inv x8 := State.put_inv h7
  clear_value x8
  extract_lets -merge -useContext +onlyGivenNames x9
  have h9 : Inv x9 := State.updPwr_inv h8
  clear_value x9
  exact ite_inv (State.updPwr_inv (State.put_inv (State.put_inv (State.put_inv h9)))) h9

theorem heartbeatReset_inv {s0 : State} (k0 : Inv s0) : Inv (heartbeatReset s0) := by
  unfold heartbeatReset
  extract_lets -merge -useContext +onlyGivenNames x0
  have h0 : Inv x0 := outrank_inv k0
  clear_value x0
  exact ite_inv (turned_inv h0 (resetAssert_inv h0)) h0

theorem requestedReset_inv {a0} {s1 : State} (k1 : Inv s1) : Inv (requestedReset a0 s1) := by
  unfold requestedReset
  refine ite_inv ?_ ?_
  · exact resetAssert_inv k1
  · extract_lets -merge -useContext +onlyGivenNames x0
    have h0 : Inv x0 := State.updPwr_inv k1
    clear_value x0
    exact ite_inv (State.put_inv h0) h0

theorem execDeviceReset_inv {a0 a1} {s2 : State} (k2 : Inv s2) : OutInv (execDeviceReset a0 a1 s2) := by
  unfold execDeviceReset
  extract_lets -merge -useContext +onlyGivenNames x0
  have h0 : Inv x0 := advanceTo_inv k2
  clear_value x0
  exact ite_out (next_inv (heartbeatReset_inv h0)) (ite_out (next_inv (requestedReset_inv h0)) (next_inv h0))

theorem resetRelease_inv {s0 : State} (k0 : Inv s0) : Inv (resetRelease s0) := by
  unfold resetRelease
  extract_lets -merge -useContext +onlyGivenNames x0
  have h0 : Inv x0 := bridgeTrain_inv (State.updPwr_inv k0)
  clear_value x0
  exact ite_inv (startLbist_inv h0) (bistOutcome_inv h0)

theorem hbeatLoss_inv {a0} {s1 : State} (k1 : Inv s1) : Inv (hbeatLoss a0 s1) := by
  unfold hbeatLoss
  refine ite_inv ?_ ?_
  · extract_lets -merge -useContext +onlyGivenNames x0
    have h0 : Inv x0 := advanceTo_inv k1
    clear_value x0
    extract_lets -merge -useContext +onlyGivenNames x1
    clear_value x1
    extract_lets -merge -useContext +onlyGivenNames x2
    clear_value x2
    extract_lets -merge -useContext +onlyGivenNames x3
    have h3 : Inv x3 := State.updPwr_inv h0
    clear_value x3
    extract_lets -merge -useContext +onlyGivenNames x4
    have h4 : Inv x4 := recordRaise_inv (State.put_inv h3)
    clear_value x4
    exact ite_inv (settle_inv (limpTrigger_inv (State.put_inv h4))) (State.updPwr_inv (settle_inv (haltNow_inv h4)))
  · exact k1

theorem execHbeatLoss_inv {a0} {s1 : State} (k1 : Inv s1) : OutInv (execHbeatLoss a0 s1) := by
  unfold execHbeatLoss
  exact next_inv (hbeatLoss_inv k1)

theorem execHeartbeatReset_inv {a0} {s1 : State} (k1 : Inv s1) : OutInv (execHeartbeatReset a0 s1) := by
  unfold execHeartbeatReset
  exact next_inv (heartbeatReset_inv (advanceTo_inv k1))

theorem execHbeatRestoreTimeout_inv {a0} {s1 : State} (k1 : Inv s1) : OutInv (execHbeatRestoreTimeout a0 s1) := by
  unfold execHbeatRestoreTimeout
  refine ite_out ?_ ?_
  · extract_lets -merge -useContext +onlyGivenNames x0
    have h0 : Inv x0 := outrank_inv (advanceTo_inv k1)
    clear_value x0
    exact ite_out (next_inv (turned_inv h0 (coreLoss_inv h0))) (next_inv h0)
  · exact next_inv k1

end Sys2Proof.Machine
end

