-- ==== Sys2Proof/Laws/InvModes.lean ====
section
/-! SUPPORT. The operations of Machine/Modes.lean keep `Inv`. -/

namespace Sys2Proof.Machine

theorem refuse_inv {a0} {s1 : State} (k1 : Inv s1) : Inv (refuse a0 s1) := by
  unfold refuse
  exact icuEvent_inv (State.put_inv (State.put_inv k1))

theorem inCycle_inv {a0 a1 a2} {s3 : State} (k1 : ∀ y0 y1, Inv y1 → Inv (a1 y0 y1)) (k2 : ∀ y0, Inv y0 → Inv (a2 y0)) (k3 :
    Inv s3) : Inv (inCycle a0 a1 a2 s3) := by
  unfold inCycle
  split
  · exact k1 _ _ k3
  · exact k1 _ _ k3
  · exact newCycle_inv (k2 _ (newCycle_inv k3))

theorem decideRequest_inv {a0 a1} {s2 : State} (k1 : ∀ y0, Inv y0 → Inv (a1 y0)) (k2 : Inv s2) : Inv (decideRequest a0 a1
    s2) := by
  unfold decideRequest
  split
  · exact refuse_inv k2
  · exact refuse_inv k2
  · exact k1 _ k2

theorem modeRequest_inv {a0 a1 a2 a3} {s4 : State} (k3 : ∀ y0, Inv y0 → Inv (a3 y0)) (k4 : Inv s4) : Inv (modeRequest a0 a1
    a2 a3 s4) := by
  unfold modeRequest
  exact ite_inv (refuse_inv k4) (inCycle_inv (fun y0_0 y0_1 g0_1 => refuse_inv g0_1) (fun y1_0 g1_0 => decideRequest_inv
      (fun y2_0 g2_0 => k3 _ g2_0) g1_0) k4)

theorem busRequest_inv {a0 a1 a2} {s3 : State} (k2 : ∀ y0, Inv y0 → Inv (a2 y0)) (k3 : Inv s3) : Inv (busRequest a0 a1 a2
    s3) := by
  unfold busRequest
  refine ite_inv ?_ ?_
  · exact refuse_inv k3
  · refine ite_inv ?_ ?_
    · exact refuse_inv k3
    · lift_lets -merge -useContext -underBinder
      extract_lets -merge -useContext +onlyGivenNames x0
      clear_value x0
      extract_lets -merge -useContext +onlyGivenNames x1
      clear_value x1
      extract_lets -merge -useContext +onlyGivenNames x2
      have h2 : Inv x2 := inv_mk k3
      clear_value x2
      exact ite_inv (refuse_inv h2) (decideRequest_inv (fun y3_0 g3_0 => k2 _ g3_0) h2)

theorem requestReset_inv {a0} {s1 : State} (k1 : Inv s1) : Inv (requestReset a0 s1) := by
  unfold requestReset
  exact State.updPwr_inv k1

theorem execModereqBoot_inv {a0 a1} {s2 : State} (k2 : Inv s2) : OutInv (execModereqBoot a0 a1 s2) := by
  unfold execModereqBoot
  exact next_inv (modeRequest_inv (fun y0_0 g0_0 => requestReset_inv g0_0) k2)

theorem execModereqIntegrate_inv {a0 a1} {s2 : State} (k2 : Inv s2) : OutInv (execModereqIntegrate a0 a1 s2) := by
  unfold execModereqIntegrate
  exact next_inv (modeRequest_inv (fun y0_0 g0_0 => enterMode_inv g0_0) k2)

theorem execModereqStandby_inv {a0 a1} {s2 : State} (k2 : Inv s2) : OutInv (execModereqStandby a0 a1 s2) := by
  unfold execModereqStandby
  exact next_inv (modeRequest_inv (fun y0_0 g0_0 => enterMode_inv g0_0) k2)

theorem execModereqActive_inv {a0 a1} {s2 : State} (k2 : Inv s2) : OutInv (execModereqActive a0 a1 s2) := by
  unfold execModereqActive
  exact next_inv (modeRequest_inv (fun y0_0 g0_0 => enterMode_inv g0_0) k2)

theorem execModereqSafe_inv {a0 a1} {s2 : State} (k2 : Inv s2) : OutInv (execModereqSafe a0 a1 s2) := by
  unfold execModereqSafe
  exact next_inv (modeRequest_inv (fun y0_0 g0_0 => enterMode_inv g0_0) k2)

theorem execModereqLimp_inv {a0 a1} {s2 : State} (k2 : Inv s2) : OutInv (execModereqLimp a0 a1 s2) :=
  next_inv (modeRequest_inv (fun _ h => h) k2)

theorem execIntegrateTimeout_inv {s0 : State} (k0 : Inv s0) : OutInv (execIntegrateTimeout s0) := by
  unfold execIntegrateTimeout
  extract_lets -merge -useContext +onlyGivenNames x0
  have h0 : Inv x0 := outrank_inv k0
  clear_value x0
  exact ite_out (next_inv (enterBy_inv h0)) (next_inv h0)

end Sys2Proof.Machine
end

