-- ==== Sys2Proof/Laws/InvHwm.lean ====
section
/-! SUPPORT. The operations of Machine/Hwm.lean keep `Inv`. -/

namespace Sys2Proof.Machine

theorem State.updHwm_inv {s0 : State} {a1} (k0 : Inv s0) : Inv (State.updHwm s0 a1) := by
  unfold State.updHwm
  exact inv_mk k0

theorem execReactionFrameArrival_inv {s0 : State} (k0 : Inv s0) : OutInv (execReactionFrameArrival s0) := by
  unfold execReactionFrameArrival
  split
  · exact next_inv k0
  · exact ite_out (next_inv (raiseAs_inv (State.updHwm_inv k0))) (next_inv k0)

theorem releaseOne_inv {a0} {s1 : State} (k1 : Inv s1) : Inv (releaseOne a0 s1) := by
  unfold releaseOne
  refine ite_inv ?_ ?_
  · extract_lets -merge -useContext +onlyGivenNames x0
    clear_value x0
    exact State.updGrp_inv (vdsEnd_inv (State.putBit_inv (State.putBit_inv k1)))
  · exact State.put_inv k1

theorem releaseGroups_inv {a0} {s1 : State} (k1 : Inv s1) : Inv (releaseGroups a0 s1) := by
  unfold releaseGroups
  extract_lets -merge -useContext +onlyGivenNames x0
  clear_value x0
  extract_lets -merge -useContext +onlyGivenNames x1
  clear_value x1
  exact settle_inv (forAll_inv (fun y2_0 y2_1 g2_1 => releaseOne_inv g2_1) (forAll_inv (fun y3_0 y3_1 g3_1 =>
      releaseOne_inv g3_1) k1))

theorem releaseHaltNow_inv {s0 : State} (k0 : Inv s0) : Inv (releaseHaltNow s0) := by
  unfold releaseHaltNow
  exact ite_inv (settle_inv (forAll_inv (fun y0_0 y0_1 g0_1 => vdsEndFree_inv g0_1) (State.put_inv k0))) (State.put_inv k0)

theorem execEnableChange_inv {a0} {s1 : State} (k1 : Inv s1) : OutInv (execEnableChange a0 s1) := by
  unfold execEnableChange
  extract_lets -merge -useContext +onlyGivenNames x0
  clear_value x0
  extract_lets -merge -useContext +onlyGivenNames x1
  have h1 : Inv x1 := State.putB_inv k1
  clear_value x1
  exact ite_out (next_inv (settle_inv (haltNow_inv h1))) (next_inv h1)

theorem sensorOver_inv {a0} {s1 : State} (k1 : Inv s1) : Inv (sensorOver a0 s1) := by
  unfold sensorOver
  lift_lets -merge -useContext -underBinder
  extract_lets -merge -useContext +onlyGivenNames x0
  clear_value x0
  extract_lets -merge -useContext +onlyGivenNames x1
  have h1 : Inv x1 := State.updHwm_inv k1
  clear_value x1
  extract_lets -merge -useContext +onlyGivenNames x2
  have h2 : Inv x2 := ite_inv (icuEvent_inv (State.putBit_inv (State.put_inv (State.put_inv h1)))) h1
  clear_value x2
  exact ite_inv (raise_inv (settleSupplies_inv h2)) k1

theorem execSensorSupplyOvercurrent_inv {a0} {s1 : State} (k1 : Inv s1) : OutInv (execSensorSupplyOvercurrent a0 s1) := by
  unfold execSensorSupplyOvercurrent
  exact next_inv (sensorOver_inv k1)

theorem stage2On_inv {s0 : State} (k0 : Inv s0) : Inv (stage2On s0) := by
  unfold stage2On
  extract_lets -merge -useContext +onlyGivenNames x0
  have h0 : Inv x0 := State.updHwm_inv k0
  clear_value x0
  extract_lets -merge -useContext +onlyGivenNames x1
  have h1 : Inv x1 := forAll_inv (fun y2_0 y2_1 g2_1 => State.updGrp_inv g2_1) h0
  clear_value x1
  exact settle_inv (hwmEvent_inv (recordRaise_inv h1))

theorem execOvervoltageStage2_inv {s0 : State} (k0 : Inv s0) : OutInv (execOvervoltageStage2 s0) := by
  unfold execOvervoltageStage2
  exact next_inv (stage2On_inv k0)

theorem stage2Off_inv {a0} {s1 : State} (k1 : Inv s1) : Inv (stage2Off a0 s1) := by
  unfold stage2Off
  refine ite_inv ?_ ?_
  · extract_lets -merge -useContext +onlyGivenNames x0
    have h0 : Inv x0 := State.updGrp_inv k1
    clear_value x0
    exact ite_inv (State.updGrp_inv h0) h0
  · exact k1

theorem execStage2ReleaseTimer_inv {s0 : State} (k0 : Inv s0) : OutInv (execStage2ReleaseTimer s0) := by
  unfold execStage2ReleaseTimer
  exact ite_out (next_inv (settle_inv (forAll_inv (fun y0_0 y0_1 g0_1 => stage2Off_inv g0_1) k0))) (next_inv k0)

theorem execDcLinkOffCrossing_inv {a0} {s1 : State} (k1 : Inv s1) : OutInv (execDcLinkOffCrossing a0 s1) := by
  unfold execDcLinkOffCrossing
  exact next_inv (State.updHwm_inv k1)

theorem execVdsSignChange_inv {a0 a1} {s2 : State} (k2 : Inv s2) : OutInv (execVdsSignChange a0 a1 s2) := by
  unfold execVdsSignChange
  extract_lets -merge -useContext +onlyGivenNames x0
  clear_value x0
  extract_lets -merge -useContext +onlyGivenNames x1
  have h1 : Inv x1 := advanceTo_inv k2
  clear_value x1
  exact ite_out (next_inv h1) (next_inv (pisIfWaiting_inv (speedEdge_inv h1)))

theorem alloffMet_inv {a0} {s1 : State} (k1 : Inv s1) : Inv (alloffMet a0 s1) := by
  unfold alloffMet
  extract_lets -merge -useContext +onlyGivenNames x0
  have h0 : Inv x0 := settleFault_inv (settleGroup_inv (State.updGrp_inv k1))
  clear_value x0
  exact ite_inv (pisIfWaiting_inv h0) h0

theorem execAlloffConditionMet_inv {a0} {s1 : State} (k1 : Inv s1) : OutInv (execAlloffConditionMet a0 s1) := by
  unfold execAlloffConditionMet
  exact next_inv (alloffMet_inv k1)

theorem execPisOpen_inv {a0 a1} {s2 : State} (k2 : Inv s2) : OutInv (execPisOpen a0 a1 s2) := by
  unfold execPisOpen
  split
  · exact ite_out (next_inv (pisIfWaiting_inv k2)) (next_inv k2)
  · exact next_inv (pisIfWaiting_inv k2)
  · exact next_inv (pisIfWaiting_inv k2)

theorem pisClose_inv {a0} {s1 : State} (k1 : Inv s1) : Inv (pisClose a0 s1) := by
  unfold pisClose
  extract_lets -merge -useContext +onlyGivenNames x0
  clear_value x0
  exact ite_inv (State.updGrp_inv (State.putBit_inv k1)) (State.putBit_inv k1)

theorem pedalFault_inv {a0} {s1 : State} (k1 : Inv s1) : Inv (pedalFault a0 s1) := by
  unfold pedalFault
  exact hwmEvent_inv (State.putB_inv k1)

theorem pedalApply_inv {s0 : State} (k0 : Inv s0) : Inv (pedalApply s0) := by
  unfold pedalApply
  extract_lets -merge -useContext +onlyGivenNames x0
  have h0 : Inv x0 := State.put_inv k0
  clear_value x0
  extract_lets -merge -useContext +onlyGivenNames x1
  have h1 : Inv x1 := ite_inv (forAll_inv (fun y2_0 y2_1 g2_1 => State.updGrp_inv g2_1) h0) h0
  clear_value x1
  exact forAll_inv (fun y3_0 y3_1 g3_1 => settleLegs_inv g3_1) h1

theorem pedalWindow_inv {a0} {s1 : State} (k1 : Inv s1) : Inv (pedalWindow a0 s1) := by
  unfold pedalWindow
  refine ite_inv ?_ ?_
  · extract_lets -merge -useContext +onlyGivenNames x0
    clear_value x0
    extract_lets -merge -useContext +onlyGivenNames x1
    have h1 : Inv x1 := State.updHwm_inv k1
    clear_value x1
    extract_lets -merge -useContext +onlyGivenNames x2
    have h2 : Inv x2 := ite_inv (pedalFault_inv h1) h1
    clear_value x2
    extract_lets -merge -useContext +onlyGivenNames x3
    clear_value x3
    extract_lets -merge -useContext +onlyGivenNames x4
    have h4 : Inv x4 := ite_inv h2 (State.put_inv (State.put_inv h2))
    clear_value x4
    exact pedalApply_inv h4
  · extract_lets -merge -useContext +onlyGivenNames x5
    have h5 : Inv x5 := State.updHwm_inv k1
    clear_value x5
    extract_lets -merge -useContext +onlyGivenNames x6
    have h6 : Inv x6 := ite_inv (raise_inv (pedalFault_inv h5)) h5
    clear_value x6
    exact pedalApply_inv h6

theorem execPedalWindow_inv {a0} {s1 : State} (k1 : Inv s1) : OutInv (execPedalWindow a0 s1) := by
  unfold execPedalWindow
  exact ite_out (next_inv (pedalWindow_inv k1)) (next_inv k1)

theorem sectorTurn_inv {a0 a1} {s2 : State} (k2 : Inv s2) : Inv (sectorTurn a0 a1 s2) := by
  unfold sectorTurn
  extract_lets -merge -useContext +onlyGivenNames x0
  clear_value x0
  extract_lets -merge -useContext +onlyGivenNames x1
  clear_value x1
  extract_lets -merge -useContext +onlyGivenNames x2
  clear_value x2
  extract_lets -merge -useContext +onlyGivenNames x3
  clear_value x3
  extract_lets -merge -useContext +onlyGivenNames x4
  clear_value x4
  extract_lets -merge -useContext +onlyGivenNames x5
  clear_value x5
  exact settleLegs_inv (State.updGrp_inv k2)

theorem sectorSettle_inv {a0} {s1 : State} (k1 : Inv s1) : Inv (sectorSettle a0 s1) := by
  unfold sectorSettle
  extract_lets -merge -useContext +onlyGivenNames x0
  clear_value x0
  extract_lets -merge -useContext +onlyGivenNames x1
  clear_value x1
  extract_lets -merge -useContext +onlyGivenNames x2
  clear_value x2
  extract_lets -merge -useContext +onlyGivenNames x3
  have h3 : Inv x3 := State.put_inv k1
  clear_value x3
  exact ite_inv h3 (sectorTurn_inv h3)

theorem execLimpSectorChange_inv {a0 a1 a2 a3} {s4 : State} (k4 : Inv s4) : OutInv (execLimpSectorChange a0 a1 a2 a3 s4) :=
    by
  unfold execLimpSectorChange
  exact ite_out (next_inv (sectorSettle_inv (State.updGrp_inv k4))) (next_inv k4)

theorem execLimpSectorDelayEnd_inv {a0} {s1 : State} (k1 : Inv s1) : OutInv (execLimpSectorDelayEnd a0 s1) := by
  unfold execLimpSectorDelayEnd
  exact next_inv (settleLegs_inv (State.updGrp_inv k1))

theorem bsRelease_inv {a0} {s1 : State} (k1 : Inv s1) : Inv (bsRelease a0 s1) := by
  unfold bsRelease
  exact forAll_inv (fun y1_0 y1_1 g1_1 => State.updLeg_inv g1_1) k1

theorem execLimpChopPeriod_inv {a0} {s1 : State} (k1 : Inv s1) : OutInv (execLimpChopPeriod a0 s1) := by
  unfold execLimpChopPeriod
  refine ite_out ?_ ?_
  · extract_lets -merge -useContext +onlyGivenNames x0
    clear_value x0
    exact next_inv (settleLegs_inv (bsRelease_inv (State.updGrp_inv k1)))
  · exact next_inv k1

theorem execLimpCurrentLimit_inv {a0 a1} {s2 : State} (k2 : Inv s2) : OutInv (execLimpCurrentLimit a0 a1 s2) := by
  unfold execLimpCurrentLimit
  exact ite_out (next_inv (settleLegs_inv (State.updGrp_inv k2))) (next_inv k2)

theorem execWakeFall_inv {s0 : State} (k0 : Inv s0) : OutInv (execWakeFall s0) := by
  unfold execWakeFall
  exact next_inv (State.updPwr_inv k0)

theorem spbQueue_inv {s0 : State} (k0 : Inv s0) : Inv (spbQueue s0) := by
  unfold spbQueue
  exact State.putB_inv (State.put_inv k0)

theorem spbWrite_inv {a0 a1 a2} {s3 : State} (k3 : Inv s3) : Inv (spbWrite a0 a1 a2 s3) := by
  unfold spbWrite
  refine ite_inv ?_ ?_
  · exact k3
  · refine ite_inv ?_ ?_
    · exact logRefused_inv (State.put_inv k3)
    · refine ite_inv ?_ ?_
      · exact State.put_inv k3
      · extract_lets -merge -useContext +onlyGivenNames x0
        clear_value x0
        extract_lets -merge -useContext +onlyGivenNames x1
        clear_value x1
        extract_lets -merge -useContext +onlyGivenNames x2
        clear_value x2
        extract_lets -merge -useContext +onlyGivenNames x3
        have h3 : Inv x3 := State.updHwm_inv (State.setReg_inv k3)
        clear_value x3
        extract_lets -merge -useContext +onlyGivenNames x4
        have h4 : Inv x4 := State.putB_inv h3
        clear_value x4
        extract_lets -merge -useContext +onlyGivenNames x5
        have h5 : Inv x5 := ite_inv (forAll_inv (fun y6_0 y6_1 g6_1 => sectorSettle_inv g6_1) h4) h4
        clear_value x5
        exact settle_inv (spbQueue_inv h5)

theorem lifeSave_inv {s0 : State} (k0 : Inv s0) : Inv (lifeSave s0) := by
  unfold lifeSave
  exact State.updHwm_inv k0

theorem execSpbCommit_inv {s0 : State} (k0 : Inv s0) : OutInv (execSpbCommit s0) := by
  unfold execSpbCommit
  refine ite_out ?_ ?_
  · exact next_inv k0
  · split
    · exact next_inv k0
    · extract_lets -merge -useContext +onlyGivenNames x2
      clear_value x2
      extract_lets -merge -useContext +onlyGivenNames x3
      have h3 : Inv x3 := logNew_inv (State.put_inv k0)
      clear_value x3
      extract_lets -merge -useContext +onlyGivenNames x4
      have h4 : Inv x4 := State.updHwm_inv (State.put_inv h3)
      clear_value x4
      exact next_inv (lifeSave_inv (spbQueue_inv h4))

theorem flashSlot_inv {a0 a1 a2} {s3 : State} (k3 : Inv s3) : Inv (flashSlot a0 a1 a2 s3) := by
  unfold flashSlot
  extract_lets -merge -useContext +onlyGivenNames x0
  clear_value x0
  exact State.setBytes_inv k3

theorem eraseSector_inv {a0} {s1 : State} (k1 : Inv s1) : Inv (eraseSector a0 s1) :=
  ⟨k1.1, k1.2.1, k1.2.2.1, mwf_filter _ _ k1.2.2.2.1, k1.2.2.2.2⟩

theorem execSpbFlashCopy_inv {s0 : State} (k0 : Inv s0) : OutInv (execSpbFlashCopy s0) := by
  unfold execSpbFlashCopy
  refine ite_out ?_ ?_
  · extract_lets -merge -useContext +onlyGivenNames x0
    clear_value x0
    extract_lets -merge -useContext +onlyGivenNames x1
    clear_value x1
    extract_lets -merge -useContext +onlyGivenNames x2
    clear_value x2
    extract_lets -merge -useContext +onlyGivenNames x3
    clear_value x3
    extract_lets -merge -useContext +onlyGivenNames x4
    have h4 : Inv x4 := ite_inv (eraseSector_inv k0) k0
    clear_value x4
    extract_lets -merge -useContext +onlyGivenNames x5
    have h5 : Inv x5 := ite_inv (eraseSector_inv h4) h4
    clear_value x5
    extract_lets -merge -useContext +onlyGivenNames x6
    clear_value x6
    extract_lets -merge -useContext +onlyGivenNames x7
    clear_value x7
    extract_lets -merge -useContext +onlyGivenNames x8
    have h8 : Inv x8 := flashSlot_inv h5
    clear_value x8
    extract_lets -merge -useContext +onlyGivenNames x9
    have h9 : Inv x9 := flashSlot_inv h8
    clear_value x9
    exact next_inv (State.updHwm_inv h9)
  · exact next_inv k0

theorem execLifeSecond_inv {s0 : State} (k0 : Inv s0) : OutInv (execLifeSecond s0) := by
  unfold execLifeSecond
  exact ite_out (next_inv (State.put_inv k0)) (next_inv k0)

theorem pwNext_inv {a0 a1} {s2 : State} (k2 : Inv s2) : Inv (pwNext a0 a1 s2) := by
  unfold pwNext
  exact State.put_inv (State.updHwm_inv k2)

theorem pwCompare_inv {a0 a1} {s2 : State} (k2 : Inv s2) : Inv (pwCompare a0 a1 s2) := by
  unfold pwCompare
  refine ite_inv ?_ ?_
  · exact hwmEvent_inv (logNew_inv (State.put_inv (State.put_inv k2)))
  · extract_lets -merge -useContext +onlyGivenNames x0
    have h0 : Inv x0 := logNew_inv (State.bump_inv k2)
    clear_value x0
    exact ite_inv (State.updHwm_inv (State.put_inv h0)) h0

theorem passwordEntry_inv {a0 a1 a2} {s3 : State} (k3 : Inv s3) : Inv (passwordEntry a0 a1 a2 s3) := by
  unfold passwordEntry
  refine ite_inv ?_ ?_
  · exact k3
  · refine ite_inv ?_ ?_
    · exact ite_inv k3 (State.updHwm_inv (logNew_inv k3))
    · extract_lets -merge -useContext +onlyGivenNames x0
      clear_value x0
      extract_lets -merge -useContext +onlyGivenNames x1
      clear_value x1
      exact ite_inv (pwNext_inv k3) (pwCompare_inv (pwNext_inv k3))

theorem execPasswordTimeout_inv {s0 : State} (k0 : Inv s0) : OutInv (execPasswordTimeout s0) := by
  unfold execPasswordTimeout
  exact next_inv (pwLock_inv k0)

theorem execPasswordLockoutEnd_inv {s0 : State} (k0 : Inv s0) : OutInv (execPasswordLockoutEnd s0) := by
  unfold execPasswordLockoutEnd
  exact ite_out (next_inv (State.put_inv k0)) (next_inv k0)

end Sys2Proof.Machine
end

