-- ==== Sys2Proof/Laws/InvGdr.lean ====
section
/-! SUPPORT. The operations of Machine/Gdr.lean keep `Inv`. -/

namespace Sys2Proof.Machine

theorem twoStep_inv {a0 a1} {s2 : State} (k2 : Inv s2) : Inv (twoStep a0 a1 s2) := by
  unfold twoStep
  extract_lets -merge -useContext +onlyGivenNames x0
  clear_value x0
  exact ite_inv (softBegin_inv k2) k2

theorem vdsDetect_inv {a0 a1 a2 a3} {s4 : State} (k4 : Inv s4) : Inv (vdsDetect a0 a1 a2 a3 s4) := by
  unfold vdsDetect
  lift_lets -merge -useContext -underBinder
  extract_lets -merge -useContext +onlyGivenNames x0
  clear_value x0
  extract_lets -merge -useContext +onlyGivenNames x1
  have h1 : Inv x1 := State.put_inv k4
  clear_value x1
  extract_lets -merge -useContext +onlyGivenNames x2
  have h2 : Inv x2 := State.updGrp_inv h1
  clear_value x2
  extract_lets -merge -useContext +onlyGivenNames x3
  clear_value x3
  extract_lets -merge -useContext +onlyGivenNames x4
  have h4 : Inv x4 := State.putBit_inv h2
  clear_value x4
  extract_lets -merge -useContext +onlyGivenNames x5
  clear_value x5
  extract_lets -merge -useContext +onlyGivenNames x6
  have h6 : Inv x6 := State.updHwm_inv h2
  clear_value x6
  extract_lets -merge -useContext +onlyGivenNames x7
  have h7 : Inv x7 := State.put_inv (State.bump_inv h6)
  clear_value x7
  extract_lets -merge -useContext +onlyGivenNames x8
  have h8 : Inv x8 := ite_inv (settle_inv (applyClass_inv (twoStep_inv h4))) (raise_inv (twoStep_inv h7))
  clear_value x8
  extract_lets -merge -useContext +onlyGivenNames x9
  clear_value x9
  exact ite_inv (pisAuto_inv h8) h8

theorem execVdsDetection_inv {a0 a1 a2 a3 a4 a5 a6} {s7 : State} (k7 : Inv s7) : OutInv (execVdsDetection a0 a1 a2 a3 a4 a5
    a6 s7) := by
  unfold execVdsDetection
  extract_lets -merge -useContext +onlyGivenNames x0
  have h0 : Inv x0 := advanceTo_inv k7
  clear_value x0
  exact ite_out (next_inv (vdsDetect_inv h0)) (next_inv h0)

theorem execVdsEventWindowEnd_inv {s0 : State} (k0 : Inv s0) : OutInv (execVdsEventWindowEnd s0) := by
  unfold execVdsEventWindowEnd
  exact next_inv (State.updHwm_inv k0)

theorem strongSink_inv {a0} {s1 : State} (k1 : Inv s1) : Inv (strongSink a0 s1) := by
  unfold strongSink
  exact forAll_inv (fun y0_0 y0_1 g0_1 => State.updLeg_inv g0_1) k1

theorem execSoftOffStep2_inv {a0 a1} {s2 : State} (k2 : Inv s2) : OutInv (execSoftOffStep2 a0 a1 s2) := by
  unfold execSoftOffStep2
  extract_lets -merge -useContext +onlyGivenNames x0
  have h0 : Inv x0 := advanceTo_inv k2
  clear_value x0
  exact ite_out (next_inv (strongSink_inv (State.updGrp_inv h0))) (next_inv h0)

theorem execSoftOffSafeState_inv {a0 a1} {s2 : State} (k2 : Inv s2) : OutInv (execSoftOffSafeState a0 a1 s2) := by
  unfold execSoftOffSafeState
  extract_lets -merge -useContext +onlyGivenNames x0
  have h0 : Inv x0 := advanceTo_inv k2
  clear_value x0
  exact ite_out (next_inv (settle_inv (State.updGrp_inv h0))) (next_inv h0)

theorem handshakeOut_inv {a0 a1} {s2 : State} (k2 : Inv s2) : Inv (handshakeOut a0 a1 s2) := by
  unfold handshakeOut
  extract_lets -merge -useContext +onlyGivenNames x0
  have h0 : Inv x0 := State.put_inv k2
  clear_value x0
  extract_lets -merge -useContext +onlyGivenNames x1
  have h1 : Inv x1 := State.updLeg_inv h0
  clear_value x1
  exact raise_inv (settleLeg_inv h1)

theorem execHandshakeTimeout_inv {a0 a1 a2} {s3 : State} (k3 : Inv s3) : OutInv (execHandshakeTimeout a0 a1 a2 s3) := by
  unfold execHandshakeTimeout
  extract_lets -merge -useContext +onlyGivenNames x0
  have h0 : Inv x0 := advanceTo_inv k3
  clear_value x0
  exact ite_out (next_inv (handshakeOut_inv h0)) (next_inv h0)

theorem bsUnder_inv {a0} {s1 : State} (k1 : Inv s1) : Inv (bsUnder a0 s1) := by
  unfold bsUnder
  extract_lets -merge -useContext +onlyGivenNames x0
  have h0 : Inv x0 := State.put_inv (State.put_inv k1)
  clear_value x0
  exact raise_inv (settleLeg_inv (State.updLeg_inv h0))

theorem bsCovered_inv {a0} {s1 : State} (k1 : Inv s1) : Inv (bsCovered a0 s1) := by
  unfold bsCovered
  exact inv_mk k1

theorem execBootstrapUndervoltage_inv {a0 a1} {s2 : State} (k2 : Inv s2) : OutInv (execBootstrapUndervoltage a0 a1 s2) :=
    by
  unfold execBootstrapUndervoltage
  exact ite_out (next_inv (ite_inv (bsCovered_inv k2) (bsUnder_inv k2))) (next_inv k2)

theorem execBootstrapOk_inv {a0 a1} {s2 : State} (k2 : Inv s2) : OutInv (execBootstrapOk a0 a1 s2) := by
  unfold execBootstrapOk
  exact ite_out (next_inv (ite_inv (bsCovered_inv k2) (settle_inv (State.put_inv k2)))) (next_inv k2)

theorem settleThreff_inv {a0} {s1 : State} (k1 : Inv s1) : Inv (settleThreff a0 s1) := by
  unfold settleThreff
  exact State.put_inv k1

end Sys2Proof.Machine
end

