-- ==== Sys2Proof/Laws/InvLoupe.lean ====
section
/-! SUPPORT. The operations of Machine/Loupe.lean keep `Inv`. -/

namespace Sys2Proof.Machine

theorem State.updLoupe_inv {s0 : State} {a1 a2} (k0 : Inv s0) : Inv (State.updLoupe s0 a1 a2) := by
  unfold State.updLoupe
  exact inv_mk k0

theorem lupEnd_inv {a0 a1} {s2 : State} (k2 : Inv s2) : Inv (lupEnd a0 a1 s2) := by
  unfold lupEnd
  extract_lets -merge -useContext +onlyGivenNames x0
  have h0 : Inv x0 := State.putB_inv k2
  clear_value x0
  exact icuEvent_inv (State.put_inv (State.put_inv h0))

theorem lupStart_inv {a0} {s1 : State} (k1 : Inv s1) : Inv (lupStart a0 s1) := by
  unfold lupStart
  refine ite_inv ?_ ?_
  · exact k1
  · lift_lets -merge -useContext -underBinder
    extract_lets -merge -useContext +onlyGivenNames x0
    clear_value x0
    extract_lets -merge -useContext +onlyGivenNames x1
    clear_value x1
    extract_lets -merge -useContext +onlyGivenNames x2
    have h2 : Inv x2 := State.put_inv (State.put_inv (State.put_inv k1))
    clear_value x2
    exact ite_inv (State.put_inv k1) (State.updLoupe_inv (State.put_inv h2))

theorem lupArm_inv {a0} {s1 : State} (k1 : Inv s1) : Inv (lupArm a0 s1) := by
  unfold lupArm
  exact ite_inv (State.updLoupe_inv k1) k1

theorem lupStop_inv {a0} {s1 : State} (k1 : Inv s1) : Inv (lupStop a0 s1) := by
  unfold lupStop
  exact ite_inv (lupEnd_inv k1) k1

theorem lupRecord_inv {a0 a1} {s2 : State} (k2 : Inv s2) : Inv (lupRecord a0 a1 s2) := by
  unfold lupRecord
  extract_lets -merge -useContext +onlyGivenNames x0
  clear_value x0
  extract_lets -merge -useContext +onlyGivenNames x1
  clear_value x1
  extract_lets -merge -useContext +onlyGivenNames x2
  clear_value x2
  extract_lets -merge -useContext +onlyGivenNames x3
  clear_value x3
  extract_lets -merge -useContext +onlyGivenNames x4
  clear_value x4
  extract_lets -merge -useContext +onlyGivenNames x5
  clear_value x5
  extract_lets -merge -useContext +onlyGivenNames x6
  clear_value x6
  extract_lets -merge -useContext +onlyGivenNames x7
  clear_value x7
  extract_lets -merge -useContext +onlyGivenNames x8
  clear_value x8
  extract_lets -merge -useContext +onlyGivenNames x9
  clear_value x9
  extract_lets -merge -useContext +onlyGivenNames x10
  have h10 : Inv x10 := inv_mk k2
  clear_value x10
  extract_lets -merge -useContext +onlyGivenNames x11
  have h11 : Inv x11 := State.updLoupe_inv h10
  clear_value x11
  extract_lets -merge -useContext +onlyGivenNames x12
  have h12 : Inv x12 := ite_inv (State.put_inv (State.put_inv h11)) h11
  clear_value x12
  exact ite_inv (lupEnd_inv h12) h12

theorem lupSample_inv {a0 a1} {s2 : State} (k2 : Inv s2) : Inv (lupSample a0 a1 s2) := by
  unfold lupSample
  extract_lets -merge -useContext +onlyGivenNames x0
  clear_value x0
  exact ite_inv (State.bump_inv k2) (lupRecord_inv k2)

theorem lupEventOne_inv {a0 a1 a2 a3} {s4 : State} (k4 : Inv s4) : Inv (lupEventOne a0 a1 a2 a3 s4) := by
  unfold lupEventOne
  refine ite_inv ?_ ?_
  · extract_lets -merge -useContext +onlyGivenNames x0
    clear_value x0
    exact ite_inv (lupSample_inv (State.updLoupe_inv k4)) (State.updLoupe_inv k4)
  · exact k4

theorem lupEvent_inv {a0 a1 a2} {s3 : State} (k3 : Inv s3) : Inv (lupEvent a0 a1 a2 s3) := by
  unfold lupEvent
  exact forAll_inv (fun y0_0 y0_1 g0_1 => lupEventOne_inv g0_1) k3

theorem lupCause_inv {a0 a1} {s2 : State} (k2 : Inv s2) : Inv (lupCause a0 a1 s2) := by
  unfold lupCause
  exact forAll_inv (fun y0_0 y0_1 g0_1 => ite_inv (lupArm_inv g0_1) g0_1) k2

theorem lupTrace_inv {a0 a1 a2} {s3 : State} (k3 : Inv s3) : Inv (lupTrace a0 a1 a2 s3) := by
  unfold lupTrace
  exact ite_inv (State.updLoupe_inv k3) k3

theorem execLupStart_inv {a0} {s1 : State} (k1 : Inv s1) : OutInv (execLupStart a0 s1) := by
  unfold execLupStart
  exact next_inv (access_inv (fun y0_0 g0_0 => lupStart_inv g0_0) k1)

theorem execLupSwtrg_inv {a0} {s1 : State} (k1 : Inv s1) : OutInv (execLupSwtrg a0 s1) := by
  unfold execLupSwtrg
  exact next_inv (access_inv (fun y0_0 g0_0 => lupArm_inv g0_0) k1)

theorem execLupAbort_inv {a0} {s1 : State} (k1 : Inv s1) : OutInv (execLupAbort a0 s1) := by
  unfold execLupAbort
  exact next_inv (access_inv (fun y0_0 g0_0 => lupStop_inv g0_0) k1)

end Sys2Proof.Machine
end

