-- ==== Sys2Proof/Laws/InvPrs.lean ====
section
/-! SUPPORT. The operations of Machine/Prs.lean keep `Inv`. -/

namespace Sys2Proof.Machine

theorem queueShow_inv {a0} {s1 : State} (k1 : Inv s1) : Inv (queueShow a0 s1) := by
  unfold queueShow
  extract_lets -merge -useContext +onlyGivenNames x0
  clear_value x0
  extract_lets -merge -useContext +onlyGivenNames x1
  have h1 : Inv x1 := State.put_inv k1
  clear_value x1
  exact State.putMax_inv h1

theorem readyEnter_inv {a0 a1 a2} {s3 : State} (k3 : Inv s3) : Inv (readyEnter a0 a1 a2 s3) := by
  unfold readyEnter
  extract_lets -merge -useContext +onlyGivenNames x0
  clear_value x0
  exact ite_inv (queueShow_inv (State.updFacet_inv k3)) (State.updFacet_inv k3)

theorem readyRefill_inv {a0} {s1 : State} (k1 : Inv s1) : Inv (readyRefill a0 s1) := by
  unfold readyRefill
  extract_lets -merge -useContext +onlyGivenNames x0
  clear_value x0
  extract_lets -merge -useContext +onlyGivenNames x1
  clear_value x1
  extract_lets -merge -useContext +onlyGivenNames x2
  have h2 : Inv x2 := State.updFacet_inv k1
  clear_value x2
  exact queueShow_inv h2

theorem updInst_inv {a0 a1} {s2 : State} (k2 : Inv s2) : Inv (updInst a0 a1 s2) := by
  unfold updInst
  exact State.updPrs_inv k2

theorem settleDrain_inv {s0 : State} (k0 : Inv s0) : Inv (settleDrain s0) := by
  unfold settleDrain
  exact State.putB_inv k0

theorem settleRunning_inv {s0 : State} (k0 : Inv s0) : Inv (settleRunning s0) := by
  unfold settleRunning
  exact State.putB_inv k0

theorem settleScan_inv {s0 : State} (k0 : Inv s0) : Inv (settleScan s0) := by
  unfold settleScan
  exact State.putB_inv k0

theorem instEnd_inv {a0} {s1 : State} (k1 : Inv s1) : Inv (instEnd a0 s1) := by
  unfold instEnd
  extract_lets -merge -useContext +onlyGivenNames x0
  have h0 : Inv x0 := State.updPrs_inv k1
  clear_value x0
  extract_lets -merge -useContext +onlyGivenNames x1
  have h1 : Inv x1 := forAll_inv (fun y2_0 y2_1 g2_1 => readyRefill_inv (State.updFacet_inv g2_1)) h0
  clear_value x1
  exact settleDrain_inv (State.put_inv h1)

theorem instStart_inv {a0 a1} {s2 : State} (k2 : Inv s2) : Inv (instStart a0 a1 s2) := by
  unfold instStart
  extract_lets -merge -useContext +onlyGivenNames x0
  clear_value x0
  extract_lets -merge -useContext +onlyGivenNames x1
  clear_value x1
  extract_lets -merge -useContext +onlyGivenNames x2
  have h2 : Inv x2 := State.updPrs_inv k2
  clear_value x2
  exact evcCount_inv (State.put_inv h2)

theorem overCount_inv {a0} {s1 : State} (k1 : Inv s1) : Inv (overCount a0 s1) := by
  unfold overCount
  extract_lets -merge -useContext +onlyGivenNames x0
  have h0 : Inv x0 := State.putBit_inv (State.bump_inv k1)
  clear_value x0
  exact lupCause_inv (evcCount_inv (icuEvent_inv h0))

theorem startPending_inv {a0 a1} {s2 : State} (k2 : Inv s2) : Inv (startPending a0 a1 s2) := by
  unfold startPending
  refine ite_inv ?_ ?_
  · extract_lets -merge -useContext +onlyGivenNames x0
    have h0 : Inv x0 := State.put_inv k2
    clear_value x0
    exact ite_inv (instStart_inv h0) h0
  · exact k2

theorem present_inv {a0} {s1 : State} (k1 : Inv s1) : Inv (present a0 s1) := by
  unfold present
  exact State.updPrs_inv k1

theorem complete_inv {a0 a1} {s2 : State} (k2 : Inv s2) : Inv (complete a0 a1 s2) := by
  unfold complete
  extract_lets -merge -useContext +onlyGivenNames x0
  clear_value x0
  extract_lets -merge -useContext +onlyGivenNames x1
  have h1 : Inv x1 := ite_inv (State.put_inv k2) k2
  clear_value x1
  extract_lets -merge -useContext +onlyGivenNames x2
  clear_value x2
  extract_lets -merge -useContext +onlyGivenNames x3
  have h3 : Inv x3 := State.putMax_inv (State.put_inv h1)
  clear_value x3
  extract_lets -merge -useContext +onlyGivenNames x4
  have h4 : Inv x4 := instEnd_inv h3
  clear_value x4
  extract_lets -merge -useContext +onlyGivenNames x5
  have h5 : Inv x5 := ite_inv (icuEvent_inv h4) h4
  clear_value x5
  extract_lets -merge -useContext +onlyGivenNames x6
  have h6 : Inv x6 := ite_inv (present_inv h5) h5
  clear_value x6
  extract_lets -merge -useContext +onlyGivenNames x7
  have h7 : Inv x7 := ite_inv (present_inv h6) h6
  clear_value x7
  exact startPending_inv (lupEvent_inv h7)

theorem settleDone_inv {a0 a1} {s2 : State} (k2 : Inv s2) : Inv (settleDone a0 a1 s2) := by
  unfold settleDone
  split
  · exact k2
  · exact ite_inv (complete_inv k2) k2

theorem trigger_inv {a0 a1} {s2 : State} (k2 : Inv s2) : Inv (trigger a0 a1 s2) := by
  unfold trigger
  refine ite_inv ?_ ?_
  · exact k2
  · refine ite_inv ?_ ?_
    · exact k2
    · refine ite_inv ?_ ?_
      · exact State.put_inv k2
      · refine ite_inv ?_ ?_
        · exact k2
        · extract_lets -merge -useContext +onlyGivenNames x0
          have h0 : Inv x0 := settleDone_inv k2
          clear_value x0
          split
          · exact instStart_inv h0
          · extract_lets -merge -useContext +onlyGivenNames x3
            have h3 : Inv x3 := overCount_inv (State.put_inv h0)
            clear_value x3
            exact ite_inv h3 (State.put_inv h3)

theorem divide_inv {a0 a1} {s2 : State} (k2 : Inv s2) : Inv (divide a0 a1 s2) := by
  unfold divide
  extract_lets -merge -useContext +onlyGivenNames x0
  clear_value x0
  exact ite_inv (trigger_inv (State.updPrs_inv k2)) (State.updPrs_inv k2)

theorem takeEvent_inv {a0 a1} {s2 : State} (k2 : Inv s2) : Inv (takeEvent a0 a1 s2) := by
  unfold takeEvent
  extract_lets -merge -useContext +onlyGivenNames x0
  have h0 : Inv x0 := forAll_inv (fun y1_0 y1_1 g1_1 => ite_inv (divide_inv g1_1) g1_1) k2
  clear_value x0
  exact lupEvent_inv h0

theorem deadline_inv {a0} {s1 : State} (k1 : Inv s1) : Inv (deadline a0 s1) := by
  unfold deadline
  refine forAll_inv (fun y0_0 y0_1 g0_1 => ?_) ?_
  · refine ite_inv ?_ ?_
    · extract_lets -merge -useContext +onlyGivenNames x1
      have h1 : Inv x1 := settleDone_inv g0_1
      clear_value x1
      exact ite_inv (overCount_inv (State.put_inv h1)) h1
    · exact g0_1
  · exact k1

theorem nodeExc_inv {a0 a1 a2 a3 a4 a5} {s6 : State} (k6 : Inv s6) : Inv (nodeExc a0 a1 a2 a3 a4 a5 s6) := by
  unfold nodeExc
  extract_lets -merge -useContext +onlyGivenNames x0
  have h0 : Inv x0 := ite_inv (State.put_inv k6) (State.put_inv (State.put_inv (State.put_inv (State.put_inv (State.put_inv
      k6)))))
  clear_value x0
  extract_lets -merge -useContext +onlyGivenNames x1
  have h1 : Inv x1 := evcCount_inv (icuEvent_inv (State.bump_inv h0))
  clear_value x1
  refine ite_inv ?_ ?_
  · split
    · exact startPending_inv (instEnd_inv h1)
    · exact h1
  · exact h1

theorem satFlow_inv {a0} {s1 : State} (k1 : Inv s1) : Inv (satFlow a0 s1) := by
  unfold satFlow
  exact evcCount_inv (State.putBit_inv k1)

theorem suspend_inv {a0 a1} {s2 : State} (k2 : Inv s2) : Inv (suspend a0 a1 s2) := by
  unfold suspend
  lift_lets -merge -useContext -underBinder
  extract_lets -merge -useContext +onlyGivenNames x0
  clear_value x0
  extract_lets -merge -useContext +onlyGivenNames x1
  have h1 : Inv x1 := State.putBit_inv (State.putB_inv k2)
  clear_value x1
  extract_lets -merge -useContext +onlyGivenNames x2
  have h2 : Inv x2 := State.put_inv h1
  clear_value x2
  refine ite_inv ?_ ?_
  · split
    · exact instEnd_inv h2
    · exact h2
  · exact h1

theorem settleSusp_inv {s0 : State} (k0 : Inv s0) : Inv (settleSusp s0) := by
  unfold settleSusp
  extract_lets -merge -useContext +onlyGivenNames x0
  clear_value x0
  exact ite_inv k0 (forAll_inv (fun y1_0 y1_1 g1_1 => suspend_inv g1_1) k0)

theorem stopScheduler_inv {s0 : State} (k0 : Inv s0) : Inv (stopScheduler s0) := by
  unfold stopScheduler
  extract_lets -merge -useContext +onlyGivenNames x0
  have h0 : Inv x0 := settleRunning_inv (State.put_inv k0)
  clear_value x0
  extract_lets -merge -useContext +onlyGivenNames x1
  have h1 : Inv x1 := foldl_inv (fun t x ht => instEnd_inv ht) h0
  clear_value x1
  exact forAll_inv (fun y2_0 y2_1 g2_1 => State.put_inv g2_1) h1

theorem resumeScheduler_inv {s0 : State} (k0 : Inv s0) : Inv (resumeScheduler s0) := by
  unfold resumeScheduler
  exact settleRunning_inv (State.put_inv k0)

theorem showScan_inv {a0} {s1 : State} (k1 : Inv s1) : Inv (showScan a0 s1) := by
  unfold showScan
  extract_lets -merge -useContext +onlyGivenNames x0
  have h0 : Inv x0 := by
    refine forAll_inv (fun y1_0 y1_1 g1_1 => ?_) ?_
    · extract_lets -merge -useContext +onlyGivenNames x2
      clear_value x2
      exact State.put_inv (State.put_inv g1_1)
    · exact k1
  clear_value x0
  exact ite_inv (State.put_inv h0) h0

theorem swapReg_inv {a0} {s1 : State} (k1 : Inv s1) : Inv (swapReg a0 s1) := by
  unfold swapReg
  extract_lets -merge -useContext +onlyGivenNames x0
  clear_value x0
  extract_lets -merge -useContext +onlyGivenNames x1
  clear_value x1
  extract_lets -merge -useContext +onlyGivenNames x2
  clear_value x2
  exact State.setShd_inv (State.setReg_inv k1)

theorem dividersAfter_inv {s0 : State} {s1 : State} (k0 : Inv s0) (k1 : Inv s1) : Inv (dividersAfter s0 s1) := by
  unfold dividersAfter
  exact forAll_inv (fun y0_0 y0_1 g0_1 => ite_inv (State.updPrs_inv g0_1) g0_1) k1

theorem settleMirror_inv {s0 : State} (k0 : Inv s0) : Inv (settleMirror s0) := by
  unfold settleMirror
  extract_lets -merge -useContext +onlyGivenNames x0
  clear_value x0
  extract_lets -merge -useContext +onlyGivenNames x1
  clear_value x1
  refine settle_inv ?_
  refine forAll_inv (fun y2_0 y2_1 g2_1 => ?_) ?_
  · extract_lets -merge -useContext +onlyGivenNames x3
    have h3 : Inv x3 := State.updGrp_inv g2_1
    clear_value x3
    exact ite_inv (forAll_inv (fun y4_0 y4_1 g4_1 => State.updLeg_inv g4_1) (State.updPg_inv h3)) (ite_inv (State.updPg_inv
        h3) h3)
  · exact k0

theorem phaseIdle_inv {s0 : State} (k0 : Inv s0) : Inv (phaseIdle s0) := by
  unfold phaseIdle
  exact ite_inv (State.put_inv (State.put_inv k0)) k0

theorem mirrorReturn_inv {s0 : State} (k0 : Inv s0) : Inv (mirrorReturn s0) := by
  unfold mirrorReturn
  refine ite_inv ?_ ?_
  · exact k0
  · lift_lets -merge -useContext -underBinder
    extract_lets -merge -useContext +onlyGivenNames x0
    clear_value x0
    extract_lets -merge -useContext +onlyGivenNames x1
    clear_value x1
    extract_lets -merge -useContext +onlyGivenNames x2
    have h2 : Inv x2 := inv_mk k0
    exact settleMirror_inv (phaseIdle_inv h2)

theorem flipNow_inv {s0 : State} (k0 : Inv s0) : Inv (flipNow s0) := by
  unfold flipNow
  lift_lets -merge -useContext -underBinder
  extract_lets -merge -useContext +onlyGivenNames x0
  have h0 : Inv x0 := foldl_inv (fun t x ht => swapReg_inv ht) k0
  clear_value x0
  extract_lets -merge -useContext +onlyGivenNames x1
  have h1 : Inv x1 := State.putB_inv h0
  clear_value x1
  extract_lets -merge -useContext +onlyGivenNames x2
  have h2 : Inv x2 := State.updPrs_inv h1
  clear_value x2
  extract_lets -merge -useContext +onlyGivenNames x3
  have h3 : Inv x3 := State.put_inv (State.bump_inv (State.put_inv h2))
  clear_value x3
  extract_lets -merge -useContext +onlyGivenNames x4
  clear_value x4
  extract_lets -merge -useContext +onlyGivenNames x5
  have h5 : Inv x5 := inv_mk h3
  clear_value x5
  exact settle_inv (mirrorReturn_inv (settleSusp_inv (settleDrain_inv (settleScan_inv (dividersAfter_inv k0 h5)))))

theorem flipCancel_inv {s0 : State} (k0 : Inv s0) : Inv (flipCancel s0) := by
  unfold flipCancel
  refine settleScan_inv ?_
  lift_lets -merge -useContext -underBinder
  extract_lets -merge -useContext +onlyGivenNames x0
  have h0 : Inv x0 := State.updPrs_inv k0
  clear_value x0
  extract_lets -merge -useContext +onlyGivenNames x1
  clear_value x1
  exact inv_mk h0

theorem flipScanStart_inv {s0 : State} (k0 : Inv s0) : Inv (flipScanStart s0) := by
  unfold flipScanStart
  exact settleScan_inv (State.updPrs_inv k0)

theorem execFlowTrigger_inv {a0 a1} {s2 : State} (k2 : Inv s2) : OutInv (execFlowTrigger a0 a1 s2) := by
  unfold execFlowTrigger
  extract_lets -merge -useContext +onlyGivenNames x0
  have h0 : Inv x0 := advanceTo_inv k2
  clear_value x0
  exact ite_out (next_inv (takeEvent_inv (State.updPrs_inv h0))) (next_inv h0)

theorem rootEnter_inv {a0 a1 a2} {s3 : State} (k3 : Inv s3) : Inv (rootEnter a0 a1 a2 s3) := by
  unfold rootEnter
  extract_lets -merge -useContext +onlyGivenNames x0
  have h0 : Inv x0 := updInst_inv k3
  clear_value x0
  exact readyEnter_inv h0

theorem execFlowRootEntry_inv {a0 a1} {s2 : State} (k2 : Inv s2) : OutInv (execFlowRootEntry a0 a1 s2) := by
  unfold execFlowRootEntry
  extract_lets -merge -useContext +onlyGivenNames x0
  have h0 : Inv x0 := advanceTo_inv k2
  clear_value x0
  split
  · exact next_inv h0
  · exact ite_out (next_inv h0) (next_inv (forAll_inv (fun y3_0 y3_1 g3_1 => rootEnter_inv g3_1) (updInst_inv h0)))

theorem tokenArrive_inv {a0 a1} {s2 : State} (k2 : Inv s2) : Inv (tokenArrive a0 a1 s2) := by
  unfold tokenArrive
  split
  · exact k2
  · lift_lets -merge -useContext -underBinder
    extract_lets -merge -useContext +onlyGivenNames x2
    clear_value x2
    extract_lets -merge -useContext +onlyGivenNames x3
    clear_value x3
    extract_lets -merge -useContext +onlyGivenNames x4
    have h4 : Inv x4 := State.updPrs_inv k2
    clear_value x4
    extract_lets -merge -useContext +onlyGivenNames x5
    clear_value x5
    extract_lets -merge -useContext +onlyGivenNames x6
    have h6 : Inv x6 := updInst_inv k2
    clear_value x6
    exact ite_inv (ite_inv k2 (nodeExc_inv h4)) (ite_inv (readyEnter_inv h6) h6)

theorem execTokenArrival_inv {a0 a1} {s2 : State} (k2 : Inv s2) : OutInv (execTokenArrival a0 a1 s2) := by
  unfold execTokenArrival
  extract_lets -merge -useContext +onlyGivenNames x0
  have h0 : Inv x0 := advanceTo_inv k2
  clear_value x0
  split
  · exact next_inv h0
  · exact next_inv (tokenArrive_inv (State.updPrs_inv h0))

theorem execFlowComplete_inv {a0 a1} {s2 : State} (k2 : Inv s2) : OutInv (execFlowComplete a0 a1 s2) := by
  unfold execFlowComplete
  extract_lets -merge -useContext +onlyGivenNames x0
  have h0 : Inv x0 := advanceTo_inv k2
  clear_value x0
  split
  · exact next_inv h0
  · exact ite_out (next_inv (complete_inv h0)) (next_inv h0)

theorem prsRunWrite_inv {a0} {s1 : State} (k1 : Inv s1) : Inv (prsRunWrite a0 s1) := by
  unfold prsRunWrite
  lift_lets -merge -useContext -underBinder
  extract_lets -merge -useContext +onlyGivenNames x0
  clear_value x0
  extract_lets -merge -useContext +onlyGivenNames x1
  have h1 : Inv x1 := settleRunning_inv (State.putB_inv k1)
  clear_value x1
  extract_lets -merge -useContext +onlyGivenNames x2
  have h2 : Inv x2 := settleScan_inv (State.updPrs_inv h1)
  clear_value x2
  exact ite_inv (settleScan_inv (State.updPrs_inv h1)) (ite_inv h1 (forAll_inv (fun y3_0 y3_1 g3_1 => State.put_inv g3_1)
      h2))

theorem execPrsRun_inv {a0} {s1 : State} (k1 : Inv s1) : OutInv (execPrsRun a0 s1) := by
  unfold execPrsRun
  exact next_inv (prsRunWrite_inv k1)

theorem monClear_inv {s0 : State} (k0 : Inv s0) : Inv (monClear s0) := by
  unfold monClear
  extract_lets -merge -useContext +onlyGivenNames x0
  have h0 : Inv x0 := forAll_inv (fun y1_0 y1_1 g1_1 => State.clearMax_inv (State.clearMax_inv (State.clearMax_inv g1_1)))
      k0
  clear_value x0
  exact forAll_inv (fun y2_0 y2_1 g2_1 => State.clearMax_inv g2_1) h0

theorem execPrsMonclr_inv {a0} {s1 : State} (k1 : Inv s1) : OutInv (execPrsMonclr a0 s1) := by
  unfold execPrsMonclr
  exact next_inv (monClear_inv (advanceTo_inv k1))

theorem flipScanEnd_inv {s0 : State} (k0 : Inv s0) : Inv (flipScanEnd s0) := by
  unfold flipScanEnd
  extract_lets -merge -useContext +onlyGivenNames x0
  clear_value x0
  extract_lets -merge -useContext +onlyGivenNames x1
  have h1 : Inv x1 := settleScan_inv (showScan_inv (State.updPrs_inv k0))
  clear_value x1
  exact ite_inv (flipNow_inv h1) h1

theorem execScanComplete_inv {a0} {s1 : State} (k1 : Inv s1) : OutInv (execScanComplete a0 s1) := by
  unfold execScanComplete
  lift_lets -merge -useContext -underBinder
  extract_lets -merge -useContext +onlyGivenNames x0
  have h0 : Inv x0 := advanceTo_inv k1
  clear_value x0
  extract_lets -merge -useContext +onlyGivenNames x1
  clear_value x1
  extract_lets -merge -useContext +onlyGivenNames x2
  have h2 : Inv x2 := settleScan_inv (showScan_inv (State.updPrs_inv h0))
  clear_value x2
  exact ite_out (next_inv (forAll_inv (fun y3_0 y3_1 g3_1 => startPending_inv g3_1) (settleSusp_inv (settle_inv h2))))
      (ite_out (next_inv (flipScanEnd_inv h0)) (next_inv h0))

theorem execMonitorWindowEnd_inv {a0 a1} {s2 : State} (k2 : Inv s2) : OutInv (execMonitorWindowEnd a0 a1 s2) := by
  unfold execMonitorWindowEnd
  extract_lets -merge -useContext +onlyGivenNames x0
  have h0 : Inv x0 := advanceTo_inv k2
  clear_value x0
  extract_lets -merge -useContext +onlyGivenNames x1
  clear_value x1
  extract_lets -merge -useContext +onlyGivenNames x2
  clear_value x2
  extract_lets -merge -useContext +onlyGivenNames x3
  clear_value x3
  extract_lets -merge -useContext +onlyGivenNames x4
  clear_value x4
  extract_lets -merge -useContext +onlyGivenNames x5
  clear_value x5
  extract_lets -merge -useContext +onlyGivenNames x6
  have h6 : Inv x6 := State.put_inv h0
  clear_value x6
  extract_lets -merge -useContext +onlyGivenNames x7
  have h7 : Inv x7 := State.putMax_inv (State.put_inv h6)
  clear_value x7
  extract_lets -merge -useContext +onlyGivenNames x8
  have h8 : Inv x8 := State.updFacet_inv h7
  clear_value x8
  extract_lets -merge -useContext +onlyGivenNames x9
  clear_value x9
  exact next_inv (ite_inv (icuEvent_inv (State.put_inv h8)) h8)

theorem execPrsTimerExpiry_inv {a0} {s1 : State} (k1 : Inv s1) : OutInv (execPrsTimerExpiry a0 s1) := by
  unfold execPrsTimerExpiry
  exact ite_out (next_inv (present_inv k1)) (next_inv k1)

theorem swTrig_inv {a0} {s1 : State} (k1 : Inv s1) : Inv (swTrig a0 s1) := by
  unfold swTrig
  exact forAll_inv (fun y0_0 y0_1 g0_1 => present_inv g0_1) k1

theorem execPrsSwtrig_inv {a0} {s1 : State} (k1 : Inv s1) : OutInv (execPrsSwtrig a0 s1) := by
  unfold execPrsSwtrig
  exact next_inv (swTrig_inv k1)

theorem execNexccntClr_inv {s0 : State} (k0 : Inv s0) : OutInv (execNexccntClr s0) := by
  unfold execNexccntClr
  exact next_inv (State.put_inv k0)

theorem execWcollClr_inv {s0 : State} (k0 : Inv s0) : OutInv (execWcollClr s0) := by
  unfold execWcollClr
  exact next_inv (State.put_inv k0)

theorem execFlowstClr_inv {a0} {s1 : State} (k1 : Inv s1) : OutInv (execFlowstClr a0 s1) := by
  unfold execFlowstClr
  exact next_inv (State.put_inv k1)

end Sys2Proof.Machine
end

