-- ==== Sys2Proof/Laws/InvMargin.lean ====
section
/-! SUPPORT. The operations of Machine/Margin.lean keep `Inv`. -/

namespace Sys2Proof.Machine

theorem State.updMgn_inv {s0 : State} {a1} (k0 : Inv s0) : Inv (State.updMgn s0 a1) := by
  unfold State.updMgn
  exact inv_mk k0

theorem exhaust_inv {a0} {s1 : State} (k1 : Inv s1) : Inv (exhaust a0 s1) := by
  unfold exhaust
  exact icuEvent_inv (State.putBit_inv k1)

theorem mgnSum_inv {a0 a1 a2 a3} {s4 : State} (k3 : ∀ y0 y1, Inv y1 → Inv (a3 y0 y1)) (k4 : Inv s4) : Inv (mgnSum a0 a1 a2
    a3 s4) := by
  unfold mgnSum
  extract_lets -merge -useContext +onlyGivenNames x0
  clear_value x0
  exact ite_inv (icuEvent_inv (k3 _ _ (State.updMgn_inv k4))) (State.updMgn_inv k4)

theorem mgnToff_inv {a0 a1 a2} {s3 : State} (k3 : Inv s3) : Inv (mgnToff a0 a1 a2 s3) := by
  unfold mgnToff
  refine ite_inv ?_ ?_
  · extract_lets -merge -useContext +onlyGivenNames x0
    clear_value x0
    extract_lets -merge -useContext +onlyGivenNames x1
    clear_value x1
    extract_lets -merge -useContext +onlyGivenNames x2
    have h2 : Inv x2 := State.updMgn_inv k3
    clear_value x2
    exact State.put_inv h2
  · exact k3

theorem mgnRon_inv {a0 a1 a2} {s3 : State} (k3 : Inv s3) : Inv (mgnRon a0 a1 a2 s3) := by
  unfold mgnRon
  refine ite_inv ?_ ?_
  · refine mgnSum_inv (fun y0_0 y0_1 g0_1 => ?_) ?_
    · extract_lets -merge -useContext +onlyGivenNames x1
      clear_value x1
      extract_lets -merge -useContext +onlyGivenNames x2
      have h2 : Inv x2 := State.put_inv g0_1
      clear_value x2
      exact ite_inv (exhaust_inv h2) h2
    · exact k3
  · exact k3

theorem mgnDroop_inv {a0 a1} {s2 : State} (k2 : Inv s2) : Inv (mgnDroop a0 a1 s2) := by
  unfold mgnDroop
  refine ite_inv ?_ ?_
  · refine mgnSum_inv (fun y0_0 y0_1 g0_1 => ?_) ?_
    · extract_lets -merge -useContext +onlyGivenNames x1
      clear_value x1
      extract_lets -merge -useContext +onlyGivenNames x2
      have h2 : Inv x2 := State.putS_inv g0_1
      clear_value x2
      exact ite_inv (exhaust_inv h2) h2
    · exact k2
  · exact k2

theorem mgnOffset_inv {a0 a1 a2} {s3 : State} (k3 : Inv s3) : Inv (mgnOffset a0 a1 a2 s3) := by
  unfold mgnOffset
  refine mgnSum_inv (fun y0_0 y0_1 g0_1 => ?_) ?_
  · extract_lets -merge -useContext +onlyGivenNames x1
    clear_value x1
    extract_lets -merge -useContext +onlyGivenNames x2
    have h2 : Inv x2 := by
      unfold x2
      split
      · exact State.put_inv g0_1
      · exact State.put_inv g0_1
      · exact State.put_inv g0_1
    clear_value x2
    exact ite_inv (exhaust_inv h2) h2
  · exact k3

theorem mgnGain_inv {a0 a1} {s2 : State} (k2 : Inv s2) : Inv (mgnGain a0 a1 s2) := by
  unfold mgnGain
  refine mgnSum_inv (fun y0_0 y0_1 g0_1 => ?_) ?_
  · extract_lets -merge -useContext +onlyGivenNames x1
    clear_value x1
    extract_lets -merge -useContext +onlyGivenNames x2
    have h2 : Inv x2 := State.putS_inv g0_1
    clear_value x2
    exact ite_inv (exhaust_inv h2) h2
  · exact k2

theorem execMgnOffsetSlot_inv {a0 a1 a2} {s3 : State} (k3 : Inv s3) : OutInv (execMgnOffsetSlot a0 a1 a2 s3) := by
  unfold execMgnOffsetSlot
  refine ite_out ?_ ?_
  · extract_lets -merge -useContext +onlyGivenNames x0
    clear_value x0
    extract_lets -merge -useContext +onlyGivenNames x1
    have h1 : Inv x1 := State.updMgn_inv k3
    clear_value x1
    exact next_inv (ite_inv h1 (ite_inv (mgnGain_inv h1) (mgnOffset_inv h1)))
  · exact next_inv k3

theorem settleHeld_inv {s0 : State} (k0 : Inv s0) : Inv (settleHeld s0) := by
  unfold settleHeld
  extract_lets -merge -useContext +onlyGivenNames x0
  clear_value x0
  extract_lets -merge -useContext +onlyGivenNames x1
  clear_value x1
  exact State.put_inv k0

theorem approvalEnd_inv {a0 a1} {s2 : State} (k2 : Inv s2) : Inv (approvalEnd a0 a1 s2) := by
  unfold approvalEnd
  exact ite_inv k2 (State.updMgn_inv k2)

theorem proposalApplied_inv {s0 : State} (k0 : Inv s0) : Inv (proposalApplied s0) := by
  unfold proposalApplied
  exact evcCount_inv (icuEvent_inv k0)

theorem proposalHeld_inv {a0} {s1 : State} (k1 : Inv s1) : Inv (proposalHeld a0 s1) := by
  unfold proposalHeld
  exact evcCount_inv (exhaust_inv k1)

theorem proposeDt_inv {a0 a1} {s2 : State} (k2 : Inv s2) : Inv (proposeDt a0 a1 s2) := by
  unfold proposeDt
  extract_lets -merge -useContext +onlyGivenNames x0
  clear_value x0
  extract_lets -merge -useContext +onlyGivenNames x1
  clear_value x1
  extract_lets -merge -useContext +onlyGivenNames x2
  have h2 : Inv x2 := State.putB_inv (State.putS_inv (noteOld_inv k2))
  clear_value x2
  extract_lets -merge -useContext +onlyGivenNames x3
  have h3 : Inv x3 := approvalEnd_inv h2
  clear_value x3
  exact settleHeld_inv (ite_inv (proposalHeld_inv (State.putS_inv h3)) (proposalApplied_inv h3))

theorem dtEvaluate_inv {a0} {s1 : State} (k1 : Inv s1) : Inv (dtEvaluate a0 s1) := by
  unfold dtEvaluate
  lift_lets -merge -useContext -underBinder
  extract_lets -merge -useContext +onlyGivenNames x0
  clear_value x0
  extract_lets -merge -useContext +onlyGivenNames x1
  clear_value x1
  extract_lets -merge -useContext +onlyGivenNames x2
  clear_value x2
  extract_lets -merge -useContext +onlyGivenNames x3
  clear_value x3
  extract_lets -merge -useContext +onlyGivenNames x4
  clear_value x4
  extract_lets -merge -useContext +onlyGivenNames x5
  clear_value x5
  exact ite_inv (ite_inv (ite_inv k1 (settleHeld_inv (State.put_inv k1))) (proposeDt_inv k1)) k1

theorem execMgnDtEvaluation_inv {a0} {s1 : State} (k1 : Inv s1) : OutInv (execMgnDtEvaluation a0 s1) := by
  unfold execMgnDtEvaluation
  exact next_inv (dtEvaluate_inv k1)

theorem proposeVid_inv {a0} {s1 : State} (k1 : Inv s1) : Inv (proposeVid a0 s1) := by
  unfold proposeVid
  extract_lets -merge -useContext +onlyGivenNames x0
  clear_value x0
  extract_lets -merge -useContext +onlyGivenNames x1
  clear_value x1
  extract_lets -merge -useContext +onlyGivenNames x2
  clear_value x2
  extract_lets -merge -useContext +onlyGivenNames x3
  have h3 : Inv x3 := approvalEnd_inv (State.putB_inv k1)
  clear_value x3
  extract_lets -merge -useContext +onlyGivenNames x4
  have h4 : Inv x4 := ite_inv h3 (State.updPwr_inv h3)
  clear_value x4
  exact settleHeld_inv (ite_inv (proposalHeld_inv (State.put_inv h4)) (proposalApplied_inv h4))

theorem slackTake_inv {a0} {s1 : State} (k1 : Inv s1) : Inv (slackTake a0 s1) := by
  unfold slackTake
  extract_lets -merge -useContext +onlyGivenNames x0
  have h0 : Inv x0 := forAll_inv (fun y1_0 y1_1 g1_1 => State.putS_inv g1_1) k1
  clear_value x0
  extract_lets -merge -useContext +onlyGivenNames x2
  clear_value x2
  exact icuEvent_inv (State.putS_inv (State.putS_inv h0))

theorem slackRun_inv {s0 : State} (k0 : Inv s0) : Inv (slackRun s0) := by
  unfold slackRun
  extract_lets -merge -useContext +onlyGivenNames x0
  clear_value x0
  exact State.updMgn_inv k0

theorem slackEvaluate_inv {s0 : State} (k0 : Inv s0) : Inv (slackEvaluate s0) := by
  unfold slackEvaluate
  exact ite_inv (proposeVid_inv k0) (ite_inv (proposeVid_inv (State.updMgn_inv k0)) k0)

theorem execMgnSlackWindow_inv {a0} {s1 : State} (k1 : Inv s1) : OutInv (execMgnSlackWindow a0 s1) := by
  unfold execMgnSlackWindow
  refine ite_out ?_ ?_
  · extract_lets -merge -useContext +onlyGivenNames x0
    have h0 : Inv x0 := slackRun_inv (slackTake_inv k1)
    clear_value x0
    exact next_inv (ite_inv (slackEvaluate_inv h0) h0)
  · exact next_inv k1

theorem execVidStepDone_inv {s0 : State} (k0 : Inv s0) : OutInv (execVidStepDone s0) := by
  unfold execVidStepDone
  refine ite_out ?_ ?_
  · exact next_inv k0
  · split
    · exact next_inv k0
    · extract_lets -merge -useContext +onlyGivenNames x2
      clear_value x2
      extract_lets -merge -useContext +onlyGivenNames x3
      clear_value x3
      extract_lets -merge -useContext +onlyGivenNames x4
      have h4 : Inv x4 := State.put_inv k0
      clear_value x4
      exact next_inv (icuEvent_inv (State.updPwr_inv h4))

end Sys2Proof.Machine
end

