-- ==== Sys2Proof/Laws/InvPwm.lean ====
section
/-! SUPPORT. The operations of Machine/Pwm.lean keep `Inv`. -/

namespace Sys2Proof.Machine

theorem settleTripped_inv {s0 : State} (k0 : Inv s0) : Inv (settleTripped s0) := by
  unfold settleTripped
  exact forAll_inv (fun y0_0 y0_1 g0_1 => State.putB_inv g0_1) k0

theorem dutyStore_inv {a0 a1 a2 a3} {s4 : State} (k4 : Inv s4) : Inv (dutyStore a0 a1 a2 a3 s4) := by
  unfold dutyStore
  lift_lets -merge -useContext -underBinder
  extract_lets -merge -useContext +onlyGivenNames x0
  clear_value x0
  extract_lets -merge -useContext +onlyGivenNames x1
  clear_value x1
  extract_lets -merge -useContext +onlyGivenNames x2
  clear_value x2
  exact ite_inv k4 (State.setReg_inv (State.updLeg_inv k4))

theorem dutyWrite_inv {a0 a1} {s2 : State} (k2 : Inv s2) : Inv (dutyWrite a0 a1 s2) := by
  unfold dutyWrite
  split
  · exact k2
  · exact dutyStore_inv k2

theorem execDutyWrite_inv {a0 a1} {s2 : State} (k2 : Inv s2) : OutInv (execDutyWrite a0 a1 s2) := by
  unfold execDutyWrite
  exact next_inv (dutyWrite_inv k2)

theorem lineSet_inv {a0 a1 a2 a3 a4 a5} {s6 : State} (k6 : Inv s6) : Inv (lineSet a0 a1 a2 a3 a4 a5 s6) := by
  unfold lineSet
  extract_lets -merge -useContext +onlyGivenNames x0
  clear_value x0
  exact settleLeg_inv (State.updLeg_inv k6)

theorem edgeFire_inv {a0 a1 a2 a3 a4} {s5 : State} (k5 : Inv s5) : Inv (edgeFire a0 a1 a2 a3 a4 s5) := by
  unfold edgeFire
  exact ite_inv k5 (lineSet_inv k5)

theorem turnOffMeasured_inv {a0 a1 a2 a3 a4} {s5 : State} (k5 : Inv s5) : Inv (turnOffMeasured a0 a1 a2 a3 a4 s5) := by
  unfold turnOffMeasured
  split
  · exact k5
  · refine ite_inv ?_ ?_
    · exact k5
    · extract_lets -merge -useContext +onlyGivenNames x2
      have h2 : Inv x2 := by
        unfold x2
        split
        · exact mgnToff_inv k5
        · exact k5
      clear_value x2
      split
      · exact ite_inv (mgnDroop_inv h2) h2
      · exact h2

theorem execCommandLineEdge_inv {a0 a1 a2 a3 a4 a5} {s6 : State} (k6 : Inv s6) : OutInv (execCommandLineEdge a0 a1 a2 a3 a4
    a5 s6) := by
  unfold execCommandLineEdge
  extract_lets -merge -useContext +onlyGivenNames x0
  have h0 : Inv x0 := advanceTo_inv k6
  clear_value x0
  extract_lets -merge -useContext +onlyGivenNames x1
  clear_value x1
  extract_lets -merge -useContext +onlyGivenNames x2
  clear_value x2
  split
  · exact next_inv h0
  · extract_lets -merge -useContext +onlyGivenNames x5
    have h5 : Inv x5 := edgeFire_inv (State.updLeg_inv h0)
    clear_value x5
    extract_lets -merge -useContext +onlyGivenNames x6
    clear_value x6
    exact next_inv (ite_inv h5 (turnOffMeasured_inv h5))

theorem drainEdges_inv {a0 a1 a2} {s3 : State} (k3 : Inv s3) : Inv (drainEdges a0 a1 a2 s3) := by
  unfold drainEdges
  extract_lets -merge -useContext +onlyGivenNames x0
  clear_value x0
  extract_lets -merge -useContext +onlyGivenNames x1
  clear_value x1
  extract_lets -merge -useContext +onlyGivenNames x2
  have h2 : Inv x2 := foldl_inv (fun t x ht => edgeFire_inv ht) k3
  clear_value x2
  exact State.updLeg_inv h2

theorem loadGroup_inv {a0 a1} {s2 : State} (k2 : Inv s2) : Inv (loadGroup a0 a1 s2) := by
  unfold loadGroup
  extract_lets -merge -useContext +onlyGivenNames x0
  clear_value x0
  extract_lets -merge -useContext +onlyGivenNames x1
  clear_value x1
  extract_lets -merge -useContext +onlyGivenNames x2
  clear_value x2
  extract_lets -merge -useContext +onlyGivenNames x3
  clear_value x3
  extract_lets -merge -useContext +onlyGivenNames x4
  clear_value x4
  extract_lets -merge -useContext +onlyGivenNames x5
  clear_value x5
  exact State.updPg_inv k2

theorem loadMap_inv {a0} {s1 : State} (k1 : Inv s1) : Inv (loadMap a0 s1) := by
  unfold loadMap
  extract_lets -merge -useContext +onlyGivenNames x0
  have h0 : Inv x0 := ite_inv (State.put_inv k1) k1
  clear_value x0
  exact State.updPg_inv h0

theorem nextPeriod_inv {a0} {s1 : State} (k1 : Inv s1) : Inv (nextPeriod a0 s1) := by
  unfold nextPeriod
  exact State.updPg_inv k1

theorem resumeLeg_inv {a0 a1 a2 a3} {s4 : State} (k4 : Inv s4) : Inv (resumeLeg a0 a1 a2 a3 s4) := by
  unfold resumeLeg
  extract_lets -merge -useContext +onlyGivenNames x0
  have h0 : Inv x0 := lineSet_inv (lineSet_inv k4)
  clear_value x0
  split
  · exact ite_inv (lineSet_inv h0) h0
  · exact h0
  · exact ite_inv (lineSet_inv h0) (lineSet_inv h0)

theorem legPeriod_inv {a0 a1 a2 a3 a4 a5} {s6 : State} (k6 : Inv s6) : Inv (legPeriod a0 a1 a2 a3 a4 a5 s6) := by
  unfold legPeriod
  lift_lets -merge -useContext -underBinder
  extract_lets -merge -useContext +onlyGivenNames x0
  clear_value x0
  extract_lets -merge -useContext +onlyGivenNames x1
  clear_value x1
  extract_lets -merge -useContext +onlyGivenNames x2
  clear_value x2
  extract_lets -merge -useContext +onlyGivenNames x3
  clear_value x3
  extract_lets -merge -useContext +onlyGivenNames x4
  clear_value x4
  extract_lets -merge -useContext +onlyGivenNames x5
  clear_value x5
  extract_lets -merge -useContext +onlyGivenNames x6
  clear_value x6
  extract_lets -merge -useContext +onlyGivenNames x7
  clear_value x7
  extract_lets -merge -useContext +onlyGivenNames x8
  have h8 : Inv x8 := State.setReg_inv k6
  clear_value x8
  extract_lets -merge -useContext +onlyGivenNames x9
  have h9 : Inv x9 := State.putB_inv (State.putB_inv (State.putB_inv h8))
  clear_value x9
  extract_lets -merge -useContext +onlyGivenNames x10
  have h10 : Inv x10 := State.putS_inv (State.put_inv (State.putB_inv h9))
  clear_value x10
  extract_lets -merge -useContext +onlyGivenNames x11
  have h11 : Inv x11 := evcCount_inv (evcCount_inv h10)
  clear_value x11
  extract_lets -merge -useContext +onlyGivenNames x12
  have h12 : Inv x12 := State.updLeg_inv h11
  clear_value x12
  extract_lets -merge -useContext +onlyGivenNames x13
  have h13 : Inv x13 := ite_inv (resumeLeg_inv h12) h12
  clear_value x13
  extract_lets -merge -useContext +onlyGivenNames x14
  clear_value x14
  exact ite_inv h12 (State.updLeg_inv h13)

theorem periodStart_inv {a0 a1} {s2 : State} (k2 : Inv s2) : Inv (periodStart a0 a1 s2) := by
  unfold periodStart
  extract_lets -merge -useContext +onlyGivenNames x0
  clear_value x0
  extract_lets -merge -useContext +onlyGivenNames x1
  have h1 : Inv x1 := nextPeriod_inv (loadGroup_inv k2)
  clear_value x1
  extract_lets -merge -useContext +onlyGivenNames x2
  clear_value x2
  extract_lets -merge -useContext +onlyGivenNames x3
  clear_value x3
  extract_lets -merge -useContext +onlyGivenNames x4
  clear_value x4
  extract_lets -merge -useContext +onlyGivenNames x5
  clear_value x5
  extract_lets -merge -useContext +onlyGivenNames x6
  have h6 : Inv x6 := State.updPg_inv h1
  clear_value x6
  extract_lets -merge -useContext +onlyGivenNames x7
  have h7 : Inv x7 := ite_inv h6 (State.put_inv h6)
  clear_value x7
  exact forAll_inv (fun y8_0 y8_1 g8_1 => legPeriod_inv g8_1) h7

theorem writesBefore_inv {a0} {s1 : State} (k1 : Inv s1) : Inv (writesBefore a0 s1) := by
  unfold writesBefore
  lift_lets -merge -useContext -underBinder
  extract_lets -merge -useContext +onlyGivenNames x0
  clear_value x0
  extract_lets -merge -useContext +onlyGivenNames x1
  clear_value x1
  extract_lets -merge -useContext +onlyGivenNames x2
  have h2 : Inv x2 := inv_mk k1
  clear_value x2
  exact forAll_inv (fun y3_0 y3_1 g3_1 => State.updLeg_inv g3_1) h2

theorem groupEnable_inv {a0} {s1 : State} (k1 : Inv s1) : Inv (groupEnable a0 s1) := by
  unfold groupEnable
  refine ite_inv ?_ ?_
  · exact k1
  · extract_lets -merge -useContext +onlyGivenNames x0
    have h0 : Inv x0 := writesBefore_inv k1
    clear_value x0
    extract_lets -merge -useContext +onlyGivenNames x1
    have h1 : Inv x1 := State.put_inv (State.put_inv h0)
    clear_value x1
    extract_lets -merge -useContext +onlyGivenNames x2
    clear_value x2
    extract_lets -merge -useContext +onlyGivenNames x3
    have h3 : Inv x3 := State.updPg_inv h1
    clear_value x3
    exact settle_inv (periodStart_inv (forAll_inv (fun y4_0 y4_1 g4_1 => State.updLeg_inv (State.put_inv g4_1)) h3))

theorem execPwmGroupEnable_inv {a0} {s1 : State} (k1 : Inv s1) : OutInv (execPwmGroupEnable a0 s1) := by
  unfold execPwmGroupEnable
  exact next_inv (groupEnable_inv k1)

theorem groupDisable_inv {a0} {s1 : State} (k1 : Inv s1) : Inv (groupDisable a0 s1) := by
  unfold groupDisable
  extract_lets -merge -useContext +onlyGivenNames x0
  have h0 : Inv x0 := linesLow_inv (State.put_inv (State.put_inv k1))
  clear_value x0
  exact settle_inv (boundaryRelease_inv h0)

theorem execPwmGroupDisable_inv {a0} {s1 : State} (k1 : Inv s1) : OutInv (execPwmGroupDisable a0 s1) := by
  unfold execPwmGroupDisable
  exact next_inv (groupDisable_inv k1)

theorem valleyPulse_inv {a0} {s1 : State} (k1 : Inv s1) : Inv (valleyPulse a0 s1) := by
  unfold valleyPulse
  exact State.updPg_inv k1

theorem syncEvent_inv {a0 a1} {s2 : State} (k2 : Inv s2) : Inv (syncEvent a0 a1 s2) := by
  unfold syncEvent
  extract_lets -merge -useContext +onlyGivenNames x0
  clear_value x0
  extract_lets -merge -useContext +onlyGivenNames x1
  clear_value x1
  extract_lets -merge -useContext +onlyGivenNames x2
  clear_value x2
  extract_lets -merge -useContext +onlyGivenNames x3
  have h3 : Inv x3 := State.putS_inv k2
  clear_value x3
  extract_lets -merge -useContext +onlyGivenNames x4
  have h4 : Inv x4 := State.updPg_inv h3
  clear_value x4
  exact ite_inv (ite_inv (State.put_inv h4) h4) (State.put_inv h4)

theorem execSyncReferenceEvent_inv {a0 a1} {s2 : State} (k2 : Inv s2) : OutInv (execSyncReferenceEvent a0 a1 s2) := by
  unfold execSyncReferenceEvent
  split
  · exact next_inv k2
  · extract_lets -merge -useContext +onlyGivenNames x2
    have h2 : Inv x2 := syncEvent_inv k2
    clear_value x2
    exact next_inv (ite_inv (State.updPg_inv h2) h2)

theorem syncLost_inv {a0} {s1 : State} (k1 : Inv s1) : Inv (syncLost a0 s1) := by
  unfold syncLost
  extract_lets -merge -useContext +onlyGivenNames x0
  have h0 : Inv x0 := State.updPg_inv (State.put_inv (State.put_inv k1))
  clear_value x0
  exact ite_inv (icuEvent_inv h0) h0

theorem execSyncReferenceLoss_inv {a0} {s1 : State} (k1 : Inv s1) : OutInv (execSyncReferenceLoss a0 s1) := by
  unfold execSyncReferenceLoss
  exact ite_out (next_inv (syncLost_inv k1)) (next_inv k1)

theorem syncRingLost_inv {s0 : State} (k0 : Inv s0) : Inv (syncRingLost s0) := by
  unfold syncRingLost
  exact forAll_inv (fun y0_0 y0_1 g0_1 => ite_inv (syncLost_inv g0_1) g0_1) k0

theorem syncCycleStart_inv {s0 : State} (k0 : Inv s0) : Inv (syncCycleStart s0) := by
  unfold syncCycleStart
  exact forAll_inv (fun y0_0 y0_1 g0_1 => State.updPg_inv g0_1) k0

theorem coarseNow_inv {a0} {s1 : State} (k1 : Inv s1) : Inv (coarseNow a0 s1) := by
  unfold coarseNow
  extract_lets -merge -useContext +onlyGivenNames x0
  have h0 : Inv x0 := State.updPg_inv k1
  clear_value x0
  extract_lets -merge -useContext +onlyGivenNames x1
  clear_value x1
  exact forAll_inv (fun y2_0 y2_1 g2_1 => State.updLeg_inv g2_1) h0

theorem calibrate_inv {a0 a1} {s2 : State} (k2 : Inv s2) : Inv (calibrate a0 a1 s2) := by
  unfold calibrate
  extract_lets -merge -useContext +onlyGivenNames x0
  have h0 : Inv x0 := State.put_inv k2
  clear_value x0
  exact ite_inv (State.updPg_inv (ite_inv (State.put_inv h0) h0)) (ite_inv h0 (sendRaise_inv (coarseNow_inv (State.put_inv
      (State.put_inv h0)))))

theorem execDelayLineCalibration_inv {a0 a1} {s2 : State} (k2 : Inv s2) : OutInv (execDelayLineCalibration a0 a1 s2) := by
  unfold execDelayLineCalibration
  split
  · exact next_inv (calibrate_inv (injPop_inv k2))
  · exact next_inv (calibrate_inv k2)

theorem fltActive_inv {a0} {s1 : State} (k1 : Inv s1) : Inv (fltActive a0 s1) := by
  unfold fltActive
  refine ite_inv ?_ ?_
  · exact k1
  · lift_lets -merge -useContext -underBinder
    extract_lets -merge -useContext +onlyGivenNames x0
    have h0 : Inv x0 := State.putBit_inv k1
    clear_value x0
    extract_lets -merge -useContext +onlyGivenNames x1
    clear_value x1
    extract_lets -merge -useContext +onlyGivenNames x2
    have h2 : Inv x2 := forAll_inv (fun y3_0 y3_1 g3_1 => linesLow_inv g3_1) (State.putBit_inv h0)
    clear_value x2
    extract_lets -merge -useContext +onlyGivenNames x4
    have h4 : Inv x4 := forAll_inv (fun y5_0 y5_1 g5_1 => icuEvent_inv g5_1) (settleTripped_inv h2)
    clear_value x4
    exact ite_inv (sendRaise_inv h4) h0

theorem execFltActive_inv {a0 a1 a2 a3} {s4 : State} (k4 : Inv s4) : OutInv (execFltActive a0 a1 a2 a3 s4) := by
  unfold execFltActive
  extract_lets -merge -useContext +onlyGivenNames x0
  have h0 : Inv x0 := advanceTo_inv k4
  clear_value x0
  exact next_inv (ite_inv (fltActive_inv h0) h0)

theorem execFltInactive_inv {a0 a1 a2 a3} {s4 : State} (k4 : Inv s4) : OutInv (execFltInactive a0 a1 a2 a3 s4) := by
  unfold execFltInactive
  extract_lets -merge -useContext +onlyGivenNames x0
  have h0 : Inv x0 := advanceTo_inv k4
  clear_value x0
  exact next_inv (ite_inv (State.putBit_inv h0) h0)

theorem tripClearOne_inv {a0} {s1 : State} (k1 : Inv s1) : Inv (tripClearOne a0 s1) := by
  unfold tripClearOne
  exact ite_inv k1 (ite_inv (State.bump_inv (State.put_inv k1)) (State.putBit_inv k1))

theorem tripClear_inv {a0} {s1 : State} (k1 : Inv s1) : Inv (tripClear a0 s1) := by
  unfold tripClear
  exact settleTripped_inv (forAll_inv (fun y0_0 y0_1 g0_1 => tripClearOne_inv g0_1) k1)

theorem execTripClear_inv {a0} {s1 : State} (k1 : Inv s1) : OutInv (execTripClear a0 s1) := by
  unfold execTripClear
  exact next_inv (tripClear_inv k1)

theorem fltcfgWrite_inv {a0 a1} {s2 : State} (k2 : Inv s2) : Inv (fltcfgWrite a0 a1 s2) := by
  unfold fltcfgWrite
  exact ite_inv (State.put_inv k2) (State.setReg_inv k2)

theorem execFltcfgWrite_inv {a0 a1} {s2 : State} (k2 : Inv s2) : OutInv (execFltcfgWrite a0 a1 s2) := by
  unfold execFltcfgWrite
  exact next_inv (fltcfgWrite_inv k2)

theorem fltcntClear_inv {a0} {s1 : State} (k1 : Inv s1) : Inv (fltcntClear a0 s1) := by
  unfold fltcntClear
  exact State.put_inv (State.put_inv k1)

theorem execFltcntClr_inv {a0} {s1 : State} (k1 : Inv s1) : OutInv (execFltcntClr a0 s1) := by
  unfold execFltcntClr
  exact next_inv (fltcntClear_inv k1)

theorem execFltAbsorbedToggle_inv {a0 a1 a2 a3} {s4 : State} (k4 : Inv s4) : OutInv (execFltAbsorbedToggle a0 a1 a2 a3 s4)
    := by
  unfold execFltAbsorbedToggle
  extract_lets -merge -useContext +onlyGivenNames x0
  have h0 : Inv x0 := advanceTo_inv k4
  clear_value x0
  exact next_inv (ite_inv (evcCount_inv (State.bump_inv h0)) h0)

theorem leadgrpWrite_inv {a0} {s1 : State} (k1 : Inv s1) : Inv (leadgrpWrite a0 s1) := by
  unfold leadgrpWrite
  exact leadBlock_inv (State.put_inv k1)

theorem execLeadgrpWrite_inv {a0} {s1 : State} (k1 : Inv s1) : OutInv (execLeadgrpWrite a0 s1) := by
  unfold execLeadgrpWrite
  exact next_inv (leadgrpWrite_inv k1)

theorem debugLines_inv {s0 : State} (k0 : Inv s0) : Inv (debugLines s0) := by
  unfold debugLines
  exact forAll_inv (fun y0_0 y0_1 g0_1 => linesLow_inv g0_1) (State.put_inv k0)

end Sys2Proof.Machine
end

