-- ==== Sys2Proof/Laws/InvAdc.lean ====
section
/-! SUPPORT. The operations of Machine/Adc.lean keep `Inv`. -/

namespace Sys2Proof.Machine

theorem seqcfgWrite_inv {a0 a1} {s2 : State} (k2 : Inv s2) : Inv (seqcfgWrite a0 a1 s2) := by
  unfold seqcfgWrite
  extract_lets -merge -useContext +onlyGivenNames x0
  clear_value x0
  exact State.setReg_inv (State.updConv_inv k2)

theorem predicted_inv {a0 a1} {s2 : State} (k2 : Inv s2) : Inv (predicted a0 a1 s2) := by
  unfold predicted
  extract_lets -merge -useContext +onlyGivenNames x0
  have h0 : Inv x0 := State.put_inv (State.put_inv k2)
  clear_value x0
  exact ite_inv (sendRaise_inv (State.updConv_inv (State.put_inv h0))) h0

theorem classify_inv {a0 a1} {s2 : State} (k2 : Inv s2) : Inv (classify a0 a1 s2) := by
  unfold classify
  extract_lets -merge -useContext +onlyGivenNames x0
  have h0 : Inv x0 := ite_inv k2 (ite_inv (evcCount_inv (State.bump_inv k2)) (evcCount_inv (State.bump_inv k2)))
  clear_value x0
  extract_lets -merge -useContext +onlyGivenNames x1
  clear_value x1
  extract_lets -merge -useContext +onlyGivenNames x2
  clear_value x2
  extract_lets -merge -useContext +onlyGivenNames x3
  have h3 : Inv x3 := State.updConv_inv (ite_inv (injPop_inv h0) h0)
  clear_value x3
  exact predicted_inv h3

theorem ronMeasure_inv {a0 a1 a2 a3 a4 a5} {s6 : State} (k6 : Inv s6) : Inv (ronMeasure a0 a1 a2 a3 a4 a5 s6) := by
  unfold ronMeasure
  extract_lets -merge -useContext +onlyGivenNames x0
  clear_value x0
  extract_lets -merge -useContext +onlyGivenNames x1
  clear_value x1
  extract_lets -merge -useContext +onlyGivenNames x2
  clear_value x2
  extract_lets -merge -useContext +onlyGivenNames x3
  clear_value x3
  extract_lets -merge -useContext +onlyGivenNames x4
  have h4 : Inv x4 := by
    refine ite_inv ?_ ?_
    · split
      · exact mgnRon_inv k6
      · exact k6
    · exact k6
  clear_value x4
  refine ite_inv ?_ ?_
  · split
    · exact mgnRon_inv h4
    · exact h4
  · exact h4

theorem sampleEnd_inv {a0} {s1 : State} (k1 : Inv s1) : Inv (sampleEnd a0 s1) := by
  unfold sampleEnd
  split
  · exact k1
  · extract_lets -merge -useContext +onlyGivenNames x2
    have h2 : Inv x2 := State.updConv_inv k1
    clear_value x2
    extract_lets -merge -useContext +onlyGivenNames x3
    have h3 : Inv x3 := by
      refine forAll_inv (fun y4_0 y4_1 g4_1 => ?_) ?_
      · extract_lets -merge -useContext +onlyGivenNames x5
        clear_value x5
        exact ite_inv (State.putBit_inv g4_1) g4_1
      · exact h2
    clear_value x3
    extract_lets -merge -useContext +onlyGivenNames x6
    have h6 : Inv x6 := classify_inv h3
    clear_value x6
    extract_lets -merge -useContext +onlyGivenNames x7
    have h7 : Inv x7 := forAll_inv (fun y8_0 y8_1 g8_1 => ronMeasure_inv g8_1) h6
    clear_value x7
    exact State.updConv_inv h7

theorem adcSample_inv {a0 a1 a2 a3 a4 a5} {s6 : State} (k6 : Inv s6) : Inv (adcSample a0 a1 a2 a3 a4 a5 s6) := by
  unfold adcSample
  lift_lets -merge -useContext -underBinder
  extract_lets -merge -useContext +onlyGivenNames x0
  have h0 : Inv x0 := sampleEnd_inv k6
  clear_value x0
  extract_lets -merge -useContext +onlyGivenNames x1
  clear_value x1
  extract_lets -merge -useContext +onlyGivenNames x2
  clear_value x2
  extract_lets -merge -useContext +onlyGivenNames x3
  clear_value x3
  extract_lets -merge -useContext +onlyGivenNames x4
  clear_value x4
  extract_lets -merge -useContext +onlyGivenNames x5
  clear_value x5
  exact ite_inv (State.updConv_inv h0) (State.updConv_inv h0)

theorem valley_inv {a0 a1 a2 a3 a4} {s5 : State} (k5 : Inv s5) : Inv (valley a0 a1 a2 a3 a4 s5) := by
  unfold valley
  extract_lets -merge -useContext +onlyGivenNames x0
  clear_value x0
  extract_lets -merge -useContext +onlyGivenNames x1
  have h1 : Inv x1 := forAll_inv (fun y2_0 y2_1 g2_1 => drainEdges_inv g2_1) k5
  clear_value x1
  extract_lets -merge -useContext +onlyGivenNames x3
  clear_value x3
  extract_lets -merge -useContext +onlyGivenNames x4
  have h4 : Inv x4 := valleyPulse_inv (State.updPg_inv h1)
  clear_value x4
  extract_lets -merge -useContext +onlyGivenNames x5
  have h5 : Inv x5 := boundaryRelease_inv h4
  clear_value x5
  extract_lets -merge -useContext +onlyGivenNames x6
  have h6 : Inv x6 := periodStart_inv (loadMap_inv (deadline_inv h5))
  clear_value x6
  extract_lets -merge -useContext +onlyGivenNames x7
  have h7 : Inv x7 := present_inv (icuEvent_inv h6)
  clear_value x7
  exact adcSample_inv h7

theorem execPwmValley_inv {a0 a1 a2 a3 a4} {s5 : State} (k5 : Inv s5) : OutInv (execPwmValley a0 a1 a2 a3 a4 s5) := by
  unfold execPwmValley
  extract_lets -merge -useContext +onlyGivenNames x0
  have h0 : Inv x0 := advanceTo_inv k5
  clear_value x0
  exact ite_out (next_inv (valley_inv h0)) (next_inv h0)

theorem execAdcSequenceComplete_inv {a0 a1} {s2 : State} (k2 : Inv s2) : OutInv (execAdcSequenceComplete a0 a1 s2) := by
  unfold execAdcSequenceComplete
  split
  · exact next_inv k2
  · lift_lets -merge -useContext -underBinder
    extract_lets -merge -useContext +onlyGivenNames x2
    have h2 : Inv x2 := sampleEnd_inv k2
    clear_value x2
    extract_lets -merge -useContext +onlyGivenNames x3
    have h3 : Inv x3 := ite_inv h2 (icuEvent_inv (State.put_inv h2))
    clear_value x3
    extract_lets -merge -useContext +onlyGivenNames x4
    have h4 : Inv x4 := evcCount_inv (State.bump_inv h3)
    clear_value x4
    extract_lets -merge -useContext +onlyGivenNames x5
    have h5 : Inv x5 := State.updConv_inv h4
    clear_value x5
    exact ite_out (next_inv (present_inv (icuEvent_inv h5))) (next_inv h2)

theorem adcStatClear_inv {a0} {s1 : State} (k1 : Inv s1) : Inv (adcStatClear a0 s1) := by
  unfold adcStatClear
  exact State.setReg_inv (State.put_inv (State.put_inv k1))

theorem zxStart_inv {a0} {s1 : State} (k1 : Inv s1) : Inv (zxStart a0 s1) := by
  unfold zxStart
  exact ite_inv (State.updConv_inv (State.put_inv (State.put_inv k1))) k1

theorem zxResult_inv {a0 a1 a2 a3 a4 a5} {s6 : State} (k6 : Inv s6) : Inv (zxResult a0 a1 a2 a3 a4 a5 s6) := by
  unfold zxResult
  extract_lets -merge -useContext +onlyGivenNames x0
  have h0 : Inv x0 := zxStop_inv (State.putB_inv (State.put_inv k6))
  clear_value x0
  extract_lets -merge -useContext +onlyGivenNames x1
  have h1 : Inv x1 := State.put_inv (State.put_inv (State.put_inv h0))
  clear_value x1
  exact State.put_inv (State.put_inv h1)

theorem zxEdge_inv {a0 a1 a2} {s3 : State} (k3 : Inv s3) : Inv (zxEdge a0 a1 a2 s3) := by
  unfold zxEdge
  extract_lets -merge -useContext +onlyGivenNames x0
  have h0 : Inv x0 := State.updConv_inv k3
  clear_value x0
  split
  · exact h0
  · extract_lets -merge -useContext +onlyGivenNames x3
    clear_value x3
    exact ite_inv (State.updConv_inv k3) h0
  · extract_lets -merge -useContext +onlyGivenNames x5
    extract_lets -merge -useContext +onlyGivenNames x6
    extract_lets -merge -useContext +onlyGivenNames x7
    exact ite_inv (zxResult_inv k3) h0

theorem execBemfEdge_inv {a0 a1 a2} {s3 : State} (k3 : Inv s3) : OutInv (execBemfEdge a0 a1 a2 s3) := by
  unfold execBemfEdge
  extract_lets -merge -useContext +onlyGivenNames x0
  have h0 : Inv x0 := advanceTo_inv k3
  clear_value x0
  extract_lets -merge -useContext +onlyGivenNames x1
  have h1 : Inv x1 := ite_inv (speedEdge_inv h0) h0
  clear_value x1
  exact next_inv (ite_inv h1 (ite_inv (zxEdge_inv h1) h1))

theorem execZxTimeout_inv {a0} {s1 : State} (k1 : Inv s1) : OutInv (execZxTimeout a0 s1) := by
  unfold execZxTimeout
  exact next_inv (ite_inv (zxStop_inv (State.put_inv (State.put_inv k1))) k1)

end Sys2Proof.Machine
end

