-- ==== Sys2Proof/Laws/InvFbk.lean ====
section
/-! SUPPORT. The operations of Machine/Fbk.lean keep `Inv`. -/

namespace Sys2Proof.Machine

theorem State.updFb_inv {s0 : State} {a1 a2} (k0 : Inv s0) : Inv (State.updFb s0 a1 a2) := by
  unfold State.updFb
  exact inv_mk k0

theorem settleFbk_inv {a0} {s1 : State} (k1 : Inv s1) : Inv (settleFbk a0 s1) := by
  unfold settleFbk
  extract_lets -merge -useContext +onlyGivenNames x0
  clear_value x0
  extract_lets -merge -useContext +onlyGivenNames x1
  clear_value x1
  exact icuSetLine_inv k1

theorem fbRaise_inv {a0} {s1 : State} (k1 : Inv s1) : Inv (fbRaise a0 s1) := by
  unfold fbRaise
  exact sendRaise_inv k1

theorem svFall_inv {a0} {s1 : State} (k1 : Inv s1) : Inv (svFall a0 s1) := by
  unfold svFall
  exact State.updFb_inv k1

theorem svStep_inv {a0 a1} {s2 : State} (k2 : Inv s2) : Inv (svStep a0 a1 s2) := by
  unfold svStep
  refine ite_inv ?_ ?_
  · extract_lets -merge -useContext +onlyGivenNames x0
    clear_value x0
    extract_lets -merge -useContext +onlyGivenNames x1
    have h1 : Inv x1 := State.updFb_inv k2
    clear_value x1
    exact ite_inv (State.put_inv (State.updFb_inv h1)) h1
  · exact k2

theorem noteStep_inv {a0 a1 a2} {s3 : State} (k3 : Inv s3) : Inv (noteStep a0 a1 a2 s3) := by
  unfold noteStep
  exact inv_mk k3

theorem counterStep_inv {a0 a1 a2} {s3 : State} (k3 : Inv s3) : Inv (counterStep a0 a1 a2 s3) := by
  unfold counterStep
  extract_lets -merge -useContext +onlyGivenNames x0
  clear_value x0
  extract_lets -merge -useContext +onlyGivenNames x1
  have h1 : Inv x1 := State.put_inv k3
  clear_value x1
  exact ite_inv (State.put_inv h1) h1

theorem counterMove_inv {a0 a1 a2} {s3 : State} (k3 : Inv s3) : Inv (counterMove a0 a1 a2 s3) := by
  unfold counterMove
  extract_lets -merge -useContext +onlyGivenNames x0
  have h0 : Inv x0 := counterStep_inv k3
  clear_value x0
  exact noteStep_inv h0

theorem counterWrite_inv {a0 a1 a2} {s3 : State} (k3 : Inv s3) : Inv (counterWrite a0 a1 a2 s3) := by
  unfold counterWrite
  extract_lets -merge -useContext +onlyGivenNames x0
  clear_value x0
  extract_lets -merge -useContext +onlyGivenNames x1
  have h1 : Inv x1 := ite_inv (State.put_inv k3) k3
  clear_value x1
  exact counterStep_inv (State.put_inv h1)

theorem cntMove_inv {a0 a1} {s2 : State} (k2 : Inv s2) : Inv (cntMove a0 a1 s2) := by
  unfold cntMove
  exact counterMove_inv k2

theorem qcntMove_inv {a0 a1} {s2 : State} (k2 : Inv s2) : Inv (qcntMove a0 a1 s2) := by
  unfold qcntMove
  extract_lets -merge -useContext +onlyGivenNames x0
  clear_value x0
  exact State.updFb_inv (counterMove_inv k2)

theorem mcntStep_inv {a0 a1} {s2 : State} (k2 : Inv s2) : Inv (mcntStep a0 a1 s2) := by
  unfold mcntStep
  exact State.put_inv k2

theorem mcntMove_inv {a0 a1} {s2 : State} (k2 : Inv s2) : Inv (mcntMove a0 a1 s2) := by
  unfold mcntMove
  exact noteStep_inv (mcntStep_inv k2)

theorem cntWrite_inv {a0 a1} {s2 : State} (k2 : Inv s2) : Inv (cntWrite a0 a1 s2) := by
  unfold cntWrite
  exact ite_inv k2 (counterWrite_inv k2)

theorem mcntWrite_inv {a0 a1} {s2 : State} (k2 : Inv s2) : Inv (mcntWrite a0 a1 s2) := by
  unfold mcntWrite
  extract_lets -merge -useContext +onlyGivenNames x0
  have h0 : Inv x0 := ite_inv (State.put_inv k2) k2
  clear_value x0
  exact ite_inv h0 (mcntStep_inv (State.put_inv h0))

theorem toothEvent_inv {a0 a1 a2} {s3 : State} (k3 : Inv s3) : Inv (toothEvent a0 a1 a2 s3) := by
  unfold toothEvent
  exact fbRaise_inv (State.bump_inv (State.put_inv k3))

theorem unclass_inv {a0} {s1 : State} (k1 : Inv s1) : Inv (unclass a0 s1) := by
  unfold unclass
  exact toothEvent_inv k1

theorem defect_inv {a0 a1} {s2 : State} (k2 : Inv s2) : Inv (defect a0 a1 s2) := by
  unfold defect
  exact ite_inv (toothEvent_inv k2) (toothEvent_inv k2)

theorem unexp_inv {a0 a1} {s2 : State} (k2 : Inv s2) : Inv (unexp a0 a1 s2) := by
  unfold unexp
  exact toothEvent_inv (State.updFb_inv k2)

theorem refEdge_inv {a0 a1} {s2 : State} (k2 : Inv s2) : Inv (refEdge a0 a1 s2) := by
  unfold refEdge
  lift_lets -merge -useContext -underBinder
  extract_lets -merge -useContext +onlyGivenNames x0
  have h0 : Inv x0 := State.updFb_inv (State.put_inv k2)
  clear_value x0
  extract_lets -merge -useContext +onlyGivenNames x1
  clear_value x1
  extract_lets -merge -useContext +onlyGivenNames x2
  have h2 : Inv x2 := State.put_inv (State.put_inv h0)
  clear_value x2
  exact ite_inv (State.putB_inv (State.put_inv h2)) h0

theorem reReference_inv {a0 a1} {s2 : State} (k2 : Inv s2) : Inv (reReference a0 a1 s2) := by
  unfold reReference
  exact noteStep_inv (State.put_inv k2)

theorem classEdge_inv {a0 a1 a2 a3} {s4 : State} (k4 : Inv s4) : Inv (classEdge a0 a1 a2 a3 s4) := by
  unfold classEdge
  lift_lets -merge -useContext -underBinder
  extract_lets -merge -useContext +onlyGivenNames x0
  clear_value x0
  extract_lets -merge -useContext +onlyGivenNames x1
  clear_value x1
  extract_lets -merge -useContext +onlyGivenNames x2
  clear_value x2
  extract_lets -merge -useContext +onlyGivenNames x3
  clear_value x3
  extract_lets -merge -useContext +onlyGivenNames x4
  have h4 : Inv x4 := ite_inv k4 (cntMove_inv k4)
  clear_value x4
  extract_lets -merge -useContext +onlyGivenNames x5
  clear_value x5
  extract_lets -merge -useContext +onlyGivenNames x6
  have h6 : Inv x6 := toothEvent_inv (State.updFb_inv h4)
  clear_value x6
  exact ite_inv (ite_inv (ite_inv (State.put_inv (State.put_inv h6)) h6) h4) (ite_inv (defect_inv h4) (ite_inv (ite_inv
      (refEdge_inv h4) (ite_inv (cntMove_inv (reReference_inv (unexp_inv h4))) (defect_inv h4))) (ite_inv (ite_inv
      (refEdge_inv (State.put_inv h4)) (unexp_inv (reReference_inv (State.put_inv h4)))) (refEdge_inv (reReference_inv
      (State.put_inv h4))))))

theorem markEdge_inv {a0 a1 a2 a3} {s4 : State} (k4 : Inv s4) : Inv (markEdge a0 a1 a2 a3 s4) := by
  unfold markEdge
  extract_lets -merge -useContext +onlyGivenNames x0
  clear_value x0
  extract_lets -merge -useContext +onlyGivenNames x1
  clear_value x1
  extract_lets -merge -useContext +onlyGivenNames x2
  have h2 : Inv x2 := mcntMove_inv k4
  clear_value x2
  extract_lets -merge -useContext +onlyGivenNames x3
  have h3 : Inv x3 := State.put_inv (State.put_inv h2)
  clear_value x3
  extract_lets -merge -useContext +onlyGivenNames x4
  clear_value x4
  extract_lets -merge -useContext +onlyGivenNames x5
  have h5 : Inv x5 := State.updFb_inv h3
  clear_value x5
  exact svStep_inv h5

theorem countEdge_inv {a0 a1 a2 a3} {s4 : State} (k4 : Inv s4) : Inv (countEdge a0 a1 a2 a3 s4) := by
  unfold countEdge
  exact cntMove_inv (markEdge_inv k4)

theorem classed_inv {a0 a1 a2 a3 a4} {s5 : State} (k5 : Inv s5) : Inv (classed a0 a1 a2 a3 a4 s5) := by
  unfold classed
  exact classEdge_inv (markEdge_inv k5)

theorem firstEdge_inv {a0} {s1 : State} (k1 : Inv s1) : Inv (firstEdge a0 s1) := by
  unfold firstEdge
  exact State.updFb_inv k1

theorem gateOut_inv {a0} {s1 : State} (k1 : Inv s1) : Inv (gateOut a0 s1) := by
  unfold gateOut
  exact State.updFb_inv (State.put_inv k1)

theorem looseEdge_inv {a0 a1 a2} {s3 : State} (k3 : Inv s3) : Inv (looseEdge a0 a1 a2 s3) := by
  unfold looseEdge
  extract_lets -merge -useContext +onlyGivenNames x0
  clear_value x0
  extract_lets -merge -useContext +onlyGivenNames x1
  clear_value x1
  extract_lets -merge -useContext +onlyGivenNames x2
  have h2 : Inv x2 := countEdge_inv k3
  clear_value x2
  extract_lets -merge -useContext +onlyGivenNames x3
  have h3 : Inv x3 := ite_inv h2 (firstEdge_inv h2)
  clear_value x3
  split
  · exact ite_inv (State.updFb_inv (State.put_inv h3)) h3
  · exact h3

theorem oddEdge_inv {a0 a1 a2} {s3 : State} (k3 : Inv s3) : Inv (oddEdge a0 a1 a2 s3) := by
  unfold oddEdge
  extract_lets -merge -useContext +onlyGivenNames x0
  clear_value x0
  extract_lets -merge -useContext +onlyGivenNames x1
  have h1 : Inv x1 := by
    unfold x1
    split
    · exact unclass_inv (countEdge_inv k3)
    · exact k3
  clear_value x1
  exact gateOut_inv (unclass_inv (countEdge_inv h1))

theorem gatedEdge_inv {a0 a1 a2} {s3 : State} (k3 : Inv s3) : Inv (gatedEdge a0 a1 a2 s3) := by
  unfold gatedEdge
  extract_lets -merge -useContext +onlyGivenNames x0
  clear_value x0
  extract_lets -merge -useContext +onlyGivenNames x1
  clear_value x1
  refine ite_inv ?_ ?_
  · split
    · exact oddEdge_inv k3
    · exact firstEdge_inv (countEdge_inv (gateOut_inv k3))
  · split
    · refine ite_inv ?_ ?_
      · extract_lets -merge -useContext +onlyGivenNames x5
        have h5 : Inv x5 := State.updFb_inv k3
        clear_value x5
        exact classed_inv h5
      · exact oddEdge_inv k3
    · refine ite_inv ?_ ?_
      · exact classed_inv (State.updFb_inv k3)
      · refine ite_inv ?_ ?_
        · exact classed_inv (State.updFb_inv k3)
        · refine ite_inv ?_ ?_
          · extract_lets -merge -useContext +onlyGivenNames x7
            clear_value x7
            exact State.updFb_inv (State.put_inv k3)
          · exact oddEdge_inv k3

theorem pulseEdge_inv {a0} {s1 : State} (k1 : Inv s1) : Inv (pulseEdge a0 s1) := by
  unfold pulseEdge
  extract_lets -merge -useContext +onlyGivenNames x0
  clear_value x0
  extract_lets -merge -useContext +onlyGivenNames x1
  clear_value x1
  extract_lets -merge -useContext +onlyGivenNames x2
  have h2 : Inv x2 := evcCount_inv k1
  clear_value x2
  exact settleFbk_inv (ite_inv (gatedEdge_inv h2) (looseEdge_inv h2))

theorem sampledNow_inv {a0} {s1 : State} (k1 : Inv s1) : Inv (sampledNow a0 s1) := by
  unfold sampledNow
  exact inv_mk k1

theorem execPulseTrainEdge_inv {a0 a1} {s2 : State} (k2 : Inv s2) : OutInv (execPulseTrainEdge a0 a1 s2) := by
  unfold execPulseTrainEdge
  extract_lets -merge -useContext +onlyGivenNames x0
  have h0 : Inv x0 := advanceTo_inv k2
  clear_value x0
  exact ite_out (next_inv (sampledNow_inv (pulseEdge_inv h0))) (next_inv h0)

theorem heldOut_inv {a0} {s1 : State} (k1 : Inv s1) : Inv (heldOut a0 s1) := by
  unfold heldOut
  extract_lets -merge -useContext +onlyGivenNames x0
  clear_value x0
  split
  · exact k1
  · exact settleFbk_inv (State.updFb_inv (gateOut_inv (unclass_inv (countEdge_inv k1))))

theorem execHeldEdgeTimeout_inv {a0 a1} {s2 : State} (k2 : Inv s2) : OutInv (execHeldEdgeTimeout a0 a1 s2) := by
  unfold execHeldEdgeTimeout
  exact next_inv (heldOut_inv (advanceTo_inv k2))

theorem execGateOutTimeout_inv {a0} {s1 : State} (k1 : Inv s1) : OutInv (execGateOutTimeout a0 s1) := by
  unfold execGateOutTimeout
  exact ite_out (next_inv (gateOut_inv (heldOut_inv k1))) (next_inv k1)

theorem evcntClear_inv {a0} {s1 : State} (k1 : Inv s1) : Inv (evcntClear a0 s1) := by
  unfold evcntClear
  exact State.setReg_inv (State.setReg_inv k1)

theorem execFbkEvcntClr_inv {a0} {s1 : State} (k1 : Inv s1) : OutInv (execFbkEvcntClr a0 s1) := by
  unfold execFbkEvcntClr
  exact next_inv (evcntClear_inv k1)

theorem idxArm_inv {a0} {s1 : State} (k1 : Inv s1) : Inv (idxArm a0 s1) := by
  unfold idxArm
  exact ite_inv k1 (ite_inv (State.put_inv k1) (State.put_inv k1))

theorem execIdxArm_inv {a0} {s1 : State} (k1 : Inv s1) : OutInv (execIdxArm a0 s1) := by
  unfold execIdxArm
  exact next_inv (idxArm_inv k1)

theorem legalStep_inv {a0 a1 a2} {s3 : State} (k3 : Inv s3) : Inv (legalStep a0 a1 a2 s3) := by
  unfold legalStep
  extract_lets -merge -useContext +onlyGivenNames x0
  have h0 : Inv x0 := qcntMove_inv k3
  clear_value x0
  extract_lets -merge -useContext +onlyGivenNames x1
  have h1 : Inv x1 := State.updFb_inv h0
  clear_value x1
  exact svStep_inv h1

theorem illegalStep_inv {a0 a1} {s2 : State} (k2 : Inv s2) : Inv (illegalStep a0 a1 s2) := by
  unfold illegalStep
  extract_lets -merge -useContext +onlyGivenNames x0
  have h0 : Inv x0 := State.put_inv (State.put_inv (State.bump_inv k2))
  clear_value x0
  exact fbRaise_inv (State.updFb_inv h0)

theorem quadSample_inv {a0 a1 a2} {s3 : State} (k3 : Inv s3) : Inv (quadSample a0 a1 a2 s3) := by
  unfold quadSample
  extract_lets -merge -useContext +onlyGivenNames x0
  clear_value x0
  extract_lets -merge -useContext +onlyGivenNames x1
  clear_value x1
  refine ite_inv ?_ ?_
  · exact State.updFb_inv (State.put_inv k3)
  · split
    · exact k3
    · exact evcCount_inv (legalStep_inv k3)
    · exact evcCount_inv (legalStep_inv k3)
    · exact evcCount_inv (illegalStep_inv k3)

theorem aonTrack_inv {a0 a1 a2} {s3 : State} (k3 : Inv s3) : Inv (aonTrack a0 a1 a2 s3) := by
  unfold aonTrack
  refine ite_inv ?_ ?_
  · lift_lets -merge -useContext -underBinder
    extract_lets -merge -useContext +onlyGivenNames x0
    clear_value x0
    extract_lets -merge -useContext +onlyGivenNames x1
    clear_value x1
    extract_lets -merge -useContext +onlyGivenNames x2
    clear_value x2
    extract_lets -merge -useContext +onlyGivenNames x3
    clear_value x3
    exact inv_mk k3
  · exact k3

theorem execQuadratureTransition_inv {a0 a1 a2} {s3 : State} (k3 : Inv s3) : OutInv (execQuadratureTransition a0 a1 a2 s3)
    := by
  unfold execQuadratureTransition
  extract_lets -merge -useContext +onlyGivenNames x0
  have h0 : Inv x0 := sampledNow_inv (ite_inv (newCycle_inv k3) k3)
  clear_value x0
  extract_lets -merge -useContext +onlyGivenNames x1
  have h1 : Inv x1 := aonTrack_inv h0
  clear_value x1
  exact ite_out (next_inv (settleFbk_inv (quadSample_inv h1))) (next_inv h1)

theorem execIllegalUnresolvedTimeout_inv {a0} {s1 : State} (k1 : Inv s1) : OutInv (execIllegalUnresolvedTimeout a0 s1) :=
    by
  unfold execIllegalUnresolvedTimeout
  exact ite_out (next_inv (settleFbk_inv (svFall_inv (State.put_inv k1)))) (next_inv k1)

theorem qcntWrite_inv {a0 a1} {s2 : State} (k2 : Inv s2) : Inv (qcntWrite a0 a1 s2) := by
  unfold qcntWrite
  extract_lets -merge -useContext +onlyGivenNames x0
  clear_value x0
  extract_lets -merge -useContext +onlyGivenNames x1
  clear_value x1
  extract_lets -merge -useContext +onlyGivenNames x2
  have h2 : Inv x2 := counterWrite_inv k2
  clear_value x2
  extract_lets -merge -useContext +onlyGivenNames x3
  clear_value x3
  exact State.updFb_inv h2

theorem execQcntWrite_inv {a0 a1} {s2 : State} (k2 : Inv s2) : OutInv (execQcntWrite a0 a1 s2) := by
  unfold execQcntWrite
  exact next_inv (settleFbk_inv (qcntWrite_inv k2))

theorem resolvePend_inv {a0 a1} {s2 : State} (k2 : Inv s2) : Inv (resolvePend a0 a1 s2) := by
  unfold resolvePend
  refine ite_inv ?_ ?_
  · extract_lets -merge -useContext +onlyGivenNames x0
    clear_value x0
    extract_lets -merge -useContext +onlyGivenNames x1
    clear_value x1
    extract_lets -merge -useContext +onlyGivenNames x2
    clear_value x2
    extract_lets -merge -useContext +onlyGivenNames x3
    have h3 : Inv x3 := k2
    clear_value x3
    exact State.updFb_inv (qcntMove_inv (State.put_inv h3))
  · exact k2

theorem interpolate_inv {a0 a1} {s2 : State} (k2 : Inv s2) : Inv (interpolate a0 a1 s2) := by
  unfold interpolate
  extract_lets -merge -useContext +onlyGivenNames x0
  clear_value x0
  extract_lets -merge -useContext +onlyGivenNames x1
  clear_value x1
  extract_lets -merge -useContext +onlyGivenNames x2
  clear_value x2
  extract_lets -merge -useContext +onlyGivenNames x3
  clear_value x3
  extract_lets -merge -useContext +onlyGivenNames x4
  clear_value x4
  extract_lets -merge -useContext +onlyGivenNames x5
  have h5 : Inv x5 := ite_inv (State.put_inv k2) k2
  clear_value x5
  extract_lets -merge -useContext +onlyGivenNames x6
  have h6 : Inv x6 := State.put_inv h5
  clear_value x6
  extract_lets -merge -useContext +onlyGivenNames x7
  clear_value x7
  exact State.updFb_inv h6

theorem pairTake_inv {a0 a1 a2} {s3 : State} (k3 : Inv s3) : Inv (pairTake a0 a1 a2 s3) := by
  unfold pairTake
  lift_lets -merge -useContext -underBinder
  extract_lets -merge -useContext +onlyGivenNames x0
  clear_value x0
  extract_lets -merge -useContext +onlyGivenNames x1
  clear_value x1
  extract_lets -merge -useContext +onlyGivenNames x2
  clear_value x2
  extract_lets -merge -useContext +onlyGivenNames x3
  clear_value x3
  extract_lets -merge -useContext +onlyGivenNames x4
  clear_value x4
  extract_lets -merge -useContext +onlyGivenNames x5
  have h5 : Inv x5 := State.updFb_inv k3
  clear_value x5
  extract_lets -merge -useContext +onlyGivenNames x6
  have h6 : Inv x6 := ite_inv (State.put_inv h5) h5
  clear_value x6
  extract_lets -merge -useContext +onlyGivenNames x7
  clear_value x7
  extract_lets -merge -useContext +onlyGivenNames x8
  have h8 : Inv x8 := State.updFb_inv (fbRaise_inv (State.put_inv k3))
  clear_value x8
  exact ite_inv (interpolate_inv (resolvePend_inv h6)) (ite_inv (svFall_inv h8) h8)

theorem execAdcBackgroundFrame_inv {a0 a1 a2 a3 a4} {s5 : State} (k5 : Inv s5) : OutInv (execAdcBackgroundFrame a0 a1 a2 a3
    a4 s5) := by
  unfold execAdcBackgroundFrame
  extract_lets -merge -useContext +onlyGivenNames x0
  clear_value x0
  extract_lets -merge -useContext +onlyGivenNames x1
  have h1 : Inv x1 := advanceTo_inv k5
  clear_value x1
  extract_lets -merge -useContext +onlyGivenNames x2
  clear_value x2
  extract_lets -merge -useContext +onlyGivenNames x3
  have h3 : Inv x3 := ite_inv (ite_inv (State.bump_inv h1) (ite_inv (settleFbk_inv (pairTake_inv h1)) h1)) h1
  clear_value x3
  exact next_inv (ite_inv (ite_inv (State.bump_inv h3) (State.put_inv (State.put_inv h3))) h3)

theorem fallback_inv {a0} {s1 : State} (k1 : Inv s1) : Inv (fallback a0 s1) := by
  unfold fallback
  exact ite_inv (fbRaise_inv (svFall_inv (State.put_inv (State.put_inv k1)))) k1

theorem fbReturn_inv {a0} {s1 : State} (k1 : Inv s1) : Inv (fbReturn a0 s1) := by
  unfold fbReturn
  exact ite_inv (State.put_inv k1) (ite_inv (svFall_inv (State.put_inv k1)) k1)

theorem execFbrst_inv {a0} {s1 : State} (k1 : Inv s1) : OutInv (execFbrst a0 s1) := by
  unfold execFbrst
  exact next_inv (fbReturn_inv k1)

theorem obsReport_inv {a0} {s1 : State} (k1 : Inv s1) : Inv (obsReport a0 s1) := by
  unfold obsReport
  extract_lets -merge -useContext +onlyGivenNames x0
  clear_value x0
  extract_lets -merge -useContext +onlyGivenNames x1
  clear_value x1
  extract_lets -merge -useContext +onlyGivenNames x2
  have h2 : Inv x2 := State.setReg_inv (State.setReg_inv k1)
  clear_value x2
  exact State.setReg_inv (State.setReg_inv h2)

theorem obsUpdate_inv {a0} {s1 : State} (k1 : Inv s1) : Inv (obsUpdate a0 s1) := by
  unfold obsUpdate
  lift_lets -merge -useContext -underBinder
  extract_lets -merge -useContext +onlyGivenNames x0
  clear_value x0
  extract_lets -merge -useContext +onlyGivenNames x1
  clear_value x1
  extract_lets -merge -useContext +onlyGivenNames x2
  have h2 : Inv x2 := inv_mk k1
  clear_value x2
  extract_lets -merge -useContext +onlyGivenNames x3
  have h3 : Inv x3 := fallback_inv h2
  clear_value x3
  extract_lets -merge -useContext +onlyGivenNames x4
  have h4 : Inv x4 := ite_inv h3 (svFall_inv h3)
  clear_value x4
  extract_lets -merge -useContext +onlyGivenNames x5
  clear_value x5
  extract_lets -merge -useContext +onlyGivenNames x6
  clear_value x6
  extract_lets -merge -useContext +onlyGivenNames x7
  clear_value x7
  extract_lets -merge -useContext +onlyGivenNames x8
  have h8 : Inv x8 := State.updFb_inv h4
  clear_value x8
  exact settleFbk_inv (obsReport_inv h8)

theorem execObserverUpdate_inv {a0} {s1 : State} (k1 : Inv s1) : OutInv (execObserverUpdate a0 s1) := by
  unfold execObserverUpdate
  exact next_inv (obsUpdate_inv k1)

theorem seedRefuse_inv {a0} {s1 : State} (k1 : Inv s1) : Inv (seedRefuse a0 s1) := by
  unfold seedRefuse
  exact State.updFb_inv (State.put_inv k1)

theorem seedAngle_inv {a0 a1} {s2 : State} (k2 : Inv s2) : Inv (seedAngle a0 a1 s2) := by
  unfold seedAngle
  exact ite_inv (seedRefuse_inv k2) (svFall_inv (State.updFb_inv k2))

theorem execObsSeedAngle_inv {a0 a1} {s2 : State} (k2 : Inv s2) : OutInv (execObsSeedAngle a0 a1 s2) := by
  unfold execObsSeedAngle
  exact next_inv (seedAngle_inv k2)

theorem seedCommit_inv {a0 a1} {s2 : State} (k2 : Inv s2) : Inv (seedCommit a0 a1 s2) := by
  unfold seedCommit
  refine ite_inv ?_ ?_
  · exact seedRefuse_inv k2
  · lift_lets -merge -useContext -underBinder
    extract_lets -merge -useContext +onlyGivenNames x0
    clear_value x0
    extract_lets -merge -useContext +onlyGivenNames x1
    have h1 : Inv x1 := inv_mk k2
    clear_value x1
    exact svFall_inv (State.updFb_inv h1)

theorem execObsSeedCommit_inv {a0 a1} {s2 : State} (k2 : Inv s2) : OutInv (execObsSeedCommit a0 a1 s2) := by
  unfold execObsSeedCommit
  exact next_inv (seedCommit_inv k2)

theorem execObsBwWrite_inv {a0 a1} {s2 : State} (k2 : Inv s2) : OutInv (execObsBwWrite a0 a1 s2) := by
  unfold execObsBwWrite
  exact ite_out (next_inv (State.put_inv k2)) (next_inv k2)

theorem fbkCfgAfter_inv {a0 a1} {s2 : State} (k2 : Inv s2) : Inv (fbkCfgAfter a0 a1 s2) := by
  unfold fbkCfgAfter
  lift_lets -merge -useContext -underBinder
  extract_lets -merge -useContext +onlyGivenNames x0
  have h0 : Inv x0 := ite_inv (gateOut_inv k2) k2
  clear_value x0
  extract_lets -merge -useContext +onlyGivenNames x1
  clear_value x1
  extract_lets -merge -useContext +onlyGivenNames x2
  have h2 : Inv x2 := ite_inv (State.updFb_inv h0) h0
  clear_value x2
  extract_lets -merge -useContext +onlyGivenNames x3
  have h3 : Inv x3 := ite_inv (svFall_inv h2) h2
  clear_value x3
  exact settleFbk_inv (ite_inv h3 (svFall_inv h3))

theorem State.updWheel_inv {s0 : State} {a1 a2} (k0 : Inv s0) : Inv (State.updWheel s0 a1 a2) := by
  unfold State.updWheel
  exact inv_mk k0

theorem wheelTooth_inv {a0} {s1 : State} (k1 : Inv s1) : Inv (wheelTooth a0 s1) := by
  unfold wheelTooth
  extract_lets -merge -useContext +onlyGivenNames x0
  clear_value x0
  extract_lets -merge -useContext +onlyGivenNames x1
  clear_value x1
  extract_lets -merge -useContext +onlyGivenNames x2
  have h2 : Inv x2 := State.put_inv k1
  clear_value x2
  extract_lets -merge -useContext +onlyGivenNames x3
  have h3 : Inv x3 := State.put_inv h2
  clear_value x3
  extract_lets -merge -useContext +onlyGivenNames x4
  have h4 : Inv x4 := by
    unfold x4
    split
    · exact State.put_inv h3
    · exact State.put_inv (State.put_inv h3)
  clear_value x4
  extract_lets -merge -useContext +onlyGivenNames x7
  extract_lets -merge -useContext +onlyGivenNames x8
  have h8 : Inv x8 := State.updWheel_inv h4
  clear_value x8
  exact ite_inv (icuEvent_inv h8) h8

theorem execWsTooth_inv {a0 a1} {s2 : State} (k2 : Inv s2) : OutInv (execWsTooth a0 a1 s2) := by
  unfold execWsTooth
  extract_lets -merge -useContext +onlyGivenNames x0
  have h0 : Inv x0 := advanceTo_inv k2
  clear_value x0
  exact ite_out (next_inv (wheelTooth_inv h0)) (next_inv h0)

theorem wheelOff_inv {a0} {s1 : State} (k1 : Inv s1) : Inv (wheelOff a0 s1) := by
  unfold wheelOff
  exact State.updWheel_inv k1

theorem wheelFault_inv {a0 a1} {s2 : State} (k2 : Inv s2) : Inv (wheelFault a0 a1 s2) := by
  unfold wheelFault
  extract_lets -merge -useContext +onlyGivenNames x0
  clear_value x0
  exact ite_inv k2 (sendRaise_inv (State.put_inv k2))

theorem execWsFault_inv {a0 a1} {s2 : State} (k2 : Inv s2) : OutInv (execWsFault a0 a1 s2) := by
  unfold execWsFault
  exact ite_out (next_inv (wheelFault_inv k2)) (next_inv k2)

theorem execWsFaultClear_inv {a0 a1} {s2 : State} (k2 : Inv s2) : OutInv (execWsFaultClear a0 a1 s2) := by
  unfold execWsFaultClear
  exact next_inv (State.put_inv k2)

theorem execWsStandstill_inv {a0} {s1 : State} (k1 : Inv s1) : OutInv (execWsStandstill a0 s1) := by
  unfold execWsStandstill
  refine ite_out ?_ ?_
  · extract_lets -merge -useContext +onlyGivenNames x0
    have h0 : Inv x0 := State.put_inv (State.put_inv k1)
    clear_value x0
    exact next_inv (icuEvent_inv (State.updWheel_inv h0))
  · exact next_inv k1

theorem State.updSent_inv {s0 : State} {a1 a2} (k0 : Inv s0) : Inv (State.updSent s0 a1 a2) := by
  unfold State.updSent
  exact inv_mk k0

theorem serialStep_inv {a0 a1} {s2 : State} (k2 : Inv s2) : Inv (serialStep a0 a1 s2) := by
  unfold serialStep
  extract_lets -merge -useContext +onlyGivenNames x0
  clear_value x0
  extract_lets -merge -useContext +onlyGivenNames x1
  clear_value x1
  extract_lets -merge -useContext +onlyGivenNames x2
  clear_value x2
  extract_lets -merge -useContext +onlyGivenNames x3
  clear_value x3
  extract_lets -merge -useContext +onlyGivenNames x4
  clear_value x4
  split
  · exact State.updSent_inv k2
  · lift_lets -merge -useContext -underBinder
    extract_lets -merge -useContext +onlyGivenNames x7
    have h7 : Inv x7 := State.updSent_inv k2
    clear_value x7
    extract_lets -merge -useContext +onlyGivenNames x8
    have h8 : Inv x8 := State.putB_inv (State.put_inv h7)
    clear_value x8
    exact ite_inv (State.put_inv (State.put_inv h8)) (State.bump_inv h7)

theorem sentDiscard_inv {a0 a1} {s2 : State} (k2 : Inv s2) : Inv (sentDiscard a0 a1 s2) := by
  unfold sentDiscard
  extract_lets -merge -useContext +onlyGivenNames x0
  have h0 : Inv x0 := State.updSent_inv (State.bump_inv k2)
  clear_value x0
  exact ite_inv (sendRaise_inv h0) h0

theorem sentFrame_inv {a0 a1 a2 a3} {s4 : State} (k4 : Inv s4) : Inv (sentFrame a0 a1 a2 a3 s4) := by
  unfold sentFrame
  lift_lets -merge -useContext -underBinder
  extract_lets -merge -useContext +onlyGivenNames x0
  clear_value x0
  extract_lets -merge -useContext +onlyGivenNames x1
  have h1 : Inv x1 := State.updSent_inv k4
  clear_value x1
  extract_lets -merge -useContext +onlyGivenNames x2
  clear_value x2
  extract_lets -merge -useContext +onlyGivenNames x3
  clear_value x3
  extract_lets -merge -useContext +onlyGivenNames x4
  clear_value x4
  extract_lets -merge -useContext +onlyGivenNames x5
  clear_value x5
  extract_lets -merge -useContext +onlyGivenNames x6
  clear_value x6
  extract_lets -merge -useContext +onlyGivenNames x7
  have h7 : Inv x7 := injSpend_inv h1
  clear_value x7
  extract_lets -merge -useContext +onlyGivenNames x8
  clear_value x8
  extract_lets -merge -useContext +onlyGivenNames x9
  have h9 : Inv x9 := State.put_inv h7
  clear_value x9
  extract_lets -merge -useContext +onlyGivenNames x10
  have h10 : Inv x10 := State.put_inv h9
  clear_value x10
  extract_lets -merge -useContext +onlyGivenNames x11
  have h11 : Inv x11 := State.updSent_inv (State.put_inv h10)
  clear_value x11
  exact ite_inv (sentDiscard_inv h7) (ite_inv (sentDiscard_inv h7) (ite_inv (sentDiscard_inv h7) (ite_inv (sentDiscard_inv
      h7) (serialStep_inv (icuEvent_inv h11)))))

theorem execSentFrame_inv {a0 a1 a2 a3 a4} {s5 : State} (k5 : Inv s5) : OutInv (execSentFrame a0 a1 a2 a3 a4 s5) := by
  unfold execSentFrame
  extract_lets -merge -useContext +onlyGivenNames x0
  have h0 : Inv x0 := advanceTo_inv k5
  clear_value x0
  exact ite_out (next_inv (sentFrame_inv h0)) (next_inv h0)

theorem sentOff_inv {a0} {s1 : State} (k1 : Inv s1) : Inv (sentOff a0 s1) := by
  unfold sentOff
  exact State.updSent_inv k1

theorem execSentErrClr_inv {a0} {s1 : State} (k1 : Inv s1) : OutInv (execSentErrClr a0 s1) := by
  unfold execSentErrClr
  exact next_inv (State.setReg_inv k1)

end Sys2Proof.Machine
end

