-- ==== Sys2Proof/Laws/InvNodes.lean ====
section
/-! SUPPORT. The operations of Machine/Nodes.lean keep `Inv`. -/

namespace Sys2Proof.Machine

theorem takeSlot_inv {a0 a1 a2 a3} {s4 : State} (k4 : Inv s4) : Inv (takeSlot a0 a1 a2 a3 s4) := by
  unfold takeSlot
  extract_lets -merge -useContext +onlyGivenNames x0
  clear_value x0
  extract_lets -merge -useContext +onlyGivenNames x1
  have h1 : Inv x1 := State.updFacet_inv k4
  clear_value x1
  extract_lets -merge -useContext +onlyGivenNames x2
  have h2 : Inv x2 := State.putMax_inv h1
  clear_value x2
  exact evcCount_inv (readyRefill_inv h2)

theorem orderWrites_inv {a0} {s1 : State} (k1 : Inv s1) : Inv (orderWrites a0 s1).2 := by
  unfold orderWrites
  refine ite_inv2 ?_ ?_
  · exact snd_inv k1
  · split
    · rename_i z0_0_0 z0_0_1 e0_0
      have h0_0 : Inv z0_0_1 := by
        have q0 : _ = z0_0_1 := congrArg Prod.snd e0_0
        rw [← q0]
        exact draw_inv k1
      exact snd_inv h0_0

theorem issueNode_inv {a0 a1 a2 a3 a4} {s5 : State} (k5 : Inv s5) : Inv (issueNode a0 a1 a2 a3 a4 s5) := by
  unfold issueNode
  lift_lets -merge -useContext -underBinder
  extract_lets -merge -useContext +onlyGivenNames x0
  clear_value x0
  extract_lets -merge -useContext +onlyGivenNames x1
  have h1 : Inv x1 := takeSlot_inv k5
  clear_value x1
  extract_lets -merge -useContext +onlyGivenNames x2
  clear_value x2
  extract_lets -merge -useContext +onlyGivenNames x3
  have h3 : Inv x3.2 := eccReadAll_inv h1
  clear_value x3
  extract_lets -merge -useContext +onlyGivenNames x4
  have h4 : Inv x4.2 := ite_inv2 h3 (eccReadAll_inv h3)
  clear_value x4
  extract_lets -merge -useContext +onlyGivenNames x5
  have h5 : Inv x5 := h4
  clear_value x5
  extract_lets -merge -useContext +onlyGivenNames x6
  clear_value x6
  extract_lets -merge -useContext +onlyGivenNames x7
  clear_value x7
  extract_lets -merge -useContext +onlyGivenNames x8
  clear_value x8
  extract_lets -merge -useContext +onlyGivenNames x9
  clear_value x9
  refine ite_inv ?_ ?_
  · exact nodeExc_inv h5
  · refine ite_inv ?_ ?_
    · exact nodeExc_inv h5
    · split
      · rename_i z10_0_0 z10_0_1 e10_0
        have h10_0 : Inv z10_0_1 := by
          have q10 : _ = z10_0_1 := congrArg Prod.snd e10_0
          rw [← q10]
          exact orderWrites_inv h5
        extract_lets -merge -useContext +onlyGivenNames x11
        clear_value x11
        extract_lets -merge -useContext +onlyGivenNames x12
        have h12 : Inv x12 := State.updPrs_inv h10_0
        clear_value x12
        extract_lets -merge -useContext +onlyGivenNames x13
        have h13 : Inv x13 := ite_inv (satFlow_inv h12) h12
        clear_value x13
        split
        · exact h13
        · exact nodeExc_inv h13

theorem issue_inv {a0 a1 a2} {s3 : State} (k3 : Inv s3) : Inv (issue a0 a1 a2 s3) := by
  unfold issue
  extract_lets -merge -useContext +onlyGivenNames x0
  have h0 : Inv x0 := advanceTo_inv k3
  clear_value x0
  split
  · exact h0
  · extract_lets -merge -useContext +onlyGivenNames x3
    clear_value x3
    exact ite_inv (issueNode_inv h0) h0

theorem issueReserved_inv {a0 a1} {s2 : State} (k2 : Inv s2) : Inv (issueReserved a0 a1 s2) := by
  unfold issueReserved
  extract_lets -merge -useContext +onlyGivenNames x0
  have h0 : Inv x0 := advanceTo_inv k2
  clear_value x0
  split
  · exact h0
  · refine ite_inv ?_ ?_
    · exact h0
    · extract_lets -merge -useContext +onlyGivenNames x3
      clear_value x3
      extract_lets -merge -useContext +onlyGivenNames x4
      have h4 : Inv x4.2 := eccReadAll_inv (takeSlot_inv h0)
      clear_value x4
      exact nodeExc_inv h4

theorem noteWrite_inv {a0 a1 a2} {s3 : State} (k3 : Inv s3) : Inv (noteWrite a0 a1 a2 s3) := by
  unfold noteWrite
  exact State.updPrs_inv k3

theorem commitWord_inv {a0 a1 a2} {s3 : State} (k3 : Inv s3) : Inv (commitWord a0 a1 a2 s3) := by
  unfold commitWord
  lift_lets -merge -useContext -underBinder
  extract_lets -merge -useContext +onlyGivenNames x0
  clear_value x0
  extract_lets -merge -useContext +onlyGivenNames x1
  have h1 : Inv x1 := ite_inv (State.bump_inv k3) k3
  clear_value x1
  extract_lets -merge -useContext +onlyGivenNames x2
  have h2 : Inv x2 := noteWrite_inv h1
  clear_value x2
  extract_lets -merge -useContext +onlyGivenNames x3
  clear_value x3
  extract_lets -merge -useContext +onlyGivenNames x4
  have h4 : Inv x4.2 := eccWritePart_inv h2
  clear_value x4
  exact ite_inv h2 (ite_inv (State.setWord_inv h4) h4)

theorem setGflag_inv {a0} {s1 : State} (k1 : Inv s1) : Inv (setGflag a0 s1) := by
  unfold setGflag
  exact ite_inv k1 (lupCause_inv (sendRaise_inv (State.putBit_inv k1)))

theorem sendToken_inv {a0 a1} {s2 : State} (k2 : Inv s2) : Inv (sendToken a0 a1 s2) := by
  unfold sendToken
  extract_lets -merge -useContext +onlyGivenNames x0
  clear_value x0
  exact State.updPrs_inv k2

theorem finish_inv {a0} {s1 : State} (k1 : Inv s1) : Inv (finish a0 s1) := by
  unfold finish
  extract_lets -merge -useContext +onlyGivenNames x0
  clear_value x0
  extract_lets -merge -useContext +onlyGivenNames x1
  have h1 : Inv x1 := State.updPrs_inv k1
  clear_value x1
  extract_lets -merge -useContext +onlyGivenNames x2
  have h2 : Inv x2 := foldl_inv (fun t x ht => commitWord_inv ht) h1
  clear_value x2
  extract_lets -merge -useContext +onlyGivenNames x3
  have h3 : Inv x3 := ite_inv h2 (foldl_inv (fun t x ht => dutyStore_inv ht) h2)
  clear_value x3
  extract_lets -merge -useContext +onlyGivenNames x4
  have h4 : Inv x4 := by
    unfold x4
    split
    · exact h3
    · exact setGflag_inv h3
  clear_value x4
  extract_lets -merge -useContext +onlyGivenNames x7
  have h7 : Inv x7 := by
    unfold x7
    split
    · exact h4
    · exact lupTrace_inv h4
  clear_value x7
  exact ite_inv (forAll_inv (fun y10_0 y10_1 g10_1 => sendToken_inv g10_1) h7) h7

theorem execNodeComplete_inv {a0 a1 a2} {s3 : State} (k3 : Inv s3) : OutInv (execNodeComplete a0 a1 a2 s3) := by
  unfold execNodeComplete
  extract_lets -merge -useContext +onlyGivenNames x0
  have h0 : Inv x0 := advanceTo_inv k3
  clear_value x0
  split
  · exact next_inv h0
  · exact next_inv (finish_inv h0)

theorem execNodeReservedOpcode_inv {a0 a1} {s2 : State} (k2 : Inv s2) : OutInv (execNodeReservedOpcode a0 a1 s2) := by
  unfold execNodeReservedOpcode
  exact next_inv (issueReserved_inv k2)

theorem execNop_inv {a0 a1} {s2 : State} (k2 : Inv s2) : OutInv (execNop a0 a1 s2) := by
  unfold execNop
  exact next_inv (issue_inv k2)

theorem execMov_inv {a0 a1} {s2 : State} (k2 : Inv s2) : OutInv (execMov a0 a1 s2) := by
  unfold execMov
  exact next_inv (issue_inv k2)

theorem execLdii_inv {a0 a1} {s2 : State} (k2 : Inv s2) : OutInv (execLdii a0 a1 s2) := by
  unfold execLdii
  exact next_inv (issue_inv k2)

theorem execLdiq_inv {a0 a1} {s2 : State} (k2 : Inv s2) : OutInv (execLdiq a0 a1 s2) := by
  unfold execLdiq
  exact next_inv (issue_inv k2)

theorem execLdif_inv {a0 a1} {s2 : State} (k2 : Inv s2) : OutInv (execLdif a0 a1 s2) := by
  unfold execLdif
  exact next_inv (issue_inv k2)

theorem execCvtqf_inv {a0 a1} {s2 : State} (k2 : Inv s2) : OutInv (execCvtqf a0 a1 s2) := by
  unfold execCvtqf
  exact next_inv (issue_inv k2)

theorem execCvtfq_inv {a0 a1} {s2 : State} (k2 : Inv s2) : OutInv (execCvtfq a0 a1 s2) := by
  unfold execCvtfq
  exact next_inv (issue_inv k2)

theorem execCvtif_inv {a0 a1} {s2 : State} (k2 : Inv s2) : OutInv (execCvtif a0 a1 s2) := by
  unfold execCvtif
  exact next_inv (issue_inv k2)

theorem execCvtfi_inv {a0 a1} {s2 : State} (k2 : Inv s2) : OutInv (execCvtfi a0 a1 s2) := by
  unfold execCvtfi
  exact next_inv (issue_inv k2)

theorem execQadd_inv {a0 a1} {s2 : State} (k2 : Inv s2) : OutInv (execQadd a0 a1 s2) := by
  unfold execQadd
  exact next_inv (issue_inv k2)

theorem execQsub_inv {a0 a1} {s2 : State} (k2 : Inv s2) : OutInv (execQsub a0 a1 s2) := by
  unfold execQsub
  exact next_inv (issue_inv k2)

theorem execQmul_inv {a0 a1} {s2 : State} (k2 : Inv s2) : OutInv (execQmul a0 a1 s2) := by
  unfold execQmul
  exact next_inv (issue_inv k2)

theorem execQmac_inv {a0 a1} {s2 : State} (k2 : Inv s2) : OutInv (execQmac a0 a1 s2) := by
  unfold execQmac
  exact next_inv (issue_inv k2)

theorem execQneg_inv {a0 a1} {s2 : State} (k2 : Inv s2) : OutInv (execQneg a0 a1 s2) := by
  unfold execQneg
  exact next_inv (issue_inv k2)

theorem execQabs_inv {a0 a1} {s2 : State} (k2 : Inv s2) : OutInv (execQabs a0 a1 s2) := by
  unfold execQabs
  exact next_inv (issue_inv k2)

theorem execQshl_inv {a0 a1} {s2 : State} (k2 : Inv s2) : OutInv (execQshl a0 a1 s2) := by
  unfold execQshl
  exact next_inv (issue_inv k2)

theorem execQmin_inv {a0 a1} {s2 : State} (k2 : Inv s2) : OutInv (execQmin a0 a1 s2) := by
  unfold execQmin
  exact next_inv (issue_inv k2)

theorem execQmax_inv {a0 a1} {s2 : State} (k2 : Inv s2) : OutInv (execQmax a0 a1 s2) := by
  unfold execQmax
  exact next_inv (issue_inv k2)

theorem execQlim_inv {a0 a1} {s2 : State} (k2 : Inv s2) : OutInv (execQlim a0 a1 s2) := by
  unfold execQlim
  exact next_inv (issue_inv k2)

theorem execQcmp_inv {a0 a1} {s2 : State} (k2 : Inv s2) : OutInv (execQcmp a0 a1 s2) := by
  unfold execQcmp
  exact next_inv (issue_inv k2)

theorem execFadd_inv {a0 a1} {s2 : State} (k2 : Inv s2) : OutInv (execFadd a0 a1 s2) := by
  unfold execFadd
  exact next_inv (issue_inv k2)

theorem execFsub_inv {a0 a1} {s2 : State} (k2 : Inv s2) : OutInv (execFsub a0 a1 s2) := by
  unfold execFsub
  exact next_inv (issue_inv k2)

theorem execFmul_inv {a0 a1} {s2 : State} (k2 : Inv s2) : OutInv (execFmul a0 a1 s2) := by
  unfold execFmul
  exact next_inv (issue_inv k2)

theorem execFmac_inv {a0 a1} {s2 : State} (k2 : Inv s2) : OutInv (execFmac a0 a1 s2) := by
  unfold execFmac
  exact next_inv (issue_inv k2)

theorem execFneg_inv {a0 a1} {s2 : State} (k2 : Inv s2) : OutInv (execFneg a0 a1 s2) := by
  unfold execFneg
  exact next_inv (issue_inv k2)

theorem execFabs_inv {a0 a1} {s2 : State} (k2 : Inv s2) : OutInv (execFabs a0 a1 s2) := by
  unfold execFabs
  exact next_inv (issue_inv k2)

theorem execFdiv_inv {a0 a1} {s2 : State} (k2 : Inv s2) : OutInv (execFdiv a0 a1 s2) := by
  unfold execFdiv
  exact next_inv (issue_inv k2)

theorem execFsqrt_inv {a0 a1} {s2 : State} (k2 : Inv s2) : OutInv (execFsqrt a0 a1 s2) := by
  unfold execFsqrt
  exact next_inv (issue_inv k2)

theorem execFmin_inv {a0 a1} {s2 : State} (k2 : Inv s2) : OutInv (execFmin a0 a1 s2) := by
  unfold execFmin
  exact next_inv (issue_inv k2)

theorem execFmax_inv {a0 a1} {s2 : State} (k2 : Inv s2) : OutInv (execFmax a0 a1 s2) := by
  unfold execFmax
  exact next_inv (issue_inv k2)

theorem execFlim_inv {a0 a1} {s2 : State} (k2 : Inv s2) : OutInv (execFlim a0 a1 s2) := by
  unfold execFlim
  exact next_inv (issue_inv k2)

theorem execFcmp_inv {a0 a1} {s2 : State} (k2 : Inv s2) : OutInv (execFcmp a0 a1 s2) := by
  unfold execFcmp
  exact next_inv (issue_inv k2)

theorem execFsincos_inv {a0 a1} {s2 : State} (k2 : Inv s2) : OutInv (execFsincos a0 a1 s2) := by
  unfold execFsincos
  exact next_inv (issue_inv k2)

theorem execIadd_inv {a0 a1} {s2 : State} (k2 : Inv s2) : OutInv (execIadd a0 a1 s2) := by
  unfold execIadd
  exact next_inv (issue_inv k2)

theorem execIsub_inv {a0 a1} {s2 : State} (k2 : Inv s2) : OutInv (execIsub a0 a1 s2) := by
  unfold execIsub
  exact next_inv (issue_inv k2)

theorem execAnd_inv {a0 a1} {s2 : State} (k2 : Inv s2) : OutInv (execAnd a0 a1 s2) := by
  unfold execAnd
  exact next_inv (issue_inv k2)

theorem execOr_inv {a0 a1} {s2 : State} (k2 : Inv s2) : OutInv (execOr a0 a1 s2) := by
  unfold execOr
  exact next_inv (issue_inv k2)

theorem execXor_inv {a0 a1} {s2 : State} (k2 : Inv s2) : OutInv (execXor a0 a1 s2) := by
  unfold execXor
  exact next_inv (issue_inv k2)

theorem execIshl_inv {a0 a1} {s2 : State} (k2 : Inv s2) : OutInv (execIshl a0 a1 s2) := by
  unfold execIshl
  exact next_inv (issue_inv k2)

theorem execIshr_inv {a0 a1} {s2 : State} (k2 : Inv s2) : OutInv (execIshr a0 a1 s2) := by
  unfold execIshr
  exact next_inv (issue_inv k2)

theorem execIcmp_inv {a0 a1} {s2 : State} (k2 : Inv s2) : OutInv (execIcmp a0 a1 s2) := by
  unfold execIcmp
  exact next_inv (issue_inv k2)

theorem execSel_inv {a0 a1} {s2 : State} (k2 : Inv s2) : OutInv (execSel a0 a1 s2) := by
  unfold execSel
  exact next_inv (issue_inv k2)

theorem execClarke_inv {a0 a1} {s2 : State} (k2 : Inv s2) : OutInv (execClarke a0 a1 s2) := by
  unfold execClarke
  exact next_inv (issue_inv k2)

theorem execPark_inv {a0 a1} {s2 : State} (k2 : Inv s2) : OutInv (execPark a0 a1 s2) := by
  unfold execPark
  exact next_inv (issue_inv k2)

theorem execIpark_inv {a0 a1} {s2 : State} (k2 : Inv s2) : OutInv (execIpark a0 a1 s2) := by
  unfold execIpark
  exact next_inv (issue_inv k2)

theorem execSvm_inv {a0 a1} {s2 : State} (k2 : Inv s2) : OutInv (execSvm a0 a1 s2) := by
  unfold execSvm
  exact next_inv (issue_inv k2)

theorem execSvec_inv {a0 a1} {s2 : State} (k2 : Inv s2) : OutInv (execSvec a0 a1 s2) := by
  unfold execSvec
  exact next_inv (issue_inv k2)

theorem execPi_inv {a0 a1} {s2 : State} (k2 : Inv s2) : OutInv (execPi a0 a1 s2) := by
  unfold execPi
  exact next_inv (issue_inv k2)

theorem execBiq_inv {a0 a1} {s2 : State} (k2 : Inv s2) : OutInv (execBiq a0 a1 s2) := by
  unfold execBiq
  exact next_inv (issue_inv k2)

theorem execMv44_inv {a0 a1} {s2 : State} (k2 : Inv s2) : OutInv (execMv44 a0 a1 s2) := by
  unfold execMv44
  exact next_inv (issue_inv k2)

theorem execTint_inv {a0 a1} {s2 : State} (k2 : Inv s2) : OutInv (execTint a0 a1 s2) := by
  unfold execTint
  exact next_inv (issue_inv k2)

theorem execObs_inv {a0 a1} {s2 : State} (k2 : Inv s2) : OutInv (execObs a0 a1 s2) := by
  unfold execObs
  exact next_inv (issue_inv k2)

theorem execArgmin_inv {a0 a1} {s2 : State} (k2 : Inv s2) : OutInv (execArgmin a0 a1 s2) := by
  unfold execArgmin
  exact next_inv (issue_inv k2)

theorem execRamp_inv {a0 a1} {s2 : State} (k2 : Inv s2) : OutInv (execRamp a0 a1 s2) := by
  unfold execRamp
  exact next_inv (issue_inv k2)

theorem execDqlim_inv {a0 a1} {s2 : State} (k2 : Inv s2) : OutInv (execDqlim a0 a1 s2) := by
  unfold execDqlim
  exact next_inv (issue_inv k2)

theorem execAdcrd_inv {a0 a1} {s2 : State} (k2 : Inv s2) : OutInv (execAdcrd a0 a1 s2) := by
  unfold execAdcrd
  exact next_inv (issue_inv k2)

theorem execPwmwr_inv {a0 a1} {s2 : State} (k2 : Inv s2) : OutInv (execPwmwr a0 a1 s2) := by
  unfold execPwmwr
  exact next_inv (issue_inv k2)

theorem execObsrd_inv {a0 a1} {s2 : State} (k2 : Inv s2) : OutInv (execObsrd a0 a1 s2) := by
  unfold execObsrd
  exact next_inv (issue_inv k2)

theorem execFlag_inv {a0 a1} {s2 : State} (k2 : Inv s2) : OutInv (execFlag a0 a1 s2) := by
  unfold execFlag
  exact next_inv (issue_inv k2)

theorem execTrace_inv {a0 a1} {s2 : State} (k2 : Inv s2) : OutInv (execTrace a0 a1 s2) := by
  unfold execTrace
  exact next_inv (issue_inv k2)

theorem execTstamp_inv {a0 a1} {s2 : State} (k2 : Inv s2) : OutInv (execTstamp a0 a1 s2) := by
  unfold execTstamp
  exact next_inv (issue_inv k2)

end Sys2Proof.Machine
end

