-- ==== Sys2Proof/Laws/InvLink.lean ====
section
/-! SUPPORT. The operations of Machine/Link.lean keep `Inv`. -/

namespace Sys2Proof.Machine

theorem State.updLnk_inv {s0 : State} {a1} (k0 : Inv s0) : Inv (State.updLnk s0 a1) := by
  unfold State.updLnk
  exact inv_mk k0

theorem State.updKrg_inv {s0 : State} {a1} (k0 : Inv s0) : Inv (State.updKrg s0 a1) := by
  unfold State.updKrg
  exact inv_mk k0

theorem minorityNow_inv {a0} {s1 : State} (k1 : Inv s1) : Inv (minorityNow a0 s1) := by
  unfold minorityNow
  extract_lets -merge -useContext +onlyGivenNames x0
  have h0 : Inv x0 := State.bump_inv (State.put_inv k1)
  clear_value x0
  extract_lets -merge -useContext +onlyGivenNames x1
  have h1 : Inv x1 := sendRaise_inv (tokenRelease_inv (instepFall_inv h0))
  clear_value x1
  extract_lets -merge -useContext +onlyGivenNames x2
  clear_value x2
  extract_lets -merge -useContext +onlyGivenNames x3
  have h3 : Inv x3 := State.updLnk_inv h1
  clear_value x3
  exact ite_inv (sendRaise_inv h3) h3

theorem agreeOne_inv {a0 a1} {s2 : State} (k2 : Inv s2) : Inv (agreeOne a0 a1 s2) := by
  unfold agreeOne
  split
  · exact k2
  · exact State.setReg_inv k2

theorem countService_inv {a0} {s1 : State} (k1 : Inv s1) : Inv (countService a0 s1) := by
  unfold countService
  extract_lets -merge -useContext +onlyGivenNames x0
  have h0 : Inv x0 := forAll_inv (fun y1_0 y1_1 g1_1 => State.put_inv g1_1) k1
  clear_value x0
  extract_lets -merge -useContext +onlyGivenNames x2
  clear_value x2
  exact ite_inv h0 (icuEvent_inv (State.put_inv (State.put_inv h0)))

theorem instepRise_inv {a0} {s1 : State} (k1 : Inv s1) : Inv (instepRise a0 s1) := by
  unfold instepRise
  extract_lets -merge -useContext +onlyGivenNames x0
  have h0 : Inv x0 := State.put_inv (State.put_inv k1)
  clear_value x0
  extract_lets -merge -useContext +onlyGivenNames x1
  have h1 : Inv x1 := ite_inv (State.put_inv h0) h0
  clear_value x1
  extract_lets -merge -useContext +onlyGivenNames x2
  have h2 : Inv x2 := State.updLnk_inv h1
  clear_value x2
  extract_lets -merge -useContext +onlyGivenNames x3
  have h3 : Inv x3 := outrank_inv h2
  clear_value x3
  exact ite_inv (enterBy_inv h3) h3

theorem cmpGap_inv {s0 : State} (k0 : Inv s0) : Inv (cmpGap s0) := by
  unfold cmpGap
  extract_lets -merge -useContext +onlyGivenNames x0
  clear_value x0
  exact State.updLnk_inv k0

theorem catchUp_inv {a0 a1} {s2 : State} (k2 : Inv s2) : Inv (catchUp a0 a1 s2) := by
  unfold catchUp
  extract_lets -merge -useContext +onlyGivenNames x0
  clear_value x0
  extract_lets -merge -useContext +onlyGivenNames x1
  have h1 : Inv x1 := State.updLnk_inv k2
  clear_value x1
  extract_lets -merge -useContext +onlyGivenNames x2
  clear_value x2
  exact ite_inv h1 (ite_inv (instepRise_inv h1) (ite_inv (instepRise_inv h1) h1))

theorem snapStore_inv {a0 a1} {s2 : State} (k2 : Inv s2) : Inv (snapStore a0 a1 s2) := by
  unfold snapStore
  extract_lets -merge -useContext +onlyGivenNames x0
  clear_value x0
  extract_lets -merge -useContext +onlyGivenNames x1
  clear_value x1
  extract_lets -merge -useContext +onlyGivenNames x2
  clear_value x2
  refine dmaMove_inv (fun y3_0 g3_0 => ?_) ?_
  · extract_lets -merge -useContext +onlyGivenNames x4
    have h4 : Inv x4.2 := dmaWrite_inv g3_0
    clear_value x4
    extract_lets -merge -useContext +onlyGivenNames x5
    clear_value x5
    extract_lets -merge -useContext +onlyGivenNames x6
    have h6 : Inv x6 := State.updLnk_inv h4
    clear_value x6
    exact ite_inv (State.setReg_inv (State.put_inv h6)) h6
  · exact k2

theorem storeXfer_inv {a0} {s1 : State} (k1 : Inv s1) : Inv (storeXfer a0 s1) := by
  unfold storeXfer
  extract_lets -merge -useContext +onlyGivenNames x0
  clear_value x0
  split
  · exact State.updLnk_inv k1
  · exact ite_inv (State.updLnk_inv k1) (snapStore_inv k1)

theorem settleRlead_inv {s0 : State} (k0 : Inv s0) : Inv (settleRlead s0) := by
  unfold settleRlead
  refine ite_inv ?_ ?_
  · extract_lets -merge -useContext +onlyGivenNames x0
    have h0 : Inv x0 := State.put_inv k0
    clear_value x0
    exact ite_inv (settleDci_inv (State.put_inv h0)) (ringLeadDrop_inv h0)
  · exact ringLeadDrop_inv k0

theorem settleLeadid_inv {s0 : State} (k0 : Inv s0) : Inv (settleLeadid s0) := by
  unfold settleLeadid
  refine ite_inv ?_ ?_
  · exact k0
  · split
    · exact State.put_inv k0
    · exact k0

theorem leadCycle_inv {s0 : State} (k0 : Inv s0) : Inv (leadCycle s0) := by
  unfold leadCycle
  exact settleRlead_inv (State.updLnk_inv k0)

theorem leadDup_inv {s0 : State} (k0 : Inv s0) : Inv (leadDup s0) := by
  unfold leadDup
  exact ite_inv (State.put_inv (tokenRelease_inv k0)) k0

theorem compareNow_inv {a0} {s1 : State} (k1 : Inv s1) : Inv (compareNow a0 s1) := by
  unfold compareNow
  extract_lets -merge -useContext +onlyGivenNames x0
  clear_value x0
  extract_lets -merge -useContext +onlyGivenNames x1
  clear_value x1
  extract_lets -merge -useContext +onlyGivenNames x2
  clear_value x2
  extract_lets -merge -useContext +onlyGivenNames x3
  clear_value x3
  extract_lets -merge -useContext +onlyGivenNames x4
  clear_value x4
  extract_lets -merge -useContext +onlyGivenNames x5
  clear_value x5
  extract_lets -merge -useContext +onlyGivenNames x6
  clear_value x6
  extract_lets -merge -useContext +onlyGivenNames x7
  clear_value x7
  extract_lets -merge -useContext +onlyGivenNames x8
  clear_value x8
  extract_lets -merge -useContext +onlyGivenNames x9
  have h9 : Inv x9 := State.put_inv (State.put_inv k1)
  clear_value x9
  extract_lets -merge -useContext +onlyGivenNames x10
  have h10 : Inv x10 := ite_inv (State.put_inv h9) h9
  clear_value x10
  extract_lets -merge -useContext +onlyGivenNames x11
  have h11 : Inv x11 := forAll_inv (fun y12_0 y12_1 g12_1 => agreeOne_inv g12_1) h10
  clear_value x11
  extract_lets -merge -useContext +onlyGivenNames x13
  have h13 : Inv x13 := State.updLnk_inv h11
  clear_value x13
  extract_lets -merge -useContext +onlyGivenNames x14
  have h14 : Inv x14 := storeXfer_inv h13
  clear_value x14
  extract_lets -merge -useContext +onlyGivenNames x15
  clear_value x15
  extract_lets -merge -useContext +onlyGivenNames x16
  have h16 : Inv x16 := ite_inv (minorityNow_inv h14) h14
  clear_value x16
  extract_lets -merge -useContext +onlyGivenNames x17
  have h17 : Inv x17 := cmpGap_inv h16
  clear_value x17
  extract_lets -merge -useContext +onlyGivenNames x18
  have h18 : Inv x18 := catchUp_inv h17
  clear_value x18
  extract_lets -merge -useContext +onlyGivenNames x19
  have h19 : Inv x19 := leadDup_inv h18
  clear_value x19
  extract_lets -merge -useContext +onlyGivenNames x20
  have h20 : Inv x20 := countService_inv h19
  clear_value x20
  extract_lets -merge -useContext +onlyGivenNames x21
  clear_value x21
  exact settleLeadid_inv (State.updLnk_inv h20)

theorem execLnkComparison_inv {a0} {s1 : State} (k1 : Inv s1) : OutInv (execLnkComparison a0 s1) := by
  unfold execLnkComparison
  extract_lets -merge -useContext +onlyGivenNames x0
  have h0 : Inv x0 := advanceTo_inv k1
  clear_value x0
  exact ite_out (next_inv (compareNow_inv h0)) (next_inv h0)

theorem countFrame_inv {a0} {s1 : State} (k1 : Inv s1) : Inv (countFrame a0 s1) := by
  unfold countFrame
  lift_lets -merge -useContext -underBinder
  extract_lets -merge -useContext +onlyGivenNames x0
  have h0 : Inv x0 := State.updLnk_inv k1
  clear_value x0
  extract_lets -merge -useContext +onlyGivenNames x1
  have h1 : Inv x1 := ite_inv (State.bump_inv h0) h0
  clear_value x1
  extract_lets -merge -useContext +onlyGivenNames x2
  clear_value x2
  extract_lets -merge -useContext +onlyGivenNames x3
  have h3 : Inv x3 := State.put_inv (State.put_inv h1)
  clear_value x3
  exact ite_inv (settleRlead_inv (tokenRelease_inv (icuEvent_inv (State.put_inv (State.put_inv h1))))) (ite_inv
      (settleDci_inv (ite_inv (State.put_inv (State.put_inv h3)) h3)) h1)

theorem leadFrame_inv {a0} {s1 : State} (k1 : Inv s1) : Inv (leadFrame a0 s1) := by
  unfold leadFrame
  lift_lets -merge -useContext -underBinder
  extract_lets -merge -useContext +onlyGivenNames x0
  clear_value x0
  extract_lets -merge -useContext +onlyGivenNames x1
  clear_value x1
  extract_lets -merge -useContext +onlyGivenNames x2
  clear_value x2
  extract_lets -merge -useContext +onlyGivenNames x3
  clear_value x3
  extract_lets -merge -useContext +onlyGivenNames x4
  have h4 : Inv x4 := ite_inv (State.put_inv k1) k1
  clear_value x4
  extract_lets -merge -useContext +onlyGivenNames x5
  have h5 : Inv x5 := countFrame_inv h4
  clear_value x5
  extract_lets -merge -useContext +onlyGivenNames x6
  have h6 : Inv x6 := State.put_inv h5
  clear_value x6
  exact ite_inv h5 (ite_inv (ite_inv (settleDci_inv (icuEvent_inv (State.put_inv (State.put_inv h6)))) h6) (State.put_inv
      h5))

theorem execLeadFrame_inv {a0} {s1 : State} (k1 : Inv s1) : OutInv (execLeadFrame a0 s1) := by
  unfold execLeadFrame
  exact ite_out (next_inv (leadFrame_inv k1)) (next_inv k1)

theorem execLnkRelease_inv {s0 : State} (k0 : Inv s0) : OutInv (execLnkRelease s0) := by
  unfold execLnkRelease
  exact next_inv (tokenRelease_inv k0)

theorem snapTake_inv {s0 : State} (k0 : Inv s0) : Inv (snapTake s0) := by
  unfold snapTake
  extract_lets -merge -useContext +onlyGivenNames x0
  clear_value x0
  extract_lets -merge -useContext +onlyGivenNames x1
  clear_value x1
  refine dmaMove_inv (fun y2_0 g2_0 => ?_) ?_
  · extract_lets -merge -useContext +onlyGivenNames x3
    have h3 : Inv x3.2 := dmaRead_inv g2_0
    clear_value x3
    split
    · exact h3
    · exact State.updLnk_inv h3
  · exact k0

theorem lnkAction_inv {s0 : State} (k0 : Inv s0) : Inv (lnkAction s0) := by
  unfold lnkAction
  extract_lets -merge -useContext +onlyGivenNames x0
  have h0 : Inv x0 := State.updLnk_inv k0
  clear_value x0
  extract_lets -merge -useContext +onlyGivenNames x1
  clear_value x1
  exact ite_inv (snapTake_inv h0) h0

theorem arm_inv {s0 : State} (k0 : Inv s0) : Inv (arm s0) := by
  unfold arm
  exact ite_inv k0 (flipScanStart_inv (State.put_inv k0))

theorem flipRequest_inv {s0 : State} (k0 : Inv s0) : Inv (flipRequest s0) := by
  unfold flipRequest
  exact ite_inv (State.put_inv k0) (State.put_inv (State.putB_inv k0))

theorem execKrgFlipreq_inv {s0 : State} (k0 : Inv s0) : OutInv (execKrgFlipreq s0) := by
  unfold execKrgFlipreq
  exact next_inv (flipRequest_inv k0)

theorem mirrorFlip_inv {s0 : State} (k0 : Inv s0) : Inv (mirrorFlip s0) := by
  unfold mirrorFlip
  exact State.updKrg_inv (State.put_inv k0)

theorem flipFailed_inv {s0 : State} (k0 : Inv s0) : Inv (flipFailed s0) := by
  unfold flipFailed
  extract_lets -merge -useContext +onlyGivenNames x0
  clear_value x0
  extract_lets -merge -useContext +onlyGivenNames x1
  have h1 : Inv x1 := State.put_inv (State.put_inv k0)
  clear_value x1
  extract_lets -merge -useContext +onlyGivenNames x2
  have h2 : Inv x2 := State.updKrg_inv h1
  clear_value x2
  extract_lets -merge -useContext +onlyGivenNames x3
  have h3 : Inv x3 := flipCancel_inv (State.put_inv (State.put_inv h2))
  clear_value x3
  exact ite_inv (withdrawNow_inv (phaseIdle_inv h3)) h3

theorem mirrorFlipRefused_inv {s0 : State} (k0 : Inv s0) : Inv (mirrorFlipRefused s0) := by
  unfold mirrorFlipRefused
  extract_lets -merge -useContext +onlyGivenNames x0
  have h0 : Inv x0 := State.updKrg_inv (State.put_inv (State.put_inv k0))
  clear_value x0
  exact withdrawNow_inv (phaseIdle_inv h0)

theorem mirrorTurn_inv {s0 : State} (k0 : Inv s0) : Inv (mirrorTurn s0) := by
  unfold mirrorTurn
  exact ite_inv k0 (ite_inv (arm_inv k0) (mirrorFlipRefused_inv k0))

theorem flipTurn_inv {s0 : State} (k0 : Inv s0) : Inv (flipTurn s0) := by
  unfold flipTurn
  exact ite_inv k0 (ite_inv (arm_inv k0) (State.put_inv (State.put_inv k0)))

theorem localFlip_inv {s0 : State} (k0 : Inv s0) : Inv (localFlip s0) := by
  unfold localFlip
  exact ite_inv (ite_inv k0 (flipScanStart_inv (State.updLnk_inv k0))) (State.put_inv k0)

theorem execCfgLflip_inv {s0 : State} (k0 : Inv s0) : OutInv (execCfgLflip s0) := by
  unfold execCfgLflip
  exact next_inv (localFlip_inv k0)

theorem shaddrWrite_inv {a0} {s1 : State} (k1 : Inv s1) : Inv (shaddrWrite a0 s1) := by
  unfold shaddrWrite
  extract_lets -merge -useContext +onlyGivenNames x0
  have h0 : Inv x0 := State.put_inv k1
  clear_value x0
  exact ite_inv (State.put_inv h0) h0

theorem execCfgShaddrWrite_inv {a0} {s1 : State} (k1 : Inv s1) : OutInv (execCfgShaddrWrite a0 s1) := by
  unfold execCfgShaddrWrite
  exact next_inv (shaddrWrite_inv k1)

end Sys2Proof.Machine
end

