-- ==== Sys2Proof/Laws/InvRing.lean ====
section
/-! SUPPORT. The operations of Machine/Ring.lean keep `Inv`. -/

namespace Sys2Proof.Machine

theorem State.updPort_inv {s0 : State} {a1 a2} (k0 : Inv s0) : Inv (State.updPort s0 a1 a2) := by
  unfold State.updPort
  exact State.updKrg_inv k0

theorem transmit_inv {a0 a1} {s2 : State} (k2 : Inv s2) : Inv (transmit a0 a1 s2) := by
  unfold transmit
  exact ite_inv k2 (State.updKrg_inv k2)

theorem ringTimeInvalid_inv {s0 : State} (k0 : Inv s0) : Inv (ringTimeInvalid s0) := by
  unfold ringTimeInvalid
  refine ite_inv ?_ ?_
  · extract_lets -merge -useContext +onlyGivenNames x0
    have h0 : Inv x0 := tokenRelease_inv (State.updKrg_inv k0)
    clear_value x0
    extract_lets -merge -useContext +onlyGivenNames x1
    have h1 : Inv x1 := syncRingLost_inv (ringLeadDrop_inv h0)
    clear_value x1
    exact ite_inv (sendRaise_inv h1) h1
  · exact k0

theorem takeKeys_inv {s0 : State} (k0 : Inv s0) : Inv (takeKeys s0) := by
  unfold takeKeys
  extract_lets -merge -useContext +onlyGivenNames x0
  clear_value x0
  exact State.updKrg_inv k0

theorem ringLeave_inv {s0 : State} (k0 : Inv s0) : Inv (ringLeave s0) := by
  unfold ringLeave
  extract_lets -merge -useContext +onlyGivenNames x0
  have h0 : Inv x0 := ringTimeInvalid_inv (State.put_inv k0)
  clear_value x0
  extract_lets -merge -useContext +onlyGivenNames x1
  have h1 : Inv x1 := forAll_inv (fun y2_0 y2_1 g2_1 => State.updPort_inv g2_1) h0
  clear_value x1
  extract_lets -merge -useContext +onlyGivenNames x3
  have h3 : Inv x3 := State.updLnk_inv h1
  clear_value x3
  extract_lets -merge -useContext +onlyGivenNames x4
  have h4 : Inv x4 := State.put_inv h3
  clear_value x4
  exact takeKeys_inv (State.updKrg_inv h4)

theorem ringTimeValid_inv {s0 : State} (k0 : Inv s0) : Inv (ringTimeValid s0) := by
  unfold ringTimeValid
  exact State.updKrg_inv k0

theorem portDown_inv {a0} {s1 : State} (k1 : Inv s1) : Inv (portDown a0 s1) := by
  unfold portDown
  refine ite_inv ?_ ?_
  · exact k1
  · extract_lets -merge -useContext +onlyGivenNames x0
    have h0 : Inv x0 := State.updKrg_inv k1
    clear_value x0
    extract_lets -merge -useContext +onlyGivenNames x1
    have h1 : Inv x1 := evcCount_inv (icuEvent_inv (State.bump_inv (State.put_inv h0)))
    clear_value x1
    extract_lets -merge -useContext +onlyGivenNames x2
    have h2 : Inv x2 := State.updPort_inv h1
    clear_value x2
    exact ite_inv (ringLeave_inv h2) h2

theorem phyFail_inv {a0} {s1 : State} (k1 : Inv s1) : Inv (phyFail a0 s1) := by
  unfold phyFail
  exact portDown_inv (State.put_inv k1)

theorem execPhyLinkFail_inv {a0} {s1 : State} (k1 : Inv s1) : OutInv (execPhyLinkFail a0 s1) := by
  unfold execPhyLinkFail
  exact next_inv (phyFail_inv k1)

theorem execPhyLinkUp_inv {a0} {s1 : State} (k1 : Inv s1) : OutInv (execPhyLinkUp a0 s1) := by
  unfold execPhyLinkUp
  exact ite_out (next_inv k1) (next_inv (State.updPort_inv (State.put_inv k1)))

theorem execPhySqiUpdate_inv {a0 a1} {s2 : State} (k2 : Inv s2) : OutInv (execPhySqiUpdate a0 a1 s2) := by
  unfold execPhySqiUpdate
  extract_lets -merge -useContext +onlyGivenNames x0
  have h0 : Inv x0 := State.put_inv k2
  clear_value x0
  exact next_inv (State.put_inv h0)

theorem portstatRead_inv {a0} {s1 : State} (k1 : Inv s1) : Inv (portstatRead a0 s1) := by
  unfold portstatRead
  exact State.put_inv k1

theorem execPortstatRead_inv {a0} {s1 : State} (k1 : Inv s1) : OutInv (execPortstatRead a0 s1) := by
  unfold execPortstatRead
  exact next_inv (portstatRead_inv k1)

theorem guardLost_inv {s0 : State} (k0 : Inv s0) : Inv (guardLost s0) := by
  unfold guardLost
  lift_lets -merge -useContext -underBinder
  extract_lets -merge -useContext +onlyGivenNames x0
  have h0 : Inv x0 := State.put_inv (State.put_inv k0)
  clear_value x0
  extract_lets -merge -useContext +onlyGivenNames x1
  clear_value x1
  exact inv_mk h0

theorem execGuardianCstart_inv {a0} {s1 : State} (k1 : Inv s1) : OutInv (execGuardianCstart a0 s1) := by
  unfold execGuardianCstart
  extract_lets -merge -useContext +onlyGivenNames x0
  have h0 : Inv x0 := State.put_inv k1
  clear_value x0
  extract_lets -merge -useContext +onlyGivenNames x1
  clear_value x1
  split
  · exact next_inv k1
  · exact next_inv h0
  · refine ite_out ?_ ?_
    · lift_lets -merge -useContext -underBinder
      extract_lets -merge -useContext +onlyGivenNames x5
      clear_value x5
      extract_lets -merge -useContext +onlyGivenNames x6
      clear_value x6
      extract_lets -merge -useContext +onlyGivenNames x7
      have h7 : Inv x7 := inv_mk h0
      clear_value x7
      exact next_inv (ite_inv (State.put_inv h7) h7)
    · exact next_inv (guardLost_inv h0)

theorem execGuardianCstartTimeout_inv {s0 : State} (k0 : Inv s0) : OutInv (execGuardianCstartTimeout s0) := by
  unfold execGuardianCstartTimeout
  exact next_inv (guardLost_inv k0)

theorem execGuardianWindowEdge_inv {a0} {s1 : State} (k1 : Inv s1) : OutInv (execGuardianWindowEdge a0 s1) := by
  unfold execGuardianWindowEdge
  exact next_inv (inv_mk k1)

theorem setRelay_inv {a0 a1} {s2 : State} (k2 : Inv s2) : Inv (setRelay a0 a1 s2) := by
  unfold setRelay
  exact State.updKrg_inv k2

theorem relayFrame_inv {a0 a1 a2} {s3 : State} (k3 : Inv s3) : Inv (relayFrame a0 a1 a2 s3) := by
  unfold relayFrame
  refine ite_inv ?_ ?_
  · exact k3
  · split
    · exact k3
    · extract_lets -merge -useContext +onlyGivenNames x2
      clear_value x2
      exact ite_inv (setRelay_inv (transmit_inv k3)) k3

theorem relayEnd_inv {a0 a1} {s2 : State} (k2 : Inv s2) : Inv (relayEnd a0 a1 s2) := by
  unfold relayEnd
  split
  · exact k2
  · exact setRelay_inv k2
  · extract_lets -merge -useContext +onlyGivenNames x3
    clear_value x3
    extract_lets -merge -useContext +onlyGivenNames x4
    clear_value x4
    exact setRelay_inv (ite_inv (transmit_inv k2) k2)

theorem timingRejected_inv {a0 a1 a2} {s3 : State} (k3 : Inv s3) : Inv (timingRejected a0 a1 a2 s3) := by
  unfold timingRejected
  extract_lets -merge -useContext +onlyGivenNames x0
  clear_value x0
  extract_lets -merge -useContext +onlyGivenNames x1
  clear_value x1
  extract_lets -merge -useContext +onlyGivenNames x2
  have h2 : Inv x2 := evcCount_inv (icuEvent_inv (State.bump_inv k3))
  clear_value x2
  extract_lets -merge -useContext +onlyGivenNames x3
  clear_value x3
  exact ite_inv (ringLeave_inv h2) (State.updKrg_inv h2)

theorem frameStart_inv {a0 a1 a2} {s3 : State} (k3 : Inv s3) : Inv (frameStart a0 a1 a2 s3) := by
  unfold frameStart
  lift_lets -merge -useContext -underBinder
  extract_lets -merge -useContext +onlyGivenNames x0
  clear_value x0
  extract_lets -merge -useContext +onlyGivenNames x1
  clear_value x1
  extract_lets -merge -useContext +onlyGivenNames x2
  have h2 : Inv x2 := ite_inv (State.updKrg_inv k3) k3
  clear_value x2
  exact ite_inv k3 (ite_inv (State.updKrg_inv k3) (ite_inv (relayFrame_inv h2) (ite_inv h2 (ite_inv (relayFrame_inv h2)
      (timingRejected_inv h2)))))

theorem execKringFrameStart_inv {a0 a1 a2} {s3 : State} (k3 : Inv s3) : OutInv (execKringFrameStart a0 a1 a2 s3) := by
  unfold execKringFrameStart
  exact next_inv (frameStart_inv k3)

theorem rxResult_inv {a0 a1 a2} {s3 : State} (k3 : Inv s3) : Inv (rxResult a0 a1 a2 s3) := by
  unfold rxResult
  split
  · refine ite_inv ?_ ?_
    · extract_lets -merge -useContext +onlyGivenNames x1
      have h1 : Inv x1.2 := dmaWrite_inv k3
      clear_value x1
      extract_lets -merge -useContext +onlyGivenNames x2
      have h2 : Inv x2.2 := ite_inv2 (dmaWrite_inv h1) h1
      clear_value x2
      exact h2
    · exact dmaWrite_inv k3
  · exact dmaWrite_inv k3

theorem rxStore_inv {a0 a1 a2 a3} {s4 : State} (k4 : Inv s4) : Inv (rxStore a0 a1 a2 a3 s4) := by
  unfold rxStore
  extract_lets -merge -useContext +onlyGivenNames x0
  clear_value x0
  exact dmaMove_inv (fun y1_0 g1_0 => rxResult_inv g1_0) k4

theorem rxCount_inv {a0 a1 a2 a3} {s4 : State} (k4 : Inv s4) : Inv (rxCount a0 a1 a2 a3 s4) := by
  unfold rxCount
  split
  · exact evcCount_inv k4
  · exact evcCount_inv (State.bump_inv k4)
  · exact State.bump_inv k4
  · exact evcCount_inv (State.bump_inv (State.bump_inv k4))
  · exact evcCount_inv (State.bump_inv k4)
  · exact evcCount_inv (State.bump_inv k4)
  · exact k4

theorem ringAdopt_inv {a0} {s1 : State} (k1 : Inv s1) : Inv (ringAdopt a0 s1) := by
  unfold ringAdopt
  extract_lets -merge -useContext +onlyGivenNames x0
  have h0 : Inv x0 := State.put_inv (State.put_inv (State.put_inv k1))
  clear_value x0
  extract_lets -merge -useContext +onlyGivenNames x1
  have h1 : Inv x1 := State.put_inv h0
  clear_value x1
  exact State.updKrg_inv h1

theorem rxValid_inv {a0 a1 a2 a3} {s4 : State} (k4 : Inv s4) : Inv (rxValid a0 a1 a2 a3 s4) := by
  unfold rxValid
  extract_lets -merge -useContext +onlyGivenNames x0
  clear_value x0
  extract_lets -merge -useContext +onlyGivenNames x1
  clear_value x1
  extract_lets -merge -useContext +onlyGivenNames x2
  clear_value x2
  exact State.updKrg_inv k4

theorem collision_inv {s0 : State} (k0 : Inv s0) : Inv (collision s0) := by
  unfold collision
  extract_lets -merge -useContext +onlyGivenNames x0
  have h0 : Inv x0 := ringLeave_inv (State.put_inv k0)
  clear_value x0
  exact State.put_inv h0

theorem frameDone_inv {a0 a1 a2 a3} {s4 : State} (k4 : Inv s4) : Inv (frameDone a0 a1 a2 a3 s4) := by
  unfold frameDone
  lift_lets -merge -useContext -underBinder
  extract_lets -merge -useContext +onlyGivenNames x0
  clear_value x0
  extract_lets -merge -useContext +onlyGivenNames x1
  have h1 : Inv x1 := relayEnd_inv k4
  clear_value x1
  extract_lets -merge -useContext +onlyGivenNames x2
  clear_value x2
  extract_lets -merge -useContext +onlyGivenNames x3
  have h3 : Inv x3 := rxCount_inv (rxStore_inv h1)
  clear_value x3
  extract_lets -merge -useContext +onlyGivenNames x4
  have h4 : Inv x4 := ite_inv (icuEvent_inv h3) h3
  clear_value x4
  refine ite_inv ?_ ?_
  · exact h1
  · refine ite_inv ?_ ?_
    · split
      · exact ite_inv (collision_inv h1) h1
      · exact h1
    · split
      · exact h4
      · refine ite_inv ?_ ?_
        · exact collision_inv h4
        · refine ite_inv ?_ ?_
          · extract_lets -merge -useContext +onlyGivenNames x9
            clear_value x9
            exact ite_inv (rxValid_inv h4) (ite_inv (rxValid_inv (ringAdopt_inv h4)) h4)
          · exact ite_inv (ringLeave_inv h4) h4

theorem execFrameCheckDone_inv {a0 a1 a2 a3} {s4 : State} (k4 : Inv s4) : OutInv (execFrameCheckDone a0 a1 a2 a3 s4) := by
  unfold execFrameCheckDone
  exact next_inv (frameDone_inv k4)

theorem txFetched_inv {a0 a1} {s2 : State} (k2 : Inv s2) : Inv (txFetched a0 a1 s2) := by
  unfold txFetched
  extract_lets -merge -useContext +onlyGivenNames x0
  clear_value x0
  extract_lets -merge -useContext +onlyGivenNames x1
  clear_value x1
  extract_lets -merge -useContext +onlyGivenNames x2
  clear_value x2
  extract_lets -merge -useContext +onlyGivenNames x3
  clear_value x3
  extract_lets -merge -useContext +onlyGivenNames x4
  have h4 : Inv x4 := ite_inv (injPop_inv k2) k2
  clear_value x4
  exact State.updKrg_inv h4

theorem txFetch_inv {a0} {s1 : State} (k1 : Inv s1) : Inv (txFetch a0 s1) := by
  unfold txFetch
  lift_lets -merge -useContext -underBinder
  extract_lets -merge -useContext +onlyGivenNames x0
  clear_value x0
  extract_lets -merge -useContext +onlyGivenNames x1
  clear_value x1
  extract_lets -merge -useContext +onlyGivenNames x2
  clear_value x2
  refine ite_inv ?_ ?_
  · exact k1
  · refine ite_inv ?_ ?_
    · exact State.bump_inv k1
    · refine dmaMove_inv (fun y3_0 g3_0 => ?_) ?_
      · extract_lets -merge -useContext +onlyGivenNames x4
        have h4 : Inv x4.2 := dmaRead_inv (State.putBit_inv g3_0)
        clear_value x4
        split
        · exact h4
        · exact txFetched_inv h4
      · exact k1

theorem execTxPayloadFetch_inv {a0} {s1 : State} (k1 : Inv s1) : OutInv (execTxPayloadFetch a0 s1) := by
  unfold execTxPayloadFetch
  exact next_inv (txFetch_inv k1)

theorem sendOn_inv {a0 a1 a2 a3 a4} {s5 : State} (k5 : Inv s5) : Inv (sendOn a0 a1 a2 a3 a4 s5) := by
  unfold sendOn
  extract_lets -merge -useContext +onlyGivenNames x0
  clear_value x0
  exact transmit_inv k5

theorem origBlocked_inv {s0 : State} (k0 : Inv s0) : Inv (origBlocked s0) := by
  unfold origBlocked
  exact raise_inv (hwmEvent_inv (State.bump_inv (State.put_inv k0)))

theorem sendOwn_inv {a0 a1} {s2 : State} (k2 : Inv s2) : Inv (sendOwn a0 a1 s2) := by
  unfold sendOwn
  split
  · exact inv_mk k2
  · refine ite_inv ?_ ?_
    · exact k2
    · lift_lets -merge -useContext -underBinder
      extract_lets -merge -useContext +onlyGivenNames x2
      have h2 : Inv x2 := State.updKrg_inv k2
      clear_value x2
      extract_lets -merge -useContext +onlyGivenNames x3
      clear_value x3
      extract_lets -merge -useContext +onlyGivenNames x4
      clear_value x4
      extract_lets -merge -useContext +onlyGivenNames x5
      have h5 : Inv x5 := sendOn_inv (sendOn_inv h2)
      clear_value x5
      extract_lets -merge -useContext +onlyGivenNames x6
      have h6 : Inv x6 := State.updKrg_inv h5
      clear_value x6
      extract_lets -merge -useContext +onlyGivenNames x7
      clear_value x7
      extract_lets -merge -useContext +onlyGivenNames x8
      have h8 : Inv x8 := inv_mk h6
      clear_value x8
      extract_lets -merge -useContext +onlyGivenNames x9
      have h9 : Inv x9 := ite_inv (State.updLnk_inv h8) h8
      clear_value x9
      exact ite_inv (origBlocked_inv (injPop_inv h2)) (ite_inv (origBlocked_inv h2) (evcCount_inv (icuEvent_inv h9)))

theorem execOwnFrameSend_inv {a0 a1} {s2 : State} (k2 : Inv s2) : OutInv (execOwnFrameSend a0 a1 s2) := by
  unfold execOwnFrameSend
  extract_lets -merge -useContext +onlyGivenNames x0
  have h0 : Inv x0 := advanceTo_inv k2
  clear_value x0
  exact next_inv (sendOwn_inv h0)

theorem coldStart_inv {a0} {s1 : State} (k1 : Inv s1) : Inv (coldStart a0 s1) := by
  unfold coldStart
  extract_lets -merge -useContext +onlyGivenNames x0
  clear_value x0
  split
  · exact State.put_inv k1
  · refine ite_inv ?_ ?_
    · exact State.put_inv k1
    · extract_lets -merge -useContext +onlyGivenNames x3
      have h3 : Inv x3 := State.put_inv (State.put_inv (State.put_inv k1))
      clear_value x3
      extract_lets -merge -useContext +onlyGivenNames x4
      have h4 : Inv x4 := State.put_inv h3
      clear_value x4
      extract_lets -merge -useContext +onlyGivenNames x5
      have h5 : Inv x5 := State.updKrg_inv h4
      clear_value x5
      exact sendOwn_inv (txFetch_inv (takeKeys_inv (ringTimeValid_inv h5)))

theorem execListenTimeout_inv {a0} {s1 : State} (k1 : Inv s1) : OutInv (execListenTimeout a0 s1) := by
  unfold execListenTimeout
  extract_lets -merge -useContext +onlyGivenNames x0
  have h0 : Inv x0 := advanceTo_inv k1
  clear_value x0
  exact ite_out (next_inv (coldStart_inv h0)) (next_inv h0)

theorem execBackoffExpiry_inv {a0} {s1 : State} (k1 : Inv s1) : OutInv (execBackoffExpiry a0 s1) := by
  unfold execBackoffExpiry
  extract_lets -merge -useContext +onlyGivenNames x0
  have h0 : Inv x0 := advanceTo_inv k1
  clear_value x0
  exact ite_out (next_inv (coldStart_inv h0)) (next_inv h0)

theorem krgCtlWrite_inv {a0} {s1 : State} (k1 : Inv s1) : Inv (krgCtlWrite a0 s1) := by
  unfold krgCtlWrite
  extract_lets -merge -useContext +onlyGivenNames x0
  clear_value x0
  extract_lets -merge -useContext +onlyGivenNames x1
  have h1 : Inv x1 := State.setReg_inv k1
  clear_value x1
  extract_lets -merge -useContext +onlyGivenNames x2
  clear_value x2
  exact ite_inv (ite_inv (State.put_inv h1) (State.put_inv (State.put_inv h1))) (ite_inv (State.put_inv (State.updKrg_inv
      (ringLeave_inv h1))) h1)

theorem execKrgEnable_inv {a0} {s1 : State} (k1 : Inv s1) : OutInv (execKrgEnable a0 s1) := by
  unfold execKrgEnable
  exact next_inv (krgCtlWrite_inv k1)

theorem execKrgSwreq_inv {a0} {s1 : State} (k1 : Inv s1) : OutInv (execKrgSwreq a0 s1) := by
  unfold execKrgSwreq
  exact next_inv (State.put_inv (State.put_inv k1))

theorem keyWrite_inv {a0 a1 a2} {s3 : State} (k3 : Inv s3) : Inv (keyWrite a0 a1 a2 s3) := by
  unfold keyWrite
  extract_lets -merge -useContext +onlyGivenNames x0
  have h0 : Inv x0 := State.updKrg_inv k3
  clear_value x0
  exact ite_inv h0 (takeKeys_inv h0)

theorem execKrgKeyWrite_inv {a0 a1 a2} {s3 : State} (k3 : Inv s3) : OutInv (execKrgKeyWrite a0 a1 a2 s3) := by
  unfold execKrgKeyWrite
  exact next_inv (keyWrite_inv k3)

theorem krgCntClear_inv {s0 : State} (k0 : Inv s0) : Inv (krgCntClear s0) := ⟨k0.1, mwf_filter _ _ k0.2.1, k0.2.2⟩

theorem execKrgCntclr_inv {s0 : State} (k0 : Inv s0) : OutInv (execKrgCntclr s0) := by
  unfold execKrgCntclr
  exact next_inv (krgCntClear_inv k0)

theorem correct_inv {s0 : State} (k0 : Inv s0) : Inv (correct s0) := by
  unfold correct
  lift_lets -merge -useContext -underBinder
  extract_lets -merge -useContext +onlyGivenNames x0
  clear_value x0
  extract_lets -merge -useContext +onlyGivenNames x1
  clear_value x1
  extract_lets -merge -useContext +onlyGivenNames x2
  clear_value x2
  extract_lets -merge -useContext +onlyGivenNames x3
  clear_value x3
  extract_lets -merge -useContext +onlyGivenNames x4
  clear_value x4
  extract_lets -merge -useContext +onlyGivenNames x5
  clear_value x5
  extract_lets -merge -useContext +onlyGivenNames x6
  clear_value x6
  extract_lets -merge -useContext +onlyGivenNames x7
  have h7 : Inv x7 := State.putS_inv (State.putS_inv k0)
  clear_value x7
  exact ite_inv (ringLeave_inv (State.put_inv k0)) (State.updKrg_inv h7)

theorem ownReturn_inv {s0 : State} (k0 : Inv s0) : Inv (ownReturn s0) := by
  unfold ownReturn
  extract_lets -merge -useContext +onlyGivenNames x0
  clear_value x0
  extract_lets -merge -useContext +onlyGivenNames x1
  clear_value x1
  extract_lets -merge -useContext +onlyGivenNames x2
  have h2 : Inv x2 := State.updKrg_inv k0
  clear_value x2
  exact ite_inv (ringLeave_inv (State.put_inv h2)) h2

theorem execClockCorrection_inv {s0 : State} (k0 : Inv s0) : OutInv (execClockCorrection s0) := by
  unfold execClockCorrection
  refine ite_out ?_ ?_
  · extract_lets -merge -useContext +onlyGivenNames x0
    have h0 : Inv x0 := ite_inv (ownReturn_inv k0) k0
    clear_value x0
    exact next_inv (ite_inv (correct_inv h0) h0)
  · exact next_inv k0

theorem execLinkExchangeRequest_inv {a0} {s1 : State} (k1 : Inv s1) : OutInv (execLinkExchangeRequest a0 s1) := by
  unfold execLinkExchangeRequest
  extract_lets -merge -useContext +onlyGivenNames x0
  have h0 : Inv x0 := advanceTo_inv k1
  clear_value x0
  exact ite_out (next_inv (forAll_inv (fun y1_0 y1_1 g1_1 => ite_inv (transmit_inv g1_1) g1_1) (State.updKrg_inv h0)))
      (next_inv h0)

theorem execLinkExchangeReply_inv {a0} {s1 : State} (k1 : Inv s1) : OutInv (execLinkExchangeReply a0 s1) := by
  unfold execLinkExchangeReply
  exact ite_out (next_inv (transmit_inv k1)) (next_inv k1)

theorem linkDelay_inv {a0 a1 a2} {s3 : State} (k3 : Inv s3) : Inv (linkDelay a0 a1 a2 s3) := by
  unfold linkDelay
  lift_lets -merge -useContext -underBinder
  extract_lets -merge -useContext +onlyGivenNames x0
  clear_value x0
  extract_lets -merge -useContext +onlyGivenNames x1
  have h1 : Inv x1 := State.updKrg_inv k3
  clear_value x1
  extract_lets -merge -useContext +onlyGivenNames x2
  have h2 : Inv x2 := State.updPort_inv h1
  clear_value x2
  extract_lets -merge -useContext +onlyGivenNames x3
  clear_value x3
  extract_lets -merge -useContext +onlyGivenNames x4
  clear_value x4
  extract_lets -merge -useContext +onlyGivenNames x5
  have h5 : Inv x5 := State.put_inv h2
  clear_value x5
  exact ite_inv h2 (ite_inv (State.put_inv h5) h5)

theorem execLinkExchangeReceive_inv {a0 a1 a2} {s3 : State} (k3 : Inv s3) : OutInv (execLinkExchangeReceive a0 a1 a2 s3) :=
    by
  unfold execLinkExchangeReceive
  exact ite_out (next_inv (linkDelay_inv k3)) (next_inv k3)

theorem autoVote_inv {s0 : State} (k0 : Inv s0) : Inv (autoVote s0) := by
  unfold autoVote
  split
  · exact State.updKrg_inv k0
  · exact k0

theorem switchVotes_inv {s0 : State} (k0 : Inv s0) : Inv (switchVotes s0) := by
  unfold switchVotes
  extract_lets -merge -useContext +onlyGivenNames x0
  clear_value x0
  extract_lets -merge -useContext +onlyGivenNames x1
  have h1 : ∀ y1_0, Inv y1_0 → Inv (x1 y1_0) := by
    intro y1_0 g1_0
    exact State.updKrg_inv (State.put_inv g1_0)
  clear_value x1
  split
  · exact ite_inv (h1 _ (icuEvent_inv (State.put_inv (State.put_inv k0)))) (autoVote_inv k0)
  · exact k0
  · exact autoVote_inv (State.put_inv k0)

theorem switchTimeout_inv {s0 : State} (k0 : Inv s0) : Inv (switchTimeout s0) := by
  unfold switchTimeout
  refine ite_inv ?_ ?_
  · exact k0
  · extract_lets -merge -useContext +onlyGivenNames x0
    clear_value x0
    exact ite_inv (State.updKrg_inv (State.put_inv (State.put_inv k0))) (State.updKrg_inv k0)

theorem flipWithdrawn_inv {s0 : State} (k0 : Inv s0) : Inv (flipWithdrawn s0) := by
  unfold flipWithdrawn
  exact flipCancel_inv (State.updKrg_inv (State.put_inv (State.put_inv k0)))

theorem voteAfter_inv {s0 : State} {a1} {s2 : State} (k0 : Inv s0) (k2 : Inv s2) : Inv (voteAfter s0 a1 s2) := by
  unfold voteAfter
  extract_lets -merge -useContext +onlyGivenNames x0
  have h0 : Inv x0 := ite_inv (State.updKrg_inv k2) k2
  clear_value x0
  extract_lets -merge -useContext +onlyGivenNames x1
  clear_value x1
  exact ite_inv (flipRequest_inv h0) (ite_inv (ite_inv (State.put_inv h0) (ite_inv h0 (flipWithdrawn_inv h0))) h0)

theorem flipVotes_inv {s0 : State} (k0 : Inv s0) : Inv (flipVotes s0) := by
  unfold flipVotes
  refine ite_inv ?_ ?_
  · exact k0
  · refine ite_inv ?_ ?_
    · extract_lets -merge -useContext +onlyGivenNames x0
      have h0 : Inv x0 := State.put_inv (State.put_inv k0)
      clear_value x0
      extract_lets -merge -useContext +onlyGivenNames x1
      have h1 : Inv x1 := State.updKrg_inv h0
      clear_value x1
      exact icuEvent_inv (flipNow_inv h1)
    · refine ite_inv ?_ ?_
      · exact flipWithdrawn_inv k0
      · extract_lets -merge -useContext +onlyGivenNames x2
        clear_value x2
        exact ite_inv (flipFailed_inv k0) (State.updKrg_inv k0)

theorem portCycle_inv {a0} {s1 : State} (k1 : Inv s1) : Inv (portCycle a0 s1) := by
  unfold portCycle
  refine ite_inv ?_ ?_
  · exact State.updPort_inv k1
  · extract_lets -merge -useContext +onlyGivenNames x0
    clear_value x0
    extract_lets -merge -useContext +onlyGivenNames x1
    have h1 : Inv x1 := State.updPort_inv k1
    clear_value x1
    extract_lets -merge -useContext +onlyGivenNames x2
    clear_value x2
    exact ite_inv (portDown_inv h1) (ite_inv (evcCount_inv (State.put_inv h1)) h1)

theorem coldCycle_inv {s0 : State} (k0 : Inv s0) : Inv (coldCycle s0) := by
  unfold coldCycle
  split
  · exact k0
  · extract_lets -merge -useContext +onlyGivenNames x2
    clear_value x2
    exact ite_inv (State.put_inv (State.updKrg_inv k0)) (State.updKrg_inv k0)

theorem syncCycle_inv {s0 : State} (k0 : Inv s0) : Inv (syncCycle s0) := by
  unfold syncCycle
  exact ite_inv (ringTimeValid_inv (State.updKrg_inv (State.put_inv k0))) k0

theorem takeVotes_inv {s0 : State} (k0 : Inv s0) : Inv (takeVotes s0) := by
  unfold takeVotes
  extract_lets -merge -useContext +onlyGivenNames x0
  have h0 : Inv x0 := flipTurn_inv (mirrorTurn_inv k0)
  clear_value x0
  extract_lets -merge -useContext +onlyGivenNames x1
  clear_value x1
  extract_lets -merge -useContext +onlyGivenNames x2
  clear_value x2
  exact State.updKrg_inv h0

theorem nextCycle_inv {a0} {s1 : State} (k1 : Inv s1) : Inv (nextCycle a0 s1) := by
  unfold nextCycle
  extract_lets -merge -useContext +onlyGivenNames x0
  clear_value x0
  extract_lets -merge -useContext +onlyGivenNames x1
  have h1 : Inv x1 := syncCycleStart_inv (State.updKrg_inv k1)
  clear_value x1
  extract_lets -merge -useContext +onlyGivenNames x2
  have h2 : Inv x2 := State.put_inv h1
  clear_value x2
  extract_lets -merge -useContext +onlyGivenNames x3
  have h3 : Inv x3 := leadCycle_inv (State.updLnk_inv h2)
  clear_value x3
  exact present_inv (evcCount_inv (icuEvent_inv (State.updKrg_inv h3)))

theorem cycleStart_inv {a0} {s1 : State} (k1 : Inv s1) : Inv (cycleStart a0 s1) := by
  unfold cycleStart
  refine ite_inv ?_ ?_
  · exact ringLeave_inv (State.put_inv k1)
  · refine ite_inv ?_ ?_
    · exact ringLeave_inv (State.put_inv k1)
    · extract_lets -merge -useContext +onlyGivenNames x0
      clear_value x0
      extract_lets -merge -useContext +onlyGivenNames x1
      have h1 : Inv x1 := switchTimeout_inv (switchVotes_inv k1)
      clear_value x1
      extract_lets -merge -useContext +onlyGivenNames x2
      have h2 : Inv x2 := flipVotes_inv h1
      clear_value x2
      extract_lets -merge -useContext +onlyGivenNames x3
      have h3 : Inv x3 := State.put_inv h2
      clear_value x3
      extract_lets -merge -useContext +onlyGivenNames x4
      have h4 : Inv x4 := forAll_inv (fun y5_0 y5_1 g5_1 => portCycle_inv g5_1) h3
      clear_value x4
      exact ite_inv (takeVotes_inv (takeKeys_inv (nextCycle_inv (syncCycle_inv (coldCycle_inv h4))))) h4

theorem execCycleStart_inv {a0} {s1 : State} (k1 : Inv s1) : OutInv (execCycleStart a0 s1) := by
  unfold execCycleStart
  extract_lets -merge -useContext +onlyGivenNames x0
  have h0 : Inv x0 := advanceTo_inv k1
  clear_value x0
  exact ite_out (next_inv (cycleStart_inv h0)) (next_inv h0)

theorem enterService_inv {s0 : State} (k0 : Inv s0) : Inv (enterService s0) := by
  unfold enterService
  extract_lets -merge -useContext +onlyGivenNames x0
  have h0 : Inv x0 := enterMode_inv k0
  clear_value x0
  exact ite_inv h0 (ringLeave_inv h0)

theorem execActionInstant_inv {s0 : State} (k0 : Inv s0) : OutInv (execActionInstant s0) := by
  unfold execActionInstant
  exact ite_out (next_inv (lnkAction_inv (present_inv (evcCount_inv (icuEvent_inv k0))))) (next_inv k0)

end Sys2Proof.Machine
end

