-- ==== Sys2Proof/Laws/InvCan.lean ====
section
/-! SUPPORT. The operations of Machine/Can.lean keep `Inv`. -/

namespace Sys2Proof.Machine

theorem State.updCan_inv {s0 : State} {a1 a2} (k0 : Inv s0) : Inv (State.updCan s0 a1 a2) := by
  unfold State.updCan
  exact inv_mk k0

theorem settleRx_inv {a0} {s1 : State} (k1 : Inv s1) : Inv (settleRx a0 s1) := by
  unfold settleRx
  exact icuSetLine_inv k1

theorem canErrSource_inv {a0} {s1 : State} (k1 : Inv s1) : Inv (canErrSource a0 s1) := by
  unfold canErrSource
  exact icuEvent_inv k1

theorem setOnBus_inv {a0 a1} {s2 : State} (k2 : Inv s2) : Inv (setOnBus a0 a1 s2) := by
  unfold setOnBus
  exact State.putB_inv (State.updCan_inv k2)

theorem txStart_inv {a0} {s1 : State} (k1 : Inv s1) : Inv (txStart a0 s1) := by
  unfold txStart
  refine ite_inv ?_ ?_
  · exact k1
  · split
    · exact k1
    · extract_lets -merge -useContext +onlyGivenNames x2
      clear_value x2
      split
      · exact ite_inv (lockRefuse_inv k1) k1
      · extract_lets -merge -useContext +onlyGivenNames x5
        have h5 : Inv x5.2 := dmaRead_inv k1
        clear_value x5
        split
        · exact h5
        · extract_lets -merge -useContext +onlyGivenNames x8
          clear_value x8
          exact State.updCan_inv (setOnBus_inv h5)

theorem txGo_inv {a0 a1} {s2 : State} (k2 : Inv s2) : Inv (txGo a0 a1 s2) := by
  unfold txGo
  exact txStart_inv (State.setReg_inv k2)

theorem execCanTxgo_inv {a0 a1} {s2 : State} (k2 : Inv s2) : OutInv (execCanTxgo a0 a1 s2) := by
  unfold execCanTxgo
  exact next_inv (access_inv (fun y0_0 g0_0 => txGo_inv g0_0) k2)

theorem txAbort_inv {a0 a1} {s2 : State} (k2 : Inv s2) : Inv (txAbort a0 a1 s2) := by
  unfold txAbort
  extract_lets -merge -useContext +onlyGivenNames x0
  clear_value x0
  exact State.setReg_inv k2

theorem execCanTxabort_inv {a0 a1} {s2 : State} (k2 : Inv s2) : OutInv (execCanTxabort a0 a1 s2) := by
  unfold execCanTxabort
  exact next_inv (access_inv (fun y0_0 g0_0 => txAbort_inv g0_0) k2)

theorem frameEnd_inv {a0} {s1 : State} (k1 : Inv s1) : Inv (frameEnd a0 s1) := by
  unfold frameEnd
  extract_lets -merge -useContext +onlyGivenNames x0
  have h0 : Inv x0 := setOnBus_inv k1
  clear_value x0
  exact ite_inv (State.updCan_inv (State.put_inv h0)) (txStart_inv h0)

theorem rxStoreAt_inv {a0 a1 a2 a3 a4 a5} {s6 : State} (k6 : Inv s6) : Inv (rxStoreAt a0 a1 a2 a3 a4 a5 s6).2 := by
  unfold rxStoreAt
  extract_lets -merge -useContext +onlyGivenNames x0
  clear_value x0
  extract_lets -merge -useContext +onlyGivenNames x1
  clear_value x1
  extract_lets -merge -useContext +onlyGivenNames x2
  clear_value x2
  extract_lets -merge -useContext +onlyGivenNames x3
  clear_value x3
  extract_lets -merge -useContext +onlyGivenNames x4
  clear_value x4
  extract_lets -merge -useContext +onlyGivenNames x5
  clear_value x5
  extract_lets -merge -useContext +onlyGivenNames x6
  have h6 : Inv x6.2 := dmaWrite_inv k6
  clear_value x6
  extract_lets -merge -useContext +onlyGivenNames x7
  have h7 : Inv x7.2 := ite_inv2 (dmaNarrow_inv h6) h6
  clear_value x7
  exact ite_inv2 (dmaNarrow_inv h7) h7

theorem rxStored_inv {a0 a1 a2 a3} {s4 : State} (k4 : Inv s4) : Inv (rxStored a0 a1 a2 a3 s4) := by
  unfold rxStored
  exact settleRx_inv (State.put_inv (State.put_inv (State.updCan_inv k4)))

theorem rxInto_inv {a0 a1 a2 a3 a4} {s5 : State} (k5 : Inv s5) : Inv (rxInto a0 a1 a2 a3 a4 s5) := by
  unfold rxInto
  lift_lets -merge -useContext -underBinder
  extract_lets -merge -useContext +onlyGivenNames x0
  clear_value x0
  extract_lets -merge -useContext +onlyGivenNames x1
  clear_value x1
  extract_lets -merge -useContext +onlyGivenNames x2
  clear_value x2
  extract_lets -merge -useContext +onlyGivenNames x3
  have h3 : Inv x3.2 := rxStoreAt_inv k5
  clear_value x3
  extract_lets -merge -useContext +onlyGivenNames x4
  have h4 : Inv x4 := canErrSource_inv (State.bump_inv k5)
  clear_value x4
  extract_lets -merge -useContext +onlyGivenNames x5
  have h5 : Inv x5.2 := rxStoreAt_inv h4
  clear_value x5
  exact ite_inv (ite_inv (rxStored_inv h3) h3) (ite_inv (ite_inv (rxStored_inv h5) h5) h4)

theorem rxFrame_inv {a0 a1 a2} {s3 : State} (k3 : Inv s3) : Inv (rxFrame a0 a1 a2 s3) := by
  unfold rxFrame
  refine ite_inv ?_ ?_
  · exact k3
  · split
    · exact k3
    · exact dmaMove_inv (fun y2_0 g2_0 => rxInto_inv g2_0) k3

theorem txFailed_inv {a0} {s1 : State} (k1 : Inv s1) : Inv (txFailed a0 s1) := by
  unfold txFailed
  split
  · exact k1
  · exact frameEnd_inv (ite_inv (State.putBit_inv k1) k1)

theorem busFrame_inv {a0 a1 a2} {s3 : State} (k3 : Inv s3) : Inv (busFrame a0 a1 a2 s3) := by
  unfold busFrame
  exact ite_inv k3 (txFailed_inv (rxFrame_inv k3))

theorem execCanFrameReceive_inv {a0 a1 a2} {s3 : State} (k3 : Inv s3) : OutInv (execCanFrameReceive a0 a1 a2 s3) := by
  unfold execCanFrameReceive
  extract_lets -merge -useContext +onlyGivenNames x0
  have h0 : Inv x0 := advanceTo_inv k3
  clear_value x0
  exact next_inv (newCycle_inv (clocked_inv (fun y1_0 g1_0 => busFrame_inv g1_0) h0))

theorem txSent_inv {a0 a1 a2} {s3 : State} (k3 : Inv s3) : Inv (txSent a0 a1 a2 s3) := by
  unfold txSent
  refine ite_inv ?_ ?_
  · extract_lets -merge -useContext +onlyGivenNames x0
    clear_value x0
    extract_lets -merge -useContext +onlyGivenNames x1
    have h1 : Inv x1 := by
      unfold x1
      split
      · exact ite_inv (rxFrame_inv k3) k3
      · exact k3
    clear_value x1
    extract_lets -merge -useContext +onlyGivenNames x4
    have h4 : Inv x4 := State.putBit_inv (State.putBit_inv h1)
    clear_value x4
    extract_lets -merge -useContext +onlyGivenNames x5
    have h5 : Inv x5 := ite_inv (State.put_inv h4) h4
    clear_value x5
    exact icuEvent_inv (frameEnd_inv h5)
  · exact k3

theorem execCanFrameSent_inv {a0 a1 a2} {s3 : State} (k3 : Inv s3) : OutInv (execCanFrameSent a0 a1 a2 s3) := by
  unfold execCanFrameSent
  exact next_inv (newCycle_inv (clocked_inv (fun y0_0 g0_0 => txSent_inv g0_0) k3))

theorem rxRelease_inv {a0 a1 a2} {s3 : State} (k3 : Inv s3) : Inv (rxRelease a0 a1 a2 s3) := by
  unfold rxRelease
  extract_lets -merge -useContext +onlyGivenNames x0
  clear_value x0
  extract_lets -merge -useContext +onlyGivenNames x1
  clear_value x1
  extract_lets -merge -useContext +onlyGivenNames x2
  have h2 : Inv x2 := State.put_inv (State.put_inv k3)
  clear_value x2
  exact ite_inv (canErrSource_inv (State.put_inv h2)) h2

theorem rxAck_inv {a0 a1} {s2 : State} (k2 : Inv s2) : Inv (rxAck a0 a1 s2) := by
  unfold rxAck
  exact settleRx_inv (rxRelease_inv (rxRelease_inv k2))

theorem execCanRxack_inv {a0 a1} {s2 : State} (k2 : Inv s2) : OutInv (execCanRxack a0 a1 s2) := by
  unfold execCanRxack
  exact next_inv (access_inv (fun y0_0 g0_0 => rxAck_inv g0_0) k2)

theorem canCounters_inv {a0 a1 a2} {s3 : State} (k3 : Inv s3) : Inv (canCounters a0 a1 a2 s3) := by
  unfold canCounters
  extract_lets -merge -useContext +onlyGivenNames x0
  have h0 : Inv x0 := State.putB_inv (State.put_inv (State.put_inv k3))
  clear_value x0
  extract_lets -merge -useContext +onlyGivenNames x1
  clear_value x1
  extract_lets -merge -useContext +onlyGivenNames x2
  clear_value x2
  extract_lets -merge -useContext +onlyGivenNames x3
  clear_value x3
  extract_lets -merge -useContext +onlyGivenNames x4
  have h4 : Inv x4 := State.putB_inv (State.putB_inv h0)
  clear_value x4
  exact ite_inv (canErrSource_inv h4) h4

theorem canError_inv {a0 a1 a2 a3} {s4 : State} (k4 : Inv s4) : Inv (canError a0 a1 a2 a3 s4) := by
  unfold canError
  extract_lets -merge -useContext +onlyGivenNames x0
  extract_lets -merge -useContext +onlyGivenNames x1
  have h1 : Inv x1 := canErrSource_inv (ite_inv (State.put_inv k4) (State.put_inv k4))
  clear_value x1
  extract_lets -merge -useContext +onlyGivenNames x2
  have h2 : Inv x2 := canCounters_inv h1
  clear_value x2
  exact ite_inv h2 (txFailed_inv h2)

theorem execCanError_inv {a0 a1 a2 a3} {s4 : State} (k4 : Inv s4) : OutInv (execCanError a0 a1 a2 a3 s4) := by
  unfold execCanError
  exact next_inv (clocked_inv (fun y0_0 g0_0 => canError_inv g0_0) k4)

theorem busOff_inv {a0} {s1 : State} (k1 : Inv s1) : Inv (busOff a0 s1) := by
  unfold busOff
  extract_lets -merge -useContext +onlyGivenNames x0
  have h0 : Inv x0 := icuEvent_inv (setOnBus_inv (State.put_inv k1))
  clear_value x0
  exact ite_inv h0 (State.updCan_inv (State.put_inv h0))

theorem execCanBusOff_inv {a0} {s1 : State} (k1 : Inv s1) : OutInv (execCanBusOff a0 s1) := by
  unfold execCanBusOff
  exact next_inv (clocked_inv (fun y0_0 g0_0 => busOff_inv g0_0) k1)

theorem busRecover_inv {a0} {s1 : State} (k1 : Inv s1) : Inv (busRecover a0 s1) := by
  unfold busRecover
  exact ite_inv (txStart_inv (canCounters_inv (State.put_inv k1))) k1

theorem execCanBusOffRecovery_inv {a0} {s1 : State} (k1 : Inv s1) : OutInv (execCanBusOffRecovery a0 s1) := by
  unfold execCanBusOffRecovery
  exact next_inv (clocked_inv (fun y0_0 g0_0 => busRecover_inv g0_0) k1)

theorem mctlWrite_inv {a0 a1} {s2 : State} (k2 : Inv s2) : Inv (mctlWrite a0 a1 s2) := by
  unfold mctlWrite
  refine ite_inv ?_ ?_
  · extract_lets -merge -useContext +onlyGivenNames x0
    clear_value x0
    extract_lets -merge -useContext +onlyGivenNames x1
    clear_value x1
    exact txStart_inv (State.setReg_inv k2)
  · exact ite_inv (ite_inv (State.updCan_inv k2) (State.put_inv k2)) (State.updCan_inv k2)

theorem execCanConfWrite_inv {a0 a1} {s2 : State} (k2 : Inv s2) : OutInv (execCanConfWrite a0 a1 s2) := by
  unfold execCanConfWrite
  exact next_inv (access_inv (fun y0_0 g0_0 => mctlWrite_inv g0_0) k2)

end Sys2Proof.Machine
end

