-- ==== Sys2Proof/Laws/InvArb.lean ====
section
/-! SUPPORT. The operations of Machine/Arb.lean keep `Inv`. -/

namespace Sys2Proof.Machine

theorem arbGrant_inv {a0 a1} {s2 : State} (k2 : Inv s2) : Inv (arbGrant a0 a1 s2) := by
  unfold arbGrant
  exact State.updBank_inv k2

theorem arbNext_inv {a0} {s1 : State} (k1 : Inv s1) : Inv (arbNext a0 s1) := by
  unfold arbNext
  split
  · exact arbGrant_inv k1
  · exact k1

theorem runJob_inv {s0 : State} {a1} (k0 : Inv s0) : Inv (runJob s0 a1) := by
  unfold runJob
  split
  · exact rxStore_inv k0
  · exact txFetch_inv k0
  · exact snapTake_inv k0
  · exact snapStore_inv k0
  · exact ite_inv (rxFrame_inv k0) (inv_mk k0)

theorem dmaAgain_inv {s0 : State} (k0 : Inv s0) : Inv (dmaAgain s0) := by
  unfold dmaAgain
  exact forAll_inv (fun y0_0 y0_1 g0_1 => txStart_inv g0_1) (foldl_inv (fun t x ht => runJob_inv ht) (inv_mk k0))

theorem lockSettle_inv {s0 : State} (k0 : Inv s0) : Inv (lockSettle s0) := by
  unfold lockSettle
  refine dmaAgain_inv ?_
  refine forAll_inv (fun y0_0 y0_1 g0_1 => ?_) ?_
  · extract_lets -merge -useContext +onlyGivenNames x1
    clear_value x1
    extract_lets -merge -useContext +onlyGivenNames x2
    have h2 : Inv x2 := State.updBank_inv g0_1
    clear_value x2
    exact arbNext_inv (foldl_inv (fun t x ht => lockRefuse_inv ht) h2)
  · exact k0

theorem preempt_inv {a0 a1 a2} {s3 : State} (k3 : Inv s3) : Inv (preempt a0 a1 a2 s3) := by
  unfold preempt
  exact evcCount_inv (State.updBank_inv k3)

theorem redecide_inv {a0 a1 a2} {s3 : State} (k3 : Inv s3) : Inv (redecide a0 a1 a2 s3) := by
  unfold redecide
  exact ite_inv (State.updBank_inv k3) (State.updBank_inv k3)

theorem arbPresent_inv {a0 a1 a2} {s3 : State} (k3 : Inv s3) : Inv (arbPresent a0 a1 a2 s3) := by
  unfold arbPresent
  refine ite_inv ?_ ?_
  · exact ite_inv (lockRefuse_inv k3) (State.updBank_inv k3)
  · split
    · exact arbGrant_inv k3
    · exact ite_inv (redecide_inv k3) (ite_inv (preempt_inv k3) (State.updBank_inv k3))

theorem execArbRequest_inv {a0 a1 a2 a3 a4 a5 a6} {s7 : State} (k7 : Inv s7) : OutInv (execArbRequest a0 a1 a2 a3 a4 a5 a6
    s7) := by
  unfold execArbRequest
  exact next_inv (arbPresent_inv (advanceTo_inv k7))

theorem beatsWrite_inv : ∀ {l : List (BitVec 64)} {a : Nat} {s : State}, Inv s → Inv (beatsWrite a l s)
  | [], _, _, h => h
  | _ :: l, _, _, h => by
    unfold beatsWrite
    exact beatsWrite_inv (State.setWord_inv (State.setWord_inv (State.setErrs_inv h)))

theorem beatsRead_inv : ∀ {n a : Nat} {s : State}, Inv s → Inv (beatsRead a n s).2.2
  | 0, _, _, h => h
  | n + 1, _, _, h => by
    unfold beatsRead
    exact beatsRead_inv (n := n) (eccRead_inv h)

theorem fifoDrain_inv {a0 a1} {s2 : State} (k2 : Inv s2) : Inv (fifoDrain a0 a1 s2) := by
  unfold fifoDrain
  extract_lets -merge -useContext +onlyGivenNames x0
  clear_value x0
  extract_lets -merge -useContext +onlyGivenNames x1
  have h1 : Inv x1 := foldl_inv (fun t x ht => dmaNarrow_inv ht) k2
  clear_value x1
  exact inv_mk h1

theorem arbDone_inv {a0 a1} {s2 : State} (k2 : Inv s2) : Inv (arbDone a0 a1 s2) := by
  unfold arbDone
  lift_lets -merge -useContext -underBinder
  extract_lets -merge -useContext +onlyGivenNames x0
  clear_value x0
  extract_lets -merge -useContext +onlyGivenNames x1
  have h1 : Inv x1.2.2 := beatsRead_inv k2
  clear_value x1
  extract_lets -merge -useContext +onlyGivenNames x2
  have h2 : Inv x2 := ite_inv (arbEnd_inv (ite_inv (fifoDrain_inv k2) (beatsWrite_inv k2))) (State.updBank_inv h1)
  clear_value x2
  exact arbNext_inv (State.updBank_inv h2)

theorem execArbTransferComplete_inv {a0 a1} {s2 : State} (k2 : Inv s2) : OutInv (execArbTransferComplete a0 a1 s2) := by
  unfold execArbTransferComplete
  extract_lets -merge -useContext +onlyGivenNames x0
  have h0 : Inv x0 := advanceTo_inv k2
  clear_value x0
  split
  · exact next_inv h0
  · exact next_inv (arbDone_inv h0)

theorem arbCut_inv {a0 a1} {s2 : State} (k2 : Inv s2) : Inv (arbCut a0 a1 s2) := by
  unfold arbCut
  extract_lets -merge -useContext +onlyGivenNames x0
  have h0 : Inv x0 := arbFault_inv (State.putBit_inv k2)
  clear_value x0
  exact arbNext_inv (State.updBank_inv (arbEnd_inv (evcCount_inv h0)))

theorem execArbGrantCutoff_inv {a0} {s1 : State} (k1 : Inv s1) : OutInv (execArbGrantCutoff a0 s1) := by
  unfold execArbGrantCutoff
  split
  · exact next_inv k1
  · exact next_inv (arbCut_inv k1)

theorem lockTake_inv {a0 a1} {s2 : State} (k2 : Inv s2) : Inv (lockTake a0 a1 s2) := by
  unfold lockTake
  exact lockSettle_inv (State.put_inv (State.put_inv k2))

theorem acquire_inv {a0 a1} {s2 : State} (k2 : Inv s2) : Inv (acquire a0 a1 s2).2.2 := by
  unfold acquire
  extract_lets -merge -useContext +onlyGivenNames x0
  clear_value x0
  exact ite_inv3 (snd2_inv (lockTake_inv k2)) (ite_inv3 (snd2_inv (evcCount_inv (arbFault_inv k2))) (snd2_inv k2))

theorem acqPut_inv {a0 a1 a2} {s3 : State} (k3 : Inv s3) : Inv (acqPut a0 a1 a2 s3) := by
  unfold acqPut
  exact State.updBank_inv k3

theorem acqCycle_inv {a0} {s1 : State} (k1 : Inv s1) : Inv (acqCycle a0 s1) := by
  unfold acqCycle
  exact State.updBank_inv k1

theorem acqOvertake_inv {a0 a1 a2} {s3 : State} (k3 : Inv s3) : Inv (acqOvertake a0 a1 a2 s3) := by
  unfold acqOvertake
  extract_lets -merge -useContext +onlyGivenNames x0
  have h0 : Inv x0 := acqPut_inv (acqPut_inv k3)
  clear_value x0
  exact lockTake_inv (State.updBank_inv h0)

theorem acqNow_inv {a0 a1} {s2 : State} (k2 : Inv s2) : Inv (acqNow a0 a1 s2) := by
  unfold acqNow
  lift_lets -merge -useContext -underBinder
  extract_lets -merge -useContext +onlyGivenNames x0
  clear_value x0
  extract_lets -merge -useContext +onlyGivenNames x1
  clear_value x1
  extract_lets -merge -useContext +onlyGivenNames x2
  have h2 : Inv x2.2.2 := acquire_inv k2
  clear_value x2
  extract_lets -merge -useContext +onlyGivenNames x3
  have h3 : Inv x3 := acqPut_inv (arbEnd_inv h2)
  clear_value x3
  exact ite_inv (acqOvertake_inv k2) (ite_inv h3 (ite_inv (State.updBank_inv h3) (ite_inv h3 (State.updBank_inv h3))))

theorem execArbAcquire_inv {a0 a1 a2} {s3 : State} (k3 : Inv s3) : OutInv (execArbAcquire a0 a1 a2 s3) := by
  unfold execArbAcquire
  exact next_inv (acqNow_inv (acqCycle_inv (advanceTo_inv k3)))

theorem acqAfter_inv {a0} {s1 : State} (k1 : Inv s1) : Inv (acqAfter a0 s1) := by
  unfold acqAfter
  extract_lets -merge -useContext +onlyGivenNames x0
  clear_value x0
  split
  · exact k1
  · extract_lets -merge -useContext +onlyGivenNames x3
    clear_value x3
    extract_lets -merge -useContext +onlyGivenNames x4
    have h4 : Inv x4 := State.updBank_inv k1
    clear_value x4
    extract_lets -merge -useContext +onlyGivenNames x5
    have h5 : Inv x5 := foldl_inv (fun t x ht => acqPut_inv ht) h4
    clear_value x5
    exact lockTake_inv (acqPut_inv h5)

theorem releaseWrite_inv {a0 a1} {s2 : State} (k2 : Inv s2) : Inv (releaseWrite a0 a1 s2).2 := by
  unfold releaseWrite
  extract_lets -merge -useContext +onlyGivenNames x0
  have h0 : Inv x0 := acqCycle_inv k2
  clear_value x0
  exact ite_inv2 (snd_inv (lockSettle_inv (acqAfter_inv (arbEnd_inv (State.updBank_inv (State.put_inv h0)))))) (snd_inv
      (arbEnd_inv h0))

theorem execArbRelease_inv {a0 a1 a2} {s3 : State} (k3 : Inv s3) : OutInv (execArbRelease a0 a1 a2 s3) := by
  unfold execArbRelease
  exact next_inv (releaseWrite_inv (advanceTo_inv k3))

theorem execArbLockHoldExpiry_inv {a0} {s1 : State} (k1 : Inv s1) : OutInv (execArbLockHoldExpiry a0 s1) := by
  unfold execArbLockHoldExpiry
  lift_lets -merge -useContext -underBinder
  extract_lets -merge -useContext +onlyGivenNames x0
  clear_value x0
  extract_lets -merge -useContext +onlyGivenNames x1
  have h1 : Inv x1 := arbFault_inv k1
  clear_value x1
  exact ite_out (next_inv k1) (next_inv (lockSettle_inv (State.put_inv (State.put_inv h1))))

theorem locksLost_inv {a0} {s1 : State} (k1 : Inv s1) : Inv (locksLost a0 s1) := by
  unfold locksLost
  split
  · exact k1
  · extract_lets -merge -useContext +onlyGivenNames x2
    have h2 : Inv x2 := arbFault_inv k1
    clear_value x2
    exact lockSettle_inv (forAll_inv (fun y3_0 y3_1 g3_1 => State.put_inv (State.put_inv g3_1)) h2)

theorem upset_inv {a0} {s1 : State} (k1 : Inv s1) : Inv (upset a0 s1) := by
  unfold upset
  extract_lets -merge -useContext +onlyGivenNames x0
  clear_value x0
  exact ite_inv (ite_inv (eccFlip_inv k1) (State.setErrs_inv k1)) k1

theorem scrub_inv {a0 a1 a2 a3 a4} {s5 : State} (k5 : Inv s5) : Inv (scrub a0 a1 a2 a3 a4 s5) := by
  unfold scrub
  split
  · refine ite_inv ?_ ?_
    · exact k5
    · lift_lets -merge -useContext -underBinder
      extract_lets -merge -useContext +onlyGivenNames x1
      clear_value x1
      extract_lets -merge -useContext +onlyGivenNames x2
      clear_value x2
      extract_lets -merge -useContext +onlyGivenNames x3
      have h3 : Inv x3 := inv_mk k5
      clear_value x3
      extract_lets -merge -useContext +onlyGivenNames x4
      have h4 : Inv x4 := ite_inv (State.put_inv h3) h3
      clear_value x4
      extract_lets -merge -useContext +onlyGivenNames x5
      have h5 : Inv x5 := eccFlip_inv h4
      clear_value x5
      exact ite_inv h4 (evcCount_inv (ite_inv (eccRead_inv h5) (eccFailed_inv h5)))

theorem execScrubRead_inv {a0 a1 a2 a3 a4 a5} {s6 : State} (k6 : Inv s6) : OutInv (execScrubRead a0 a1 a2 a3 a4 a5 s6) :=
    by
  unfold execScrubRead
  exact next_inv (scrub_inv (foldl_inv (fun t x ht => upset_inv ht) k6))

theorem swSet_inv {a0} {s1 : State} (k1 : Inv s1) : Inv (swSet a0 s1) := by
  unfold swSet
  exact forAll_inv (fun y0_0 y0_1 g0_1 => icuEvent_inv g0_1) k1

theorem execIcuSwset_inv {a0} {s1 : State} (k1 : Inv s1) : OutInv (execIcuSwset a0 s1) := by
  unfold execIcuSwset
  exact next_inv (swSet_inv k1)

end Sys2Proof.Machine
end

