-- ==== Sys2Proof/Laws/InvMirror.lean ====
section
/-! SUPPORT. The operations of Machine/Mirror.lean keep `Inv`. -/

namespace Sys2Proof.Machine

theorem State.updMir_inv {s0 : State} {a1} (k0 : Inv s0) : Inv (State.updMir s0 a1) := by
  unfold State.updMir
  exact inv_mk k0

theorem copyStart_inv {a0 a1 a2} {s3 : State} (k3 : Inv s3) : Inv (copyStart a0 a1 a2 s3) := by
  unfold copyStart
  lift_lets -merge -useContext -underBinder
  extract_lets -merge -useContext +onlyGivenNames x0
  have h0 : Inv x0 := State.put_inv (State.put_inv (State.put_inv (State.put_inv k3)))
  clear_value x0
  extract_lets -merge -useContext +onlyGivenNames x1
  have h1 : Inv x1 := ite_inv (State.put_inv (State.put_inv h0)) h0
  clear_value x1
  extract_lets -merge -useContext +onlyGivenNames x2
  clear_value x2
  exact inv_mk h1

theorem controllerIdle_inv {s0 : State} (k0 : Inv s0) : Inv (controllerIdle s0) := by
  unfold controllerIdle
  extract_lets -merge -useContext +onlyGivenNames x0
  have h0 : Inv x0 := State.put_inv (State.put_inv (State.put_inv (State.put_inv k0)))
  clear_value x0
  split
  · exact State.put_inv (State.put_inv h0)
  · exact State.put_inv (State.put_inv h0)

theorem mirrorNext_inv {s0 : State} (k0 : Inv s0) : Inv (mirrorNext s0) := by
  unfold mirrorNext
  split
  · exact controllerIdle_inv k0
  · exact copyStart_inv k0

theorem pairStays_inv {a0} {s1 : State} (k1 : Inv s1) : Inv (pairStays a0 s1) := by
  unfold pairStays
  exact settleSusp_inv (State.updMir_inv k1)

theorem pairReturns_inv {a0} {s1 : State} (k1 : Inv s1) : Inv (pairReturns a0 s1) := by
  unfold pairReturns
  extract_lets -merge -useContext +onlyGivenNames x0
  have h0 : Inv x0 := settleMirror_inv (State.updMir_inv k1)
  clear_value x0
  exact settleSusp_inv (ite_inv (resumeScheduler_inv h0) h0)

theorem verdictGood_inv {a0} {s1 : State} (k1 : Inv s1) : Inv (verdictGood a0 s1) := by
  unfold verdictGood
  extract_lets -merge -useContext +onlyGivenNames x0
  have h0 : Inv x0 := ite_inv (pairStays_inv k1) (pairReturns_inv k1)
  clear_value x0
  extract_lets -merge -useContext +onlyGivenNames x1
  have h1 : Inv x1 := outrank_inv h0
  clear_value x1
  split
  · exact State.updLnk_inv (enterBy_inv (instepFall_inv h1))
  · exact State.updLnk_inv (enterBy_inv (instepFall_inv h1))
  · exact State.updLnk_inv (instepFall_inv h1)
  · exact h1

theorem verdictCp_inv {s0 : State} (k0 : Inv s0) : Inv (verdictCp s0) := by
  unfold verdictCp
  extract_lets -merge -useContext +onlyGivenNames x0
  have h0 : Inv x0 := outrank_inv (pairStays_inv k0)
  clear_value x0
  split
  · exact limpTrigger_inv (enterBy_inv h0)
  · exact limpTrigger_inv (enterBy_inv h0)
  · exact limpTrigger_inv (withdrawNow_inv h0)
  · exact h0

theorem verdictFacet_inv {a0} {s1 : State} (k1 : Inv s1) : Inv (verdictFacet a0 s1) := by
  unfold verdictFacet
  lift_lets -merge -useContext -underBinder
  extract_lets -merge -useContext +onlyGivenNames x0
  clear_value x0
  extract_lets -merge -useContext +onlyGivenNames x1
  have h1 : Inv x1 := State.updMir_inv (State.putBit_inv k1)
  clear_value x1
  refine ite_inv ?_ ?_
  · exact settle_inv (withdrawNow_inv (pairStays_inv (State.put_inv k1)))
  · split
    · exact mirrorFlip_inv h1
    · exact mirrorFlip_inv h1
    · exact mirrorFlip_inv h1
    · exact h1

theorem verdictPwm_inv {a0} {s1 : State} (k1 : Inv s1) : Inv (verdictPwm a0 s1) := by
  unfold verdictPwm
  extract_lets -merge -useContext +onlyGivenNames x0
  clear_value x0
  exact sendRaise_inv (State.putBit_inv k1)

theorem verdictBad_inv {a0} {s1 : State} (k1 : Inv s1) : Inv (verdictBad a0 s1) := by
  unfold verdictBad
  exact ite_inv (verdictCp_inv k1) (ite_inv (pairStays_inv k1) (ite_inv (verdictFacet_inv k1) (verdictPwm_inv k1)))

theorem verdict_inv {a0 a1 a2} {s3 : State} (k3 : Inv s3) : Inv (verdict a0 a1 a2 s3) := by
  unfold verdict
  extract_lets -merge -useContext +onlyGivenNames x0
  clear_value x0
  extract_lets -merge -useContext +onlyGivenNames x1
  have h1 : Inv x1 := State.put_inv (State.put_inv k3)
  clear_value x1
  extract_lets -merge -useContext +onlyGivenNames x2
  have h2 : Inv x2 := icuEvent_inv (State.putB_inv (State.putB_inv h1))
  clear_value x2
  extract_lets -merge -useContext +onlyGivenNames x3
  clear_value x3
  extract_lets -merge -useContext +onlyGivenNames x4
  have h4 : Inv x4 := State.updMir_inv h2
  clear_value x4
  exact ite_inv (verdictGood_inv h4) (verdictBad_inv h4)

theorem copyJudged_inv {a0 a1 a2 a3} {s4 : State} (k4 : Inv s4) : Inv (copyJudged a0 a1 a2 a3 s4) := by
  unfold copyJudged
  refine ite_inv ?_ ?_
  · exact State.updMir_inv k4
  · extract_lets -merge -useContext +onlyGivenNames x0
    clear_value x0
    exact verdict_inv k4

theorem mirrorGoesOn_inv {a0 a1} {s2 : State} (k2 : Inv s2) : Inv (mirrorGoesOn a0 a1 s2) := by
  unfold mirrorGoesOn
  exact ite_inv (copyStart_inv k2) (mirrorNext_inv k2)

theorem demandGoesOn_inv {a0 a1} {s2 : State} (k2 : Inv s2) : Inv (demandGoesOn a0 a1 s2) := by
  unfold demandGoesOn
  refine ite_inv ?_ ?_
  · exact copyStart_inv k2
  · lift_lets -merge -useContext -underBinder
    extract_lets -merge -useContext +onlyGivenNames x0
    clear_value x0
    extract_lets -merge -useContext +onlyGivenNames x1
    clear_value x1
    extract_lets -merge -useContext +onlyGivenNames x2
    have h2 : Inv x2 := inv_mk k2
    clear_value x2
    split
    · exact icuEvent_inv (State.put_inv (controllerIdle_inv h2))
    · exact copyStart_inv h2

theorem demandStops_inv {s0 : State} (k0 : Inv s0) : Inv (demandStops s0) := by
  unfold demandStops
  exact controllerIdle_inv (inv_mk k0)

theorem restoreEnd_inv {a0 a1} {s2 : State} (k2 : Inv s2) : Inv (restoreEnd a0 a1 s2) := by
  unfold restoreEnd
  exact ite_inv k2 (sendRaise_inv (State.updMir_inv k2))

theorem copyDone_inv {a0} {s1 : State} (k1 : Inv s1) : Inv (copyDone a0 s1) := by
  unfold copyDone
  extract_lets -merge -useContext +onlyGivenNames x0
  clear_value x0
  extract_lets -merge -useContext +onlyGivenNames x1
  clear_value x1
  extract_lets -merge -useContext +onlyGivenNames x2
  clear_value x2
  extract_lets -merge -useContext +onlyGivenNames x3
  have h3 : Inv x3 := restoreEnd_inv (bistRecord_inv k1)
  clear_value x3
  exact ite_inv (mirrorGoesOn_inv (copyJudged_inv h3)) (demandGoesOn_inv (ite_inv h3 (pairStays_inv h3)))

theorem execBistCopyDone_inv {a0} {s1 : State} (k1 : Inv s1) : OutInv (execBistCopyDone a0 s1) := by
  unfold execBistCopyDone
  exact ite_out (next_inv (copyDone_inv k1)) (next_inv k1)

theorem startupCut_inv {a0 a1} {s2 : State} (k2 : Inv s2) : Inv (startupCut a0 a1 s2) := by
  unfold startupCut
  exact settleSusp_inv (waveNext_inv (logicCut_inv k2))

theorem execStartupLbistWaveDone_inv {a0} {s1 : State} (k1 : Inv s1) : OutInv (execStartupLbistWaveDone a0 s1) := by
  unfold execStartupLbistWaveDone
  split
  · exact next_inv (settleSusp_inv (waveDone_inv k1))
  · exact next_inv k1

theorem testCut_inv {a0} {s1 : State} (k1 : Inv s1) : Inv (testCut a0 s1) := by
  unfold testCut
  extract_lets -merge -useContext +onlyGivenNames x0
  clear_value x0
  extract_lets -merge -useContext +onlyGivenNames x1
  clear_value x1
  refine ite_inv ?_ ?_
  · exact k1
  · split
    · exact startupCut_inv k1
    · exact ite_inv (demandGoesOn_inv (logicCut_inv k1)) (demandStops_inv (logicCut_inv k1))
    · exact mirrorGoesOn_inv (copyJudged_inv (logicCut_inv k1))
    · exact k1

theorem untested_inv {s0 : State} (k0 : Inv s0) : Inv (untested s0) := by
  unfold untested
  extract_lets -merge -useContext +onlyGivenNames x0
  have h0 : Inv x0 := ite_inv (State.put_inv k0) k0
  clear_value x0
  exact forAll_inv (fun y1_0 y1_1 g1_1 => State.put_inv (State.put_inv g1_1)) h0

theorem mirrorTest_inv {a0} {s1 : State} (k1 : Inv s1) : Inv (mirrorTest a0 s1) := by
  unfold mirrorTest
  exact ite_inv (mirrorNext_inv k1) (ite_inv (mirrorNext_inv (demandStops_inv (untested_inv (logicCut_inv k1)))) (ite_inv
      (mirrorNext_inv (copyJudged_inv (logicCut_inv k1))) k1))

theorem freeze_inv {a0} {s1 : State} (k1 : Inv s1) : Inv (freeze a0 s1) := by
  unfold freeze
  exact ite_inv (stopScheduler_inv k1) (ite_inv (State.updPrs_inv k1) (linesLow_inv k1))

theorem mismatch_inv {a0} {s1 : State} (k1 : Inv s1) : Inv (mismatch a0 s1) := by
  unfold mismatch
  extract_lets -merge -useContext +onlyGivenNames x0
  have h0 : Inv x0 := State.bump_inv (State.put_inv k1)
  clear_value x0
  extract_lets -merge -useContext +onlyGivenNames x1
  clear_value x1
  extract_lets -merge -useContext +onlyGivenNames x2
  have h2 : Inv x2 := State.updMir_inv h0
  clear_value x2
  extract_lets -merge -useContext +onlyGivenNames x3
  have h3 : Inv x3 := freeze_inv (ite_inv (locksLost_inv h2) h2)
  clear_value x3
  extract_lets -merge -useContext +onlyGivenNames x4
  have h4 : Inv x4 := recordRaise_inv (settleMirror_inv (settleSusp_inv h3))
  clear_value x4
  exact mirrorTest_inv h4

theorem execMirrorMismatch_inv {a0} {s1 : State} (k1 : Inv s1) : OutInv (execMirrorMismatch a0 s1) := by
  unfold execMirrorMismatch
  exact ite_out (next_inv (mismatch_inv k1)) (next_inv k1)

theorem syncParity_inv {s0 : State} (k0 : Inv s0) : Inv (syncParity s0) := by
  unfold syncParity
  extract_lets -merge -useContext +onlyGivenNames x0
  have h0 : Inv x0 := State.bump_inv (State.put_inv k0)
  clear_value x0
  exact sendRaise_inv (evcCount_inv (icuEvent_inv h0))

theorem execSyncParityError_inv {s0 : State} (k0 : Inv s0) : OutInv (execSyncParityError s0) := by
  unfold execSyncParityError
  exact next_inv (syncParity_inv k0)

theorem releaseDie_inv {s0 : State} (k0 : Inv s0) : Inv (releaseDie s0) := by
  unfold releaseDie
  exact settleSusp_inv (resetRelease_inv k0)

theorem execDeviceResetRelease_inv {s0 : State} (k0 : Inv s0) : OutInv (execDeviceResetRelease s0) := by
  unfold execDeviceResetRelease
  exact ite_out (next_inv (releaseDie_inv k0)) (next_inv k0)

theorem execHeartbeatResetRelease_inv {s0 : State} (k0 : Inv s0) : OutInv (execHeartbeatResetRelease s0) := by
  unfold execHeartbeatResetRelease
  refine ite_out ?_ ?_
  · extract_lets -merge -useContext +onlyGivenNames x0
    have h0 : Inv x0 := State.putB_inv (State.put_inv k0)
    clear_value x0
    extract_lets -merge -useContext +onlyGivenNames x1
    have h1 : Inv x1 := State.putB_inv h0
    clear_value x1
    exact next_inv (State.updPwr_inv (releaseDie_inv h1))
  · exact next_inv k0

end Sys2Proof.Machine
end

