-- ==== Sys2Proof/Laws/InvBist.lean ====
section
/-! SUPPORT. The operations of Machine/Bist.lean keep `Inv`. -/

namespace Sys2Proof.Machine

theorem bistStart_inv {s0 : State} (k0 : Inv s0) : Inv (bistStart s0) := by
  unfold bistStart
  refine ite_inv ?_ ?_
  · exact k0
  · split
    · exact State.put_inv k0
    · exact ite_inv (State.put_inv k0) (copyStart_inv (inv_mk k0))

theorem execBstStart_inv {s0 : State} (k0 : Inv s0) : OutInv (execBstStart s0) := by
  unfold execBstStart
  exact next_inv (bistStart_inv k0)

theorem execBstAbort_inv {s0 : State} (k0 : Inv s0) : OutInv (execBstAbort s0) := by
  unfold execBstAbort
  exact next_inv (testCut_inv k0)

theorem execBistWatchdog_inv {s0 : State} (k0 : Inv s0) : OutInv (execBistWatchdog s0) := by
  unfold execBistWatchdog
  exact next_inv (testCut_inv k0)

theorem showWindow_inv {a0} {s1 : State} (k1 : Inv s1) : Inv (showWindow a0 s1) := by
  unfold showWindow
  split
  · exact State.put_inv (State.put_inv k1)
  · extract_lets -merge -useContext +onlyGivenNames x2
    have h2 : Inv x2.2 := draw_inv k1
    clear_value x2
    exact State.setReg_inv h2

theorem analogStart_inv {s0 : State} (k0 : Inv s0) : Inv (analogStart s0) := by
  unfold analogStart
  lift_lets -merge -useContext -underBinder
  extract_lets -merge -useContext +onlyGivenNames x0
  clear_value x0
  extract_lets -merge -useContext +onlyGivenNames x1
  clear_value x1
  extract_lets -merge -useContext +onlyGivenNames x2
  clear_value x2
  extract_lets -merge -useContext +onlyGivenNames x3
  have h3 : Inv x3 := showWindow_inv (State.put_inv k0)
  clear_value x3
  extract_lets -merge -useContext +onlyGivenNames x4
  clear_value x4
  extract_lets -merge -useContext +onlyGivenNames x5
  have h5 : Inv x5 := inv_mk h3
  clear_value x5
  exact ite_inv k0 (ite_inv (ite_inv (settleLeg_inv h5) h5) (State.put_inv k0))

theorem execAnalogStepStart_inv {s0 : State} (k0 : Inv s0) : OutInv (execAnalogStepStart s0) := by
  unfold execAnalogStepStart
  exact next_inv (analogStart_inv k0)

theorem execAnalogStepAbort_inv {s0 : State} (k0 : Inv s0) : OutInv (execAnalogStepAbort s0) := by
  unfold execAnalogStepAbort
  exact next_inv (analogCut_inv k0)

theorem analogDone_inv {a0 a1} {s2 : State} (k2 : Inv s2) : Inv (analogDone a0 a1 s2) := by
  unfold analogDone
  extract_lets -merge -useContext +onlyGivenNames x0
  clear_value x0
  extract_lets -merge -useContext +onlyGivenNames x1
  have h1 : Inv x1 := State.put_inv (State.put_inv (stepEnd_inv k2))
  clear_value x1
  exact icuEvent_inv (State.put_inv (State.put_inv h1))

theorem execAnalogStepDone_inv {a0 a1} {s2 : State} (k2 : Inv s2) : OutInv (execAnalogStepDone a0 a1 s2) := by
  unfold execAnalogStepDone
  exact ite_out (next_inv (analogDone_inv k2)) (next_inv k2)

end Sys2Proof.Machine
end

