-- ==== Sys2Proof/Laws/InvSystem.lean ====
section
/-! SUPPORT. The operations of Machine/System.lean keep `Inv`. -/

namespace Sys2Proof.Machine

theorem supplyMove_inv {a0 a1} {s2 : State} (k2 : Inv s2) : Inv (supplyMove a0 a1 s2) := by
  unfold supplyMove
  extract_lets -merge -useContext +onlyGivenNames x0
  clear_value x0
  extract_lets -merge -useContext +onlyGivenNames x1
  have h1 : Inv x1 := supShow_inv k2
  clear_value x1
  extract_lets -merge -useContext +onlyGivenNames x2
  have h2 : Inv x2 := ite_inv (raise_inv (ite_inv (analogCut_inv (testCut_inv h1)) h1)) h1
  clear_value x2
  exact settle_inv (State.updHwm_inv h2)

theorem execSupplySupervisorChange_inv {a0 a1} {s2 : State} (k2 : Inv s2) : OutInv (execSupplySupervisorChange a0 a1 s2) :=
    by
  unfold execSupplySupervisorChange
  extract_lets -merge -useContext +onlyGivenNames x0
  clear_value x0
  extract_lets -merge -useContext +onlyGivenNames x1
  clear_value x1
  extract_lets -merge -useContext +onlyGivenNames x2
  have h2 : Inv x2 := State.updPwr_inv k2
  clear_value x2
  exact ite_out (next_inv (supplyMove_inv h2)) (next_inv h2)

theorem refLost_inv {a0} {s1 : State} (k1 : Inv s1) : Inv (refLost a0 s1) := by
  unfold refLost
  extract_lets -merge -useContext +onlyGivenNames x0
  have h0 : Inv x0 := State.put_inv (State.put_inv (State.put_inv k1))
  clear_value x0
  extract_lets -merge -useContext +onlyGivenNames x1
  have h1 : Inv x1 := State.updPwr_inv h0
  clear_value x1
  extract_lets -merge -useContext +onlyGivenNames x2
  have h2 : Inv x2 := sendRaise_inv (analogCut_inv (testCut_inv h1))
  clear_value x2
  exact forAll_inv (fun y3_0 y3_1 g3_1 => phyFail_inv g3_1) (State.put_inv h2)

theorem execReferenceLoss_inv {s0 : State} (k0 : Inv s0) : OutInv (execReferenceLoss s0) := by
  unfold execReferenceLoss
  exact ite_out (next_inv (refLost_inv k0)) (next_inv k0)

theorem execRefMonitorWindow_inv {a0} {s1 : State} (k1 : Inv s1) : OutInv (execRefMonitorWindow a0 s1) := by
  unfold execRefMonitorWindow
  exact ite_out (next_inv (refLost_inv k1)) (next_inv k1)

theorem gateWrite_inv {a0} {s1 : State} (k1 : Inv s1) : Inv (gateWrite a0 s1) := by
  unfold gateWrite
  extract_lets -merge -useContext +onlyGivenNames x0
  clear_value x0
  extract_lets -merge -useContext +onlyGivenNames x1
  have h1 : Inv x1 := State.put_inv (State.put_inv (State.put_inv (State.put_inv k1)))
  clear_value x1
  extract_lets -merge -useContext +onlyGivenNames x2
  have h2 : Inv x2 := ite_inv h1 (forAll_inv (fun y3_0 y3_1 g3_1 => lupStop_inv g3_1) h1)
  clear_value x2
  extract_lets -merge -useContext +onlyGivenNames x4
  have h4 : Inv x4 := ite_inv h2 (injEnd_inv h2)
  clear_value x4
  exact ite_inv (dmaAgain_inv h4) h4

theorem execClkGateWrite_inv {a0} {s1 : State} (k1 : Inv s1) : OutInv (execClkGateWrite a0 s1) := by
  unfold execClkGateWrite
  exact next_inv (gateWrite_inv k1)

theorem sensorRetry_inv {a0} {s1 : State} (k1 : Inv s1) : Inv (sensorRetry a0 s1) := by
  unfold sensorRetry
  extract_lets -merge -useContext +onlyGivenNames x0
  clear_value x0
  extract_lets -merge -useContext +onlyGivenNames x1
  clear_value x1
  exact supShow_inv (State.updHwm_inv k1)

theorem domctlWrite_inv {a0} {s1 : State} (k1 : Inv s1) : Inv (domctlWrite a0 s1) := by
  unfold domctlWrite
  extract_lets -merge -useContext +onlyGivenNames x0
  clear_value x0
  extract_lets -merge -useContext +onlyGivenNames x1
  clear_value x1
  extract_lets -merge -useContext +onlyGivenNames x2
  have h2 : Inv x2 := State.put_inv (State.put_inv (State.put_inv k1))
  clear_value x2
  exact settleSupplies_inv (sensorRetry_inv (forAll_inv (fun y3_0 y3_1 g3_1 => phyFail_inv g3_1) h2))

theorem execDomctlWrite_inv {a0} {s1 : State} (k1 : Inv s1) : OutInv (execDomctlWrite a0 s1) := by
  unfold execDomctlWrite
  exact next_inv (domctlWrite_inv k1)

theorem offStatAfter_inv {a0} {s1 : State} (k1 : Inv s1) : Inv (offStatAfter a0 s1) := by
  unfold offStatAfter
  split
  · exact k1
  · exact ite_inv (State.setReg_inv (State.put_inv (State.put_inv k1))) k1

theorem entryStart_inv {a0} {s1 : State} (k1 : Inv s1) : Inv (entryStart a0 s1) := by
  unfold entryStart
  exact State.updPwr_inv k1

theorem wakeNow_inv {a0 a1} {s2 : State} (k2 : Inv s2) : Inv (wakeNow a0 a1 s2) := by
  unfold wakeNow
  extract_lets -merge -useContext +onlyGivenNames x0
  have h0 : Inv x0 := loadChid_inv (State.setReg_inv (dieReset_inv k2))
  clear_value x0
  extract_lets -merge -useContext +onlyGivenNames x1
  have h1 : Inv x1 := State.put_inv (State.put_inv h0)
  clear_value x1
  extract_lets -merge -useContext +onlyGivenNames x2
  have h2 : Inv x2 := wlogNew_inv (State.put_inv h1)
  clear_value x2
  extract_lets -merge -useContext +onlyGivenNames x3
  have h3 : Inv x3 := ite_inv h2 (State.put_inv h2)
  clear_value x3
  extract_lets -merge -useContext +onlyGivenNames x4
  have h4 : Inv x4 := State.updPwr_inv h3
  clear_value x4
  extract_lets -merge -useContext +onlyGivenNames x5
  have h5 : Inv x5 := State.put_inv (toBoot_inv h4)
  clear_value x5
  exact forAll_inv (fun y6_0 y6_1 g6_1 => raise_inv g6_1) h5

theorem wakeEvent_inv {a0 a1 a2} {s3 : State} (k3 : Inv s3) : Inv (wakeEvent a0 a1 a2 s3) := by
  unfold wakeEvent
  split
  · extract_lets -merge -useContext +onlyGivenNames x1
    have h1 : Inv x1 := State.put_inv k3
    clear_value x1
    exact wakeNow_inv (State.updPwr_inv h1)
  · exact State.updPwr_inv (State.put_inv (State.put_inv k3))
  · exact k3

theorem pcntWake_inv {a0 a1} {s2 : State} (k2 : Inv s2) : Inv (pcntWake a0 a1 s2) := by
  unfold pcntWake
  extract_lets -merge -useContext +onlyGivenNames x0
  clear_value x0
  extract_lets -merge -useContext +onlyGivenNames x1
  clear_value x1
  exact ite_inv (wakeEvent_inv k2) k2

theorem pcntSet_inv {a0 a1} {s2 : State} (k2 : Inv s2) : Inv (pcntSet a0 a1 s2) := by
  unfold pcntSet
  exact pcntWake_inv (State.put_inv (State.put_inv k2))

theorem execModereqService_inv {a0 a1} {s2 : State} (k2 : Inv s2) : OutInv (execModereqService a0 a1 s2) := by
  unfold execModereqService
  exact next_inv (modeRequest_inv (fun y0_0 g0_0 => enterService_inv g0_0) k2)

end Sys2Proof.Machine
end

