-- ==== Sys2Proof/Laws/InvInject.lean ====
section
/-! SUPPORT. The operations of Machine/Inject.lean keep `Inv`. -/

namespace Sys2Proof.Machine

theorem State.updInj_inv {s0 : State} {a1} (k0 : Inv s0) : Inv (State.updInj s0 a1) := by
  unfold State.updInj
  exact inv_mk k0

theorem injOther_inv {s0 : State} (k0 : Inv s0) : Inv (injOther s0) := by
  unfold injOther
  exact State.updInj_inv k0

theorem injKeyWrite_inv {a0 a1} {s2 : State} (k2 : Inv s2) : Inv (injKeyWrite a0 a1 s2) := by
  unfold injKeyWrite
  extract_lets -merge -useContext +onlyGivenNames x0
  clear_value x0
  refine ite_inv ?_ ?_
  · exact State.updInj_inv k2
  · split
    · exact k2
    · exact State.updInj_inv (ite_inv (State.put_inv k2) k2)

theorem execInjKey_inv {a0 a1} {s2 : State} (k2 : Inv s2) : OutInv (execInjKey a0 a1 s2) := by
  unfold execInjKey
  exact next_inv (access_inv (fun y0_0 g0_0 => injKeyWrite_inv g0_0) (advanceTo_inv k2))

theorem execInjArmExpiry_inv {s0 : State} (k0 : Inv s0) : OutInv (execInjArmExpiry s0) := by
  unfold execInjArmExpiry
  exact next_inv (clocked_inv (fun y0_0 g0_0 => State.put_inv g0_0) k0)

theorem execInjDisarm_inv {s0 : State} (k0 : Inv s0) : OutInv (execInjDisarm s0) := by
  unfold execInjDisarm
  exact next_inv (access_inv (fun y0_0 g0_0 => injOther_inv (State.put_inv g0_0)) k0)

theorem injHold_inv {a0 a1 a2} {s3 : State} (k3 : Inv s3) : Inv (injHold a0 a1 a2 s3) := by
  unfold injHold
  exact State.updInj_inv (State.put_inv k3)

theorem injLevel_inv {a0 a1 a2 a3 a4} {s5 : State} (k4 : ∀ y0, Inv y0 → Inv (a4 y0)) (k5 : Inv s5) : Inv (injLevel a0 a1 a2
    a3 a4 s5) := by
  unfold injLevel
  extract_lets -merge -useContext +onlyGivenNames x0
  have h0 : Inv x0 := injActed_inv (injHold_inv k5)
  clear_value x0
  exact ite_inv (k4 _ h0) h0

theorem injWait_inv {a0 a1} {s2 : State} (k2 : Inv s2) : Inv (injWait a0 a1 s2) := by
  unfold injWait
  exact State.updInj_inv k2

theorem injFeedback_inv {a0 a1} {s2 : State} (k2 : Inv s2) : Inv (injFeedback a0 a1 s2) := by
  unfold injFeedback
  split
  · dsimp only
    exact ite_inv (settleFbk_inv (evcCount_inv (illegalStep_inv (injActed_inv k2)))) (injActed_inv k2)
  · exact injLevel_inv (fun _ h => h) k2
  · dsimp only
    exact ite_inv (settleFbk_inv (evcCount_inv (gateOut_inv (unclass_inv (injActed_inv k2))))) (injActed_inv k2)
  · exact k2

theorem injSensor_inv {s0 : State} (k0 : Inv s0) : Inv (injSensor s0) := by
  unfold injSensor
  exact ite_inv (sensorOver_inv k0) (ite_inv (sensorOver_inv k0) (raise_inv (supShow_inv k0)))

theorem injLeg_inv {a0 a1} {s2 : State} (k2 : Inv s2) : Inv (injLeg a0 a1 s2) := by
  unfold injLeg
  extract_lets -merge -useContext +onlyGivenNames x0
  clear_value x0
  exact ite_inv (injLevel_inv (fun y1_0 g1_0 => vdsDetect_inv g1_0) k2) (ite_inv (injLevel_inv (fun y2_0 g2_0 =>
      bsUnder_inv g2_0) k2) (handshakeOut_inv (injActed_inv k2)))

theorem injUnit_inv {a0 a1 a2} {s3 : State} (k3 : Inv s3) : Inv (injUnit a0 a1 a2 s3) := by
  unfold injUnit
  refine ite_inv ?_ ?_
  · exact injLevel_inv (fun y0_0 g0_0 => fltActive_inv g0_0) k3
  · refine ite_inv ?_ ?_
    · exact injWait_inv k3
    · refine ite_inv ?_ ?_
      · exact injFeedback_inv k3
      · refine ite_inv ?_ ?_
        · extract_lets -merge -useContext +onlyGivenNames x1
          clear_value x1
          exact injLevel_inv (fun y2_0 g2_0 => wheelFault_inv g2_0) k3
        · exact ite_inv (injWait_inv k3) (verdict_inv (injActed_inv (advanceTo_inv k3)))

theorem injDevice_inv {a0 a1 a2} {s3 : State} (k3 : Inv s3) : Inv (injDevice a0 a1 a2 s3) := by
  unfold injDevice
  extract_lets -merge -useContext +onlyGivenNames x0
  clear_value x0
  split
  · exact setGflag_inv (injActed_inv k3)
  · exact ite_inv k3 (injWait_inv k3)
  · exact injLevel_inv (fun y4_0 g4_0 => refLost_inv g4_0) k3
  · exact injLevel_inv (fun y6_0 g6_0 => injSensor_inv g6_0) k3
  · exact ite_inv k3 (injWait_inv k3)
  · exact syncParity_inv (injActed_inv k3)
  · exact injWait_inv k3
  · exact injWait_inv k3
  · exact sendRaise_inv (injActed_inv k3)
  · exact injLevel_inv (fun y13_0 g13_0 => sendRaise_inv g13_0) k3
  · exact injLevel_inv (fun y15_0 g15_0 => raise_inv g15_0) k3
  · exact injLevel_inv (fun y17_0 g17_0 => sendRaiseAs_inv (debugLines_inv g17_0)) k3
  · exact injLevel_inv (fun y19_0 g19_0 => stage2On_inv g19_0) k3
  · exact injLevel_inv (fun y21_0 g21_0 => hbeatLoss_inv g21_0) k3
  · exact injLevel_inv (fun y23_0 g23_0 => pgoodLow_inv g23_0) k3
  · extract_lets -merge -useContext +onlyGivenNames x25
    have h25 : Inv x25 := injActed_inv k3
    clear_value x25
    exact ite_inv (mismatch_inv h25) h25
  · exact ite_inv (injLevel_inv (fun y27_0 g27_0 => supplyMove_inv g27_0) k3) k3

theorem injAct_inv {a0 a1 a2} {s3 : State} (k3 : Inv s3) : Inv (injAct a0 a1 a2 s3) := by
  unfold injAct
  exact ite_inv (injLeg_inv k3) (ite_inv (injUnit_inv k3) (injDevice_inv k3))

theorem injFire_inv {a0 a1 a2} {s3 : State} (k3 : Inv s3) : Inv (injFire a0 a1 a2 s3) := by
  unfold injFire
  lift_lets -merge -useContext -underBinder
  extract_lets -merge -useContext +onlyGivenNames x0
  have h0 : Inv x0 := injOther_inv k3
  clear_value x0
  extract_lets -merge -useContext +onlyGivenNames x1
  have h1 : Inv x1 := ite_inv (State.put_inv h0) h0
  clear_value x1
  extract_lets -merge -useContext +onlyGivenNames x2
  have h2 : Inv x2 := ite_inv h1 (State.put_inv h1)
  clear_value x2
  extract_lets -merge -useContext +onlyGivenNames x3
  have h3 : Inv x3 := State.put_inv h2
  clear_value x3
  extract_lets -merge -useContext +onlyGivenNames x4
  clear_value x4
  extract_lets -merge -useContext +onlyGivenNames x5
  have h5 : Inv x5 := ite_inv (logNew_inv h0) h0
  clear_value x5
  exact ite_inv (ite_inv (logRefused_inv h3) h3) (injAct_inv (State.put_inv (State.put_inv h5)))

theorem execInjFire_inv {a0 a1} {s2 : State} (k2 : Inv s2) : OutInv (execInjFire a0 a1 s2) := by
  unfold execInjFire
  extract_lets -merge -useContext +onlyGivenNames x0
  have h0 : Inv x0 := advanceTo_inv k2
  clear_value x0
  extract_lets -merge -useContext +onlyGivenNames x1
  have h1 : ∀ y1_0, Inv y1_0 → Inv (x1 y1_0) := by
    intro y1_0 g1_0
    exact injFire_inv g1_0
  clear_value x1
  exact next_inv (ite_inv (access_inv (fun y2_0 g2_0 => h1 _ g2_0) h0) h0)

theorem injCtlWrite_inv {a0 a1 a2} {s3 : State} (k3 : Inv s3) : Inv (injCtlWrite a0 a1 a2 s3) := by
  unfold injCtlWrite
  extract_lets -merge -useContext +onlyGivenNames x0
  have h0 : Inv x0 := injOther_inv (State.put_inv k3)
  clear_value x0
  extract_lets -merge -useContext +onlyGivenNames x1
  have h1 : Inv x1 := ite_inv (State.put_inv h0) h0
  clear_value x1
  exact ite_inv (injFire_inv h1) h1

theorem execInjLevelEnd_inv {s0 : State} (k0 : Inv s0) : OutInv (execInjLevelEnd s0) := by
  unfold execInjLevelEnd
  exact next_inv (clocked_inv (fun y0_0 g0_0 => injEnd_inv g0_0) k0)

theorem execEvcGctl_inv {a0} {s1 : State} (k1 : Inv s1) : OutInv (execEvcGctl a0 s1) := by
  unfold execEvcGctl
  exact next_inv (access_inv (fun y0_0 g0_0 => State.setReg_inv g0_0) k1)

theorem evcLatch_inv {a0} {s1 : State} (k1 : Inv s1) : Inv (evcLatch a0 s1) := by
  unfold evcLatch
  exact State.put_inv k1

theorem execEvcCntlRead_inv {a0} {s1 : State} (k1 : Inv s1) : OutInv (execEvcCntlRead a0 s1) := by
  unfold execEvcCntlRead
  exact next_inv (access_inv (fun y0_0 g0_0 => evcLatch_inv g0_0) k1)

theorem evcClear_inv {a0} {s1 : State} (k1 : Inv s1) : Inv (evcClear a0 s1) := by
  unfold evcClear
  exact forAll_inv (fun y0_0 y0_1 g0_1 => inv_mk g0_1) k1

theorem execEvcClr_inv {a0 a1} {s2 : State} (k2 : Inv s2) : OutInv (execEvcClr a0 a1 s2) := by
  unfold execEvcClr
  exact next_inv (access_inv (fun y0_0 g0_0 => evcClear_inv g0_0) (advanceTo_inv k2))

end Sys2Proof.Machine
end

