-- ==== Sys2Proof/Laws/InvBus.lean ====
section
/-! SUPPORT. The operations of Machine/Bus.lean keep `Inv`. -/

namespace Sys2Proof.Machine

theorem storeField_inv {a0 a1} {s2 : State} {a3} (k2 : Inv s2) : Inv (storeField a0 a1 s2 a3) := by
  unfold storeField
  extract_lets -merge -useContext +onlyGivenNames x0
  clear_value x0
  extract_lets -merge -useContext +onlyGivenNames x1
  clear_value x1
  split
  · exact ite_inv (State.setReg_inv k2) k2
  · exact ite_inv (State.setReg_inv k2) k2
  · exact ite_inv (State.setShd_inv k2) k2
  · extract_lets -merge -useContext +onlyGivenNames x6
    clear_value x6
    exact State.setReg_inv k2
  · exact k2
  · exact k2

theorem storeFields_inv {a0 a1 a2} {s3 : State} (k3 : Inv s3) : Inv (storeFields a0 a1 a2 s3) := by
  unfold storeFields
  exact foldl_inv (fun t x ht => storeField_inv ht) k3

theorem store_inv {a0 a1} {s2 : State} (k2 : Inv s2) : Inv (store a0 a1 s2) := by
  unfold store
  exact storeFields_inv k2

theorem rwsWrite_inv {a0 a1} {s2 : State} (k2 : Inv s2) : Inv (rwsWrite a0 a1 s2).2 := by
  unfold rwsWrite
  exact ite_inv2 (snd_inv (State.put_inv k2)) (ite_inv2 (snd_inv (State.put_inv k2)) (snd_inv (State.put_inv
      (storeFields_inv k2))))

theorem rwsWritten_inv {a0 a1} {s2 : State} (k2 : Inv s2) : Inv (rwsWritten a0 a1 s2) := by
  unfold rwsWritten
  exact rwsWrite_inv k2

theorem nodeWrite_inv {a0 a1} {s2 : State} (k2 : Inv s2) : Inv (nodeWrite a0 a1 s2).2 := by
  unfold nodeWrite
  refine ite_inv2 ?_ ?_
  · exact snd_inv (State.put_inv k2)
  · refine ite_inv2 ?_ ?_
    · exact snd_inv (State.put_inv k2)
    · extract_lets -merge -useContext +onlyGivenNames x0
      clear_value x0
      extract_lets -merge -useContext +onlyGivenNames x1
      have h1 : Inv x1.2 := eccWritePart_inv k2
      clear_value x1
      exact ite_inv2 (snd_inv (State.put_inv (State.setBytes_inv h1))) (snd_inv h1)

theorem execShadowWrite_inv {a0 a1 a2} {s3 : State} (k3 : Inv s3) : OutInv (execShadowWrite a0 a1 a2 s3) := by
  unfold execShadowWrite
  extract_lets -merge -useContext +onlyGivenNames x0
  clear_value x0
  exact ite_out (next_inv k3) (ite_out (next_inv (nodeWrite_inv k3)) (ite_out (next_inv (rwsWritten_inv k3)) (next_inv
      k3)))

theorem rwpAfter_inv {a0} {s1 : State} (k1 : Inv s1) : Inv (rwpAfter a0 s1) := by
  unfold rwpAfter
  exact ite_inv (settleThreff_inv k1) k1

theorem rwpWrite_inv {a0 a1 a2} {s3 : State} (k3 : Inv s3) : Inv (rwpWrite a0 a1 a2 s3) := by
  unfold rwpWrite
  refine ite_inv ?_ ?_
  · extract_lets -merge -useContext +onlyGivenNames x0
    have h0 : Inv x0 := storeFields_inv k3
    clear_value x0
    exact rwpAfter_inv (logNew_inv h0)
  · exact logRefused_inv k3

theorem gdrWrite_inv {a0 a1 a2} {s3 : State} (k3 : Inv s3) : Inv (gdrWrite a0 a1 a2 s3) := by
  unfold gdrWrite
  refine ite_inv ?_ ?_
  · exact rwpWrite_inv k3
  · refine ite_inv ?_ ?_
    · exact ite_inv (State.put_inv k3) k3
    · refine ite_inv ?_ ?_
      · extract_lets -merge -useContext +onlyGivenNames x0
        clear_value x0
        split
        · exact seqcfgWrite_inv k3
        · extract_lets -merge -useContext +onlyGivenNames x3
          have h3 : Inv x3 := store_inv k3
          clear_value x3
          exact ite_inv (adcStatClear_inv h3) h3
        · extract_lets -merge -useContext +onlyGivenNames x5
          have h5 : Inv x5 := ite_inv k3 (State.put_inv k3)
          clear_value x5
          exact ite_inv (zxStart_inv h5) (zxStop_inv h5)
        · exact store_inv k3
      · exact store_inv k3

theorem aonWrite_inv {a0 a1} {s2 : State} (k2 : Inv s2) : Inv (aonWrite a0 a1 s2) := by
  unfold aonWrite
  exact ite_inv (pcntSet_inv k2) (ite_inv (pcntSet_inv k2) (store_inv k2))

theorem hwmWrite_inv {a0 a1 a2} {s3 : State} (k3 : Inv s3) : Inv (hwmWrite a0 a1 a2 s3) := by
  unfold hwmWrite
  refine ite_inv ?_ ?_
  · exact spbWrite_inv k3
  · refine ite_inv ?_ ?_
    · exact rwpWrite_inv k3
    · refine ite_inv ?_ ?_
      · extract_lets -merge -useContext +onlyGivenNames x0
        have h0 : Inv x0 := ite_inv k3 (releaseGroups_inv k3)
        clear_value x0
        exact ite_inv (releaseHaltNow_inv h0) h0
      · refine ite_inv ?_ ?_
        · exact ite_inv (State.put_inv k3) k3
        · refine ite_inv ?_ ?_
          · exact settleFault_inv (store_inv k3)
          · refine ite_inv ?_ ?_
            · exact passwordEntry_inv k3
            · refine ite_inv ?_ ?_
              · extract_lets -merge -useContext +onlyGivenNames x1
                have h1 : Inv x1 := store_inv k3
                clear_value x1
                exact ite_inv (pwLock_inv h1) h1
              · refine ite_inv ?_ ?_
                · extract_lets -merge -useContext +onlyGivenNames x2
                  clear_value x2
                  extract_lets -merge -useContext +onlyGivenNames x3
                  clear_value x3
                  extract_lets -merge -useContext +onlyGivenNames x4
                  have h4 : Inv x4 := forAll_inv (fun y5_0 y5_1 g5_1 => pisClose_inv g5_1) (forAll_inv (fun y6_0 y6_1 g6_1
                      => pisRequest_inv g6_1) k3)
                  clear_value x4
                  exact forAll_inv (fun y7_0 y7_1 g7_1 => State.putBit_inv g7_1) h4
                · exact store_inv k3

theorem aWrite_inv {a0 a1 a2} {s3 : State} (k3 : Inv s3) : Inv (aWrite a0 a1 a2 s3) := by
  unfold aWrite
  exact ite_inv (gdrWrite_inv k3) (ite_inv (aonWrite_inv k3) (hwmWrite_inv k3))

theorem bridgeNext_inv {s0 : State} (k0 : Inv s0) : Inv (bridgeNext s0) := by
  unfold bridgeNext
  split
  · exact k0
  · exact aWrite_inv (inv_mk k0)

theorem execBridgeAccessDone_inv {s0 : State} (k0 : Inv s0) : OutInv (execBridgeAccessDone s0) := by
  unfold execBridgeAccessDone
  exact next_inv (bridgeNext_inv k0)

theorem bridgeDrain_inv {s0 : State} (k0 : Inv s0) : Inv (bridgeDrain s0) := by
  unfold bridgeDrain
  exact foldl_inv (fun t x ht => bridgeNext_inv ht) k0

theorem thrWrite_inv {a0 a1} {s2 : State} (k2 : Inv s2) : Inv (thrWrite a0 a1 s2) := by
  unfold thrWrite
  exact ite_inv (settleThreff_inv (State.putS_inv (bridgeDrain_inv k2))) k2

theorem proposeThr_inv {a0 a1} {s2 : State} (k2 : Inv s2) : Inv (proposeThr a0 a1 s2) := by
  unfold proposeThr
  extract_lets -merge -useContext +onlyGivenNames x0
  clear_value x0
  extract_lets -merge -useContext +onlyGivenNames x1
  clear_value x1
  extract_lets -merge -useContext +onlyGivenNames x2
  have h2 : Inv x2 := approvalEnd_inv (State.putB_inv (thrWrite_inv k2))
  clear_value x2
  exact settleHeld_inv (ite_inv (proposalHeld_inv (State.putS_inv h2)) (proposalApplied_inv h2))

theorem thrEvaluate_inv {a0} {s1 : State} (k1 : Inv s1) : Inv (thrEvaluate a0 s1) := by
  unfold thrEvaluate
  lift_lets -merge -useContext -underBinder
  extract_lets -merge -useContext +onlyGivenNames x0
  clear_value x0
  extract_lets -merge -useContext +onlyGivenNames x1
  clear_value x1
  extract_lets -merge -useContext +onlyGivenNames x2
  clear_value x2
  extract_lets -merge -useContext +onlyGivenNames x3
  have h3 : Inv x3 := bridgeDrain_inv k1
  clear_value x3
  extract_lets -merge -useContext +onlyGivenNames x4
  clear_value x4
  extract_lets -merge -useContext +onlyGivenNames x5
  clear_value x5
  extract_lets -merge -useContext +onlyGivenNames x6
  clear_value x6
  extract_lets -merge -useContext +onlyGivenNames x7
  clear_value x7
  extract_lets -merge -useContext +onlyGivenNames x8
  clear_value x8
  exact ite_inv (ite_inv (ite_inv h3 (settleHeld_inv (State.put_inv h3))) (proposeThr_inv h3)) k1

theorem execMgnThrEvaluation_inv {a0} {s1 : State} (k1 : Inv s1) : OutInv (execMgnThrEvaluation a0 s1) := by
  unfold execMgnThrEvaluation
  exact next_inv (thrEvaluate_inv k1)

theorem approveRefused_inv {s0 : State} (k0 : Inv s0) : Inv (approveRefused s0) := by
  unfold approveRefused
  exact State.put_inv k0

theorem approved_inv {a0} {s1 : State} (k1 : Inv s1) : Inv (approved a0 s1) := by
  unfold approved
  exact settleHeld_inv (State.updMgn_inv k1)

theorem approve_inv {a0 a1} {s2 : State} (k2 : Inv s2) : Inv (approve a0 a1 s2) := by
  unfold approve
  split
  · exact ite_inv (approved_inv (State.put_inv (State.putS_inv (noteOld_inv k2)))) (approveRefused_inv k2)
  · exact ite_inv (ite_inv (approved_inv (State.put_inv (thrWrite_inv k2))) k2) (approveRefused_inv k2)
  · exact ite_inv (approved_inv (State.put_inv (State.updPwr_inv k2))) (approveRefused_inv k2)
  · exact approveRefused_inv k2

theorem approveWrite_inv {a0 a1} {s2 : State} (k2 : Inv s2) : Inv (approveWrite a0 a1 s2) := by
  unfold approveWrite
  refine ite_inv ?_ ?_
  · extract_lets -merge -useContext +onlyGivenNames x0
    have h0 : Inv x0 := logNew_inv (storeFields_inv k2)
    clear_value x0
    extract_lets -merge -useContext +onlyGivenNames x1
    have h1 : Inv x1 := State.put_inv h0
    clear_value x1
    exact ite_inv (approve_inv h1) h1
  · exact logRefused_inv k2

theorem listRead_inv {s0 : State} (k0 : Inv s0) : Inv (listRead s0) := by
  unfold listRead
  exact romRead_inv k0

theorem saveWord_inv {a0 a1} {s2 : State} (k2 : Inv s2) : Inv (saveWord a0 a1 s2) := by
  unfold saveWord
  extract_lets -merge -useContext +onlyGivenNames x0
  clear_value x0
  extract_lets -merge -useContext +onlyGivenNames x1
  have h1 : Inv x1.2 := eccWritePart_inv k2
  clear_value x1
  exact ite_inv (State.setWord_inv h1) h1

theorem saveOne_inv {a0} {s1 : State} (k1 : Inv s1) : Inv (saveOne a0 s1) := by
  unfold saveOne
  extract_lets -merge -useContext +onlyGivenNames x0
  clear_value x0
  extract_lets -merge -useContext +onlyGivenNames x1
  have h1 : Inv x1 := ite_inv (bridgeDrain_inv k1) k1
  clear_value x1
  exact ite_inv (saveWord_inv h1) (State.putBit_inv (State.bump_inv (saveWord_inv h1)))

theorem saveRun_inv {s0 : State} (k0 : Inv s0) : Inv (saveRun s0) := by
  unfold saveRun
  refine ite_inv ?_ ?_
  · extract_lets -merge -useContext +onlyGivenNames x0
    have h0 : Inv x0 := forAll_inv (fun y1_0 y1_1 g1_1 => State.setReg_inv g1_1) k0
    clear_value x0
    extract_lets -merge -useContext +onlyGivenNames x2
    have h2 : Inv x2 := State.put_inv (State.put_inv h0)
    clear_value x2
    extract_lets -merge -useContext +onlyGivenNames x3
    have h3 : Inv x3 := listRead_inv h2
    clear_value x3
    extract_lets -merge -useContext +onlyGivenNames x4
    have h4 : Inv x4 := State.setReg_inv h3
    clear_value x4
    exact forAll_inv (fun y5_0 y5_1 g5_1 => saveOne_inv g5_1) h4
  · exact State.put_inv k0

theorem canIdle_inv {a0} {s1 : State} (k1 : Inv s1) : Inv (canIdle a0 s1) := by
  unfold canIdle
  extract_lets -merge -useContext +onlyGivenNames x0
  have h0 : Inv x0 := setOnBus_inv (State.put_inv k1)
  clear_value x0
  exact icuEvent_inv h0

theorem dormantEnter_inv {s0 : State} (k0 : Inv s0) : Inv (dormantEnter s0) := by
  unfold dormantEnter
  extract_lets -merge -useContext +onlyGivenNames x0
  have h0 : Inv x0 := State.updPwr_inv (entryStart_inv k0)
  clear_value x0
  exact saveRun_inv (canIdle_inv (canIdle_inv (forAll_inv (fun y1_0 y1_1 g1_1 => phyFail_inv g1_1) h0)))

theorem execModereqDormant_inv {a0 a1} {s2 : State} (k2 : Inv s2) : OutInv (execModereqDormant a0 a1 s2) := by
  unfold execModereqDormant
  exact next_inv (modeRequest_inv (fun y0_0 g0_0 => dormantEnter_inv g0_0) k2)

theorem modeReqWrite_inv {a0} {s1 : State} (k1 : Inv s1) : Inv (modeReqWrite a0 s1) := by
  unfold modeReqWrite
  extract_lets -merge -useContext +onlyGivenNames x0
  clear_value x0
  split
  · exact busRequest_inv (fun y2_0 g2_0 => dormantEnter_inv g2_0) k1
  · exact busRequest_inv (fun y4_0 g4_0 => requestReset_inv g4_0) k1
  · exact busRequest_inv (fun y6_0 g6_0 => enterService_inv g6_0) k1
  · exact busRequest_inv (fun y8_0 g8_0 => enterMode_inv g8_0) k1
  · exact busRequest_inv (fun y10_0 g10_0 => enterMode_inv g10_0) k1
  · exact busRequest_inv (fun y12_0 g12_0 => enterMode_inv g12_0) k1
  · exact busRequest_inv (fun y14_0 g14_0 => g14_0) k1
  · exact busRequest_inv (fun y16_0 g16_0 => enterMode_inv g16_0) k1

theorem brgClear_inv {a0} {s1 : State} (k1 : Inv s1) : Inv (brgClear a0 s1) := by
  unfold brgClear
  exact State.put_inv k1

theorem execBrgerrcntClr_inv {a0} {s1 : State} (k1 : Inv s1) : OutInv (execBrgerrcntClr a0 s1) := by
  unfold execBrgerrcntClr
  exact next_inv (brgClear_inv k1)

theorem sysWrite_inv {a0 a1} {s2 : State} (k2 : Inv s2) : Inv (sysWrite a0 a1 s2) := by
  unfold sysWrite
  exact ite_inv (modeReqWrite_inv k2) (ite_inv (ite_inv (brgClear_inv k2) k2) (ite_inv (gateWrite_inv k2) (ite_inv
      (domctlWrite_inv k2) (ite_inv (offStatAfter_inv (store_inv k2)) (store_inv k2)))))

theorem prsWrite_inv {a0 a1} {s2 : State} (k2 : Inv s2) : Inv (prsWrite a0 a1 s2) := by
  unfold prsWrite
  refine ite_inv ?_ ?_
  · extract_lets -merge -useContext +onlyGivenNames x0
    have h0 : Inv x0 := prsRunWrite_inv k2
    clear_value x0
    exact ite_inv (monClear_inv h0) h0
  · refine ite_inv ?_ ?_
    · exact swTrig_inv k2
    · refine ite_inv ?_ ?_
      · exact ite_inv (State.put_inv k2) k2
      · refine ite_inv ?_ ?_
        · exact ite_inv (State.put_inv k2) k2
        · refine ite_inv ?_ ?_
          · exact settle_inv (store_inv k2)
          · refine ite_inv ?_ ?_
            · extract_lets -merge -useContext +onlyGivenNames x1
              have h1 : Inv x1 := store_inv k2
              clear_value x1
              exact ite_inv (State.put_inv h1) h1
            · exact store_inv k2

theorem gcfgWrite_inv {a0 a1} {s2 : State} (k2 : Inv s2) : Inv (gcfgWrite a0 a1 s2) := by
  unfold gcfgWrite
  extract_lets -merge -useContext +onlyGivenNames x0
  clear_value x0
  extract_lets -merge -useContext +onlyGivenNames x1
  have h1 : Inv x1 := store_inv k2
  clear_value x1
  exact ite_inv (groupEnable_inv h1) (ite_inv (groupDisable_inv h1) h1)

theorem pwmWrite_inv {a0 a1} {s2 : State} (k2 : Inv s2) : Inv (pwmWrite a0 a1 s2) := by
  unfold pwmWrite
  extract_lets -merge -useContext +onlyGivenNames x0
  clear_value x0
  extract_lets -merge -useContext +onlyGivenNames x1
  have h1 : Inv x1 := ite_inv (noteOld_inv k2) k2
  clear_value x1
  exact ite_inv (gcfgWrite_inv h1) (ite_inv (dutyWrite_inv h1) (ite_inv (fltcfgWrite_inv h1) (ite_inv (tripClear_inv h1)
      (ite_inv (ite_inv (fltcntClear_inv h1) h1) (ite_inv (leadgrpWrite_inv h1) (store_inv h1))))))

theorem fbPortWrite_inv {a0 a1 a2 a3} {s4 : State} (k4 : Inv s4) : Inv (fbPortWrite a0 a1 a2 a3 s4) := by
  unfold fbPortWrite
  split
  · extract_lets -merge -useContext +onlyGivenNames x1
    clear_value x1
    extract_lets -merge -useContext +onlyGivenNames x2
    have h2 : Inv x2 := fbkCfgAfter_inv (store_inv k4)
    clear_value x2
    exact ite_inv (fbReturn_inv h2) h2
  · exact cntWrite_inv k4
  · exact mcntWrite_inv k4
  · exact qcntWrite_inv k4
  · exact ite_inv (evcntClear_inv k4) k4
  · exact settleFbk_inv (store_inv k4)
  · refine ite_inv ?_ ?_
    · exact k4
    · extract_lets -merge -useContext +onlyGivenNames x9
      have h9 : Inv x9 := store_inv k4
      clear_value x9
      exact ite_inv (idxArm_inv h9) (State.put_inv h9)
  · exact ite_inv k4 (store_inv k4)
  · exact seedAngle_inv k4
  · exact seedCommit_inv k4
  · exact store_inv k4

theorem fbkWrite_inv {a0 a1} {s2 : State} (k2 : Inv s2) : Inv (fbkWrite a0 a1 s2) := by
  unfold fbkWrite
  lift_lets -merge -useContext -underBinder
  extract_lets -merge -useContext +onlyGivenNames x0
  clear_value x0
  extract_lets -merge -useContext +onlyGivenNames x1
  have h1 : Inv x1 := store_inv k2
  clear_value x1
  exact ite_inv (settleFbk_inv (fbPortWrite_inv k2)) (ite_inv (ite_inv (State.setReg_inv k2) k2) (ite_inv (wheelOff_inv h1)
      (ite_inv (sentOff_inv h1) h1)))

theorem krgWrite_inv {a0 a1} {s2 : State} (k2 : Inv s2) : Inv (krgWrite a0 a1 s2) := by
  unfold krgWrite
  extract_lets -merge -useContext +onlyGivenNames x0
  clear_value x0
  exact ite_inv (krgCtlWrite_inv k2) (ite_inv (voteAfter_inv k2 (store_inv k2)) (ite_inv (keyWrite_inv k2) (ite_inv
      (ite_inv (krgCntClear_inv k2) k2) (ite_inv k2 (ite_inv (store_inv k2) (store_inv k2))))))

theorem timingWrite_inv {a0 a1 a2} {s3 : State} (k3 : Inv s3) : Inv (timingWrite a0 a1 a2 s3) := by
  unfold timingWrite
  extract_lets -merge -useContext +onlyGivenNames x0
  clear_value x0
  extract_lets -merge -useContext +onlyGivenNames x1
  have h1 : Inv x1 := store_inv k3
  clear_value x1
  exact ite_inv (State.setReg_inv h1) h1

theorem canWrite_inv {a0 a1} {s2 : State} (k2 : Inv s2) : Inv (canWrite a0 a1 s2) := by
  unfold canWrite
  extract_lets -merge -useContext +onlyGivenNames x0
  clear_value x0
  extract_lets -merge -useContext +onlyGivenNames x1
  clear_value x1
  refine ite_inv ?_ ?_
  · exact mctlWrite_inv k2
  · refine ite_inv ?_ ?_
    · exact k2
    · split
      · exact timingWrite_inv k2
      · exact timingWrite_inv k2
      · exact rxAck_inv k2
      · exact txGo_inv k2
      · exact txAbort_inv k2
      · exact store_inv k2

theorem lnkWrite_inv {a0 a1} {s2 : State} (k2 : Inv s2) : Inv (lnkWrite a0 a1 s2) := by
  unfold lnkWrite
  refine ite_inv ?_ ?_
  · extract_lets -merge -useContext +onlyGivenNames x0
    have h0 : Inv x0 := store_inv k2
    clear_value x0
    extract_lets -merge -useContext +onlyGivenNames x1
    have h1 : Inv x1 := settleRlead_inv h0
    clear_value x1
    exact ite_inv (tokenRelease_inv h1) h1
  · refine ite_inv ?_ ?_
    · exact settleDci_inv (store_inv k2)
    · refine ite_inv ?_ ?_
      · extract_lets -merge -useContext +onlyGivenNames x2
        have h2 : Inv x2 := store_inv k2
        clear_value x2
        exact ite_inv (localFlip_inv h2) h2
      · exact ite_inv (shaddrWrite_inv k2) (store_inv k2)

theorem bstWrite_inv {a0 a1} {s2 : State} (k2 : Inv s2) : Inv (bstWrite a0 a1 s2) := by
  unfold bstWrite
  refine ite_inv ?_ ?_
  · extract_lets -merge -useContext +onlyGivenNames x0
    have h0 : Inv x0 := store_inv k2
    clear_value x0
    extract_lets -merge -useContext +onlyGivenNames x1
    have h1 : Inv x1 := ite_inv (testCut_inv h0) h0
    clear_value x1
    exact ite_inv (bistStart_inv h1) h1
  · refine ite_inv ?_ ?_
    · extract_lets -merge -useContext +onlyGivenNames x2
      have h2 : Inv x2 := store_inv k2
      clear_value x2
      extract_lets -merge -useContext +onlyGivenNames x3
      have h3 : Inv x3 := ite_inv (analogCut_inv h2) h2
      clear_value x3
      exact ite_inv (analogStart_inv h3) h3
    · exact store_inv k2

theorem mgnWrite_inv {a0 a1} {s2 : State} (k2 : Inv s2) : Inv (mgnWrite a0 a1 s2) := by
  unfold mgnWrite
  refine ite_inv ?_ ?_
  · extract_lets -merge -useContext +onlyGivenNames x0
    clear_value x0
    extract_lets -merge -useContext +onlyGivenNames x1
    have h1 : Inv x1 := store_inv k2
    clear_value x1
    exact ite_inv (State.put_inv h1) h1
  · exact store_inv k2

theorem injWrite_inv {a0 a1 a2} {s3 : State} (k3 : Inv s3) : Inv (injWrite a0 a1 a2 s3) := by
  unfold injWrite
  exact ite_inv (injKeyWrite_inv k3) (ite_inv (injCtlWrite_inv k3) (injOther_inv (store_inv k3)))

theorem evcWrite_inv {a0 a1} {s2 : State} (k2 : Inv s2) : Inv (evcWrite a0 a1 s2) := by
  unfold evcWrite
  exact ite_inv (evcClear_inv k2) (evcSettle_inv (store_inv k2))

theorem lupWrite_inv {a0 a1} {s2 : State} (k2 : Inv s2) : Inv (lupWrite a0 a1 s2) := by
  unfold lupWrite
  lift_lets -merge -useContext -underBinder
  extract_lets -merge -useContext +onlyGivenNames x0
  clear_value x0
  extract_lets -merge -useContext +onlyGivenNames x1
  clear_value x1
  extract_lets -merge -useContext +onlyGivenNames x2
  have h2 : Inv x2 := store_inv k2
  clear_value x2
  extract_lets -merge -useContext +onlyGivenNames x3
  have h3 : Inv x3 := ite_inv (lupStop_inv h2) h2
  clear_value x3
  extract_lets -merge -useContext +onlyGivenNames x4
  have h4 : Inv x4 := ite_inv (lupStart_inv h3) h3
  clear_value x4
  extract_lets -merge -useContext +onlyGivenNames x5
  clear_value x5
  extract_lets -merge -useContext +onlyGivenNames x6
  clear_value x6
  extract_lets -merge -useContext +onlyGivenNames x7
  have h7 : Inv x7 := store_inv k2
  clear_value x7
  exact ite_inv (ite_inv (lupArm_inv h4) h4) (ite_inv (ite_inv h7 (lupStop_inv h7)) (store_inv k2))

theorem coreWrite_inv {a0 a1} {s2 : State} (k2 : Inv s2) : Inv (coreWrite a0 a1 s2) := by
  unfold coreWrite
  exact ite_inv (swSet_inv k2) (ite_inv (store_inv k2) (ite_inv (State.put_inv (store_inv k2)) (store_inv k2)))

theorem dWrite_inv {a0 a1 a2} {s3 : State} (k3 : Inv s3) : Inv (dWrite a0 a1 a2 s3).2 := by
  unfold dWrite
  refine ite_inv2 (rwsWrite_inv k3) (ite_inv2 ?_ (snd_inv ?_))
  · exact ite_inv2 (snd_inv (releaseWrite_inv k3)) (snd_inv k3)
  · split
    · exact sysWrite_inv k3
    · exact sysWrite_inv k3
    · exact sysWrite_inv k3
    · exact prsWrite_inv k3
    · exact pwmWrite_inv k3
    · exact fbkWrite_inv k3
    · exact krgWrite_inv k3
    · exact canWrite_inv k3
    · exact lnkWrite_inv k3
    · exact lnkWrite_inv k3
    · exact bstWrite_inv k3
    · exact ite_inv (approveWrite_inv k3) (mgnWrite_inv k3)
    · exact injWrite_inv k3
    · exact evcWrite_inv k3
    · exact lupWrite_inv k3
    · exact coreWrite_inv k3
    · exact store_inv k3

theorem dWritten_inv {a0 a1 a2} {s3 : State} (k3 : Inv s3) : Inv (dWritten a0 a1 a2 s3) := by
  unfold dWritten
  exact dWrite_inv k3

theorem crossing_inv {a0 a1 a2} {s3 : State} (k2 : ∀ y0, Inv y0 → Inv (a2 y0)) (k3 : Inv s3) : Inv (crossing a0 a1 a2 s3)
    := by
  unfold crossing
  exact access_inv (fun y0_0 g0_0 => k2 _ (bridgeDrain_inv g0_0)) k3

theorem crossingBy_inv {a0 a1 a2} {s3 : State} (k2 : ∀ y0, Inv y0 → Inv (a2 y0)) (k3 : Inv s3) : Inv (crossingBy a0 a1 a2
    s3) := by
  unfold crossingBy
  exact ite_inv (crossing_inv (fun y0_0 g0_0 => k2 _ g0_0) k3) k3

theorem execRwpWrite_inv {a0 a1 a2 a3} {s4 : State} (k4 : Inv s4) : OutInv (execRwpWrite a0 a1 a2 a3 s4) := by
  unfold execRwpWrite
  extract_lets -merge -useContext +onlyGivenNames x0
  have h0 : Inv x0 := advanceTo_inv k4
  clear_value x0
  extract_lets -merge -useContext +onlyGivenNames x1
  clear_value x1
  exact ite_out (next_inv (crossingBy_inv (fun y2_0 g2_0 => spbWrite_inv g2_0) h0)) (ite_out (next_inv (ite_inv
      (approveWrite_inv h0) h0)) (ite_out (next_inv (crossingBy_inv (fun y3_0 g3_0 => rwpWrite_inv g3_0) h0)) (next_inv
      h0)))

theorem execMgnApprove_inv {a0 a1 a2} {s3 : State} (k3 : Inv s3) : OutInv (execMgnApprove a0 a1 a2 s3) := by
  unfold execMgnApprove
  extract_lets -merge -useContext +onlyGivenNames x0
  have h0 : Inv x0 := advanceTo_inv k3
  clear_value x0
  exact next_inv (ite_inv (approveWrite_inv h0) h0)

theorem execSpbWrite_inv {a0 a1 a2 a3} {s4 : State} (k4 : Inv s4) : OutInv (execSpbWrite a0 a1 a2 a3 s4) := by
  unfold execSpbWrite
  exact next_inv (crossingBy_inv (fun y0_0 g0_0 => spbWrite_inv g0_0) (advanceTo_inv k4))

theorem execPasswordWord_inv {a0 a1 a2} {s3 : State} (k3 : Inv s3) : OutInv (execPasswordWord a0 a1 a2 s3) := by
  unfold execPasswordWord
  extract_lets -merge -useContext +onlyGivenNames x0
  have h0 : Inv x0 := advanceTo_inv k3
  clear_value x0
  extract_lets -merge -useContext +onlyGivenNames x1
  clear_value x1
  exact next_inv (ite_inv (crossing_inv (fun y2_0 g2_0 => passwordEntry_inv g2_0) h0) h0)

theorem execPasswordLock_inv {a0} {s1 : State} (k1 : Inv s1) : OutInv (execPasswordLock a0 s1) := by
  unfold execPasswordLock
  exact next_inv (crossingBy_inv (fun y0_0 g0_0 => pwLock_inv g0_0) k1)

theorem execReleaseGroup_inv {a0} {s1 : State} (k1 : Inv s1) : OutInv (execReleaseGroup a0 s1) := by
  unfold execReleaseGroup
  exact next_inv (crossing_inv (fun y0_0 g0_0 => releaseGroups_inv g0_0) k1)

theorem execReleaseHalt_inv {s0 : State} (k0 : Inv s0) : OutInv (execReleaseHalt s0) := by
  unfold execReleaseHalt
  exact next_inv (crossing_inv (fun y0_0 g0_0 => releaseHaltNow_inv g0_0) k0)

theorem execDetcntClr_inv {s0 : State} (k0 : Inv s0) : OutInv (execDetcntClr s0) := by
  unfold execDetcntClr
  exact next_inv (crossing_inv (fun y0_0 g0_0 => State.put_inv g0_0) k0)

theorem execPisOpenRequest_inv {a0} {s1 : State} (k1 : Inv s1) : OutInv (execPisOpenRequest a0 s1) := by
  unfold execPisOpenRequest
  exact next_inv (crossing_inv (fun y0_0 g0_0 => forAll_inv (fun y1_0 y1_1 g1_1 => pisRequest_inv g1_1) g0_0) k1)

theorem execPisCloseRequest_inv {a0} {s1 : State} (k1 : Inv s1) : OutInv (execPisCloseRequest a0 s1) := by
  unfold execPisCloseRequest
  exact next_inv (crossing_inv (fun y0_0 g0_0 => forAll_inv (fun y1_0 y1_1 g1_1 => pisClose_inv g1_1) g0_0) k1)

theorem execGdrEvtClr_inv {s0 : State} (k0 : Inv s0) : OutInv (execGdrEvtClr s0) := by
  unfold execGdrEvtClr
  exact next_inv (crossing_inv (fun y0_0 g0_0 => State.put_inv g0_0) k0)

theorem execAdcStatClr_inv {a0} {s1 : State} (k1 : Inv s1) : OutInv (execAdcStatClr a0 s1) := by
  unfold execAdcStatClr
  exact next_inv (crossing_inv (fun y0_0 g0_0 => adcStatClear_inv g0_0) k1)

theorem execZxStart_inv {a0} {s1 : State} (k1 : Inv s1) : OutInv (execZxStart a0 s1) := by
  unfold execZxStart
  exact next_inv (crossing_inv (fun y0_0 g0_0 => zxStart_inv g0_0) k1)

theorem bridgeWrite_inv {a0 a1 a2} {s3 : State} (k3 : Inv s3) : Inv (bridgeWrite a0 a1 a2 s3).2 := by
  unfold bridgeWrite
  exact ite_inv2 (snd_inv (State.put_inv k3)) (snd_inv (inv_mk k3))

theorem bridgeFail_inv {s0 : State} (k0 : Inv s0) : Inv (bridgeFail s0) := by
  unfold bridgeFail
  lift_lets -merge -useContext -underBinder
  extract_lets -merge -useContext +onlyGivenNames x0
  have h0 : Inv x0 := icuEvent_inv (State.put_inv k0)
  clear_value x0
  extract_lets -merge -useContext +onlyGivenNames x1
  clear_value x1
  extract_lets -merge -useContext +onlyGivenNames x2
  have h2 : Inv x2 := State.put_inv (State.put_inv h0)
  clear_value x2
  extract_lets -merge -useContext +onlyGivenNames x3
  clear_value x3
  exact ite_inv (evcCount_inv (State.bump_inv (inv_mk h0))) (raise_inv (analogCut_inv (inv_mk h2)))

theorem execBridgeFrameReceive_inv {a0} {s1 : State} (k1 : Inv s1) : OutInv (execBridgeFrameReceive a0 s1) := by
  unfold execBridgeFrameReceive
  refine ite_out ?_ ?_
  · lift_lets -merge -useContext -underBinder
    extract_lets -merge -useContext +onlyGivenNames x0
    clear_value x0
    extract_lets -merge -useContext +onlyGivenNames x1
    have h1 : Inv x1 := injSpend_inv k1
    clear_value x1
    extract_lets -merge -useContext +onlyGivenNames x2
    clear_value x2
    exact ite_out (next_inv (inv_mk h1)) (next_inv (bridgeFail_inv h1))
  · exact next_inv k1

theorem busErr_inv {s0 : State} (k0 : Inv s0) : Inv (busErr s0).st := by
  unfold busErr
  exact bus_inv k0

theorem memRead_inv {a0 a1 a2} {s3 : State} (k3 : Inv s3) : Inv (memRead a0 a1 a2 s3).st := by
  unfold memRead
  extract_lets -merge -useContext +onlyGivenNames x0
  have h0 : Inv x0.2 := eccRead_inv k3
  clear_value x0
  exact ite_bus (busErr_inv h0) (bus_inv h0)

theorem memWrite_inv {a0 a1 a2} {s3 : State} (k3 : Inv s3) : Inv (memWrite a0 a1 a2 s3).st := by
  unfold memWrite
  extract_lets -merge -useContext +onlyGivenNames x0
  have h0 : Inv x0.2 := eccWritePart_inv k3
  clear_value x0
  exact ite_bus (bus_inv (State.setBytes_inv h0)) (busErr_inv h0)

theorem underLock_inv {a0 a1} {s2 : State} {s3} (k2 : Inv s2) (k3 : Inv s3.st) : Inv (underLock a0 a1 s2 s3).st := by
  unfold underLock
  extract_lets -merge -useContext +onlyGivenNames x0
  clear_value x0
  extract_lets -merge -useContext +onlyGivenNames x1
  clear_value x1
  exact ite_bus k3 (ite_bus (busErr_inv (lockRefuse_inv k2)) (bus_inv k2))

theorem readEffect_inv {a0} {s1 : State} (k1 : Inv s1) : Inv (readEffect a0 s1) := by
  unfold readEffect
  exact ite_inv (evcLatch_inv k1) (ite_inv (portstatRead_inv k1) k1)

theorem dRead_inv {a0 a1} {s2 : State} (k2 : Inv s2) : Inv (dRead a0 a1 s2).st := by
  unfold dRead
  refine ite_bus ?_ ?_
  · extract_lets -merge -useContext +onlyGivenNames x0
    clear_value x0
    extract_lets -merge -useContext +onlyGivenNames x1
    clear_value x1
    extract_lets -merge -useContext +onlyGivenNames x2
    have h2 : Inv x2 := acqNow_inv (acqCycle_inv k2)
    clear_value x2
    exact bus_inv h2
  · exact bus_inv (readEffect_inv k2)

theorem busRead_inv {a0 a1 a2} {s3 : State} (k3 : Inv s3) : Inv (busRead a0 a1 a2 s3).st := by
  unfold busRead
  extract_lets -merge -useContext +onlyGivenNames x0
  clear_value x0
  refine ite_bus ?_ ?_
  · exact busErr_inv k3
  · split
    · exact bus_inv k3
    · exact memRead_inv k3
    · exact memRead_inv k3
    · exact underLock_inv k3 (memRead_inv k3)
    · exact memRead_inv k3
    · exact memRead_inv k3
    · exact ite_bus (busErr_inv (offAccess_inv k3)) (ite_bus (dRead_inv k3) (busErr_inv k3))
    · refine ite_bus ?_ ?_
      · exact busErr_inv (offAccess_inv k3)
      · extract_lets -merge -useContext +onlyGivenNames x9
        have h9 : Inv x9 := bridgeDrain_inv k3
        clear_value x9
        exact ite_bus (memRead_inv h9) (ite_bus (bus_inv h9) (busErr_inv h9))
    · exact ite_bus (bus_inv k3) (busErr_inv k3)
    · exact busErr_inv k3

theorem busWrite_inv {a0 a1 a2 a3} {s4 : State} (k4 : Inv s4) : Inv (busWrite a0 a1 a2 a3 s4).st := by
  unfold busWrite
  extract_lets -merge -useContext +onlyGivenNames x0
  clear_value x0
  extract_lets -merge -useContext +onlyGivenNames x1
  clear_value x1
  extract_lets -merge -useContext +onlyGivenNames x2
  have h2 : ∀ y2_0, Inv y2_0.2 → Inv (x2 y2_0).st := by
    intro y2_0 g2_0
    exact bus_inv g2_0
  clear_value x2
  refine ite_bus ?_ ?_
  · exact busErr_inv k4
  · split
    · exact busErr_inv k4
    · exact busErr_inv k4
    · exact memWrite_inv k4
    · exact underLock_inv k4 (memWrite_inv k4)
    · exact h2 _ (nodeWrite_inv k4)
    · exact memWrite_inv (noteWrite_inv k4)
    · exact ite_bus (busErr_inv (offAccess_inv k4)) (ite_bus (h2 _ (dWrite_inv k4)) (busErr_inv k4))
    · exact ite_bus (busErr_inv (offAccess_inv k4)) (ite_bus (bus_inv k4) (ite_bus (h2 _ (bridgeWrite_inv k4)) (busErr_inv
          k4)))
    · exact ite_bus (h2 _ (dWrite_inv k4)) (busErr_inv k4)
    · exact busErr_inv k4

theorem busWritten_inv {a0 a1 a2 a3} {s4 : State} (k4 : Inv s4) : Inv (busWritten a0 a1 a2 a3 s4) := by
  unfold busWritten
  exact busWrite_inv k4

theorem execRegisterWrite_inv {a0 a1 a2 a3} {s4 : State} (k4 : Inv s4) : OutInv (execRegisterWrite a0 a1 a2 a3 s4) := by
  unfold execRegisterWrite
  extract_lets -merge -useContext +onlyGivenNames x0
  have h0 : Inv x0 := advanceTo_inv k4
  clear_value x0
  exact next_inv (ite_inv (busWritten_inv h0) h0)

end Sys2Proof.Machine
end

