-- ==== Sys2Proof/Laws/InvCp.lean ====
section
/-! SUPPORT. The operations of Machine/Cp.lean keep `Inv`. -/

namespace Sys2Proof.Machine

theorem State.updCp_inv {s0 : State} {a1} (k0 : Inv s0) : Inv (State.updCp s0 a1) := by
  unfold State.updCp
  exact inv_mk k0

theorem State.setX_inv {s0 : State} {a1 a2} (k0 : Inv s0) : Inv (State.setX s0 a1 a2) := by
  unfold State.setX
  exact ite_inv k0 (State.updCp_inv k0)

theorem State.setCsr_inv {s0 : State} {a1 a2} (k0 : Inv s0) : Inv (State.setCsr s0 a1 a2) := by
  unfold State.setCsr
  exact State.updCp_inv k0

theorem State.setF_inv {s0 : State} {a1 a2} (k0 : Inv s0) : Inv (State.setF s0 a1 a2) := by
  unfold State.setF
  extract_lets -merge -useContext +onlyGivenNames x0
  have h0 : Inv x0 := State.updCp_inv k0
  clear_value x0
  exact State.setCsr_inv h0

theorem addFlags_inv {a0} {s1 : State} (k1 : Inv s1) : Inv (addFlags a0 s1) := by
  unfold addFlags
  extract_lets -merge -useContext +onlyGivenNames x0
  have h0 : Inv x0 := State.setCsr_inv k1
  clear_value x0
  exact State.setCsr_inv h0

theorem trapSave_inv {a0 a1} {s2 : State} (k2 : Inv s2) : Inv (trapSave a0 a1 s2) := by
  unfold trapSave
  extract_lets -merge -useContext +onlyGivenNames x0
  clear_value x0
  extract_lets -merge -useContext +onlyGivenNames x1
  clear_value x1
  extract_lets -merge -useContext +onlyGivenNames x2
  clear_value x2
  extract_lets -merge -useContext +onlyGivenNames x3
  have h3 : Inv x3 := State.setCsr_inv (State.setCsr_inv (State.setCsr_inv k2))
  clear_value x3
  exact State.updCp_inv (State.setCsr_inv h3)

theorem setPc_inv {a0} {s1 : State} (k1 : Inv s1) : Inv (setPc a0 s1) := by
  unfold setPc
  exact State.updCp_inv k1

theorem cpTrap_inv {a0 a1} {s2 : State} (k2 : Inv s2) : Inv (cpTrap a0 a1 s2) := by
  unfold cpTrap
  extract_lets -merge -useContext +onlyGivenNames x0
  have h0 : Inv x0 := trapSave_inv k2
  clear_value x0
  exact setPc_inv h0

theorem timerTrap_inv {s0 : State} (k0 : Inv s0) : Inv (timerTrap s0) := by
  unfold timerTrap
  extract_lets -merge -useContext +onlyGivenNames x0
  have h0 : Inv x0 := trapSave_inv k0
  clear_value x0
  exact setPc_inv h0

theorem execCpTimerInterrupt_inv {s0 : State} (k0 : Inv s0) : OutInv (execCpTimerInterrupt s0) := by
  unfold execCpTimerInterrupt
  exact ite_out (next_inv (timerTrap_inv k0)) (next_inv k0)

theorem icuTake_inv {a0} {s1 : State} (k1 : Inv s1) : Inv (icuTake a0 s1) := by
  unfold icuTake
  lift_lets -merge -useContext -underBinder
  extract_lets -merge -useContext +onlyGivenNames x0
  clear_value x0
  extract_lets -merge -useContext +onlyGivenNames x1
  have h1 : Inv x1 := inv_mk k1
  clear_value x1
  extract_lets -merge -useContext +onlyGivenNames x2
  have h2 : Inv x2 := State.put_inv (State.put_inv h1)
  clear_value x2
  extract_lets -merge -useContext +onlyGivenNames x3
  have h3 : Inv x3 := ite_inv (State.put_inv h2) h2
  clear_value x3
  exact State.setCsr_inv h3

theorem tableTrap_inv {a0} {s1 : State} (k1 : Inv s1) : Inv (tableTrap a0 s1) := by
  unfold tableTrap
  lift_lets -merge -useContext -underBinder
  extract_lets -merge -useContext +onlyGivenNames x0
  clear_value x0
  extract_lets -merge -useContext +onlyGivenNames x1
  have h1 : Inv x1.st := busRead_inv k1
  clear_value x1
  extract_lets -merge -useContext +onlyGivenNames x2
  have h2 : Inv x2 := icuTake_inv (trapSave_inv h1)
  clear_value x2
  exact ite_inv h1 (ite_inv (setPc_inv (State.setCsr_inv (State.setCsr_inv h2))) (setPc_inv h2))

theorem externalTrap_inv {a0} {s1 : State} (k1 : Inv s1) : Inv (externalTrap a0 s1) := by
  unfold externalTrap
  split
  · exact tableTrap_inv k1
  · exact setPc_inv (icuTake_inv (trapSave_inv k1))

theorem execCpExternalInterrupt_inv {s0 : State} (k0 : Inv s0) : OutInv (execCpExternalInterrupt s0) := by
  unfold execCpExternalInterrupt
  refine ite_out ?_ ?_
  · split
    · exact next_inv (externalTrap_inv k0)
    · exact next_inv k0
  · exact next_inv k0

theorem mstatusWrite_inv {a0} {s1 : State} (k1 : Inv s1) : Inv (mstatusWrite a0 s1) := by
  unfold mstatusWrite
  extract_lets -merge -useContext +onlyGivenNames x0
  clear_value x0
  extract_lets -merge -useContext +onlyGivenNames x1
  clear_value x1
  exact State.setCsr_inv k1

theorem pmpcfgWrite_inv {a0 a1} {s2 : State} (k2 : Inv s2) : Inv (pmpcfgWrite a0 a1 s2) := by
  unfold pmpcfgWrite
  extract_lets -merge -useContext +onlyGivenNames x0
  clear_value x0
  exact State.setCsr_inv k2

theorem trigWrite_inv {a0 a1} {s2 : State} (k2 : Inv s2) : Inv (trigWrite a0 a1 s2) := by
  unfold trigWrite
  exact ite_inv (State.setCsr_inv k2) k2

theorem csrWrite_inv {a0 a1} {s2 : State} (k2 : Inv s2) : Inv (csrWrite a0 a1 s2) := by
  unfold csrWrite
  lift_lets -merge -useContext -underBinder
  extract_lets -merge -useContext +onlyGivenNames x0
  have h0 : ∀ y0_0, Inv y0_0 → Inv (x0 y0_0) := by
    intro y0_0 g0_0
    exact State.setCsr_inv g0_0
  clear_value x0
  extract_lets -merge -useContext +onlyGivenNames x1
  clear_value x1
  exact ite_inv (h0 _ (State.setCsr_inv k2)) (ite_inv (h0 _ (State.setCsr_inv k2)) (ite_inv (h0 _ (State.setCsr_inv k2))
      (ite_inv (mstatusWrite_inv k2) (ite_inv (State.setCsr_inv k2) (ite_inv (State.setCsr_inv k2) (ite_inv
      (State.setCsr_inv k2) (ite_inv (State.setCsr_inv k2) (ite_inv (State.setCsr_inv k2) (ite_inv (State.setCsr_inv k2)
      (ite_inv (pmpcfgWrite_inv k2) (ite_inv (ite_inv k2 (State.setCsr_inv k2)) (ite_inv (State.setCsr_inv k2) (ite_inv
      (ite_inv (State.setCsr_inv k2) k2) (ite_inv (trigWrite_inv k2) (ite_inv (ite_inv (State.setCsr_inv k2) k2) (ite_inv
      (State.setCsr_inv k2) (ite_inv (State.setCsr_inv k2) (ite_inv (State.setCsr_inv k2) k2))))))))))))))))))

theorem trigEff_inv {a0 a1} {s2 : State} (k2 : Inv s2) : EffInv (trigEff a0 a1 s2) := by
  unfold trigEff
  refine ite_eff ?_ ?_
  · show Inv _
    exact k2
  · show Inv _
    exact k2

theorem cpLoad_inv {a0 a1 a2 a3} {s4 : State} (k3 : ∀ y0 y1, Inv y1 → Inv (a3 y0 y1)) (k4 : Inv s4) : EffInv (cpLoad a0 a1
    a2 a3 s4) := by
  unfold cpLoad
  extract_lets -merge -useContext +onlyGivenNames x0
  clear_value x0
  split
  · exact trigEff_inv k4
  · refine ite_eff ?_ ?_
    · show Inv _
      exact k4
    · refine ite_eff ?_ ?_
      · show Inv _
        exact k4
      · extract_lets -merge -useContext +onlyGivenNames x3
        have h3 : Inv x3.st := busRead_inv k4
        clear_value x3
        refine ite_eff ?_ ?_
        · show Inv _
          exact h3
        · refine ite_eff ?_ ?_
          · show Inv _
            exact h3
          · show Inv _
            exact k3 _ _ h3

theorem cpStore_inv {a0 a1 a2 a3} {s4 : State} (k4 : Inv s4) : EffInv (cpStore a0 a1 a2 a3 s4) := by
  unfold cpStore
  extract_lets -merge -useContext +onlyGivenNames x0
  clear_value x0
  split
  · exact trigEff_inv k4
  · refine ite_eff ?_ ?_
    · show Inv _
      exact k4
    · refine ite_eff ?_ ?_
      · show Inv _
        exact k4
      · extract_lets -merge -useContext +onlyGivenNames x3
        have h3 : Inv x3.st := busWrite_inv k4
        clear_value x3
        refine ite_eff ?_ ?_
        · show Inv _
          exact h3
        · refine ite_eff ?_ ?_
          · show Inv _
            exact h3
          · show Inv _
            exact h3

theorem loadOp_inv {a0 a1} {s2 : State} (k2 : Inv s2) : OEffInv (loadOp a0 a1 s2) := by
  unfold loadOp
  extract_lets -merge -useContext +onlyGivenNames x0
  clear_value x0
  extract_lets -merge -useContext +onlyGivenNames x1
  have h1 : ∀ y1_0 y1_1 y1_2, Inv y1_2 → Inv (x1 y1_0 y1_1 y1_2) := by
    intro y1_0 y1_1 y1_2 g1_2
    exact State.setX_inv g1_2
  clear_value x1
  split
  · exact some_eff (cpLoad_inv (fun y3_0 y3_1 g3_1 => h1 _ _ _ g3_1) k2)
  · exact some_eff (cpLoad_inv (fun y5_0 y5_1 g5_1 => h1 _ _ _ g5_1) k2)
  · exact some_eff (cpLoad_inv (fun y7_0 y7_1 g7_1 => h1 _ _ _ g7_1) k2)
  · exact some_eff (cpLoad_inv (fun y9_0 y9_1 g9_1 => h1 _ _ _ g9_1) k2)
  · exact some_eff (cpLoad_inv (fun y11_0 y11_1 g11_1 => h1 _ _ _ g11_1) k2)
  · exact none_eff

theorem storeOp_inv {a0 a1} {s2 : State} (k2 : Inv s2) : OEffInv (storeOp a0 a1 s2) := by
  unfold storeOp
  extract_lets -merge -useContext +onlyGivenNames x0
  clear_value x0
  extract_lets -merge -useContext +onlyGivenNames x1
  clear_value x1
  split
  · exact some_eff (cpStore_inv k2)
  · exact some_eff (cpStore_inv k2)
  · exact some_eff (cpStore_inv k2)
  · exact none_eff

theorem immOp_inv {a0 a1} {s2 : State} (k2 : Inv s2) : OEffInv (immOp a0 a1 s2) := by
  unfold immOp
  extract_lets -merge -useContext +onlyGivenNames x0
  have h0 : ∀ y0_0, OEffInv (x0 y0_0) := by
    intro y0_0
    refine some_eff ?_
    show Inv _
    exact State.setX_inv k2
  clear_value x0
  split
  · exact ite_oeff (h0 _) none_eff
  · exact ite_oeff (h0 _) (ite_oeff (h0 _) none_eff)
  · exact h0 _

theorem regOp_inv {a0 a1} {s2 : State} (k2 : Inv s2) : OEffInv (regOp a0 a1 s2) := by
  unfold regOp
  extract_lets -merge -useContext +onlyGivenNames x0
  clear_value x0
  extract_lets -merge -useContext +onlyGivenNames x1
  clear_value x1
  extract_lets -merge -useContext +onlyGivenNames x2
  have h2 : ∀ y2_0, OEffInv (x2 y2_0) := by
    intro y2_0
    refine some_eff ?_
    show Inv _
    exact State.setX_inv k2
  clear_value x2
  split
  · exact h2 _
  · exact h2 _
  · exact ite_oeff (h2 _) none_eff
  · exact none_eff

theorem csrOp_inv {a0 a1} {s2 : State} (k2 : Inv s2) : OEffInv (csrOp a0 a1 s2) := by
  unfold csrOp
  extract_lets -merge -useContext +onlyGivenNames x0
  clear_value x0
  extract_lets -merge -useContext +onlyGivenNames x1
  clear_value x1
  extract_lets -merge -useContext +onlyGivenNames x2
  clear_value x2
  refine ite_oeff ?_ ?_
  · exact none_eff
  · split
    · exact none_eff
    · extract_lets -merge -useContext +onlyGivenNames x5
      clear_value x5
      extract_lets -merge -useContext +onlyGivenNames x6
      have h6 : Inv x6 := ite_inv (csrWrite_inv k2) k2
      clear_value x6
      refine some_eff ?_
      show Inv _
      exact State.setX_inv h6

theorem mret_inv {s0 : State} (k0 : Inv s0) : Inv (mret s0) := by
  unfold mret
  extract_lets -merge -useContext +onlyGivenNames x0
  clear_value x0
  extract_lets -merge -useContext +onlyGivenNames x1
  clear_value x1
  extract_lets -merge -useContext +onlyGivenNames x2
  clear_value x2
  extract_lets -merge -useContext +onlyGivenNames x3
  have h3 : Inv x3 := State.updCp_inv (State.setCsr_inv k0)
  clear_value x3
  split
  · exact h3
  · lift_lets -merge -useContext -underBinder
    extract_lets -merge -useContext +onlyGivenNames x6
    have h6 : Inv x6 := State.put_inv h3
    clear_value x6
    extract_lets -merge -useContext +onlyGivenNames x7
    clear_value x7
    exact inv_mk h6

theorem wfi_inv {s0 : State} (k0 : Inv s0) : Inv (wfi s0) := by
  unfold wfi
  exact State.updCp_inv k0

theorem systemOp_inv {a0 a1} {s2 : State} (k2 : Inv s2) : OEffInv (systemOp a0 a1 s2) := by
  unfold systemOp
  refine ite_oeff ?_ ?_
  · refine ite_oeff ?_ ?_
    · refine some_eff ?_
      show Inv _
      exact k2
    · refine ite_oeff ?_ ?_
      · refine some_eff ?_
        refine ite_eff ?_ ?_
        · show Inv _
          exact k2
        · show Inv _
          exact k2
      · refine ite_oeff ?_ ?_
        · refine some_eff ?_
          extract_lets -merge -useContext +onlyGivenNames x0
          have h0 : Inv x0 := mret_inv k2
          clear_value x0
          show Inv _
          exact h0
        · refine ite_oeff ?_ ?_
          · refine some_eff ?_
            show Inv _
            exact wfi_inv k2
          · exact none_eff
  · exact ite_oeff none_eff (csrOp_inv k2)

theorem fpPut_inv {a0 a1 a2} {s3 : State} (k3 : Inv s3) : OEffInv (fpPut a0 a1 a2 s3) := by
  unfold fpPut
  refine some_eff ?_
  show Inv _
  exact addFlags_inv (State.setF_inv k3)

theorem fpPutX_inv {a0 a1 a2} {s3 : State} (k3 : Inv s3) : OEffInv (fpPutX a0 a1 a2 s3) := by
  unfold fpPutX
  refine some_eff ?_
  show Inv _
  exact State.setX_inv (ite_inv k3 (addFlags_inv k3))

theorem fpRounding_inv {a0 a1 a2} {s3 : State} (k3 : Inv s3) : OEffInv (fpRounding a0 a1 a2 s3) := by
  unfold fpRounding
  extract_lets -merge -useContext +onlyGivenNames x0
  clear_value x0
  extract_lets -merge -useContext +onlyGivenNames x1
  clear_value x1
  split
  · exact fpPut_inv k3
  · exact fpPut_inv k3
  · exact fpPut_inv k3
  · exact fpPut_inv k3
  · exact ite_oeff (fpPut_inv k3) none_eff
  · exact ite_oeff (fpPutX_inv k3) none_eff
  · exact ite_oeff (fpPut_inv k3) none_eff
  · exact none_eff

theorem fpOp_inv {a0 a1} {s2 : State} (k2 : Inv s2) : OEffInv (fpOp a0 a1 s2) := by
  unfold fpOp
  extract_lets -merge -useContext +onlyGivenNames x0
  clear_value x0
  extract_lets -merge -useContext +onlyGivenNames x1
  clear_value x1
  split
  · exact ite_oeff (fpPut_inv k2) none_eff
  · exact ite_oeff (fpPut_inv k2) none_eff
  · refine ite_oeff ?_ ?_
    · extract_lets -merge -useContext +onlyGivenNames x5
      clear_value x5
      exact fpPutX_inv k2
    · exact none_eff
  · exact ite_oeff none_eff (ite_oeff (fpPutX_inv k2) (ite_oeff (fpPutX_inv k2) none_eff))
  · exact ite_oeff (fpPut_inv k2) none_eff
  · split
    · exact none_eff
    · exact fpRounding_inv k2

theorem fmaOp_inv {a0 a1} {s2 : State} (k2 : Inv s2) : OEffInv (fmaOp a0 a1 s2) := by
  unfold fmaOp
  extract_lets -merge -useContext +onlyGivenNames x0
  clear_value x0
  extract_lets -merge -useContext +onlyGivenNames x1
  clear_value x1
  extract_lets -merge -useContext +onlyGivenNames x2
  clear_value x2
  extract_lets -merge -useContext +onlyGivenNames x3
  clear_value x3
  extract_lets -merge -useContext +onlyGivenNames x4
  clear_value x4
  refine ite_oeff ?_ ?_
  · exact none_eff
  · split
    · exact none_eff
    · exact fpPut_inv k2

theorem fpInstr_inv {a0 a1} {s2 : State} (k2 : Inv s2) : OEffInv (fpInstr a0 a1 s2) := by
  unfold fpInstr
  refine ite_oeff ?_ ?_
  · exact none_eff
  · split
    · exact ite_oeff (some_eff (cpLoad_inv (fun y1_0 y1_1 g1_1 => State.setF_inv g1_1) k2)) none_eff
    · exact ite_oeff (some_eff (cpStore_inv k2)) none_eff
    · exact fpOp_inv k2
    · exact fmaOp_inv k2

theorem execWord_inv {a0 a1} {s2 : State} (k2 : Inv s2) : OEffInv (execWord a0 a1 s2) := by
  unfold execWord
  extract_lets -merge -useContext +onlyGivenNames x0
  clear_value x0
  extract_lets -merge -useContext +onlyGivenNames x1
  clear_value x1
  split
  · refine some_eff ?_
    show Inv _
    exact State.setX_inv k2
  · refine some_eff ?_
    show Inv _
    exact State.setX_inv k2
  · refine some_eff ?_
    show Inv _
    exact State.setX_inv k2
  · refine ite_oeff ?_ ?_
    · refine some_eff ?_
      show Inv _
      exact State.setX_inv k2
    · exact none_eff
  · refine map_eff (fun _ => ?_)
    show Inv _
    exact k2
  · exact loadOp_inv k2
  · exact storeOp_inv k2
  · exact immOp_inv k2
  · exact regOp_inv k2
  · refine ite_oeff ?_ ?_
    · refine some_eff ?_
      show Inv _
      exact k2
    · refine ite_oeff ?_ ?_
      · refine some_eff ?_
        show Inv _
        exact State.updCp_inv k2
      · exact none_eff
  · exact systemOp_inv k2
  · exact fpInstr_inv k2
  · exact fpInstr_inv k2
  · exact fpInstr_inv k2
  · exact fpInstr_inv k2
  · exact fpInstr_inv k2
  · exact fpInstr_inv k2
  · exact fpInstr_inv k2
  · exact none_eff

theorem icacheFill_inv {a0 a1} {s2 : State} (k2 : Inv s2) : Inv (icacheFill a0 a1 s2) := by
  unfold icacheFill
  exact State.updCp_inv k2

theorem fetchBus_inv {a0} {s1 : State} (k1 : Inv s1) : Inv (fetchBus a0 s1).2 := by
  unfold fetchBus
  split
  · exact snd_inv (inv_mk k1)
  · lift_lets -merge -useContext -underBinder
    extract_lets -merge -useContext +onlyGivenNames x2
    have h2 : Inv x2.st := busRead_inv k1
    clear_value x2
    extract_lets -merge -useContext +onlyGivenNames x3
    have h3 : Inv x3 := h2
    clear_value x3
    exact ite_inv2 (snd_inv h2) (ite_inv2 (snd_inv (icacheFill_inv (inv_mk h3))) (snd_inv h2))

theorem fetchHalf_inv {a0} {s1 : State} (k1 : Inv s1) : Inv (fetchHalf a0 s1).2 := by
  unfold fetchHalf
  exact ite_inv2 (snd_inv k1) (ite_inv2 (fetchBus_inv k1) (ite_inv2 (snd_inv (offAccess_inv k1)) (snd_inv k1)))

theorem retire_inv {a0 a1} {s2 : State} (k2 : Inv s2) : Inv (retire a0 a1 s2) := by
  unfold retire
  extract_lets -merge -useContext +onlyGivenNames x0
  have h0 : Inv x0 := setPc_inv k2
  clear_value x0
  exact ite_inv h0 (setCpCount_inv h0)

theorem debugHalt_inv {a0} {s1 : State} (k1 : Inv s1) : Inv (debugHalt a0 s1) := by
  unfold debugHalt
  extract_lets -merge -useContext +onlyGivenNames x0
  have h0 : Inv x0 := State.setCsr_inv k1
  clear_value x0
  extract_lets -merge -useContext +onlyGivenNames x1
  clear_value x1
  extract_lets -merge -useContext +onlyGivenNames x2
  have h2 : Inv x2 := State.setCsr_inv h0
  clear_value x2
  extract_lets -merge -useContext +onlyGivenNames x3
  have h3 : Inv x3 := State.updCp_inv h2
  clear_value x3
  exact sendRaiseAs_inv (debugLines_inv h3)

theorem settleEff_inv {s0 : State} {a1} {s2} {s3 : State} (_k0 : Inv s0) (k2 : OEffInv s2) (k3 : Inv s3) :
    Inv (settleEff s0 a1 s2 s3) := by
  unfold settleEff
  split
  · exact cpTrap_inv k3
  · exact retire_inv (k2 _ rfl)
  · exact cpTrap_inv (k2 _ rfl)
  · exact k2 _ rfl
  · exact debugHalt_inv (k2 _ rfl)

theorem runHalf_inv {a0} {s1 : State} (k1 : Inv s1) : Inv (runHalf a0 s1) := by
  unfold runHalf
  refine ite_inv ?_ ?_
  · extract_lets -merge -useContext +onlyGivenNames x0
    clear_value x0
    split
    · rename_i z1_0_0 e1_0
      have h1_0 : Inv z1_0_0 := by
        have q1 : _ = z1_0_0 := congrArg Prod.snd e1_0
        rw [← q1]
        exact fetchHalf_inv k1
      exact cpTrap_inv h1_0
    · rename_i z2_1_0 z2_1_1 e2_1
      have h2_1 : Inv z2_1_1 := by
        have q2 : _ = z2_1_1 := congrArg Prod.snd e2_1
        rw [← q2]
        exact fetchHalf_inv k1
      extract_lets -merge -useContext +onlyGivenNames x3
      clear_value x3
      exact settleEff_inv h2_1 (execWord_inv h2_1) h2_1
  · split
    · exact cpTrap_inv k1
    · exact settleEff_inv k1 (execWord_inv k1) k1

theorem cpStep_inv {s0 : State} (k0 : Inv s0) : Inv (cpStep s0) := by
  unfold cpStep
  refine ite_inv ?_ ?_
  · exact k0
  · extract_lets -merge -useContext +onlyGivenNames x0
    have h0 : Inv x0 := State.updCp_inv k0
    clear_value x0
    split
    · exact settleEff_inv h0 (some_eff (trigEff_inv h0)) h0
    · split
      · rename_i z3_0_0 e3_0
        have h3_0 : Inv z3_0_0 := by
          have q3 : _ = z3_0_0 := congrArg Prod.snd e3_0
          rw [← q3]
          exact fetchHalf_inv h0
        exact cpTrap_inv h3_0
      · rename_i z4_1_0 z4_1_1 e4_1
        have h4_1 : Inv z4_1_1 := by
          have q4 : _ = z4_1_1 := congrArg Prod.snd e4_1
          rw [← q4]
          exact fetchHalf_inv h0
        exact runHalf_inv h4_1

theorem cpStepped_inv {s0 : State} (k0 : Inv s0) : Inv (cpStepped s0) := by
  unfold cpStepped
  exact ite_inv (debugHalt_inv k0) k0

theorem execCpInstruction_inv {s0 : State} (k0 : Inv s0) : OutInv (execCpInstruction s0) := by
  unfold execCpInstruction
  exact next_inv (ite_inv (cpStepped_inv (cpStep_inv (newCycle_inv k0))) k0)

theorem cpNamed_inv {a0} {s1 : State} (k1 : Inv s1) : Inv (cpNamed a0 s1) := by
  unfold cpNamed
  refine ite_inv ?_ ?_
  · extract_lets -merge -useContext +onlyGivenNames x0
    have h0 : Inv x0 := newCycle_inv k1
    clear_value x0
    exact cpStepped_inv (settleEff_inv h0 (execWord_inv h0) h0)
  · exact k1

theorem execCpWfi_inv {s0 : State} (k0 : Inv s0) : OutInv (execCpWfi s0) := by
  unfold execCpWfi
  exact next_inv (cpNamed_inv k0)

theorem execCpMret_inv {s0 : State} (k0 : Inv s0) : OutInv (execCpMret s0) := by
  unfold execCpMret
  exact next_inv (cpNamed_inv k0)

theorem execCpFenceI_inv {s0 : State} (k0 : Inv s0) : OutInv (execCpFenceI s0) := by
  unfold execCpFenceI
  exact next_inv (cpNamed_inv k0)

end Sys2Proof.Machine
end

