-- ==== Sys2Proof/Laws/InvDebug.lean ====
section
/-! SUPPORT. The operations of Machine/Debug.lean keep `Inv`. -/

namespace Sys2Proof.Machine

theorem State.updDm_inv {s0 : State} {a1} (k0 : Inv s0) : Inv (State.updDm s0 a1) := by
  unfold State.updDm
  exact State.updCp_inv k0

theorem debugResume_inv {s0 : State} (k0 : Inv s0) : Inv (debugResume s0) := by
  unfold debugResume
  extract_lets -merge -useContext +onlyGivenNames x0
  clear_value x0
  extract_lets -merge -useContext +onlyGivenNames x1
  have h1 : Inv x1 := State.updCp_inv k0
  clear_value x1
  exact State.putB_inv h1

theorem bufRun_inv {w : Nat} {s t : State} (h : Inv s) (e : bufRun w s = some t) : Inv t := by
  unfold bufRun at e
  split at e
  · cases e
  · split at e
    · cases e
      exact h
    · split at e
      · next x heq =>
        cases e
        exact execWord_inv h _ heq
      · cases e

theorem bufFrom_inv : ∀ {l : List Nat} {s : State}, Inv s → Inv (bufFrom l s).2
  | [], _, h => h
  | [x], s, h => by
    unfold bufFrom
    split
    · exact h
    · split
      · exact h
      · split
        · exact h
        · next e => exact bufRun_inv h e
  | x :: g :: l, s, h => by
    unfold bufFrom
    split
    · split
      · exact h
      · split
        · exact h
        · next e => exact bufFrom_inv (bufRun_inv h e)
    · split
      · exact h
      · split
        · exact h
        · split
          · exact h
          · next e => exact bufFrom_inv (bufRun_inv h e)

theorem bufExec_inv {s0 : State} (k0 : Inv s0) : Inv (bufExec s0).2 :=
  State.updCp_inv (bufFrom_inv (State.updCp_inv k0))

theorem cmdErr_inv {a0} {s1 : State} (k1 : Inv s1) : Inv (cmdErr a0 s1) := by
  unfold cmdErr
  exact State.updDm_inv k1

theorem dbgWrite_inv {n v} {s t : State} (h : Inv s) (e : dbgWrite n v s = some t) : Inv t := by
  unfold dbgWrite at e
  split at e
  · split at e
    · cases e
    · exact Option.some.inj e ▸ csrWrite_inv h
  · split at e
    · exact Option.some.inj e ▸ State.setX_inv h
    · split at e
      · exact Option.some.inj e ▸ State.setF_inv h
      · cases e

theorem cmdTransfer_inv {c} {s t : State} (h : Inv s) (e : cmdTransfer c s = some t) : Inv t := by
  unfold cmdTransfer at e
  dsimp only at e
  split at e
  · exact Option.some.inj e ▸ h
  · split at e
    · exact dbgWrite_inv h e
    · cases q : dbgRead s (bitsOf c 15 0) with
      | none => rw [q] at e; cases e
      | some w =>
        rw [q] at e
        exact Option.some.inj e ▸ State.updDm_inv h

theorem command_inv {a0} {s1 : State} (k1 : Inv s1) : Inv (command a0 s1) := by
  unfold command
  refine ite_inv k1 ?_
  have h0 := State.updDm_inv (a1 := fun d => { d with command := a0 }) k1
  refine ite_inv (cmdErr_inv h0) (ite_inv (cmdErr_inv h0) ?_)
  split
  · exact cmdErr_inv h0
  · next e =>
    have h1 := cmdTransfer_inv h0 e
    exact ite_inv h1 (ite_inv (bufExec_inv h1) (cmdErr_inv (bufExec_inv h1)))

theorem autoExec_inv {a0} {s1 : State} (k1 : Inv s1) : Inv (autoExec a0 s1) := by
  unfold autoExec
  exact ite_inv (command_inv k1) k1

theorem sbNext_inv {s0 : State} (k0 : Inv s0) : Inv (sbNext s0) := by
  unfold sbNext
  exact ite_inv (State.updDm_inv k0) k0

theorem sbErr_inv {a0} {s1 : State} (k1 : Inv s1) : Inv (sbErr a0 s1) := by
  unfold sbErr
  exact State.updDm_inv k1

theorem sbTry_inv {s0 : State} {a1} (k0 : Inv s0) (k1 : ∀ y0, Inv y0 → Inv (a1 y0)) : Inv (sbTry s0 a1) := by
  unfold sbTry
  exact ite_inv k0 (ite_inv (sbErr_inv k0) (ite_inv (sbErr_inv k0) (k1 _ k0)))

theorem sbRead_inv {s0 : State} (k0 : Inv s0) : Inv (sbRead s0) := by
  unfold sbRead
  refine sbTry_inv ?_ (fun y0_0 g0_0 => ?_)
  · exact k0
  · extract_lets -merge -useContext +onlyGivenNames x1
    have h1 : Inv x1.st := busRead_inv g0_0
    clear_value x1
    exact ite_inv (sbErr_inv h1) (ite_inv (sbErr_inv h1) (sbNext_inv (State.updDm_inv h1)))

theorem sbWrite_inv {s0 : State} (k0 : Inv s0) : Inv (sbWrite s0) := by
  unfold sbWrite
  refine sbTry_inv ?_ (fun y0_0 g0_0 => ?_)
  · exact k0
  · extract_lets -merge -useContext +onlyGivenNames x1
    have h1 : Inv x1.st := busWrite_inv g0_0
    clear_value x1
    exact ite_inv (sbErr_inv h1) (ite_inv (sbErr_inv h1) (sbNext_inv h1))

theorem dmiRead_inv {a0} {s1 : State} (k1 : Inv s1) : Inv (dmiRead a0 s1).2 := by
  unfold dmiRead
  extract_lets -merge -useContext +onlyGivenNames x0
  clear_value x0
  refine ite_inv2 ?_ ?_
  · exact snd_inv k1
  · refine ite_inv2 ?_ ?_
    · exact snd_inv k1
    · refine ite_inv2 ?_ ?_
      · exact snd_inv k1
      · refine ite_inv2 ?_ ?_
        · exact snd_inv k1
        · split
          · exact snd_inv (autoExec_inv k1)
          · exact snd_inv k1
          · exact snd_inv k1
          · exact snd_inv (autoExec_inv k1)
          · exact snd_inv (autoExec_inv k1)
          · exact snd_inv k1
          · exact snd_inv k1
          · exact snd_inv (ite_inv (sbRead_inv k1) k1)
          · exact snd_inv k1

theorem dmcontrolWrite_inv {a0} {s1 : State} (k1 : Inv s1) : Inv (dmcontrolWrite a0 s1) := by
  unfold dmcontrolWrite
  refine ite_inv ?_ ?_
  · exact State.updDm_inv k1
  · extract_lets -merge -useContext +onlyGivenNames x0
    have h0 : Inv x0 := State.updDm_inv k1
    clear_value x0
    exact ite_inv (ite_inv (debugHalt_inv h0) h0) (ite_inv (State.updDm_inv (debugResume_inv h0)) h0)

theorem dmiWrite_inv {a0 a1} {s2 : State} (k2 : Inv s2) : Inv (dmiWrite a0 a1 s2) := by
  unfold dmiWrite
  refine ite_inv ?_ ?_
  · exact k2
  · refine ite_inv ?_ ?_
    · exact dmcontrolWrite_inv k2
    · refine ite_inv ?_ ?_
      · exact k2
      · split
        · exact autoExec_inv (State.updDm_inv k2)
        · exact State.updDm_inv k2
        · exact command_inv k2
        · exact State.updDm_inv k2
        · exact autoExec_inv (State.updDm_inv k2)
        · exact autoExec_inv (State.updDm_inv k2)
        · exact State.updDm_inv k2
        · extract_lets -merge -useContext +onlyGivenNames x8
          have h8 : Inv x8 := State.updDm_inv k2
          clear_value x8
          exact ite_inv (sbRead_inv h8) h8
        · exact sbWrite_inv (State.updDm_inv k2)
        · exact k2

theorem dmiAccess_inv {s0 : State} {a1} (k0 : Inv s0) : Inv (dmiAccess s0 a1) := by
  unfold dmiAccess
  split
  · exact dmiWrite_inv k0
  · extract_lets -merge -useContext +onlyGivenNames x2
    have h2 : Inv x2.2 := dmiRead_inv k0
    clear_value x2
    exact State.updDm_inv h2

theorem execDebugHalt_inv {a0} {s1 : State} (k1 : Inv s1) : OutInv (execDebugHalt a0 s1) := by
  unfold execDebugHalt
  extract_lets -merge -useContext +onlyGivenNames x0
  have h0 : Inv x0 := ite_inv (debugHalt_inv k1) k1
  clear_value x0
  exact next_inv (foldl_inv (fun t x ht => dmiAccess_inv ht) h0)

theorem execDebugResume_inv {s0 : State} (k0 : Inv s0) : OutInv (execDebugResume s0) := by
  unfold execDebugResume
  exact ite_out (next_inv (debugResume_inv k0)) (next_inv k0)

end Sys2Proof.Machine
end

