-- ==== Sys2Proof/Laws/InvSpp.lean ====
section
/-! SUPPORT. The operations of Machine/Spp.lean keep `Inv`. -/

namespace Sys2Proof.Machine

theorem State.updSpp_inv {s0 : State} {a1} (k0 : Inv s0) : Inv (State.updSpp s0 a1) := by
  unfold State.updSpp
  exact inv_mk k0

theorem respond_inv {a0 a1 a2} {s3 : State} (k3 : Inv s3) : Inv (respond a0 a1 a2 s3) := by
  unfold respond
  extract_lets -merge -useContext +onlyGivenNames x0
  have h0 : Inv x0 := ite_inv (State.bump_inv k3) k3
  clear_value x0
  exact State.updSpp_inv (State.put_inv h0)

theorem badFrame_inv {a0 a1} {s2 : State} (k2 : Inv s2) : Inv (badFrame a0 a1 s2) := by
  unfold badFrame
  exact respond_inv (inv_mk k2)

theorem sppFrame_inv {a0 a1 a2} {s3 : State} (k2 : ∀ y0, Inv y0 → Inv (a2 y0)) (k3 : Inv s3) : Inv (sppFrame a0 a1 a2 s3)
    := by
  unfold sppFrame
  refine ite_inv ?_ ?_
  · exact k3
  · lift_lets -merge -useContext -underBinder
    extract_lets -merge -useContext +onlyGivenNames x0
    clear_value x0
    extract_lets -merge -useContext +onlyGivenNames x1
    have h1 : Inv x1 := State.updSpp_inv k3
    clear_value x1
    extract_lets -merge -useContext +onlyGivenNames x2
    have h2 : Inv x2 := ite_inv (State.put_inv h1) h1
    clear_value x2
    exact ite_inv (State.bump_inv (State.put_inv h1)) (ite_inv (badFrame_inv (State.bump_inv (State.put_inv h2))) (ite_inv
        (badFrame_inv h2) (k2 _ (icuEvent_inv h2))))

theorem sppGuard_inv {a0 a1 a2 a3} {s4 : State} (k3 : ∀ y0, Inv y0 → Inv (a3 y0)) (k4 : Inv s4) : Inv (sppGuard a0 a1 a2 a3
    s4) := by
  unfold sppGuard
  exact ite_inv (respond_inv k4) (ite_inv (respond_inv k4) (k3 _ k4))

theorem readWords_inv : ∀ {l : List Nat} {s : State}, Inv s → Inv (readWords l s).2
  | [], _, h => h
  | a :: l, s, h => by
    unfold readWords
    dsimp only
    split
    · exact busRead_inv h
    · exact readWords_inv (l := l) (busRead_inv h)

theorem writeWords_inv : ∀ {l : List (Nat × Word)} {s : State}, Inv s → Inv (writeWords l s).2
  | [], _, h => h
  | e :: l, s, h => by
    unfold writeWords
    dsimp only
    split
    · exact busWrite_inv h
    · exact writeWords_inv (l := l) (busWrite_inv h)

theorem sppTransfer_inv {a0 a1} {s2 : State} (k2 : Inv s2) : Inv (sppTransfer a0 a1 s2) := by
  unfold sppTransfer
  refine ite_inv ?_ ?_
  · extract_lets -merge -useContext +onlyGivenNames x0
    have h0 : Inv x0.2 := writeWords_inv k2
    clear_value x0
    exact respond_inv h0
  · extract_lets -merge -useContext +onlyGivenNames x1
    have h1 : Inv x1.2 := readWords_inv k2
    clear_value x1
    split
    · exact respond_inv h1
    · exact respond_inv h1

theorem sppAccess_inv {a0 a1} {s2 : State} (k2 : Inv s2) : Inv (sppAccess a0 a1 s2) := by
  unfold sppAccess
  exact ite_inv (State.updSpp_inv (State.put_inv k2)) (sppTransfer_inv k2)

theorem execSppRd_inv {a0} {s1 : State} (k1 : Inv s1) : OutInv (execSppRd a0 s1) := by
  unfold execSppRd
  exact next_inv (sppFrame_inv (fun y0_0 g0_0 => sppGuard_inv (fun y1_0 g1_0 => sppAccess_inv g1_0) g0_0) k1)

theorem execSppWr_inv {a0 a1} {s2 : State} (k2 : Inv s2) : OutInv (execSppWr a0 a1 s2) := by
  unfold execSppWr
  exact next_inv (sppFrame_inv (fun y0_0 g0_0 => sppGuard_inv (fun y1_0 g1_0 => sppAccess_inv g1_0) g0_0) (advanceTo_inv
      k2))

theorem sectorErase_inv {a0} {s1 : State} (k1 : Inv s1) : Inv (sectorErase a0 s1) :=
  have h := eraseSector_inv k1
  ⟨h.1, h.2.1, h.2.2.1, h.2.2.2.1, mwf_filter _ _ h.2.2.2.2⟩

theorem flashFailed_inv {a0 a1} {s2 : State} (k2 : Inv s2) : Inv (flashFailed a0 a1 s2) := by
  unfold flashFailed
  extract_lets k x
  have h : Inv x := ⟨k2.1, k2.2.1, k2.2.2.1, k2.2.2.2.1, mwf_filter _ _ k2.2.2.2.2⟩
  exact State.setBytes_inv h

theorem execSppFerase_inv {a0 a1} {s2 : State} (k2 : Inv s2) : OutInv (execSppFerase a0 a1 s2) := by
  unfold execSppFerase
  extract_lets -merge -useContext +onlyGivenNames x0
  clear_value x0
  exact next_inv (sppFrame_inv (fun y1_0 g1_0 => sppGuard_inv (fun y2_0 g2_0 => ite_inv (respond_inv g2_0) (ite_inv
      (respond_inv (flashFailed_inv g2_0)) (respond_inv (sectorErase_inv g2_0)))) g1_0) k2)

theorem flashProgram_inv {a0 a1} {s2 : State} (k2 : Inv s2) : Inv (flashProgram a0 a1 s2) := by
  unfold flashProgram
  extract_lets -merge -useContext +onlyGivenNames x0
  clear_value x0
  exact ite_inv (respond_inv k2) (ite_inv (ite_inv (respond_inv (flashFailed_inv k2)) (respond_inv (State.setWords_inv
      k2))) (respond_inv k2))

theorem execSppFprog_inv {a0 a1} {s2 : State} (k2 : Inv s2) : OutInv (execSppFprog a0 a1 s2) := by
  unfold execSppFprog
  exact next_inv (sppFrame_inv (fun y0_0 g0_0 => sppGuard_inv (fun y1_0 g1_0 => flashProgram_inv g1_0) g0_0) k2)

theorem rangeRead_inv {a0 a1} {s2 : State} (k2 : Inv s2) : Inv (rangeRead a0 a1 s2).2 := by
  unfold rangeRead
  extract_lets -merge -useContext +onlyGivenNames x0
  clear_value x0
  extract_lets -merge -useContext +onlyGivenNames x1
  clear_value x1
  exact eccReadAll_inv k2

theorem flashCrc_inv {a0 a1} {s2 : State} (k2 : Inv s2) : Inv (flashCrc a0 a1 s2) := by
  unfold flashCrc
  extract_lets -merge -useContext +onlyGivenNames x0
  clear_value x0
  extract_lets -merge -useContext +onlyGivenNames x1
  have h1 : Inv x1.2 := rangeRead_inv k2
  clear_value x1
  exact ite_inv (respond_inv h1) (respond_inv h1)

theorem execSppFcrc_inv {a0} {s1 : State} (k1 : Inv s1) : OutInv (execSppFcrc a0 s1) := by
  unfold execSppFcrc
  extract_lets -merge -useContext +onlyGivenNames x0
  clear_value x0
  extract_lets -merge -useContext +onlyGivenNames x1
  clear_value x1
  exact next_inv (sppFrame_inv (fun y2_0 g2_0 => sppGuard_inv (fun y3_0 g3_0 => flashCrc_inv g3_0) g2_0) k1)

theorem sppUnlockWord_inv {a0 a1} {s2 : State} (k2 : Inv s2) : Inv (sppUnlockWord a0 a1 s2) := by
  unfold sppUnlockWord
  exact ite_inv (respond_inv (passwordEntry_inv (bridgeDrain_inv k2))) (respond_inv (offAccess_inv k2))

theorem execSppUnlock_inv {a0 a1} {s2 : State} (k2 : Inv s2) : OutInv (execSppUnlock a0 a1 s2) := by
  unfold execSppUnlock
  exact next_inv (sppFrame_inv (fun y0_0 g0_0 => sppGuard_inv (fun y1_0 g1_0 => sppUnlockWord_inv g1_0) g0_0)
      (advanceTo_inv k2))

theorem sppRequest_inv {a0 a1 a2 a3} {s4 : State} (k3 : ∀ y0, Inv y0 → Inv (a3 y0)) (k4 : Inv s4) : Inv (sppRequest a0 a1
    a2 a3 s4) := by
  unfold sppRequest
  exact inCycle_inv (fun y0_0 y0_1 g0_1 => respond_inv (refuse_inv g0_1)) (fun y1_0 g1_0 => ite_inv (k3 _ g1_0)
      (respond_inv (refuse_inv g1_0))) k4

theorem svcTake_inv {a0} {s1 : State} (k1 : Inv s1) : Inv (svcTake a0 s1) := by
  unfold svcTake
  extract_lets -merge -useContext +onlyGivenNames x0
  have h0 : Inv x0 := ite_inv (State.put_inv k1) k1
  clear_value x0
  exact respond_inv (enterService_inv h0)

theorem execSppSvcreq_inv {a0 a1} {s2 : State} (k2 : Inv s2) : OutInv (execSppSvcreq a0 a1 s2) := by
  unfold execSppSvcreq
  exact next_inv (sppFrame_inv (fun y0_0 g0_0 => sppGuard_inv (fun y1_0 g1_0 => sppRequest_inv (fun y2_0 g2_0 =>
      svcTake_inv g2_0) g1_0) g0_0) k2)

theorem resetTake_inv {s0 : State} (k0 : Inv s0) : Inv (resetTake s0) := by
  unfold resetTake
  exact requestReset_inv (State.put_inv k0)

theorem execSppReset_inv {a0 a1} {s2 : State} (k2 : Inv s2) : OutInv (execSppReset a0 a1 s2) := by
  unfold execSppReset
  exact next_inv (sppFrame_inv (fun y0_0 g0_0 => sppGuard_inv (fun y1_0 g1_0 => sppRequest_inv (fun y2_0 g2_0 =>
      resetTake_inv g2_0) g1_0) g0_0) k2)

theorem execSppNop_inv {a0} {s1 : State} (k1 : Inv s1) : OutInv (execSppNop a0 s1) := by
  unfold execSppNop
  exact next_inv (sppFrame_inv (fun y0_0 g0_0 => sppGuard_inv (fun y1_0 g1_0 => respond_inv g1_0) g0_0) k1)

theorem execSppUnknownOp_inv {a0 a1} {s2 : State} (k2 : Inv s2) : OutInv (execSppUnknownOp a0 a1 s2) := by
  unfold execSppUnknownOp
  exact ite_out (next_inv k2) (next_inv (sppFrame_inv (fun y0_0 g0_0 => respond_inv g0_0) k2))

theorem responseStore_inv {s0 : State} (k0 : Inv s0) : Inv (responseStore s0) := by
  unfold responseStore
  split
  · exact k0
  · exact State.updSpp_inv (State.put_inv (State.put_inv k0))

theorem execSppResponseReady_inv {s0 : State} (k0 : Inv s0) : OutInv (execSppResponseReady s0) := by
  unfold execSppResponseReady
  split
  · exact next_inv (responseStore_inv k0)
  · exact ite_out (next_inv k0) (next_inv (responseStore_inv (sppTransfer_inv (State.updSpp_inv k0))))

theorem execSppGet_inv {a0} {s1 : State} (k1 : Inv s1) : OutInv (execSppGet a0 s1) := by
  unfold execSppGet
  extract_lets -merge -useContext +onlyGivenNames x0
  clear_value x0
  refine ite_out ?_ ?_
  · exact next_inv k1
  · split
    · extract_lets -merge -useContext +onlyGivenNames x2
      clear_value x2
      extract_lets -merge -useContext +onlyGivenNames x3
      have h3 : Inv x3 := State.updSpp_inv k1
      clear_value x3
      exact next_inv (ite_inv (State.updSpp_inv (State.put_inv h3)) h3)
    · extract_lets -merge -useContext +onlyGivenNames x5
      clear_value x5
      exact next_inv (State.updSpp_inv (inv_mk k1))

end Sys2Proof.Machine
end

