-- ==== Sys2Proof/Laws/InvBoot.lean ====
section
/-! SUPPORT. The operations of Machine/Boot.lean keep `Inv`. -/

namespace Sys2Proof.Machine

theorem dirRead_inv {a0} {s1 : State} (k1 : Inv s1) : Inv (dirRead a0 s1).2 := by
  unfold dirRead
  extract_lets -merge -useContext +onlyGivenNames x0
  have h0 : Inv x0.2 := romRead_inv k1
  clear_value x0
  exact snd_inv h0

theorem newestDir_inv {s0 : State} (k0 : Inv s0) : Inv (newestDir s0).2 := by
  unfold newestDir
  extract_lets -merge -useContext +onlyGivenNames x0
  clear_value x0
  extract_lets -merge -useContext +onlyGivenNames x1
  clear_value x1
  extract_lets -merge -useContext +onlyGivenNames x2
  have h2 : Inv x2.2 := dirRead_inv k0
  clear_value x2
  extract_lets -merge -useContext +onlyGivenNames x3
  have h3 : Inv x3.2 := dirRead_inv h2
  clear_value x3
  extract_lets -merge -useContext +onlyGivenNames x4
  have h4 : Inv x4 := h3
  clear_value x4
  exact snd_inv h4

theorem imageOk_inv {a0} {s1 : State} (k1 : Inv s1) : Inv (imageOk a0 s1).2 := by
  unfold imageOk
  lift_lets -merge -useContext -underBinder
  extract_lets -merge -useContext +onlyGivenNames x0
  clear_value x0
  extract_lets -merge -useContext +onlyGivenNames x1
  have h1 : Inv x1.2 := romRead_inv k1
  clear_value x1
  extract_lets -merge -useContext +onlyGivenNames x2
  clear_value x2
  extract_lets -merge -useContext +onlyGivenNames x3
  have h3 : Inv x3.2 := romRead_inv h1
  clear_value x3
  exact ite_inv2 (snd_inv h3) (snd_inv h1)

theorem freshCode_inv {a0 a1} {s2 : State} (k2 : Inv s2) : Inv (freshCode a0 a1 s2) :=
  ⟨k2.1, k2.2.1, k2.2.2.1, k2.2.2.2.1, mwf_filter _ _ k2.2.2.2.2⟩

theorem copyIn_inv {a0 a1} {s2 : State} (k2 : Inv s2) : Inv (copyIn a0 a1 s2) := by
  unfold copyIn
  exact State.setBytes_inv (freshCode_inv k2)

theorem copySect_inv {a0 a1} {s2 : State} (k2 : Inv s2) : Inv (copySect a0 a1 s2) := by
  unfold copySect
  extract_lets -merge -useContext +onlyGivenNames x0
  clear_value x0
  extract_lets -merge -useContext +onlyGivenNames x1
  clear_value x1
  exact ite_inv (copyIn_inv k2) k2

theorem copySections_inv {a0} {s1 : State} (k1 : Inv s1) : Inv (copySections a0 s1) := by
  unfold copySections
  extract_lets -merge -useContext +onlyGivenNames x0
  clear_value x0
  exact forAll_inv (fun y1_0 y1_1 g1_1 => copySect_inv g1_1) k1

theorem setOk_inv {a0} {s1 : State} (k1 : Inv s1) : Inv (setOk a0 s1).2 := by
  unfold setOk
  exact ite_inv2 (romRead_inv k1) (snd_inv (ite_inv2 (romRead_inv k1) (snd_inv k1)))

theorem writeRec_inv {a0 a1} {s2 : State} (k2 : Inv s2) : Inv (writeRec a0 a1 s2) := by
  unfold writeRec
  extract_lets -merge -useContext +onlyGivenNames x0
  clear_value x0
  exact busWritten_inv k2

theorem writeGraph_inv {a0} {s1 : State} (k1 : Inv s1) : Inv (writeGraph a0 s1) := by
  unfold writeGraph
  extract_lets -merge -useContext +onlyGivenNames x0
  clear_value x0
  exact copyIn_inv k1

theorem writeSet_inv {a0} {s1 : State} (k1 : Inv s1) : Inv (writeSet a0 s1) := by
  unfold writeSet
  extract_lets -merge -useContext +onlyGivenNames x0
  have h0 : Inv x0 := forAll_inv (fun y1_0 y1_1 g1_1 => writeRec_inv g1_1) (writeGraph_inv k1)
  clear_value x0
  exact rwsWritten_inv h0

theorem romFlip_inv {s0 : State} (k0 : Inv s0) : Inv (romFlip s0) := by
  unfold romFlip
  exact flipScanEnd_inv (localFlip_inv k0)

theorem loadConfig_inv {a0 a1} {s2 : State} (k2 : Inv s2) : Inv (loadConfig a0 a1 s2) := by
  unfold loadConfig
  lift_lets -merge -useContext -underBinder
  extract_lets -merge -useContext +onlyGivenNames x0
  clear_value x0
  extract_lets -merge -useContext +onlyGivenNames x1
  clear_value x1
  extract_lets -merge -useContext +onlyGivenNames x2
  have h2 : Inv x2.2 := setOk_inv k2
  clear_value x2
  extract_lets -merge -useContext +onlyGivenNames x3
  have h3 : Inv x3.2 := ite_inv2 (snd_inv h2) (setOk_inv h2)
  clear_value x3
  extract_lets -merge -useContext +onlyGivenNames x4
  have h4 : Inv x4 := h3
  clear_value x4
  extract_lets -merge -useContext +onlyGivenNames x5
  have h5 : Inv x5 := romFlip_inv (writeSet_inv h4)
  clear_value x5
  extract_lets -merge -useContext +onlyGivenNames x6
  have h6 : Inv x6 := ite_inv (State.put_inv (writeSet_inv h5)) h5
  clear_value x6
  extract_lets -merge -useContext +onlyGivenNames x7
  have h7 : Inv x7 := ite_inv (State.put_inv (writeSet_inv h4)) h4
  clear_value x7
  exact ite_inv (ite_inv (State.put_inv (State.put_inv (writeSet_inv (romFlip_inv (writeSet_inv h4))))) (State.putB_inv
      h6)) (State.put_inv h7)

theorem romJump_inv {a0} {s1 : State} (k1 : Inv s1) : Inv (romJump a0 s1) := by
  unfold romJump
  lift_lets -merge -useContext -underBinder
  extract_lets -merge -useContext +onlyGivenNames x0
  have h0 : Inv x0 := State.put_inv k1
  clear_value x0
  extract_lets -merge -useContext +onlyGivenNames x1
  clear_value x1
  exact ite_inv (wakefail_inv h0) (subTo_inv (inv_mk h0))

theorem romLoad_inv {a0 a1} {s2 : State} (k2 : Inv s2) : Inv (romLoad a0 a1 s2) := by
  unfold romLoad
  extract_lets -merge -useContext +onlyGivenNames x0
  clear_value x0
  extract_lets -merge -useContext +onlyGivenNames x1
  clear_value x1
  exact romJump_inv (loadConfig_inv (copySections_inv k2))

theorem noImage_inv {s0 : State} (k0 : Inv s0) : Inv (noImage s0) := by
  unfold noImage
  exact enterBy_inv (State.put_inv k0)

theorem romLoadSlot_inv {a0 a1} {s2 : State} (k2 : Inv s2) : Inv (romLoadSlot a0 a1 s2) := by
  unfold romLoadSlot
  lift_lets -merge -useContext -underBinder
  extract_lets -merge -useContext +onlyGivenNames x0
  have h0 : Inv x0.2 := imageOk_inv k2
  clear_value x0
  extract_lets -merge -useContext +onlyGivenNames x1
  have h1 : Inv x1.2 := imageOk_inv h0
  clear_value x1
  exact ite_inv (romLoad_inv h0) (ite_inv (romLoad_inv (State.put_inv h1)) (noImage_inv h1))

theorem romFrom_inv {a0} {s1 : State} (k1 : Inv s1) : Inv (romFrom a0 s1) := by
  unfold romFrom
  split
  · exact noImage_inv k1
  · exact romLoadSlot_inv k1

theorem romRun_inv {s0 : State} (k0 : Inv s0) : Inv (romRun s0) := by
  unfold romRun
  extract_lets -merge -useContext +onlyGivenNames x0
  have h0 : Inv x0.2 := newestDir_inv k0
  clear_value x0
  exact romFrom_inv h0

theorem execListenWindowEnd_inv {s0 : State} (k0 : Inv s0) : OutInv (execListenWindowEnd s0) := by
  unfold execListenWindowEnd
  exact ite_out (next_inv (romRun_inv (subTo_inv k0))) (next_inv k0)

theorem restoreAt_inv {a0 a1} {s2 : State} (k2 : Inv s2) : Inv (restoreAt a0 a1 s2) := by
  unfold restoreAt
  exact ite_inv (aWrite_inv k2) (dWritten_inv k2)

theorem restoreOne_inv {a0} {s1 : State} (k1 : Inv s1) : Inv (restoreOne a0 s1) := by
  unfold restoreOne
  refine ite_inv ?_ ?_
  · exact k1
  · extract_lets -merge -useContext +onlyGivenNames x0
    clear_value x0
    extract_lets -merge -useContext +onlyGivenNames x1
    have h1 : Inv x1.2 := romRead_inv k1
    clear_value x1
    exact ite_inv h1 (restoreAt_inv h1)

theorem restoreRun_inv {s0 : State} (k0 : Inv s0) : Inv (restoreRun s0) := by
  unfold restoreRun
  lift_lets -merge -useContext -underBinder
  extract_lets -merge -useContext +onlyGivenNames x0
  have h0 : Inv x0 := State.put_inv (State.updPwr_inv k0)
  clear_value x0
  extract_lets -merge -useContext +onlyGivenNames x1
  have h1 : Inv x1 := listRead_inv h0
  clear_value x1
  extract_lets -merge -useContext +onlyGivenNames x2
  have h2 : Inv x2 := forAll_inv (fun y3_0 y3_1 g3_1 => restoreOne_inv g3_1) (State.put_inv h1)
  clear_value x2
  exact ite_inv (State.put_inv h0) (ite_inv (State.put_inv h1) (State.put_inv h2))

theorem execRestoreComplete_inv {s0 : State} (k0 : Inv s0) : OutInv (execRestoreComplete s0) := by
  unfold execRestoreComplete
  split
  · exact ite_out (next_inv (restoreRun_inv k0)) (next_inv k0)
  · exact next_inv k0

end Sys2Proof.Machine
end

