-- ==== Sys2Proof/Laws/InvDormant.lean ====
section
/-! SUPPORT. The operations of Machine/Dormant.lean keep `Inv`. -/

namespace Sys2Proof.Machine

theorem wakeFromFail_inv {a0} {s1 : State} (k1 : Inv s1) : Inv (wakeFromFail a0 s1) := by
  unfold wakeFromFail
  extract_lets -merge -useContext +onlyGivenNames x0
  have h0 : Inv x0 := State.updPwr_inv (State.put_inv k1)
  clear_value x0
  exact ite_inv (State.updPwr_inv (dieReset_inv h0)) (wakeNow_inv h0)

theorem execWakeRise_inv {a0} {s1 : State} (k1 : Inv s1) : OutInv (execWakeRise a0 s1) := by
  unfold execWakeRise
  extract_lets -merge -useContext +onlyGivenNames x0
  have h0 : Inv x0 := State.updPwr_inv (advanceTo_inv k1)
  clear_value x0
  exact ite_out (ite_out (next_inv (wakeFromFail_inv h0)) (next_inv h0)) (next_inv (wakeEvent_inv h0))

theorem aonTake_inv {s0 : State} (k0 : Inv s0) : Inv (aonTake s0) := by
  unfold aonTake
  extract_lets -merge -useContext +onlyGivenNames x0
  clear_value x0
  exact State.updPwr_inv k0

theorem entryReset_inv {s0 : State} (k0 : Inv s0) : Inv (entryReset s0) := by
  unfold entryReset
  extract_lets -merge -useContext +onlyGivenNames x0
  have h0 : Inv x0 := lifeSave_inv (enterMode_inv (dieReset_inv (aonTake_inv (pwLock_inv k0))))
  clear_value x0
  exact State.updPwr_inv h0

theorem coreDown_inv {s0 : State} (k0 : Inv s0) : Inv (coreDown s0) := by
  unfold coreDown
  extract_lets -merge -useContext +onlyGivenNames x0
  have h0 : Inv x0 := State.put_inv (State.put_inv (coreOff_inv k0))
  clear_value x0
  exact State.updPwr_inv (State.put_inv h0)

theorem entryStep_inv {s0 : State} (k0 : Inv s0) : Inv (entryStep s0) := by
  unfold entryStep
  split
  · exact State.updPwr_inv (entryReset_inv k0)
  · exact State.updPwr_inv k0
  · exact State.updPwr_inv k0
  · exact State.updPwr_inv (coreDown_inv k0)
  · exact k0

theorem execDormantEntryStep_inv {s0 : State} (k0 : Inv s0) : OutInv (execDormantEntryStep s0) := by
  unfold execDormantEntryStep
  exact next_inv (entryStep_inv k0)

theorem entryEnd_inv {s0 : State} (k0 : Inv s0) : Inv (entryEnd s0) := by
  unfold entryEnd
  lift_lets -merge -useContext -underBinder
  extract_lets -merge -useContext +onlyGivenNames x0
  have h0 : Inv x0 := State.updHwm_inv (State.setReg_inv k0)
  extract_lets -merge -useContext +onlyGivenNames x1
  have h1 : Inv x1 := State.updPwr_inv h0
  extract_lets -merge -useContext +onlyGivenNames x2
  have h2 : Inv x2 := settleSupplies_inv (inv_mk h1)
  clear_value x2
  extract_lets -merge -useContext +onlyGivenNames x3
  have h3 : Inv x3 := settle_inv h2
  clear_value x3
  exact ite_inv (wakeNow_inv h2) (ite_inv (wakeNow_inv h3) h3)

theorem execDormantEntryComplete_inv {a0} {s1 : State} (k1 : Inv s1) : OutInv (execDormantEntryComplete a0 s1) := by
  unfold execDormantEntryComplete
  extract_lets -merge -useContext +onlyGivenNames x0
  have h0 : Inv x0 := advanceTo_inv k1
  clear_value x0
  exact ite_out (next_inv (entryEnd_inv h0)) (next_inv h0)

theorem limpDormant_inv {s0 : State} (k0 : Inv s0) : Inv (limpDormant s0) := by
  unfold limpDormant
  extract_lets -merge -useContext +onlyGivenNames x0
  have h0 : Inv x0 := State.put_inv (entryReset_inv (entryStart_inv k0))
  clear_value x0
  exact State.updPwr_inv h0

theorem execLimpDormantTimeout_inv {s0 : State} (k0 : Inv s0) : OutInv (execLimpDormantTimeout s0) := by
  unfold execLimpDormantTimeout
  exact ite_out (next_inv (limpDormant_inv k0)) (next_inv k0)

theorem pcntEdge_inv {a0 a1} {s2 : State} (k2 : Inv s2) : Inv (pcntEdge a0 a1 s2) := by
  unfold pcntEdge
  refine ite_inv ?_ ?_
  · extract_lets -merge -useContext +onlyGivenNames x0
    clear_value x0
    extract_lets -merge -useContext +onlyGivenNames x1
    have h1 : Inv x1 := ite_inv k2 (State.put_inv k2)
    clear_value x1
    extract_lets -merge -useContext +onlyGivenNames x2
    have h2 : Inv x2 := State.put_inv h1
    clear_value x2
    exact pcntWake_inv h2
  · exact k2

theorem execAonCounterEdge_inv {a0 a1} {s2 : State} (k2 : Inv s2) : OutInv (execAonCounterEdge a0 a1 s2) := by
  unfold execAonCounterEdge
  exact next_inv (pcntEdge_inv (advanceTo_inv k2))

theorem execPcntWrite_inv {a0 a1 a2 a3} {s4 : State} (k4 : Inv s4) : OutInv (execPcntWrite a0 a1 a2 a3 s4) := by
  unfold execPcntWrite
  extract_lets -merge -useContext +onlyGivenNames x0
  have h0 : Inv x0 := crossing_inv (fun y1_0 g1_0 => pcntSet_inv g1_0) (advanceTo_inv k4)
  clear_value x0
  exact next_inv (ite_inv (pcntEdge_inv h0) h0)

theorem execGlintStart_inv {s0 : State} (k0 : Inv s0) : OutInv (execGlintStart s0) := by
  unfold execGlintStart
  exact ite_out (next_inv (settleSupplies_inv (State.updPwr_inv k0))) (next_inv k0)

theorem glintOne_inv {a0 a1} {s2 : State} (k2 : Inv s2) : Inv (glintOne a0 a1 s2) := by
  unfold glintOne
  refine ite_inv ?_ ?_
  · exact k2
  · extract_lets -merge -useContext +onlyGivenNames x0
    clear_value x0
    extract_lets -merge -useContext +onlyGivenNames x1
    clear_value x1
    exact State.putB_inv (State.put_inv k2)

theorem glintFinish_inv {a0 a1} {s2 : State} (k2 : Inv s2) : Inv (glintFinish a0 a1 s2) := by
  unfold glintFinish
  extract_lets -merge -useContext +onlyGivenNames x0
  have h0 : Inv x0 := forAll_inv (fun y1_0 y1_1 g1_1 => glintOne_inv g1_1) (settleSupplies_inv (State.updPwr_inv k2))
  clear_value x0
  split
  · exact State.updPwr_inv h0
  · extract_lets -merge -useContext +onlyGivenNames x4
    have h4 : Inv x4 := State.updPwr_inv h0
    clear_value x4
    exact ite_inv (wakeEvent_inv (State.put_inv h4)) h4

theorem execGlintEnd_inv {a0 a1} {s2 : State} (k2 : Inv s2) : OutInv (execGlintEnd a0 a1 s2) := by
  unfold execGlintEnd
  extract_lets -merge -useContext +onlyGivenNames x0
  have h0 : Inv x0 := advanceTo_inv k2
  clear_value x0
  exact ite_out (next_inv (glintFinish_inv h0)) (next_inv h0)

end Sys2Proof.Machine
end

