-- ==== Sys2Proof/Laws/Memory.lean ====
section
/-! SUPPORT. Every operation on memory keeps its canonical form, and memory after reset has it. -/

namespace Sys2Proof.Machine

theorem memory_reset_wf : Memory.wf State.reset.mem = true := rfl

theorem setByte_keeps_memory_wf {s : State} {a b} (h : Memory.wf s.mem = true) : Memory.wf (s.setByte a b).mem = true :=
  mwf_mset _ _ _ h

theorem setWord_keeps_memory_wf {s : State} {a w} (h : Memory.wf s.mem = true) : Memory.wf (s.setWord a w).mem = true :=
  mwf_mset _ _ _ (mwf_mset _ _ _ (mwf_mset _ _ _ (mwf_mset _ _ _ h)))

theorem setWords_keeps_memory_wf {l : List Word} : ∀ {s : State} {a}, Memory.wf s.mem = true →
    Memory.wf (s.setWords a l).mem = true := by
  induction l with
  | nil => exact fun h => h
  | cons w l ih => exact fun h => ih (setWord_keeps_memory_wf h)

theorem setBytes_keeps_memory_wf {s : State} {a l} (h : Memory.wf s.mem = true) : Memory.wf (s.setBytes a l).mem = true :=
  mwf_mrange _ _ _ h

theorem mkeep_keeps_memory_wf {k : Nat → Bool} {m : List Host.Cell} (h : Memory.wf m = true) : Memory.wf (mkeep k m) = true :=
  mwf_mkeep _ _ h

end Sys2Proof.Machine
end

