-- ==== Sys2Proof/Tests/Slice0.lean ====
section
/-! SUPPORT. Own tests: the ill-formed command of each check of WellFormed, a few effects with values worked out from the
spec, and for every statement that has hypotheses a witness of each of its clauses: a state and operands that meet all of the
clause's hypotheses together. -/

namespace Sys2Proof.Tests

open Sys2Proof Sys2Proof.Machine

/-! ## Small states -/

theorem noErr (s : State) (h : s.ecc = []) : ∀ a, s.errs a = 0 := by
  intro a
  simp [State.errs, h, mget]
def fr0 : SppFrame := { seq := 1, len := 0, addr := 0, data := [], crc := 0 }
def frameLong : SppFrame := { seq := 1, len := 1, addr := 0, data := [], crc := 0 }
def awake : State := { State.reset with mode := .active, sub := .none, pwr := { State.reset.pwr with seq := .done } }
def cpAt (w : Word) : State := { (awake.setWord 0x01000000 w) with cp := { pc := 0x01000000 } }
def port : State := { State.reset with mode := .service, sub := .none, pwr := { State.reset.pwr with seq := .done } }
def sppFr (op : Byte) (addr : Word) (data : List Word) : SppFrame :=
  let fr : SppFrame := { seq := 1, len := BitVec.ofNat 16 data.length, addr := addr, data := data, crc := 0 }
  { fr with crc := crc16 (frameBody op fr) }
def rdFr : SppFrame := { seq := 1, len := 1, addr := 0x203FFFFC, data := [5], crc := crc16 (frameBody 1 { seq := 1, len := 1, addr := 0x203FFFFC, data := [5], crc := 0 }) }
def ringFrame : RingFrame :=
  let h : List Byte := [0x41, 0x20, 0, 0, 0, 0, 0, 0]
  let p : List Byte := List.replicate 16 7
  { header := h, payload := p, mac := macOf State.reset h p, crc := crc32 (h ++ p ++ macOf State.reset h p) }
def image : State :=
  let b := 0x10020000
  let s := { State.reset with sub := .listen }
  let s := (s.setWord b 0x5448494D).setWord (b + 4) (BitVec.ofNat 32 (s.get F.SYS_DEVID_PART * 65536))
  let s := forAll (List.range 29) (fun k t => t.setWord (b + 8 + 4 * k) 0) s
  let s := s.setWord (b + 0x7C) (crc32 (s.bytes b 0x7C))
  let d := 0x10000000
  let s := forAll (List.range 15) (fun k t => t.setWord (d + 4 * k) (if k = 0 then 0x54484449 else 0)) s
  s.setWord (d + 0x3C) (crc32 (s.bytes d 0x3C))
def headR : Ready := { id := 5, flow := 3, node := 17, half := false, entry := 0, prio := 1 }
def nodeAt (opc param dst : Nat) : State :=
  let w := opc * 2 ^ 120 + 3 * 2 ^ 114 + 8 * 2 ^ 84 + 32 * 2 ^ 70 + dst * 2 ^ 56 + 0x3FFF * 2 ^ 42 + 0x3FFF * 2 ^ 28 + param
  { forAll [0, 1, 2, 3] (fun i t => t.setWord (nodeAddr false 17 + 4 * i) (BitVec.ofNat 32 (w / 2 ^ (32 * i)))) State.reset with
    prs := { facets := [(0, { ready := [headR] })] } }
theorem issues (s : State) (f t opc : Nat) (r : Ready)
    (h : s.now ≤ t ∧ issueHead s f t = some r ∧ nOpc (nodeBits s r.half r.node) = opc ∧ s.ecc = [] ∧ injDue s 128 = none) :
    Issuable s f t opc r :=
  ⟨h.1, h.2.1, h.2.2.1, fun a => by rw [noErr s h.2.2.2.1 a]; decide, h.2.2.2.2⟩


/-! ## Well-formedness -/

theorem test_illFormed_startupLbist_number : (Instr.startupLbistWaveDone [⟨1, 0, true⟩]).wf = false := by decide
theorem test_illFormed_startupLbist_patterns :
    (Instr.startupLbistWaveDone [⟨744, 0, true⟩, ⟨745, 0, true⟩]).wf = false := by decide
theorem test_wellFormed_startupLbist : (Instr.startupLbistWaveDone [⟨744, 0, true⟩, ⟨744, 0, true⟩]).wf = true := by decide
theorem test_illFormed_bistCopy_patterns : (Instr.bistCopyDone ⟨745, 0, true⟩).wf = false := by decide
theorem test_illFormed_glintEnd_codes : (Instr.glintEnd (List.replicate 7 0) 0).wf = false := by decide
theorem test_illFormed_arbRequest_noBeat : (Instr.arbRequest 0 .cp false 0 [] false 0).wf = false := by decide
theorem test_illFormed_arbRequest_beats : (Instr.arbRequest 0 .cp false 0 (List.replicate 17 0) false 0).wf = false := by decide
theorem test_illFormed_arbRequest_range : (Instr.arbRequest 0 .cp false 65535 [0, 0] false 0).wf = false := by decide
theorem test_wellFormed_arbRequest_top : (Instr.arbRequest 0 .cp false 65534 [0, 0] false 0).wf = true := by decide
theorem test_illFormed_pwmValley_codes : (Instr.pwmValley 0 [0, 0, 0] [0, 0, 0] [0, 0, 0] 0).wf = false := by decide
theorem test_illFormed_pwmValley_vdsL : (Instr.pwmValley 0 [0, 0, 0, 0] [0, 0] [0, 0, 0] 0).wf = false := by decide
theorem test_illFormed_pwmValley_vdsH : (Instr.pwmValley 0 [0, 0, 0, 0] [0, 0, 0] [] 0).wf = false := by decide
theorem test_illFormed_vdsDetection_group : (Instr.vdsDetection 0 true false 0 true [3] 0).wf = false := by decide
theorem test_illFormed_sppNop_wholeWords : (Instr.sppNop { fr0 with raw := some (List.replicate 13 0) }).wf = false := by decide
theorem test_wellFormed_sppNop_cut : (Instr.sppNop { fr0 with raw := some (List.replicate 12 0) }).wf = true := by decide
theorem test_illFormed_kringFrameStart_header : (Instr.kringFrameStart 0 (List.replicate 7 0) 0).wf = false := by decide
theorem test_illFormed_frameCheck_header :
    (Instr.frameCheckDone 0 0 (some { ringFrame with header := [] }) 0).wf = false := by decide
theorem test_illFormed_frameCheck_short :
    (Instr.frameCheckDone 0 0 (some { header := List.replicate 8 0, payload := [], mac := List.replicate 4 0, crc := 0 }) 0).wf
      = false := by decide
theorem test_illFormed_frameCheck_step :
    (Instr.frameCheckDone 0 0 (some { header := List.replicate 8 0, payload := List.replicate 12 0, mac := List.replicate 4 0, crc := 0 }) 0).wf = false := by decide
theorem test_illFormed_frameCheck_mac :
    (Instr.frameCheckDone 0 0 (some { header := List.replicate 8 0, payload := List.replicate 8 0, mac := [], crc := 0 }) 0).wf
      = false := by decide
theorem test_illFormed_canFrame_ident :
    (Instr.canFrameReceive 0 { ext := false, rmt := false, fd := false, ident := 2048, brs := false, esi := false, dlc := 0, data := [] } 0).wf = false := by decide
theorem test_illFormed_canFrame_data :
    (Instr.canFrameReceive 0 { ext := true, rmt := false, fd := true, ident := 2048, brs := false, esi := false, dlc := 15, data := List.replicate 65 0 } 0).wf = false := by decide
theorem test_illFormed_shadowWrite : (Instr.shadowWrite .cp 0x50000002 0).wf = false := by decide
theorem test_illFormed_rwpWrite : (Instr.rwpWrite .cp 0x60000001 0 0).wf = false := by decide
theorem test_illFormed_slackWindow : (Instr.mgnSlackWindow (List.replicate 15 0)).wf = false := by decide
theorem test_illFormed_sppUnknownOp : (Instr.sppUnknownOp 9 fr0).wf = false := by decide
theorem test_wellFormed_sppUnknownOp : (Instr.sppUnknownOp 10 fr0).wf = true := by decide
/-- The table gives no row bits, so no word spells a command. -/
theorem test_noWordSpellsACommand : decodeTableWord 32 0 = none := rfl


/-! ## Effects worked out from the spec -/

/-- The state that an outcome gives. -/
def nxt (o : Host.Outcome State Fault Refusal) : State :=
  match o with
  | .next s => s
  | _ => State.reset

/-- 14_register_index, the worked example: GDR.VDSk resets to 0x1000_1047. -/
theorem test_reset_gdrVds : (State.reset.reg (R.GDR_VDS 7)).toNat = 0x10001047 := by decide
/-- 14_register_index: AON.GLCFG and AON.SLBASE at a power-on. -/
theorem test_reset_aon : State.reset.reg R.AON_GLCFG = 0x00A003E7 ∧ State.reset.reg R.AON_SLBASE = 0x10C40000 := by decide

/-- The node word of the worked example of 05 (SVM, node 0x0044 of flow 2). -/
def svmWord : Nat := 0x4309048001000001300117FFF0000073

/-- Its fields, as the example's table lists them. -/
theorem test_nodeWord_fields :
    [nOpc svmWord, nFlow svmWord, nArity svmWord, nSrc svmWord 0, nSrc svmWord 1, nSrc svmWord 2, nDst svmWord, nSucc svmWord 0,
      nSucc svmWord 1, nParam svmWord]
    = [0x43, 2, 1, 0x0120, 0x0010, 0, 0x0130, 0x0045, 0x3FFF, 0x73] := by decide

/-- The same example's operands: 26.0 V, 8.0 V and 48.0 V. -/
def svmState : State :=
  ((State.reset.setOperand 0x0120 0x41D00000).setOperand 0x0121 0x41000000).setOperand 0x0010 0x42400000

/-- Its three duties lie within 10⁻⁶ of 0.949219, 0.321837 and 0.050781, and SAT is set. -/
theorem test_svm_workedExample :
    let r := nodeSvm.run svmState 0 svmWord
    r.sat = true ∧ r.writes.map Prod.fst = [0x130, 0x131, 0x132] ∧
    (r.writes.map (fun w => (fpToInt 0 (fpMulX (fpOf w.2) (fpInt 1000000))).1)) = [949219, 321837, 50781] := by decide +kernel

/-- The CLARKE of the same example: iU = 8.0, iV = −1.5, the mask 0b011; α is 8.0 and β is 2.886751. -/
theorem test_clarke_workedExample :
    let s := ((State.reset.setOperand 8 0x41000000).setOperand 9 0xBFC00000).setOperand 32 3
    let r := nodeClarke.run s 0 (8 * 2 ^ 98 + 32 * 2 ^ 84 + 0x40 * 2 ^ 56)
    r.writes.map Prod.fst = [0x40, 0x41] ∧ (r.writes.map Prod.snd)[0]? = some 0x41000000 ∧
    (r.writes.map (fun w => (fpToInt 0 (fpMulX (fpOf w.2) (fpInt 1000000))).1)) = [8000000, 2886751] := by decide +kernel

/-- The QMUL of the text: 0x4000_0000 by 0xC000_0001 gives 0xE000_0001. -/
theorem test_qmul_example :
    let s := (State.reset.setOperand 8 0x40000000).setOperand 32 0xC0000001
    (nodeQmul.run s 0 (8 * 2 ^ 98 + 32 * 2 ^ 84 + 0x40 * 2 ^ 56)).writes = [(0x40, 0xE0000001)] := by decide
/-- −1.0 × −1.0, the only product that saturates, gives 0x7FFF_FFFF and SAT. -/
theorem test_qmul_saturates :
    let s := (State.reset.setOperand 8 0x80000000).setOperand 32 0x80000000
    let r := nodeQmul.run s 0 (8 * 2 ^ 98 + 32 * 2 ^ 84 + 0x40 * 2 ^ 56)
    r.writes = [(0x40, 0x7FFFFFFF)] ∧ r.sat = true := by decide
/-- R133: 0xFFFF_FFFF + 2 wraps to 1 and sets no flag. -/
theorem test_iadd_wraps :
    let s := (State.reset.setOperand 8 0xFFFFFFFF).setOperand 32 2
    let r := nodeIadd.run s 0 (8 * 2 ^ 98 + 32 * 2 ^ 84 + 0x40 * 2 ^ 56)
    r.writes = [(0x40, 1)] ∧ r.sat = false := by decide

/-- The pulse train of the worked example of 08: hd = 711 LSB against lmin = 1,600 LSB, by periods. -/
theorem test_pulse_workedExample :
    let a := pulseOf 237037 711 0 1600 0 false
    let b := pulseOf 237037 711 a.c 1600 0 false
    let c := pulseOf 237037 711 b.c 1600 0 false
    (a.h, a.c, a.droph) = (0, 711, true) ∧ (b.h, b.c, b.droph) = (0, 1422, true) ∧ (c.h, c.c, c.droph) = (2133, 0, false) := by
  decide
/-- The same example's duty: 0.0030 over 237,037 LSB is 711 LSB. -/
theorem test_highTime_workedExample : highTime 0x3B449BA6 237037 = 711 := by decide
/-- The four edges of its period 3, in LSB from the valley (0.15625 ns each). -/
theorem test_edges_workedExample :
    (edgesOf { p := 237037 } [] false 1600 2133 1600).map (fun e => (e.time, e.high, e.level))
    = [(117452, false, false), (119052, true, true), (119585, true, false), (121185, false, true)] := by decide

/-- The CRC-32 of R49 and the CRC-16 of R52, at their published check value for the digits 1 to 9. -/
theorem test_crc32_check : crc32 [0x31, 0x32, 0x33, 0x34, 0x35, 0x36, 0x37, 0x38, 0x39] = 0xCBF43926 := by decide +kernel
theorem test_crc16_check : crc16 [0x31, 0x32, 0x33, 0x34, 0x35, 0x36, 0x37, 0x38, 0x39] = 0x29B1 := by decide +kernel

/-- R387's example: EVC.SEL1.SRC = 1 counts CLK_ENG cycles, 300,000,000 in a second. -/
theorem test_evc_cycles :
    (advanceTo 300000000 (nxt (exec (.evcGctl 3) (awake.put (F.EVC_SEL_SRC 1) 1)))).evcOf 1 = 300000000 := by decide
/-- R81: a write of PCNT0 takes all 24 bits, and a write beats the count of the same cycle. -/
theorem test_pcnt_write : ((nxt (exec (.pcntWrite 0 0xABCDEF true 0) (State.reset.put F.SYS_BRGSTAT_UP 1))).reg (R.AON_PCNT 0)).toNat = 0xABCDEF := by
  decide +kernel
/-- R31: one request with a wrong key changes no mode. -/
theorem test_wrongKey_refused : (nxt (exec (.modereqStandby 0 .alone) port)).mode = .service := by decide

/-- R53: bytes clocked beyond a response read 0xFF. -/
theorem test_get_beyond :
    (nxt (exec (.sppGet 9) { port with spp := { resp := some { seq := 3, result := 0, data := [] } } })).spp.out.drop 6 =
      [0xFF, 0xFF, 0xFF] := by decide +kernel
/-- R4: a write of the reserved ADC.ZXCFG.TMO = 0x0000 leaves TMO as it was. -/
theorem test_zxTmo_reserved :
    let s := { port with brg := { queue := [{ who := .cp, addr := R.ADC_ZXCFG 0, val := 0, time := 0 }] } }
    (nxt (exec .bridgeAccessDone (s.put (F.ADC_ZXCFG_TMO 0) 5))).get (F.ADC_ZXCFG_TMO 0) = 5 ∧
    (nxt (exec .bridgeAccessDone s)).brg.queue = [] := by decide +kernel


/-! ## Witnesses: no statement has empty hypotheses -/

theorem test_witness_EmptyQueueTicks :
    ∃ (s : Machine.State), s.pending = [] :=
  ⟨State.reset, by decide⟩

theorem test_witness_EveryStepKeepsInv :
    ∃ (s : Machine.State) (t : Machine.State), Machine.Inv s ∧ step s = Host.Outcome.next t :=
  ⟨awake, tick awake, ⟨by unfold SubOk; decide, by unfold TablesOk; decide⟩, rfl⟩

theorem test_witness_SupplyRisesAndLosses :
    (∃ (s : Machine.State), s.mode ≠ Mode.boot ∧ s.mode ≠ Mode.limp ∧ s.mode ≠ Mode.dormant) ∧
    (∃ (s : Machine.State), s.pwr.hbWait = true ∧ s.mode ≠ Mode.limp ∧ s.mode ≠ Mode.dormant) :=
  ⟨⟨{ State.reset with mode := Mode.service, sub := .none }, by decide⟩,
   ⟨{ State.reset with pwr := { State.reset.pwr with hbWait := true } }, by decide⟩⟩

theorem test_witness_PowerSequenceSteps :
    (∃ (s : Machine.State), s.pwr.seq = Seq.delay) ∧
    (∃ (s : Machine.State), s.pwr.seq = Seq.steps 1) ∧
    (∃ (s : Machine.State), s.pwr.seq = Seq.steps 2) ∧
    (∃ (s : Machine.State), s.pwr.seq = Seq.steps 3 ∧ s.pwr.pgood = true ∧ s.pwr.retries ≤ 2) ∧
    (∃ (s : Machine.State), s.pwr.seq = Seq.steps 4) ∧
    (∃ (s : Machine.State), s.pwr.seq = Seq.steps 5) ∧
    (∃ (s : Machine.State), s.pwr.seq = Seq.steps 6 ∧ s.flag F.CLK_STAT_PLLLOCK = true) :=
  ⟨⟨{ State.reset with pwr := { State.reset.pwr with seq := Seq.delay } }, by decide⟩,
   ⟨{ State.reset with pwr := { State.reset.pwr with seq := Seq.steps 1 } }, by decide⟩,
   ⟨{ State.reset with pwr := { State.reset.pwr with seq := Seq.steps 2 } }, by decide⟩,
   ⟨{ State.reset with pwr := { State.reset.pwr with seq := Seq.steps 3, pgood := true } }, by decide⟩,
   ⟨{ State.reset with pwr := { State.reset.pwr with seq := Seq.steps 4 } }, by decide⟩,
   ⟨{ State.reset with pwr := { State.reset.pwr with seq := Seq.steps 5 } }, by decide⟩,
   ⟨{ (State.reset.put F.CLK_STAT_PLLLOCK 1) with pwr := { State.reset.pwr with seq := Seq.steps 6 } }, by decide⟩⟩

theorem test_witness_SequenceEventsAndRetries :
    (∃ (s : Machine.State), s.pwr.xtalTimer = true) ∧
    (∃ (s : Machine.State) (n : Nat), s.pwr.seq = Seq.steps n ∧ pllRef s = true) ∧
    (∃ (s : Machine.State), (s.pwr.seq = Seq.done ∨ (∃ n, s.pwr.seq = Seq.lbist n) ∨ s.pwr.seq = Seq.held ∧ s.pwr.hbReset = false) ∧ s.pwr.hbWait =
      true) ∧
    (∃ (s : Machine.State), s.pwr.pgTimer = true ∧ s.pwr.pgood = false ∧ s.pwr.retries < 2) ∧
    (∃ (s : Machine.State), s.pwr.pgTimer = true ∧ s.pwr.pgood = false ∧ s.pwr.retries = 2 ∧ s.mode = Mode.boot ∧ bitOf (s.spb 12) 1 = false) ∧
    (∃ (s : Machine.State), s.pwr.seq = Seq.retryWait ∧ s.pwr.retries ≤ 1) ∧
    (∃ (s : Machine.State), s.pwr.seq = Seq.held ∧ s.pwr.vcen = false) :=
  ⟨⟨{ State.reset with pwr := { State.reset.pwr with xtalTimer := true } }, by decide⟩,
   ⟨{ State.reset with pwr := { State.reset.pwr with seq := .steps 0, crystal := true } }, 0, by decide⟩,
   ⟨{ State.reset with pwr := { State.reset.pwr with seq := .done, hbWait := true } }, Or.inl (by decide), by decide⟩,
   ⟨{ State.reset with pwr := { State.reset.pwr with pgTimer := true, pgood := false } }, by decide⟩,
   ⟨{ (State.reset.setReg (R.HWM_SPB 12) 0) with pwr := { State.reset.pwr with pgTimer := true, retries := 2 } }, by decide⟩,
   ⟨{ State.reset with pwr := { State.reset.pwr with seq := Seq.retryWait } }, by decide⟩,
   ⟨{ State.reset with pwr := { State.reset.pwr with seq := Seq.held, vcen := false } }, by decide⟩⟩

theorem test_witness_ResetsAndHeartbeat :
    (∃ (s : Machine.State) (cause : ResetCause), s.pwr.rstDue = some cause ∧ cause ≠ ResetCause.heartbeat ∧ s.mode.resettable = true) ∧
    (∃ (s : Machine.State) (cause : ResetCause), s.pwr.rstDue = some cause ∧ cause ≠ ResetCause.heartbeat ∧ s.mode.resettable = false) ∧
    (∃ (s : Machine.State), s.pwr.hbDue = true ∧ s.mode ≠ Mode.limp ∧ s.mode ≠ Mode.dormant) ∧
    (∃ (s : Machine.State), s.pwr.seq = Seq.held ∧ s.pwr.vcen = true ∧ s.pwr.hbReset = false ∧ s.pwr.relbist = true) ∧
    (∃ (s : Machine.State), s.pwr.seq = Seq.held ∧ s.pwr.vcen = true ∧ s.pwr.hbReset = false ∧ s.pwr.relbist = false) ∧
    (∃ (s : Machine.State), s.pwr.hbArmed = true ∧ s.pwr.lastHbLoss = none ∧ s.mode ≠ Mode.limp) ∧
    (∃ (s : Machine.State) (at_ : Nat) (t0 : Nat), s.pwr.hbArmed = true ∧ s.pwr.lastHbLoss = some t0 ∧ at_ - t0 ≤ bitsOf (s.spb 12) 31 16 * 300000 ∧
      s.mode.toLimp = true ∧ limpEnabled s 3 = true ∧ s.fresh.turn = none) ∧
    (∃ (s : Machine.State), s.pwr.seq = Seq.held ∧ s.pwr.hbReset = true) :=
  ⟨⟨{ State.reset with mode := .service, sub := .none, pwr := { State.reset.pwr with rstDue := some .modeReq } }, .modeReq, by decide⟩,
   ⟨{ State.reset with mode := .limp, sub := .none, pwr := { State.reset.pwr with rstDue := some .modeReq } }, .modeReq, by decide⟩,
   ⟨{ State.reset with pwr := { State.reset.pwr with hbDue := true } }, by decide⟩,
   ⟨{ State.reset with pwr := { State.reset.pwr with seq := Seq.held, vcen := true, hbReset := false, relbist := true } }, by decide⟩,
   ⟨{ State.reset with pwr := { State.reset.pwr with seq := Seq.held, vcen := true, hbReset := false, relbist := false } }, by decide⟩,
   ⟨{ State.reset with pwr := { State.reset.pwr with hbArmed := true, lastHbLoss := none } }, by decide⟩,
   ⟨{ awake with mode := .standby, pwr := { awake.pwr with hbArmed := true, lastHbLoss := some 5 } }, 7, 5, by decide⟩,
   ⟨{ State.reset with pwr := { State.reset.pwr with seq := Seq.held, hbReset := true } }, by decide⟩⟩

theorem test_witness_StartUpTestAndRom :
    (∃ (s : Machine.State) (w : Nat), s.pwr.seq = Seq.lbist w ∧ w < 2) ∧
    (∃ (s : Machine.State), s.pwr.seq = Seq.lbist 2) ∧
    (∃ (s : Machine.State), s.pwr.seq = Seq.lbist 0) ∧
    (∃ (s : Machine.State), s.mode = Mode.boot ∧ s.sub = Sub.listen ∧ (newestDir (subTo Sub.rom s)).fst = none ∧ s.flag F.HWM_RXSTAT_WDRAW = false) ∧
    (∃ (s : Machine.State) (d : Nat), s.mode = Mode.boot ∧ s.sub = Sub.listen ∧ (newestDir (subTo Sub.rom s)).fst = some d ∧ BitVec.toNat (s.word (d +
      8)) ≤ 1 ∧ (imageOk (BitVec.toNat (s.word (d + 8))) (newestDir (subTo Sub.rom s)).snd).fst = true) ∧
    (∃ (s : Machine.State) (w : Nat), (∀ (a : Nat), s.errs a = 0) ∧ s.pwr.seq = Seq.lbist w ∧ s.pwr.restore = true ∧ s.flag F.AON_SLCTL_BADBASE =
      false ∧ crc32 (s.bytes (BitVec.toNat (s.reg R.AON_SLBASE)) (4 * s.get F.AON_SLCTL_COUNT)) ≠ s.reg R.AON_SLCRC) ∧
    (∃ (s : Machine.State) (w : Nat), (∀ (a : Nat), s.errs a = 0) ∧ s.pwr.seq = Seq.lbist w ∧ s.pwr.restore = true ∧ s.flag F.AON_SLCTL_BADBASE =
      false ∧ crc32 (s.bytes (BitVec.toNat (s.reg R.AON_SLBASE)) (4 * s.get F.AON_SLCTL_COUNT)) = s.reg R.AON_SLCRC) :=
  ⟨⟨{ State.reset with pwr := { State.reset.pwr with seq := Seq.lbist 0 } }, 0, by decide⟩,
   ⟨{ State.reset with pwr := { State.reset.pwr with seq := Seq.lbist 2 } }, by decide⟩,
   ⟨{ State.reset with pwr := { State.reset.pwr with seq := Seq.lbist 0 } }, by decide⟩,
   ⟨{ (State.reset.put F.HWM_RXSTAT_WDRAW 0) with mode := Mode.boot, sub := Sub.listen }, by decide⟩,
   ⟨image, 0x10000000, by decide +kernel⟩,
   ⟨{ (State.reset.setReg R.AON_SLCRC 77) with pwr := { State.reset.pwr with seq := .lbist 0, restore := true } }, 0, noErr _ rfl, by decide⟩,
   ⟨{ (State.reset.put F.AON_SLCTL_BADBASE 0) with pwr := { State.reset.pwr with seq := Seq.lbist 0, restore := true } }, 0, noErr _ rfl, by decide⟩⟩

theorem test_witness_DormantEntry :
    (∃ (s : Machine.State), s.pwr.entry = 1) ∧
    (∃ (s : Machine.State), s.pwr.entry = 2) ∧
    (∃ (s : Machine.State), s.pwr.entry = 3) ∧
    (∃ (s : Machine.State), s.pwr.entry = 4) ∧
    (∃ (s : Machine.State), s.pwr.entry = 5 ∧ s.mode ≠ Mode.boot ∧ s.pwr.replay = false) ∧
    (∃ (s : Machine.State), s.mode = Mode.limp ∧ s.pwr.wakePin = false ∧ pedalDemand s = 0) :=
  ⟨⟨{ State.reset with pwr := { State.reset.pwr with entry := 1 } }, by decide⟩,
   ⟨{ State.reset with pwr := { State.reset.pwr with entry := 2 } }, by decide⟩,
   ⟨{ State.reset with pwr := { State.reset.pwr with entry := 3 } }, by decide⟩,
   ⟨{ State.reset with pwr := { State.reset.pwr with entry := 4 } }, by decide⟩,
   ⟨{ State.reset with pwr := { State.reset.pwr with entry := 5, replay := false }, mode := Mode.service, sub := .none }, by decide⟩,
   ⟨{ State.reset with pwr := { State.reset.pwr with wakePin := false }, mode := Mode.limp, sub := .none }, by decide⟩⟩

theorem test_witness_WakeSources :
    (∃ (s : Machine.State), s.pwr.entry ≠ 0 ∧ s.mode ≠ Mode.boot) ∧
    (∃ (s : Machine.State) (n : Fin 2), BridgeIdle s ∧ bitOf (s.reg R.AON_PCCTL) ↑n = true ∧ s.mode ≠ Mode.dormant ∧ s.flag F.AON_WAKEEN_PC0 = false ∧
      s.flag F.AON_WAKEEN_PC1 = false) ∧
    (∃ (s : Machine.State) (n : Fin 2), bitOf (s.reg R.AON_PCCTL) ↑n = true ∧ s.mode = Mode.dormant ∧ bitOf (s.reg R.AON_PCCTL) (2 + ↑n) = false ∧
      s.flag F.AON_WAKEEN_PC0 = false ∧ s.flag F.AON_WAKEEN_PC1 = false) ∧
    (∃ (s : Machine.State) (n : Fin 2), s.mode = Mode.dormant ∧ s.pwr.entry = 0 ∧ s.pwr.seq = Seq.asleep ∧ s.pwr.vbat = true ∧ s.get
      F.MIR_RETIRED_PWMGRP = 0 ∧ bitOf (s.reg R.AON_PCCTL) ↑n = true ∧ bitOf (s.reg R.AON_PCCTL) (2 + ↑n) = false ∧ s.flag (if ↑n = 0 then
      F.AON_WAKEEN_PC0 else F.AON_WAKEEN_PC1) = true ∧ s.get (if ↑n = 0 then F.AON_PCCTL_THR0 else F.AON_PCCTL_THR1) ≠ 0 ∧ s.get (if ↑n = 0 then
      F.AON_PCCTL_THR0 else F.AON_PCCTL_THR1) ≤ pcntDist (s.put (pcntFld ↑n) ((s.get (pcntFld ↑n) + 1) % 2 ^ 24)) ↑n) ∧
    (∃ (s : Machine.State), s.mode = Mode.dormant ∧ s.pwr.entry = 0 ∧ s.pwr.seq = Seq.asleep ∧ s.pwr.vbat = true ∧ s.flag F.AON_GLCFG_EN = true ∧
      s.pwr.glintOn = false) ∧
    (∃ (s : Machine.State), s.pwr.glintOn = true ∧ (∀ (n : Nat), n < 8 → s.get (F.AON_GLCH_SRC n) = 15)) ∧
    (∃ (s : Machine.State) (n : Fin 8), s.pwr.glintOn = true ∧ s.flag F.AON_WAKEEN_GLINT = false ∧ s.get (F.AON_GLCH_SRC ↑n) ≠ 15) ∧
    (∃ (s : Machine.State) (codes : List (BitVec 14)) (n : Fin 8), s.pwr.glintOn = true ∧ s.flag F.AON_WAKEEN_GLINT = true ∧ s.mode = Mode.dormant ∧
      s.pwr.entry = 0 ∧ s.pwr.seq = Seq.asleep ∧ s.pwr.vbat = true ∧ s.get F.MIR_RETIRED_PWMGRP = 0 ∧ s.get (F.AON_GLCH_SRC ↑n) ≠ 15 ∧ (∀ (m : Nat), m
      < 8 → m ≠ ↑n → s.get (F.AON_GLCH_SRC m) = 15) ∧ (codes.getD (↑n) 0).toNat < s.get (F.AON_GLCH_LO ↑n) ∧ s.get F.AON_GLCFG_CONFIRM ≤ s.pwr.glints) :=
  ⟨⟨{ State.reset with pwr := { State.reset.pwr with entry := 2 }, mode := Mode.service, sub := .none }, by decide⟩,
   ⟨{ ((((State.reset.setReg R.AON_PCCTL 1).put F.SYS_BRGSTAT_UP 1).put F.AON_WAKEEN_PC0 0).put F.AON_WAKEEN_PC1 0) with mode := .standby, sub := .none },
     0, by unfold BridgeIdle; decide⟩,
   ⟨{ (((State.reset.setReg R.AON_PCCTL 1).put F.AON_WAKEEN_PC0 0).put F.AON_WAKEEN_PC1 0) with mode := .dormant, sub := .none, pwr := { State.reset.pwr with seq := .asleep, vbat := true } },
     0, by decide⟩,
   ⟨{ (((State.reset.setReg R.AON_PCCTL 1).put F.AON_WAKEEN_PC0 1).put F.AON_PCCTL_THR0 1) with mode := .dormant, sub := .none, pwr := { State.reset.pwr with seq := .asleep, vbat := true } },
     0, by decide⟩,
   ⟨{ (State.reset.put F.AON_GLCFG_EN 1) with pwr := { State.reset.pwr with entry := 0, seq := Seq.asleep, vbat := true, glintOn := false }, mode := Mode.dormant, sub := .none },
     by decide⟩,
   ⟨{ State.reset with pwr := { State.reset.pwr with glintOn := true } }, by decide⟩,
   ⟨{ ((State.reset.put (F.AON_GLCH_SRC 0) 1)) with pwr := { State.reset.pwr with glintOn := true } }, 0, by decide⟩,
   ⟨{ (forAll (List.range 8) (fun i t => t.put (F.AON_GLCH_SRC i) (if i = 0 then 1 else 15)) (((State.reset.put F.AON_WAKEEN_GLINT 1).put (F.AON_GLCH_LO 0) 5).put F.AON_GLCFG_CONFIRM 0)) with mode := .dormant, sub := .none, pwr := { State.reset.pwr with seq := .asleep, vbat := true, glintOn := true } },
     [0], 0, by decide⟩⟩

theorem test_witness_ModeRequestsTaken :
    (∃ (s : Machine.State), s.pwr.entry = 0 ∧ rowOf s Mode.boot = Row.taken) ∧
    (∃ (s : Machine.State), s.pwr.entry = 0 ∧ rowOf s Mode.service = Row.taken) ∧
    (∃ (s : Machine.State), s.pwr.entry = 0 ∧ s.flag F.HWM_RXSTAT_WDRAW = false ∧ rowOf s Mode.integrate = Row.taken) ∧
    (∃ (s : Machine.State), s.pwr.entry = 0 ∧ s.flag F.HWM_RXSTAT_WDRAW = false ∧ s.mode = Mode.active) ∧
    (∃ (s : Machine.State), s.pwr.entry = 0 ∧ s.flag F.HWM_RXSTAT_WDRAW = false ∧ s.mode = Mode.standby ∧ activeGuard s = true) ∧
    (∃ (s : Machine.State), s.pwr.entry = 0 ∧ rowOf s Mode.safe = Row.taken) ∧
    (∃ (s : Machine.State), s.pwr.entry = 0 ∧ rowOf s Mode.dormant = Row.taken ∧ s.brg.queue = []) ∧
    (∃ (s : Machine.State), s.pwr.entry = 0 ∧ s.mode = Mode.integrate) :=
  ⟨⟨{ State.reset with pwr := { State.reset.pwr with entry := 0 } }, by decide⟩,
   ⟨{ awake with mode := .standby }, by decide⟩,
   ⟨{ (awake.put F.SYS_BRGSTAT_UP 1) with mode := .boot, sub := .firmware }, by decide⟩,
   ⟨{ (State.reset.put F.HWM_RXSTAT_WDRAW 0) with pwr := { State.reset.pwr with entry := 0 }, mode := Mode.active, sub := .none }, by decide⟩,
   ⟨{ (awake.put F.HWM_STAT_ENABLE 1) with mode := .standby }, by decide⟩,
   ⟨awake, by decide⟩,
   ⟨{ awake with mode := .standby }, by decide⟩,
   ⟨{ State.reset with pwr := { State.reset.pwr with entry := 0 }, mode := Mode.integrate, sub := .none }, by decide⟩⟩

theorem test_witness_ModeRequestsRefused :
    (∃ (c : BitVec 16 → ReqCycle → Instr) (m : Mode) (key : BitVec 16), (c, m) ∈ [(Instr.modereqBoot, Mode.boot), (Instr.modereqService,
      Mode.service), (Instr.modereqIntegrate, Mode.integrate), (Instr.modereqStandby, Mode.standby), (Instr.modereqActive, Mode.active),
      (Instr.modereqSafe, Mode.safe), (Instr.modereqDormant, Mode.dormant), (Instr.modereqLimp, Mode.limp)] ∧ key ≠ 50085) ∧
    (∃ (s : Machine.State) (c : BitVec 16 → ReqCycle → Instr) (m : Mode), (c, m) ∈ [(Instr.modereqBoot, Mode.boot), (Instr.modereqService,
      Mode.service), (Instr.modereqIntegrate, Mode.integrate), (Instr.modereqStandby, Mode.standby), (Instr.modereqActive, Mode.active),
      (Instr.modereqSafe, Mode.safe), (Instr.modereqDormant, Mode.dormant), (Instr.modereqLimp, Mode.limp)] ∧ rowOf s m = Row.absent) ∧
    (∃ (s : Machine.State) (c : BitVec 16 → ReqCycle → Instr) (m : Mode), (c, m) ∈ [(Instr.modereqBoot, Mode.boot), (Instr.modereqService,
      Mode.service), (Instr.modereqIntegrate, Mode.integrate), (Instr.modereqStandby, Mode.standby), (Instr.modereqActive, Mode.active),
      (Instr.modereqSafe, Mode.safe), (Instr.modereqDormant, Mode.dormant), (Instr.modereqLimp, Mode.limp)] ∧ rowOf s m = Row.guarded) :=
  ⟨⟨Instr.modereqBoot, .boot, 0, List.mem_cons_self .., by decide⟩,
   ⟨awake, Instr.modereqBoot, .boot, List.mem_cons_self .., by decide⟩,
   ⟨{ awake with mode := .standby }, Instr.modereqActive, .active, by simp, by decide⟩⟩

theorem test_witness_ClocksAndSupplies :
    (∃ (s : Machine.State) (ticks : Nat), s.flag F.CLK_STAT_XTALOK = true ∧ s.flag F.CLK_STAT_RCREF = false ∧ (ticks ≤ 1507 ∨ 1770 ≤ ticks)) ∧
    (∃ (ticks : Nat), 1508 ≤ ticks ∧ ticks ≤ 1769) ∧
    (∃ (s : Machine.State) (sup : Supervisor), s.pwr.hwmOn = true ∧ s.flag F.SYS_BRGSTAT_UP = true ∧ injHeld s (121 + supBit sup) 0 = false) ∧
    (∃ (s : Machine.State), s.pwr.hwmOn = false) ∧
    (∃ (s : Machine.State), s.flag F.SYS_BRGSTAT_UP = false) ∧
    (∃ (s : Machine.State), s.flag F.PWR_DOMCTL_VSA = true ∧ s.flag F.SYS_BRGSTAT_UP = true ∧ s.hwm.vsOff = [false, false]) ∧
    (∃ (s : Machine.State), s.flag F.PWR_DOMCTL_VSB = true ∧ s.flag F.SYS_BRGSTAT_UP = true ∧ s.hwm.vsOff = [false, false]) :=
  ⟨⟨((State.reset.put F.CLK_STAT_XTALOK 1).put F.CLK_STAT_RCREF 0), 0, by decide⟩,
   ⟨1508, by decide⟩,
   ⟨{ (State.reset.put F.SYS_BRGSTAT_UP 1) with pwr := { State.reset.pwr with hwmOn := true } }, .vgdUv, by decide⟩,
   ⟨{ State.reset with pwr := { State.reset.pwr with hwmOn := false } }, by decide⟩,
   ⟨(State.reset.put F.SYS_BRGSTAT_UP 0), by decide⟩,
   ⟨((State.reset.put F.PWR_DOMCTL_VSA 1).put F.SYS_BRGSTAT_UP 1), by decide⟩,
   ⟨((State.reset.put F.PWR_DOMCTL_VSB 1).put F.SYS_BRGSTAT_UP 1), by decide⟩⟩

theorem test_witness_CpRunsInstructions :
    (∃ (s : Machine.State) (rd : Nat) (a : Nat) (b : Nat) (imm : Nat), rd < 32 ∧ a < 32 ∧ b < 32 ∧ imm < 2 ^ 20 ∧ Fetched s (imm * 2 ^ 12 + rd * 2 ^ 7
      + 55)) ∧
    (∃ (s : Machine.State) (rd : Nat) (a : Nat) (b : Nat), rd < 32 ∧ a < 32 ∧ b < 32 ∧ Fetched s (b * 2 ^ 20 + a * 2 ^ 15 + rd * 2 ^ 7 + 51)) ∧
    (∃ (s : Machine.State) (rd : Nat) (a : Nat) (b : Nat), rd < 32 ∧ a < 32 ∧ b < 32 ∧ Fetched s (2 ^ 30 + b * 2 ^ 20 + a * 2 ^ 15 + rd * 2 ^ 7 + 51)) ∧
    (∃ (s : Machine.State) (rd : Nat) (a : Nat) (b : Nat), rd < 32 ∧ a < 32 ∧ b < 32 ∧ Fetched s (2 ^ 25 + b * 2 ^ 20 + a * 2 ^ 15 + rd * 2 ^ 7 + 51)) ∧
    (∃ (s : Machine.State) (rd : Nat) (a : Nat) (b : Nat), rd < 32 ∧ a < 32 ∧ b < 32 ∧ Fetched s (2 ^ 25 + b * 2 ^ 20 + a * 2 ^ 15 + 5 * 2 ^ 12 + rd *
      2 ^ 7 + 51)) ∧
    (∃ (s : Machine.State) (rd : Nat) (a : Nat) (b : Nat), rd < 32 ∧ a < 32 ∧ b < 32 ∧ Fetched s (b * 2 ^ 20 + a * 2 ^ 15 + 4 * 2 ^ 8 + 99)) ∧
    (∃ (s : Machine.State) (rd : Nat) (a : Nat) (b : Nat), rd < 32 ∧ a < 32 ∧ b < 32 ∧ Fetched s (4 * 2 ^ 21 + rd * 2 ^ 7 + 111)) ∧
    (∃ (s : Machine.State) (rd : Nat) (a : Nat) (b : Nat) (imm : Nat), rd < 32 ∧ a < 32 ∧ b < 32 ∧ imm < 2 ^ 11 ∧ Fetched s (imm * 2 ^ 20 + a * 2 ^ 15
      + rd * 2 ^ 7 + 103)) ∧
    (∃ (s : Machine.State) (rd : Nat) (a : Nat) (b : Nat) (imm : Nat), rd < 32 ∧ a < 32 ∧ b < 32 ∧ imm < 2 ^ 5 ∧ rd ≠ 0 ∧ FetchedC s (rd * 2 ^ 7 + imm
      * 2 ^ 2 + 1)) ∧
    (∃ (s : Machine.State) (rd : Nat) (a : Nat) (b : Nat) (imm : Nat) (p : Nat), rd < 32 ∧ a < 32 ∧ b < 32 ∧ p = BitVec.toNat (s.xreg a + BitVec.ofNat
      32 imm) ∧ imm < 2 ^ 11 ∧ Fetched s (imm * 2 ^ 20 + a * 2 ^ 15 + 2 * 2 ^ 12 + rd * 2 ^ 7 + 3) ∧ trigHit s 0 p = none ∧ p % 4 ≠ 0) ∧
    (∃ (s : Machine.State) (rd : Nat) (a : Nat) (b : Nat) (imm : Nat) (p : Nat), rd < 32 ∧ a < 32 ∧ b < 32 ∧ p = BitVec.toNat (s.xreg a + BitVec.ofNat
      32 imm) ∧ imm < 2 ^ 11 ∧ Fetched s (imm * 2 ^ 20 + a * 2 ^ 15 + 2 * 2 ^ 12 + rd * 2 ^ 7 + 3) ∧ trigHit s 0 p = none ∧ p % 4 = 0 ∧ pmpOk s
      (dataMachine s) 0 p = false) ∧
    (∃ (s : Machine.State) (rd : Nat) (a : Nat) (b : Nat) (imm : Nat) (p : Nat), rd < 32 ∧ a < 32 ∧ b < 32 ∧ p = BitVec.toNat (s.xreg a + BitVec.ofNat
      32 imm) ∧ imm < 2 ^ 11 ∧ Fetched s (imm * 2 ^ 20 + a * 2 ^ 15 + 2 * 2 ^ 12 + rd * 2 ^ 7 + 3) ∧ trigHit s 0 p = none ∧ p % 4 = 0 ∧ pmpOk s
      (dataMachine s) 0 p = true ∧ 20971520 ≤ p ∧ p < 21233664) ∧
    (∃ (s : Machine.State) (rd : Nat) (a : Nat) (b : Nat) (imm : Nat) (p : Nat), rd < 32 ∧ a < 32 ∧ b < 32 ∧ p = BitVec.toNat (s.xreg a + BitVec.ofNat
      32 imm) ∧ imm < 2 ^ 5 ∧ Fetched s (b * 2 ^ 20 + a * 2 ^ 15 + 2 * 2 ^ 12 + imm * 2 ^ 7 + 35) ∧ trigHit s 1 p = none ∧ p % 4 ≠ 0) ∧
    (∃ (s : Machine.State) (rd : Nat) (a : Nat) (b : Nat) (imm : Nat) (p : Nat), rd < 32 ∧ a < 32 ∧ b < 32 ∧ p = BitVec.toNat (s.xreg a + BitVec.ofNat
      32 imm) ∧ imm < 2 ^ 5 ∧ Fetched s (b * 2 ^ 20 + a * 2 ^ 15 + 2 * 2 ^ 12 + imm * 2 ^ 7 + 35) ∧ trigHit s 1 p = none ∧ p % 4 = 0 ∧ pmpOk s
      (dataMachine s) 1 p = false) ∧
    (∃ (s : Machine.State) (rd : Nat) (a : Nat) (b : Nat) (imm : Nat) (p : Nat), rd < 32 ∧ a < 32 ∧ b < 32 ∧ p = BitVec.toNat (s.xreg a + BitVec.ofNat
      32 imm) ∧ imm < 2 ^ 5 ∧ Fetched s (b * 2 ^ 20 + a * 2 ^ 15 + 2 * 2 ^ 12 + imm * 2 ^ 7 + 35) ∧ trigHit s 1 p = none ∧ p % 4 = 0 ∧ pmpOk s
      (dataMachine s) 1 p = true ∧ 20971520 ≤ p ∧ p < 21233664) ∧
    (∃ (s : Machine.State) (rd : Nat) (a : Nat) (b : Nat) (rm : Nat) (w : Nat), rd < 32 ∧ a < 32 ∧ b < 32 ∧ rm < 5 ∧ Fetched s w ∧ w = 832 * 2 ^ 20 +
      a * 2 ^ 15 + 2 ^ 12 + rd * 2 ^ 7 + 115 ∧ s.cp.machine = true) ∧
    (∃ (s : Machine.State) (rd : Nat) (a : Nat) (b : Nat) (rm : Nat) (w : Nat), rd < 32 ∧ a < 32 ∧ b < 32 ∧ rm < 5 ∧ Fetched s w ∧ w = 832 * 2 ^ 20 +
      a * 2 ^ 15 + 2 ^ 12 + rd * 2 ^ 7 + 115 ∧ s.cp.machine = false) ∧
    (∃ (s : Machine.State) (rd : Nat) (a : Nat) (b : Nat) (rm : Nat) (w : Nat), rd < 32 ∧ a < 32 ∧ b < 32 ∧ rm < 5 ∧ Fetched s w ∧ w = b * 2 ^ 20 + a
      * 2 ^ 15 + rm * 2 ^ 12 + rd * 2 ^ 7 + 83 ∧ fpOff s = false) ∧
    (∃ (s : Machine.State) (rd : Nat) (a : Nat) (b : Nat) (rm : Nat) (w : Nat), rd < 32 ∧ a < 32 ∧ b < 32 ∧ rm < 5 ∧ Fetched s w ∧ w = b * 2 ^ 20 + a
      * 2 ^ 15 + rm * 2 ^ 12 + rd * 2 ^ 7 + 83 ∧ fpOff s = true) ∧
    (∃ (s : Machine.State), Fetched s 115) ∧
    (∃ (s : Machine.State), Fetched s 4294967295) ∧
    (∃ (s : Machine.State), cpRuns s = false) :=
  ⟨⟨cpAt (5 * 2 ^ 12 + 31 * 2 ^ 7 + 0x37), 31, 0, 0, 5, by decide, by decide, by decide, by decide, ⟨by decide, by decide, by decide, by decide, by
     decide, by decide, noErr _ rfl, by decide, by decide +kernel, by decide +kernel⟩⟩,
   ⟨{ cpAt (0 + 7 * 2 ^ 20 + 6 * 2 ^ 15 + 31 * 2 ^ 7 + 51) with cp := { pc := 0x01000000, x := [(6, 0x01400000), (7, 5)] } }, 31, 6, 7, by decide, by
     decide, by decide, ⟨by decide, by decide, by decide, by decide, by decide, by decide, noErr _ rfl, by decide, by decide +kernel,
     by decide +kernel⟩⟩,
   ⟨{ cpAt (2 ^ 30 + 7 * 2 ^ 20 + 6 * 2 ^ 15 + 31 * 2 ^ 7 + 51) with cp := { pc := 0x01000000, x := [(6, 0x01400000), (7, 5)] } }, 31, 6, 7, by
     decide, by decide, by decide, ⟨by decide, by decide, by decide, by decide, by decide, by decide, noErr _ rfl, by decide, by decide +kernel,
     by decide +kernel⟩⟩,
   ⟨{ cpAt (2 ^ 25 + 7 * 2 ^ 20 + 6 * 2 ^ 15 + 31 * 2 ^ 7 + 51) with cp := { pc := 0x01000000, x := [(6, 0x01400000), (7, 5)] } }, 31, 6, 7, by
     decide, by decide, by decide, ⟨by decide, by decide, by decide, by decide, by decide, by decide, noErr _ rfl, by decide, by decide +kernel,
     by decide +kernel⟩⟩,
   ⟨{ cpAt (2 ^ 25 + 5 * 2 ^ 12 + 7 * 2 ^ 20 + 6 * 2 ^ 15 + 31 * 2 ^ 7 + 51) with cp := { pc := 0x01000000, x := [(6, 0x01400000), (7, 5)] } }, 31, 6,
     7, by decide, by decide, by decide, ⟨by decide, by decide, by decide, by decide, by decide, by decide, noErr _ rfl, by decide, by decide +kernel,
     by decide +kernel⟩⟩,
   ⟨{ cpAt (7 * 2 ^ 20 + 6 * 2 ^ 15 + 4 * 2 ^ 8 + 0x63) with cp := { pc := 0x01000000, x := [(6, 0x01400000), (7, 5)] } }, 31, 6, 7, by decide, by
     decide, by decide, ⟨by decide, by decide, by decide, by decide, by decide, by decide, noErr _ rfl, by decide, by decide +kernel,
     by decide +kernel⟩⟩,
   ⟨cpAt (4 * 2 ^ 21 + 31 * 2 ^ 7 + 0x6F), 31, 6, 7, by decide, by decide, by decide, ⟨by decide, by decide, by decide, by decide, by decide, by
     decide, noErr _ rfl, by decide, by decide +kernel, by decide +kernel⟩⟩,
   ⟨{ cpAt (9 * 2 ^ 20 + 6 * 2 ^ 15 + 31 * 2 ^ 7 + 0x67) with cp := { pc := 0x01000000, x := [(6, 0x01400000), (7, 5)] } }, 31, 6, 7, 9, by decide, by
     decide, by decide, by decide, ⟨by decide, by decide, by decide, by decide, by decide, by decide, noErr _ rfl, by decide, by decide +kernel,
     by decide +kernel⟩⟩,
   ⟨cpAt (31 * 2 ^ 7 + 3 * 2 ^ 2 + 1), 31, 6, 7, 3, by decide, by decide, by decide, by decide, by decide, ⟨by decide, by decide, by decide, by
     decide, by decide, by decide, noErr _ rfl, by decide, by decide +kernel⟩⟩,
   ⟨{ cpAt (2 * 2 ^ 20 + 6 * 2 ^ 15 + 2 * 2 ^ 12 + 31 * 2 ^ 7 + 0x03) with cp := { pc := 0x01000000, x := [(6, 0x01400000), (7, 5)] } }, 31, 6, 7, 2,
     0x01400002, by decide, by decide, by decide, by decide, by decide, ⟨by decide, by decide, by decide, by decide, by decide, by decide, noErr _
     rfl, by decide, by decide +kernel, by decide +kernel⟩, by decide +kernel, by decide +kernel⟩,
   ⟨{ cpAt (4 * 2 ^ 20 + 6 * 2 ^ 15 + 2 * 2 ^ 12 + 31 * 2 ^ 7 + 0x03) with cp := { pc := 0x01000000, x := [(6, 0x01400000), (7, 5)], csr := [(0x300, 0x20000)] } },
     31, 6, 7, 4, 0x01400004, by decide, by decide, by decide, by decide, by decide, ⟨by decide, by decide, by decide, by decide, by decide, by
     decide, noErr _ rfl, by decide, by decide +kernel, by decide +kernel⟩, by decide +kernel, by decide +kernel, by decide +kernel⟩,
   ⟨{ cpAt (4 * 2 ^ 20 + 6 * 2 ^ 15 + 2 * 2 ^ 12 + 31 * 2 ^ 7 + 0x03) with cp := { pc := 0x01000000, x := [(6, 0x01400000), (7, 5)] } }, 31, 6, 7, 4,
     0x01400004, by decide, by decide, by decide, by decide, by decide, ⟨by decide, by decide, by decide, by decide, by decide, by decide, noErr _
     rfl, by decide, by decide +kernel, by decide +kernel⟩, by decide +kernel, by decide +kernel, by decide +kernel, by decide +kernel,
     by decide +kernel⟩,
   ⟨{ cpAt (7 * 2 ^ 20 + 6 * 2 ^ 15 + 2 * 2 ^ 12 + 1 * 2 ^ 7 + 0x23) with cp := { pc := 0x01000000, x := [(6, 0x01400000), (7, 5)] } }, 31, 6, 7, 1,
     0x01400001, by decide, by decide, by decide, by decide, by decide, ⟨by decide, by decide, by decide, by decide, by decide, by decide, noErr _
     rfl, by decide, by decide +kernel, by decide +kernel⟩, by decide +kernel, by decide +kernel⟩,
   ⟨{ cpAt (7 * 2 ^ 20 + 6 * 2 ^ 15 + 2 * 2 ^ 12 + 4 * 2 ^ 7 + 0x23) with cp := { pc := 0x01000000, x := [(6, 0x01400000), (7, 5)], csr := [(0x300, 0x20000)] } },
     31, 6, 7, 4, 0x01400004, by decide, by decide, by decide, by decide, by decide, ⟨by decide, by decide, by decide, by decide, by decide, by
     decide, noErr _ rfl, by decide, by decide +kernel, by decide +kernel⟩, by decide +kernel, by decide +kernel, by decide +kernel⟩,
   ⟨{ cpAt (7 * 2 ^ 20 + 6 * 2 ^ 15 + 2 * 2 ^ 12 + 4 * 2 ^ 7 + 0x23) with cp := { pc := 0x01000000, x := [(6, 0x01400000), (7, 5)] } }, 31, 6, 7, 4,
     0x01400004, by decide, by decide, by decide, by decide, by decide, ⟨by decide, by decide, by decide, by decide, by decide, by decide, noErr _
     rfl, by decide, by decide +kernel, by decide +kernel⟩, by decide +kernel, by decide +kernel, by decide +kernel, by decide +kernel,
     by decide +kernel⟩,
   ⟨cpAt (0x340 * 2 ^ 20 + 6 * 2 ^ 15 + 2 ^ 12 + 31 * 2 ^ 7 + 0x73), 31, 6, 7, 0, 0x340 * 2 ^ 20 + 6 * 2 ^ 15 + 2 ^ 12 + 31 * 2 ^ 7 + 0x73, by decide,
     by decide, by decide, by decide, ⟨by decide, by decide, by decide, by decide, by decide, by decide, noErr _ rfl, by decide, by decide +kernel,
     by decide +kernel⟩, by decide +kernel, by decide +kernel⟩,
   ⟨{ cpAt (0x340 * 2 ^ 20 + 6 * 2 ^ 15 + 2 ^ 12 + 31 * 2 ^ 7 + 0x73) with cp := { pc := 0x01000000, machine := false, csr := [(0x3A0, 0x1F), (0x3B0, 0xFFFFFFFF)] } },
     31, 6, 7, 0, 0x340 * 2 ^ 20 + 6 * 2 ^ 15 + 2 ^ 12 + 31 * 2 ^ 7 + 0x73, by decide, by decide, by decide, by decide, ⟨by decide, by decide, by
     decide, by decide, by decide, by decide, noErr _ rfl, by decide, by decide +kernel, by decide +kernel⟩, by decide +kernel, by decide +kernel⟩,
   ⟨{ cpAt (7 * 2 ^ 20 + 6 * 2 ^ 15 + 4 * 2 ^ 12 + 31 * 2 ^ 7 + 0x53) with cp := { pc := 0x01000000, csr := [(0x300, 0x2000)] } }, 31, 6, 7, 4, 7 * 2
     ^ 20 + 6 * 2 ^ 15 + 4 * 2 ^ 12 + 31 * 2 ^ 7 + 0x53, by decide, by decide, by decide, by decide, ⟨by decide, by decide, by decide, by decide, by
     decide, by decide, noErr _ rfl, by decide, by decide +kernel, by decide +kernel⟩, by decide +kernel, by decide +kernel⟩,
   ⟨cpAt (7 * 2 ^ 20 + 6 * 2 ^ 15 + 4 * 2 ^ 12 + 31 * 2 ^ 7 + 0x53), 31, 6, 7, 4, 7 * 2 ^ 20 + 6 * 2 ^ 15 + 4 * 2 ^ 12 + 31 * 2 ^ 7 + 0x53, by decide,
     by decide, by decide, by decide, ⟨by decide, by decide, by decide, by decide, by decide, by decide, noErr _ rfl, by decide, by decide +kernel,
     by decide +kernel⟩, by decide +kernel, by decide +kernel⟩,
   ⟨cpAt (0x73), ⟨by decide, by decide, by decide, by decide, by decide, by decide, noErr _ rfl, by decide, by decide +kernel, by decide +kernel⟩⟩,
   ⟨cpAt (0xFFFFFFFF), ⟨by decide, by decide, by decide, by decide, by decide, by decide, noErr _ rfl, by decide, by decide +kernel,
     by decide +kernel⟩⟩,
   ⟨State.reset, by decide⟩⟩

theorem test_witness_CpSpecialsAndInterrupts :
    (∃ (s : Machine.State), cpRuns s = true ∧ s.cp.wfi = false ∧ bitOf (s.csr 1968) 2 = false ∧ wfiOpen s = true) ∧
    (∃ (s : Machine.State), cpRuns s = true ∧ s.cp.wfi = false ∧ bitOf (s.csr 1968) 2 = false ∧ s.cp.machine = true) ∧
    (∃ (s : Machine.State), cpRuns s = true ∧ takes s 7 = true ∧ takes s 11 = false) ∧
    (∃ (s : Machine.State) (n : Nat), cpRuns s = true ∧ takes s 11 = true ∧ icuPick s = some n ∧ bitsOf (s.csr 773) 1 0 ≠ 3) ∧
    (∃ (s : Machine.State) (n : Nat) (a : Nat), cpRuns s = true ∧ takes s 11 = true ∧ icuPick s = some n ∧ bitsOf (s.csr 773) 1 0 = 3 ∧ a =
      BitVec.toNat (s.reg R.ICU_VTAB) / 512 * 512 + 4 * n ∧ (∀ (p : Nat), s.errs p = 0) ∧ injDue s 128 = none ∧ 20971520 ≤ a ∧ a < 21233664) ∧
    (∃ (s : Machine.State) (n : Nat) (a : Nat), cpRuns s = true ∧ takes s 11 = true ∧ icuPick s = some n ∧ bitsOf (s.csr 773) 1 0 = 3 ∧ a =
      BitVec.toNat (s.reg R.ICU_VTAB) / 512 * 512 + 4 * n ∧ (∀ (p : Nat), s.errs p = 0) ∧ injDue s 128 = none ∧ 33554432 ≤ a ∧ a < 268435456) ∧
    (∃ (s : Machine.State), takes s 7 = false) :=
  ⟨⟨awake, by decide⟩,
   ⟨awake, by decide⟩,
   ⟨{ ((awake.setReg (R.CPT_MTIMECMP 0) 0).setReg (R.CPT_MTIMECMP 1) 0) with cp := { csr := [(0x300, 8), (0x304, 0x80), (0x305, 1)] } }, by decide⟩,
   ⟨{ ((((awake.put (F.ICU_SRC_EN 100) 1).put (F.ICU_SRC_PRIO 100) 4).put (F.ICU_SRC_EDGE 100) 1).put (F.ICU_SRC_PEND 100) 1) with cp := { csr := [(0x300, 8), (0x304, 0x800), (0x305, 1)] } },
     100, by decide⟩,
   ⟨{ (({ ((((awake.put (F.ICU_SRC_EN 100) 1).put (F.ICU_SRC_PRIO 100) 4).put (F.ICU_SRC_EDGE 100) 1).put (F.ICU_SRC_PEND 100) 1) with cp := { csr := [(0x300, 8), (0x304, 0x800), (0x305, 1)] } }).setReg R.ICU_VTAB 0x01400000) with cp := { csr := [(0x300, 8), (0x304, 0x800), (0x305, 3)] } },
     100, 0x01400190, by decide, by decide, by decide, by decide, by decide, noErr _ rfl, by decide, by decide, by decide⟩,
   ⟨{ (({ ((((awake.put (F.ICU_SRC_EN 100) 1).put (F.ICU_SRC_PRIO 100) 4).put (F.ICU_SRC_EDGE 100) 1).put (F.ICU_SRC_PEND 100) 1) with cp := { csr := [(0x300, 8), (0x304, 0x800), (0x305, 1)] } }).setReg R.ICU_VTAB 0x02000000) with cp := { csr := [(0x300, 8), (0x304, 0x800), (0x305, 3)] } },
     100, 0x02000190, by decide, by decide, by decide, by decide, by decide, noErr _ rfl, by decide, by decide, by decide⟩,
   ⟨State.reset, by decide⟩⟩

theorem test_witness_DebugAndSoftwareSources :
    (∃ (s : Machine.State), cpRuns s = true ∧ bitOf (s.spb 3) 0 = true ∧ s.flag F.SYS_BRGSTAT_UP = true) ∧
    (∃ (s : Machine.State), bitOf (s.spb 3) 0 = false) ∧
    (∃ (s : Machine.State) (n : Nat), n < 32 ∧ s.cp.debug = true ∧ bitOf (s.spb 3) 0 = true ∧ s.cp.dm.active = true ∧ s.cp.dm.cmderr = 0 ∧
      s.cp.dm.auto = 0) :=
  ⟨⟨((awake.setReg (R.HWM_SPB 3) 1).put F.SYS_BRGSTAT_UP 1), by decide⟩,
   ⟨State.reset, by decide⟩,
   ⟨{ (awake.setReg (R.HWM_SPB 3) 1) with cp := { debug := true, dm := { active := true } } }, 0, by decide⟩⟩

theorem test_witness_BridgeFramesAndAccesses :
    (∃ (s : Machine.State), s.flag F.SYS_BRGSTAT_UP = true ∧ s.brg.fails < 2 ∧ injDue s 119 = none) ∧
    (∃ (s : Machine.State), s.flag F.SYS_BRGSTAT_UP = true ∧ 2 ≤ s.brg.fails) ∧
    (∃ (s : Machine.State) (q : Access) (l : List Access), s.brg.queue = q :: l ∧ q.addr = R.AON_PCNT 0 ∧ s.flag F.AON_WAKEEN_PC0 = false) ∧
    (∃ (s : Machine.State) (q : Access) (l : List Access), s.brg.queue = q :: l ∧ q.addr = R.HWM_DETCNT ∧ bitOf q.val 31 = true) ∧
    (∃ (s : Machine.State) (k : Fin 24) (g : Fin 8) (q : Access) (l : List Access), s.brg.queue = q :: l ∧ q.addr ∈ [R.GDR_DRV ↑k, R.GDR_HSCFG,
      R.CSA_CFG ↑k, R.AON_GLCFG, R.AON_SUPCFG, R.AON_WAKEEN, R.AON_SLBASE, R.AON_SLCTL, R.AON_PCCTL, R.AON_GLCH ↑g]) ∧
    (∃ (s : Machine.State), s.brg.queue = []) ∧
    (∃ (s : Machine.State) (m : BitVec 8) (k : Fin 8) (c : Instr) (a : Nat), (c, a) ∈ [(Instr.releaseGroup m, R.HWM_RXREL), (Instr.releaseHalt,
      R.HWM_RXREL), (Instr.detcntClr, R.HWM_DETCNT), (Instr.pisOpenRequest m, R.HWM_PISCTL), (Instr.pisCloseRequest m, R.HWM_PISCTL),
      (Instr.gdrEvtClr, R.GDR_EVT), (Instr.adcStatClr k, R.ADC_STAT ↑k), (Instr.zxStart k, R.ADC_ZXCFG ↑k)] ∧ s.flag F.SYS_BRGSTAT_UP = false ∧ s.flag
      F.PWR_OFFSTAT_VALID = false) ∧
    (∃ (s : Machine.State) (x : Fin 2) (b : Fin 4) (n : Fin 32) (v : Word) (c : Instr) (a : Nat), (c, a) ∈ [(Instr.canTxgo x v, R.CAN_TXGO ↑x),
      (Instr.canTxabort x v, R.CAN_TXABORT ↑x), (Instr.canRxack x v, R.CAN_RXACK ↑x), (Instr.canConfWrite x v, R.CAN_MCTL ↑x), (Instr.injDisarm,
      R.INJ_CTL), (Instr.evcGctl v, R.EVC_GCTL), (Instr.evcCntlRead n, R.EVC_CNTL ↑n), (Instr.lupStart b, R.LUP_CTL ↑b), (Instr.lupSwtrg b, R.LUP_CTL
      ↑b), (Instr.lupAbort b, R.LUP_CTL ↑b)] ∧ blockOff s a = true ∧ s.flag F.PWR_OFFSTAT_VALID = false) :=
  ⟨⟨(State.reset.put F.SYS_BRGSTAT_UP 1), by decide⟩,
   ⟨{ (State.reset.put F.SYS_BRGSTAT_UP 1) with brg := { fails := 2 } }, by decide⟩,
   ⟨{ State.reset with brg := { queue := [{ who := .cp, addr := R.AON_PCNT 0, val := 7, time := 0 }] } },
     { who := .cp, addr := R.AON_PCNT 0, val := 7, time := 0 }, [], by decide⟩,
   ⟨{ State.reset with brg := { queue := [{ who := .cp, addr := R.HWM_DETCNT, val := 0x80000000, time := 0 }] } },
     { who := .cp, addr := R.HWM_DETCNT, val := 0x80000000, time := 0 }, [], by decide⟩,
   ⟨{ State.reset with brg := { queue := [{ who := .cp, addr := R.GDR_HSCFG, val := 7, time := 0 }] } }, 0, 0,
     { who := .cp, addr := R.GDR_HSCFG, val := 7, time := 0 }, [], by decide⟩,
   ⟨{ State.reset with brg := { State.reset.brg with queue := [] } }, by decide⟩,
   ⟨((State.reset.put F.SYS_BRGSTAT_UP 0).put F.PWR_OFFSTAT_VALID 0), 0, 0, .releaseGroup 0, R.HWM_RXREL, List.mem_cons_self .., by decide⟩,
   ⟨(State.reset.put F.CLK_GATE_CAN 0), 0, 0, 0, 0, .canTxgo 0 0, R.CAN_TXGO 0, List.mem_cons_self .., by decide⟩⟩

theorem test_witness_ClearInTheCycleOfARepeat :
    (∃ (s : Machine.State), s.fresh.bits = []) ∧
    (∃ (s : Machine.State), s.flag F.SYS_BRGSTAT_UP = true ∧ s.brg.fails < 2 ∧ injDue s 119 = none) :=
  ⟨⟨{ State.reset with fresh := { State.reset.fresh with bits := [] } }, by decide⟩,
   ⟨(State.reset.put F.SYS_BRGSTAT_UP 1), by decide⟩⟩

theorem test_witness_ScrubberReads :
    (∃ (s : Machine.State) (m : ScrubMem) (e : Nat), injDue s 128 = none ∧ (m = ScrubMem.flash ∨ s.flag F.ARB_SCRUB_EN = true) ∧ e = s.errs
      (scrubPlace m s) ∧ e = 0) ∧
    (∃ (s : Machine.State) (m : ScrubMem) (e : Nat), injDue s 128 = none ∧ (m = ScrubMem.flash ∨ s.flag F.ARB_SCRUB_EN = true) ∧ e = s.errs
      (scrubPlace m s) ∧ 1 ≤ e ∧ e ≤ 2 ∧ m ≠ ScrubMem.flash) ∧
    (∃ (s : Machine.State) (m : ScrubMem) (e : Nat), injDue s 128 = none ∧ (m = ScrubMem.flash ∨ s.flag F.ARB_SCRUB_EN = true) ∧ e = s.errs
      (scrubPlace m s) ∧ 1 ≤ e ∧ e ≤ 2 ∧ m = ScrubMem.flash) ∧
    (∃ (s : Machine.State) (m : ScrubMem) (e : Nat), injDue s 128 = none ∧ (m = ScrubMem.flash ∨ s.flag F.ARB_SCRUB_EN = true) ∧ e = s.errs
      (scrubPlace m s) ∧ 3 ≤ e) ∧
    (∃ (s : Machine.State) (m : ScrubMem) (stray : Fin 4), injDue s 128 = none ∧ (m = ScrubMem.flash ∨ s.flag F.ARB_SCRUB_EN = true) ∧ stray ≠ 0) ∧
    (∃ (s : Machine.State) (m : ScrubMem) (a : Word), injDue s 128 = none ∧ m ≠ ScrubMem.flash ∧ s.flag F.ARB_SCRUB_EN = false ∧ inCoded (BitVec.toNat
      a) = true) :=
  ⟨⟨State.reset, .flash, 0, by decide⟩,
   ⟨{ (State.reset.put F.ARB_SCRUB_EN 1) with ecc := [(0x01000000, 2)] }, .itcm, 2, by decide⟩,
   ⟨{ State.reset with ecc := [(0x10000000, 1)] }, .flash, 1, by decide⟩,
   ⟨{ State.reset with ecc := [(0x10000000, 3)] }, .flash, 3, by decide⟩,
   ⟨State.reset, .flash, 1, by decide⟩,
   ⟨(State.reset.put F.ARB_SCRUB_EN 0), .itcm, 0x01000000, by decide⟩⟩

theorem test_witness_ArbiterRequests :
    (∃ (s : Machine.State) (b : Fin 8) (rq : Requester) (wr : Bool) (word : Fin 65536) (beats : List (BitVec 64)) (x : Xfer), x =
      { rq := reqCode rq, wr := wr, word := ↑word, beats := beats, preempted := 0 } ∧ lockOpen s (reqCode rq) ↑b = false ∧ holdsAbove s (reqCode rq)
      ↑b = true) ∧
    (∃ (s : Machine.State) (b : Fin 8) (rq : Requester) (wr : Bool) (word : Fin 65536) (beats : List (BitVec 64)) (x : Xfer), x =
      { rq := reqCode rq, wr := wr, word := ↑word, beats := beats, preempted := 0 } ∧ lockOpen s (reqCode rq) ↑b = false ∧ holdsAbove s (reqCode rq)
      ↑b = false) ∧
    (∃ (s : Machine.State) (b : Fin 8) (rq : Requester) (wr : Bool) (word : Fin 65536) (beats : List (BitVec 64)) (x : Xfer), x =
      { rq := reqCode rq, wr := wr, word := ↑word, beats := beats, preempted := 0 } ∧ lockOpen s (reqCode rq) ↑b = true ∧ (s.bank ↑b).cur = none) ∧
    (∃ (s : Machine.State) (b : Fin 8) (rq : Requester) (wr : Bool) (word : Fin 65536) (beats : List (BitVec 64)) (last : Bool) (at_ : Nat) (x : Xfer)
      (c : Xfer), x = { rq := reqCode rq, wr := wr, word := ↑word, beats := beats, preempted := 0 } ∧ lockOpen s (reqCode rq) ↑b = true ∧ (s.bank
      ↑b).cur = some c ∧ (s.bank ↑b).dec ≠ some (max s.now at_) ∧ level s c.rq < level s (reqCode rq) ∧ last = false ∧ s.flag (F.ARB_RQCFG_NOPRE c.rq)
      = false ∧ c.preempted < 4) ∧
    (∃ (s : Machine.State) (b : Fin 8) (rq : Requester) (wr : Bool) (word : Fin 65536) (beats : List (BitVec 64)) (last : Bool) (at_ : Nat) (x : Xfer)
      (c : Xfer), x = { rq := reqCode rq, wr := wr, word := ↑word, beats := beats, preempted := 0 } ∧ lockOpen s (reqCode rq) ↑b = true ∧ (s.bank
      ↑b).cur = some c ∧ (s.bank ↑b).dec ≠ some (max s.now at_) ∧ ¬(level s c.rq < level s (reqCode rq) ∧ last = false ∧ s.flag (F.ARB_RQCFG_NOPRE
      c.rq) = false ∧ c.preempted < 4)) ∧
    (∃ (s : Machine.State) (b : Fin 8) (rq : Requester) (wr : Bool) (word : Fin 65536) (beats : List (BitVec 64)) (at_ : Nat) (x : Xfer) (c : Xfer), x
      = { rq := reqCode rq, wr := wr, word := ↑word, beats := beats, preempted := 0 } ∧ lockOpen s (reqCode rq) ↑b = true ∧ (s.bank ↑b).cur = some c ∧
      (s.bank ↑b).dec = some (max s.now at_)) :=
  ⟨⟨(State.reset.setReg R.ARB_LKST 0xFFFFFF03), 0, .cp, false, 0, [], { rq := 0, wr := false, word := 0, beats := [], preempted := 0 }, by decide⟩,
   ⟨(State.reset.setReg R.ARB_LKST 0xFFFFFFF3), 0, .cp, false, 0, [], { rq := 0, wr := false, word := 0, beats := [], preempted := 0 }, by decide⟩,
   ⟨State.reset, 0, .cp, false, 0, [], { rq := 0, wr := false, word := 0, beats := [], preempted := 0 }, by decide⟩,
   ⟨(((State.reset.updBank 0 (fun k => { k with cur := some { rq := 12, wr := true, word := 3, beats := [1, 2], preempted := 3 } })).put
     (F.ARB_RQCFG_PRIO 0) 15).put (F.ARB_RQCFG_PRIO 12) 0), 0, .cp, false, 0, [], false, 0,
     { rq := 0, wr := false, word := 0, beats := [], preempted := 0 }, { rq := 12, wr := true, word := 3, beats := [1, 2], preempted := 3 }, by
     decide⟩,
   ⟨(State.reset.updBank 0 (fun k => { k with cur := some { rq := 12, wr := true, word := 3, beats := [1, 2], preempted := 3 } })), 0, .spp, false, 0,
     [], false, 0, { rq := 12, wr := false, word := 0, beats := [], preempted := 0 },
     { rq := 12, wr := true, word := 3, beats := [1, 2], preempted := 3 }, by decide⟩,
   ⟨(State.reset.updBank 0 (fun k => { k with cur := some { rq := 12, wr := true, word := 3, beats := [1, 2], preempted := 3 }, dec := some 0 })), 0,
     .cp, false, 0, [], 0, { rq := 0, wr := false, word := 0, beats := [], preempted := 0 },
     { rq := 12, wr := true, word := 3, beats := [1, 2], preempted := 3 }, by decide⟩⟩

theorem test_witness_ArbiterLocks :
    (∃ (s : Machine.State) (b : Fin 8) (x : Xfer), (s.bank ↑b).cur = some x ∧ x.wr = true ∧ x.rq ≠ 11 ∧ (s.bank ↑b).wait = []) ∧
    (∃ (s : Machine.State) (b : Fin 8) (x : Xfer) (p : Nat) (w : Word), (∀ (a : Nat), s.errs a = 0) ∧ (s.bank ↑b).cur = some x ∧ x.wr = true ∧ x.rq =
      11 ∧ (s.bank ↑b).wait = [] ∧ s.fifo = [(p, w)] ∧ bankPlace (↑b) x.word ≤ p ∧ p < bankPlace (↑b) x.word + 8 * x.beats.length ∧ inSram p = true ∧
      injDue s 128 = none) ∧
    (∃ (s : Machine.State) (b : Fin 8) (x : Xfer), (s.bank ↑b).cur = some x ∧ x.rq ≤ 12) ∧
    (∃ (s : Machine.State) (b : Fin 8) (rq : Requester) (at_ : Nat), NoDma s ∧ (s.bank ↑b).lkAt ≠ some (max s.now at_) ∧ (lockOwner s ↑b = reqCode rq
      ∨ lockOwner s ↑b = 15 ∧ holdsAbove s (reqCode rq) ↑b = false)) ∧
    (∃ (s : Machine.State) (b : Fin 8) (rq : Requester) (at_ : Nat), NoDma s ∧ (s.bank ↑b).lkAt ≠ some (max s.now at_) ∧ lockOwner s ↑b ≠ reqCode rq ∧
      lockOwner s ↑b ≠ 15 ∧ holdsAbove s (reqCode rq) ↑b = false) ∧
    (∃ (s : Machine.State) (b : Fin 8) (rq : Requester) (at_ : Nat), NoDma s ∧ (s.bank ↑b).lkAt ≠ some (max s.now at_) ∧ lockOwner s ↑b = reqCode rq) ∧
    (∃ (s : Machine.State) (b : Fin 8) (rq : Requester) (at_ : Nat) (o : Nat), NoDma s ∧ (s.bank ↑b).lkAt = some (max s.now at_) ∧ lockOwner s ↑b = o
      ∧ (s.bank ↑b).lkWon = some o ∧ o ≠ reqCode rq ∧ holdsAbove s (reqCode rq) ↑b = false ∧ before s (↑b) (reqCode rq) o = true) ∧
    (∃ (s : Machine.State) (b : Fin 8) (rq : Requester), lockOwner s ↑b ≠ reqCode rq ∧ holdsAbove s (reqCode rq) ↑b = true) :=
  ⟨⟨(State.reset.updBank 0 (fun k => { k with cur := some { rq := 12, wr := true, word := 3, beats := [1, 2], preempted := 3 } })), 0,
     { rq := 12, wr := true, word := 3, beats := [1, 2], preempted := 3 }, by decide⟩,
   ⟨{ (State.reset.updBank 0 (fun k => { k with cur := some { rq := 11, wr := true, word := 0, beats := [1, 2], preempted := 0 } })) with fifo := [(0x20000004, 9)] },
     0, { rq := 11, wr := true, word := 0, beats := [1, 2], preempted := 0 }, 0x20000004, 9, noErr _ rfl, by decide⟩,
   ⟨(State.reset.updBank 0 (fun k => { k with cur := some { rq := 12, wr := true, word := 3, beats := [1, 2], preempted := 3 } })), 0,
     { rq := 12, wr := true, word := 3, beats := [1, 2], preempted := 3 }, by decide⟩,
   ⟨State.reset, 0, .cp, 0, by unfold NoDma; decide⟩,
   ⟨(State.reset.setReg R.ARB_LKST 0xFFFFFFF3), 0, .cp, 0, by unfold NoDma; decide⟩,
   ⟨(State.reset.setReg R.ARB_LKST 0xFFFFFFF0), 0, .cp, 0, by unfold NoDma; decide⟩,
   ⟨(((State.reset.setReg R.ARB_LKST 0xFFFFFFF3).put (F.ARB_RQCFG_PRIO 0) 15).updBank 0 (fun k => { k with lkAt := some 0, lkWon := some 3 })), 0,
     .cp, 0, 3, by unfold NoDma; decide⟩,
   ⟨(State.reset.setReg R.ARB_LKST 0xFFFFFF0F), 0, .cp, by decide⟩⟩

theorem test_witness_MirrorErrors :
    (∃ (s : Machine.State) (r : Fin 17), s.pwr.seq = Seq.done ∧ NoDma s ∧ pairIdle s ↑r = false ∧ s.flag F.BST_STAT_RUN = false) ∧
    (∃ (s : Machine.State) (r : Fin 17), s.pwr.seq = Seq.done ∧ NoDma s ∧ pairIdle s ↑r = true) :=
  ⟨⟨{ (State.reset.put F.BST_STAT_RUN 0) with pwr := { State.reset.pwr with seq := Seq.done } }, 0, by unfold NoDma; decide⟩,
   ⟨{ awake with mir := { frozen := [0] } }, 0, by unfold NoDma; decide⟩⟩

theorem test_witness_TestedCopies :
    (∃ (s : Machine.State) (e : BistEnd) (r : Nat), s.flag F.BST_STAT_RUN = true ∧ s.get F.BST_STAT_REGION = r ∧ r ≤ 16 ∧ s.get F.BST_STAT_ORIGIN = 3
      ∧ s.get F.BST_STAT_COPY = 0 ∧ e.restored = true) ∧
    (∃ (s : Machine.State) (e : BistEnd) (r : Nat) (a : Bool × Bool), s.flag F.BST_STAT_RUN = true ∧ s.get F.BST_STAT_REGION = r ∧ r ≤ 16 ∧ s.get
      F.BST_STAT_ORIGIN = 3 ∧ s.get F.BST_STAT_COPY = 1 ∧ e.restored = true ∧ (List.find? (fun x => x.fst == r) s.mir.copy0 = some (r, a))) ∧
    (∃ (s : Machine.State) (e : BistEnd) (r : Nat), s.flag F.BST_STAT_RUN = true ∧ s.get F.BST_STAT_REGION = r ∧ r ≤ 16 ∧ s.get F.BST_STAT_ORIGIN = 2
      ∧ s.get F.BST_STAT_COPY = 1 ∧ e.restored = true ∧ s.bist.regions = [r]) :=
  ⟨⟨((((State.reset.put F.BST_STAT_RUN 1).put F.BST_STAT_ORIGIN 3).put F.BST_STAT_REGION 16).put F.BST_STAT_COPY 0),
     { patterns := 0, misr := 0, restored := true }, 16, by decide⟩,
   ⟨{ ((((State.reset.put F.BST_STAT_RUN 1).put F.BST_STAT_ORIGIN 3).put F.BST_STAT_REGION 16).put F.BST_STAT_COPY 1) with mir := { copy0 := [(16, (true, false))] } },
     { patterns := 0, misr := 0, restored := true }, 16, (true, false), by decide⟩,
   ⟨{ ((((State.reset.put F.BST_STAT_RUN 1).put F.BST_STAT_ORIGIN 2).put F.BST_STAT_REGION 16).put F.BST_STAT_COPY 1) with bist := { regions := [16] } },
     { patterns := 0, misr := 0, restored := true }, 16, by decide⟩⟩

theorem test_witness_FlowInstances :
    (∃ (s : Machine.State) (src : Fin 32) (at_ : Nat) (n : Fin 64), s.now ≤ at_ ∧ s.flag (F.PRS_FLOWCFG_EN ↑n) = true ∧ s.get (F.PRS_FLOWCFG_SRC ↑n) =
      ↑src ∧ s.flag F.PRS_STAT_RUNNING = true ∧ s.flag (F.PRS_FLOWST_SUSP ↑n) = false ∧ s.prs.runScan = false ∧ ((mget (fun x => { }) s.prs.info
      ↑n).nroot ≠ 15) ∧ ((s.prs.events.any fun e => e.src == ↑src) = true) ∧ (∀ (i : Inst), i ∈ s.prs.insts → canComplete s i = false) ∧ (s.get
      (F.PRS_FLOWCFG_DIV ↑n) ≤ mget (fun _ => 0) s.prs.divs ↑n) ∧ instOf s ↑n = none) ∧
    (∃ (s : Machine.State) (src : Fin 32) (at_ : Nat) (n : Fin 64), s.now ≤ at_ ∧ s.flag (F.PRS_FLOWCFG_EN ↑n) = true ∧ s.get (F.PRS_FLOWCFG_SRC ↑n) =
      ↑src ∧ s.flag F.PRS_STAT_RUNNING = true ∧ s.flag (F.PRS_FLOWST_SUSP ↑n) = false ∧ s.prs.runScan = false ∧ ((mget (fun x => { }) s.prs.info
      ↑n).nroot ≠ 15) ∧ ((s.prs.events.any fun e => e.src == ↑src) = true) ∧ (∀ (i : Inst), i ∈ s.prs.insts → canComplete s i = false) ∧ (s.get
      (F.PRS_FLOWCFG_DIV ↑n) ≤ mget (fun _ => 0) s.prs.divs ↑n) ∧ (instOf s ↑n).isSome = true) ∧
    (∃ (s : Machine.State) (src : Fin 32) (at_ : Nat) (n : Fin 64), s.now ≤ at_ ∧ s.flag (F.PRS_FLOWCFG_EN ↑n) = true ∧ s.get (F.PRS_FLOWCFG_SRC ↑n) =
      ↑src ∧ s.flag F.PRS_STAT_RUNNING = true ∧ s.flag (F.PRS_FLOWST_SUSP ↑n) = false ∧ s.prs.runScan = false ∧ ((mget (fun x => { }) s.prs.info
      ↑n).nroot ≠ 15) ∧ ((s.prs.events.any fun e => e.src == ↑src) = true) ∧ (∀ (i : Inst), i ∈ s.prs.insts → canComplete s i = false) ∧ (mget (fun x
      => 0) s.prs.divs ↑n < s.get (F.PRS_FLOWCFG_DIV ↑n))) ∧
    (∃ (s : Machine.State) (src : Fin 32) (at_ : Nat) (n : Fin 64) (i : Inst), s.now ≤ at_ ∧ s.flag (F.PRS_FLOWCFG_EN ↑n) = true ∧ s.get
      (F.PRS_FLOWCFG_SRC ↑n) = ↑src ∧ (∀ (m : Fin 64), m ≠ n → s.flag (F.PRS_FLOWCFG_EN ↑m) = true → s.get (F.PRS_FLOWCFG_SRC ↑m) ≠ ↑src) ∧ s.flag
      F.PRS_STAT_RUNNING = true ∧ s.flag (F.PRS_FLOWST_SUSP ↑n) = false ∧ s.prs.runScan = false ∧ ((mget (fun x => { }) s.prs.info ↑n).nroot ≠ 15) ∧
      ((s.prs.events.any fun e => e.src == ↑src) = true) ∧ (s.get (F.PRS_FLOWCFG_DIV ↑n) ≤ mget (fun _ => 0) s.prs.divs ↑n) ∧ s.flag
      (F.PRS_FLOWST_PEND ↑n) = false ∧ instOf s ↑n = some i ∧ canComplete s i = true ∧ (∀ (j : Inst), j ∈ s.prs.insts → j.flow = ↑n → j.id = i.id)) ∧
    (∃ (s : Machine.State) (n : Fin 64) (at_ : Nat) (i : Inst), s.now ≤ at_ ∧ instOf s ↑n = some i ∧ canComplete s i = true ∧ s.flag
      (F.PRS_FLOWST_PEND ↑n) = true ∧ s.flag F.PRS_STAT_RUNNING = true ∧ flowOpen s ↑n = true ∧ (∀ (j : Inst), j ∈ s.prs.insts → j.flow = ↑n → j.id =
      i.id)) :=
  ⟨⟨{ ((State.reset.put (F.PRS_FLOWCFG_EN 0) 1).put F.PRS_STAT_RUNNING 1) with prs := { events := [{ src := 0, time := 0 }] } }, 0, 0, 0, by decide⟩,
   ⟨{ ((State.reset.put (F.PRS_FLOWCFG_EN 0) 1).put F.PRS_STAT_RUNNING 1) with prs := { events := [{ src := 0, time := 0 }], insts := [{ id := 5, flow := 0, trig := 0, half := false, prio := 0, nodes := 1, roots := [], rooted := true }], toks := [{ id := 5, node := 7, time := 0, src := 5, facet := 3, quiet := false }] } },
     0, 0, 0, by decide⟩,
   ⟨{ (((State.reset.put (F.PRS_FLOWCFG_EN 0) 1).put F.PRS_STAT_RUNNING 1).put (F.PRS_FLOWCFG_DIV 0) 1) with prs := { events := [{ src := 0, time := 0 }] } },
     0, 0, 0, by decide⟩,
   ⟨{ ((State.reset.put (F.PRS_FLOWCFG_EN 0) 1).put F.PRS_STAT_RUNNING 1) with prs := { events := [{ src := 0, time := 0 }], insts := [{ id := 5, flow := 0, trig := 0, half := false, prio := 0, nodes := 1, roots := [], rooted := true }] } },
     0, 0, 0, { id := 5, flow := 0, trig := 0, half := false, prio := 0, nodes := 1, roots := [], rooted := true }, by decide⟩,
   ⟨{ ((State.reset.put (F.PRS_FLOWST_PEND 0) 1).put F.PRS_STAT_RUNNING 1) with prs := { insts := [{ id := 5, flow := 0, trig := 0, half := false, prio := 0, nodes := 1, roots := [], rooted := true }] } },
     0, 0, { id := 5, flow := 0, trig := 0, half := false, prio := 0, nodes := 1, roots := [], rooted := true }, by decide⟩⟩

theorem test_witness_RootsAndTokens :
    (∃ (s : Machine.State) (at_ : Nat) (n : Fin 64) (i : Inst), s.now ≤ at_ ∧ instOf s ↑n = some i ∧ i.rooted = false ∧ i.roots = []) ∧
    (∃ (s : Machine.State) (at_ : Nat) (n : Fin 64) (i : Inst) (r : Nat), s.now ≤ at_ ∧ instOf s ↑n = some i ∧ i.rooted = false ∧ i.roots = [r] ∧
      (s.facet (placeOf s i.half r)).ready.length < 256 ∧ placeOf s i.half r < 8) ∧
    (∃ (s : Machine.State) (at_ : Nat) (n : Fin 64) (i : Inst), s.now ≤ at_ ∧ instOf s ↑n = some i ∧ i.rooted = true) ∧
    (∃ (s : Machine.State) (at_ : Nat) (node : BitVec 14) (k : Tok) (i : Inst), s.now ≤ at_ ∧ (List.find? (fun k => k.node == node.toNat) s.prs.toks =
      some k) ∧ instId s k.id = some i ∧ (mget (fun _ => 0) i.counts k.node + 1 = nArity (nodeBits s i.half k.node)) ∧ placeOf s i.half k.node < 8 ∧
      (s.facet (placeOf s i.half k.node)).ready.length < 256) ∧
    (∃ (s : Machine.State) (at_ : Nat) (node : BitVec 14) (k : Tok) (i : Inst), s.now ≤ at_ ∧ (List.find? (fun k => k.node == node.toNat) s.prs.toks =
      some k) ∧ instId s k.id = some i ∧ (mget (fun _ => 0) i.counts k.node + 1 < nArity (nodeBits s i.half k.node))) ∧
    (∃ (s : Machine.State) (at_ : Nat) (node : BitVec 14) (k : Tok) (i : Inst), s.now ≤ at_ ∧ (List.find? (fun k => k.node == node.toNat) s.prs.toks =
      some k) ∧ instId s k.id = some i ∧ (nArity (nodeBits s i.half k.node) ≤ mget (fun _ => 0) i.counts k.node) ∧ k.quiet = false ∧ s.flag
      F.PRS_NEXC_VALID = false ∧ bitOf (s.reg R.PRS_EXCPOL) 6 = false) :=
  ⟨⟨{ State.reset with prs := { insts := [{ id := 5, flow := 0, trig := 0, half := false, prio := 0, nodes := 1, roots := [], rooted := false }] } },
     0, 0, { id := 5, flow := 0, trig := 0, half := false, prio := 0, nodes := 1, roots := [], rooted := false }, by decide⟩,
   ⟨{ State.reset with prs := { insts := [{ id := 5, flow := 0, trig := 0, half := false, prio := 0, nodes := 1, roots := [7], rooted := false }] } },
     0, 0, { id := 5, flow := 0, trig := 0, half := false, prio := 0, nodes := 1, roots := [7], rooted := false }, 7, by decide⟩,
   ⟨{ State.reset with prs := { insts := [{ id := 5, flow := 0, trig := 0, half := false, prio := 0, nodes := 1, roots := [], rooted := true }] } },
     0, 0, { id := 5, flow := 0, trig := 0, half := false, prio := 0, nodes := 1, roots := [], rooted := true }, by decide⟩,
   ⟨{ (State.reset.setWord (nodeAddr false 7 + 12) 65536) with prs := { insts := [{ id := 5, flow := 0, trig := 0, half := false, prio := 0, nodes := 1, roots := [], rooted := true }], toks := [{ id := 5, node := 7, time := 0, src := 5, facet := 3, quiet := false }] } },
     0, 7, { id := 5, node := 7, time := 0, src := 5, facet := 3, quiet := false },
     { id := 5, flow := 0, trig := 0, half := false, prio := 0, nodes := 1, roots := [], rooted := true }, by decide⟩,
   ⟨{ (State.reset.setWord (nodeAddr false 7 + 12) 131072) with prs := { insts := [{ id := 5, flow := 0, trig := 0, half := false, prio := 0, nodes := 1, roots := [], rooted := true }], toks := [{ id := 5, node := 7, time := 0, src := 5, facet := 3, quiet := false }] } },
     0, 7, { id := 5, node := 7, time := 0, src := 5, facet := 3, quiet := false },
     { id := 5, flow := 0, trig := 0, half := false, prio := 0, nodes := 1, roots := [], rooted := true }, by decide⟩,
   ⟨{ (State.reset.setWord (nodeAddr false 7 + 12) 0) with prs := { insts := [{ id := 5, flow := 0, trig := 0, half := false, prio := 0, nodes := 1, roots := [], rooted := true }], toks := [{ id := 5, node := 7, time := 0, src := 5, facet := 3, quiet := false }] } },
     0, 7, { id := 5, node := 7, time := 0, src := 5, facet := 3, quiet := false },
     { id := 5, flow := 0, trig := 0, half := false, prio := 0, nodes := 1, roots := [], rooted := true }, by decide⟩⟩

theorem test_witness_RunAndScans :
    (∃ (s : Machine.State), s.flag F.PRS_CTL_RUN = false) ∧
    (∃ (s : Machine.State) (at_ : Nat), s.now ≤ at_ ∧ s.prs.runScan = true) ∧
    (∃ (s : Machine.State) (at_ : Nat), s.now ≤ at_ ∧ s.prs.runScan = false ∧ s.prs.flipScan = true ∧ s.lnk.lflip = false) ∧
    (∃ (s : Machine.State), s.prs.runScan = false ∧ s.prs.flipScan = false) :=
  ⟨⟨(State.reset.put F.PRS_CTL_RUN 0), by decide⟩,
   ⟨{ State.reset with prs := { State.reset.prs with runScan := true } }, 0, by decide⟩,
   ⟨{ State.reset with prs := { State.reset.prs with runScan := false, flipScan := true }, lnk := { State.reset.lnk with lflip := false } }, 0, by
     decide⟩,
   ⟨{ State.reset with prs := { State.reset.prs with runScan := false, flipScan := false } }, by decide⟩⟩

theorem test_witness_SchedulerControls :
    (∃ (s : Machine.State) (f : Fin 8) (at_ : Nat), s.now ≤ at_ ∧ (s.facet ↑f).held = [] ∧ (s.facet ↑f).free ≤ at_ ∧ s.get F.PRS_MONCTL_ALARM = 0) ∧
    (∃ (s : Machine.State) (n : Fin 4), s.flag (F.PRS_TMR_EN ↑n) = true) ∧
    (∃ (s : Machine.State) (n : Fin 4), s.flag (F.PRS_TMR_EN ↑n) = false) :=
  ⟨⟨(State.reset.put F.PRS_MONCTL_ALARM 0), 0, 0, by decide⟩,
   ⟨(State.reset.put (F.PRS_TMR_EN 0) 1), 0, by decide⟩,
   ⟨(State.reset.put (F.PRS_TMR_EN 0) 0), 0, by decide⟩⟩

theorem test_witness_MoveAndLogicNodes :
    (∃ (s : Machine.State) (f : Fin 8) (at_ : Nat) (r : Ready), Issuable s (↑f) at_ 0 r ∧ nParam (headBits s r) = 0) ∧
    (∃ (s : Machine.State) (f : Fin 8) (at_ : Nat) (r : Ready), Issuable s (↑f) at_ 1 r ∧ (nParam (headBits s r) == 0) = true) ∧
    (∃ (s : Machine.State) (f : Fin 8) (at_ : Nat) (r : Ready), Issuable s (↑f) at_ 2 r ∧ true = true) ∧
    (∃ (s : Machine.State) (f : Fin 8) (at_ : Nat) (r : Ready), Issuable s (↑f) at_ 3 r ∧ true = true) ∧
    (∃ (s : Machine.State) (f : Fin 8) (at_ : Nat) (r : Ready), Issuable s (↑f) at_ 4 r ∧ true = true) ∧
    (∃ (s : Machine.State) (f : Fin 8) (at_ : Nat) (r : Ready), Issuable s (↑f) at_ 5 r ∧ decide (nParam (headBits s r) < 64) = true) ∧
    (∃ (s : Machine.State) (f : Fin 8) (at_ : Nat) (r : Ready), Issuable s (↑f) at_ 6 r ∧ decide (nParam (headBits s r) < 64) = true) ∧
    (∃ (s : Machine.State) (f : Fin 8) (at_ : Nat) (r : Ready), Issuable s (↑f) at_ 7 r ∧ decide (nParam (headBits s r) < 2) = true) ∧
    (∃ (s : Machine.State) (f : Fin 8) (at_ : Nat) (r : Ready), Issuable s (↑f) at_ 8 r ∧ decide (nParam (headBits s r) < 2) = true) ∧
    (∃ (s : Machine.State) (f : Fin 8) (at_ : Nat) (r : Ready), Issuable s (↑f) at_ 50 r ∧ (nParam (headBits s r) == 0) = true) ∧
    (∃ (s : Machine.State) (f : Fin 8) (at_ : Nat) (r : Ready), Issuable s (↑f) at_ 51 r ∧ (nParam (headBits s r) == 0) = true) ∧
    (∃ (s : Machine.State) (f : Fin 8) (at_ : Nat) (r : Ready), Issuable s (↑f) at_ 52 r ∧ (nParam (headBits s r) == 0) = true) ∧
    (∃ (s : Machine.State) (f : Fin 8) (at_ : Nat) (r : Ready), Issuable s (↑f) at_ 53 r ∧ decide (nParam (headBits s r) < 32) = true) ∧
    (∃ (s : Machine.State) (f : Fin 8) (at_ : Nat) (r : Ready), Issuable s (↑f) at_ 54 r ∧ decide (nParam (headBits s r) < 64) = true) ∧
    (∃ (s : Machine.State) (f : Fin 8) (at_ : Nat) (r : Ready), Issuable s (↑f) at_ 55 r ∧ decide (nParam (headBits s r) < 16 ∧ nParam (headBits s r)
      % 8 < 6) = true) ∧
    (∃ (s : Machine.State) (f : Fin 8) (at_ : Nat) (r : Ready), Issuable s (↑f) at_ 56 r ∧ (nParam (headBits s r) == 0) = true) :=
  ⟨⟨nodeAt 0 0 0x3FFE, 0, 0, headR, issues _ _ _ _ _ (by decide), by decide⟩,
   ⟨nodeAt 1 0 0x3FFE, 0, 0, headR, issues _ _ _ _ _ (by decide), by decide⟩,
   ⟨nodeAt 2 0xFFFFFFF 0x3FFE, 0, 0, headR, issues _ _ _ _ _ (by decide), by decide⟩,
   ⟨nodeAt 3 0x8000000 0x3FFE, 0, 0, headR, issues _ _ _ _ _ (by decide), by decide⟩,
   ⟨nodeAt 4 0xFFFFFFF 0x3FFE, 0, 0, headR, issues _ _ _ _ _ (by decide), by decide⟩,
   ⟨nodeAt 5 63 0x3FFE, 0, 0, headR, issues _ _ _ _ _ (by decide), by decide⟩,
   ⟨nodeAt 6 63 0x3FFE, 0, 0, headR, issues _ _ _ _ _ (by decide), by decide⟩,
   ⟨nodeAt 7 1 0x3FFE, 0, 0, headR, issues _ _ _ _ _ (by decide), by decide⟩,
   ⟨nodeAt 8 1 0x3FFE, 0, 0, headR, issues _ _ _ _ _ (by decide), by decide⟩,
   ⟨nodeAt 50 0 0x3FFE, 0, 0, headR, issues _ _ _ _ _ (by decide), by decide⟩,
   ⟨nodeAt 51 0 0x3FFE, 0, 0, headR, issues _ _ _ _ _ (by decide), by decide⟩,
   ⟨nodeAt 52 0 0x3FFE, 0, 0, headR, issues _ _ _ _ _ (by decide), by decide⟩,
   ⟨nodeAt 53 31 0x3FFE, 0, 0, headR, issues _ _ _ _ _ (by decide), by decide⟩,
   ⟨nodeAt 54 63 0x3FFE, 0, 0, headR, issues _ _ _ _ _ (by decide), by decide⟩,
   ⟨nodeAt 55 13 0x3FFE, 0, 0, headR, issues _ _ _ _ _ (by decide), by decide⟩,
   ⟨nodeAt 56 0 0x3FFE, 0, 0, headR, issues _ _ _ _ _ (by decide), by decide⟩⟩

theorem test_witness_FixedPointNodes :
    (∃ (s : Machine.State) (f : Fin 8) (at_ : Nat) (r : Ready), Issuable s (↑f) at_ 16 r ∧ (nParam (headBits s r) == 0) = true) ∧
    (∃ (s : Machine.State) (f : Fin 8) (at_ : Nat) (r : Ready), Issuable s (↑f) at_ 17 r ∧ (nParam (headBits s r) == 0) = true) ∧
    (∃ (s : Machine.State) (f : Fin 8) (at_ : Nat) (r : Ready), Issuable s (↑f) at_ 18 r ∧ (nParam (headBits s r) == 0) = true) ∧
    (∃ (s : Machine.State) (f : Fin 8) (at_ : Nat) (r : Ready), Issuable s (↑f) at_ 19 r ∧ (nParam (headBits s r) == 0) = true) ∧
    (∃ (s : Machine.State) (f : Fin 8) (at_ : Nat) (r : Ready), Issuable s (↑f) at_ 20 r ∧ (nParam (headBits s r) == 0) = true) ∧
    (∃ (s : Machine.State) (f : Fin 8) (at_ : Nat) (r : Ready), Issuable s (↑f) at_ 21 r ∧ (nParam (headBits s r) == 0) = true) ∧
    (∃ (s : Machine.State) (f : Fin 8) (at_ : Nat) (r : Ready), Issuable s (↑f) at_ 22 r ∧ decide (nParam (headBits s r) < 64 ∧ nParam (headBits s r)
      ≠ 32) = true) ∧
    (∃ (s : Machine.State) (f : Fin 8) (at_ : Nat) (r : Ready), Issuable s (↑f) at_ 23 r ∧ (nParam (headBits s r) == 0) = true) ∧
    (∃ (s : Machine.State) (f : Fin 8) (at_ : Nat) (r : Ready), Issuable s (↑f) at_ 24 r ∧ (nParam (headBits s r) == 0) = true) ∧
    (∃ (s : Machine.State) (f : Fin 8) (at_ : Nat) (r : Ready), Issuable s (↑f) at_ 25 r ∧ (nParam (headBits s r) == 0) = true) ∧
    (∃ (s : Machine.State) (f : Fin 8) (at_ : Nat) (r : Ready), Issuable s (↑f) at_ 26 r ∧ decide (nParam (headBits s r) < 6) = true) :=
  ⟨⟨nodeAt 16 0 0x3FFE, 0, 0, headR, issues _ _ _ _ _ (by decide), by decide⟩,
   ⟨nodeAt 17 0 0x3FFE, 0, 0, headR, issues _ _ _ _ _ (by decide), by decide⟩,
   ⟨nodeAt 18 0 0x3FFE, 0, 0, headR, issues _ _ _ _ _ (by decide), by decide⟩,
   ⟨nodeAt 19 0 0x3FFE, 0, 0, headR, issues _ _ _ _ _ (by decide), by decide⟩,
   ⟨nodeAt 20 0 0x3FFE, 0, 0, headR, issues _ _ _ _ _ (by decide), by decide⟩,
   ⟨nodeAt 21 0 0x3FFE, 0, 0, headR, issues _ _ _ _ _ (by decide), by decide⟩,
   ⟨nodeAt 22 63 0x3FFE, 0, 0, headR, issues _ _ _ _ _ (by decide), by decide⟩,
   ⟨nodeAt 23 0 0x3FFE, 0, 0, headR, issues _ _ _ _ _ (by decide), by decide⟩,
   ⟨nodeAt 24 0 0x3FFE, 0, 0, headR, issues _ _ _ _ _ (by decide), by decide⟩,
   ⟨nodeAt 25 0 0x3FFE, 0, 0, headR, issues _ _ _ _ _ (by decide), by decide⟩,
   ⟨nodeAt 26 5 0x3FFE, 0, 0, headR, issues _ _ _ _ _ (by decide), by decide⟩⟩

theorem test_witness_FloatingPointNodes :
    (∃ (s : Machine.State) (f : Fin 8) (at_ : Nat) (r : Ready), Issuable s (↑f) at_ 32 r ∧ (nParam (headBits s r) == 0) = true) ∧
    (∃ (s : Machine.State) (f : Fin 8) (at_ : Nat) (r : Ready), Issuable s (↑f) at_ 33 r ∧ (nParam (headBits s r) == 0) = true) ∧
    (∃ (s : Machine.State) (f : Fin 8) (at_ : Nat) (r : Ready), Issuable s (↑f) at_ 34 r ∧ (nParam (headBits s r) == 0) = true) ∧
    (∃ (s : Machine.State) (f : Fin 8) (at_ : Nat) (r : Ready), Issuable s (↑f) at_ 35 r ∧ (nParam (headBits s r) == 0) = true) ∧
    (∃ (s : Machine.State) (f : Fin 8) (at_ : Nat) (r : Ready), Issuable s (↑f) at_ 36 r ∧ (nParam (headBits s r) == 0) = true) ∧
    (∃ (s : Machine.State) (f : Fin 8) (at_ : Nat) (r : Ready), Issuable s (↑f) at_ 37 r ∧ (nParam (headBits s r) == 0) = true) ∧
    (∃ (s : Machine.State) (f : Fin 8) (at_ : Nat) (r : Ready), Issuable s (↑f) at_ 38 r ∧ (nParam (headBits s r) == 0) = true) ∧
    (∃ (s : Machine.State) (f : Fin 8) (at_ : Nat) (r : Ready), Issuable s (↑f) at_ 39 r ∧ (nParam (headBits s r) == 0) = true) ∧
    (∃ (s : Machine.State) (f : Fin 8) (at_ : Nat) (r : Ready), Issuable s (↑f) at_ 40 r ∧ (nParam (headBits s r) == 0) = true) ∧
    (∃ (s : Machine.State) (f : Fin 8) (at_ : Nat) (r : Ready), Issuable s (↑f) at_ 41 r ∧ (nParam (headBits s r) == 0) = true) ∧
    (∃ (s : Machine.State) (f : Fin 8) (at_ : Nat) (r : Ready), Issuable s (↑f) at_ 42 r ∧ (nParam (headBits s r) == 0) = true) ∧
    (∃ (s : Machine.State) (f : Fin 8) (at_ : Nat) (r : Ready), Issuable s (↑f) at_ 43 r ∧ decide (nParam (headBits s r) < 6) = true) ∧
    (∃ (s : Machine.State) (f : Fin 8) (at_ : Nat) (r : Ready), Issuable s (↑f) at_ 44 r ∧ Fits 2 (headBits s r)) :=
  ⟨⟨nodeAt 32 0 0x3FFE, 0, 0, headR, issues _ _ _ _ _ (by decide), by decide⟩,
   ⟨nodeAt 33 0 0x3FFE, 0, 0, headR, issues _ _ _ _ _ (by decide), by decide⟩,
   ⟨nodeAt 34 0 0x3FFE, 0, 0, headR, issues _ _ _ _ _ (by decide), by decide⟩,
   ⟨nodeAt 35 0 0x3FFE, 0, 0, headR, issues _ _ _ _ _ (by decide), by decide⟩,
   ⟨nodeAt 36 0 0x3FFE, 0, 0, headR, issues _ _ _ _ _ (by decide), by decide⟩,
   ⟨nodeAt 37 0 0x3FFE, 0, 0, headR, issues _ _ _ _ _ (by decide), by decide⟩,
   ⟨nodeAt 38 0 0x3FFE, 0, 0, headR, issues _ _ _ _ _ (by decide), by decide⟩,
   ⟨nodeAt 39 0 0x3FFE, 0, 0, headR, issues _ _ _ _ _ (by decide), by decide⟩,
   ⟨nodeAt 40 0 0x3FFE, 0, 0, headR, issues _ _ _ _ _ (by decide), by decide⟩,
   ⟨nodeAt 41 0 0x3FFE, 0, 0, headR, issues _ _ _ _ _ (by decide), by decide⟩,
   ⟨nodeAt 42 0 0x3FFE, 0, 0, headR, issues _ _ _ _ _ (by decide), by decide⟩,
   ⟨nodeAt 43 5 0x3FFE, 0, 0, headR, issues _ _ _ _ _ (by decide), by decide⟩,
   ⟨nodeAt 44 0 0x3FFE, 0, 0, headR, issues _ _ _ _ _ (by decide), by unfold Fits; decide⟩⟩

theorem test_witness_IntegersWrap :
    (∃ (s : Machine.State) (f : Fin 8) (at_ : Nat) (r : Ready), Issuable s (↑f) at_ 48 r ∧ nParam (headBits s r) = 0) ∧
    (∃ (s : Machine.State) (f : Fin 8) (at_ : Nat) (r : Ready), Issuable s (↑f) at_ 49 r ∧ nParam (headBits s r) = 0) ∧
    (∃ (s : Machine.State) (f : Fin 8) (at_ : Nat) (r : Ready), Issuable s (↑f) at_ 53 r ∧ nParam (headBits s r) < 32) ∧
    (∃ (s : Machine.State) (f : Fin 8) (at_ : Nat) (r : Ready) (e : (Fin 8 → Nat → Instr) × Nat × Nat), e ∈ [(Instr.iadd, 48, 1), (Instr.isub, 49, 1),
      (Instr.and, 50, 1), (Instr.or, 51, 1), (Instr.xor, 52, 1), (Instr.ishl, 53, 32), (Instr.ishr, 54, 64), (Instr.icmp, 55, 6), (Instr.sel, 56, 1)]
      ∧ Issuable s (↑f) at_ e.snd.fst r ∧ nParam (headBits s r) < e.snd.snd ∧ nSucc (headBits s r) 0 = 16383 ∧ nSucc (headBits s r) 1 = 16383) :=
  ⟨⟨nodeAt 48 0 0x3FFE, 0, 0, headR, issues _ _ _ _ _ (by decide), by decide⟩,
   ⟨nodeAt 49 0 0x3FFE, 0, 0, headR, issues _ _ _ _ _ (by decide), by decide⟩,
   ⟨nodeAt 53 31 0x3FFE, 0, 0, headR, issues _ _ _ _ _ (by decide), by decide⟩,
   ⟨nodeAt 50 0 40, 0, 0, headR, (Instr.and, 50, 1), by simp, issues _ _ _ _ _ (by decide), by decide⟩⟩

theorem test_witness_TransformNodes :
    (∃ (s : Machine.State) (f : Fin 8) (at_ : Nat) (r : Ready), Issuable s (↑f) at_ 64 r ∧ Fits 2 (headBits s r)) ∧
    (∃ (s : Machine.State) (f : Fin 8) (at_ : Nat) (r : Ready), Issuable s (↑f) at_ 65 r ∧ Fits 2 (headBits s r)) ∧
    (∃ (s : Machine.State) (f : Fin 8) (at_ : Nat) (r : Ready), Issuable s (↑f) at_ 66 r ∧ Fits 2 (headBits s r)) ∧
    (∃ (s : Machine.State) (f : Fin 8) (at_ : Nat) (r : Ready), Issuable s (↑f) at_ 67 r ∧ 64 ≤ nParam (headBits s r) ∧ nParam (headBits s r) ≤ 128 ∧
      nDst (headBits s r) + 3 ≤ 16384) ∧
    (∃ (s : Machine.State) (f : Fin 8) (at_ : Nat) (r : Ready), Issuable s (↑f) at_ 68 r ∧ Fits 2 (headBits s r)) :=
  ⟨⟨nodeAt 64 0 0x3FFE, 0, 0, headR, issues _ _ _ _ _ (by decide), by unfold Fits; decide +kernel⟩,
   ⟨nodeAt 65 0 0x3FFE, 0, 0, headR, issues _ _ _ _ _ (by decide), by unfold Fits; decide +kernel⟩,
   ⟨nodeAt 66 0 0x3FFE, 0, 0, headR, issues _ _ _ _ _ (by decide), by unfold Fits; decide +kernel⟩,
   ⟨nodeAt 67 128 0x3FFD, 0, 0, headR, issues _ _ _ _ _ (by decide), by decide +kernel⟩,
   ⟨nodeAt 68 0 0x3FFE, 0, 0, headR, issues _ _ _ _ _ (by decide), by unfold Fits; decide +kernel⟩⟩

theorem test_witness_ControllerNodes :
    (∃ (s : Machine.State) (f : Fin 8) (at_ : Nat) (r : Ready), Issuable s (↑f) at_ 69 r ∧ Fits 1 (headBits s r) ∧ nSrc (headBits s r) 2 ≠ nDst
      (headBits s r) ∧ nSrc (headBits s r) 1 + 4 ≤ 16384 ∧ allFin (src s (headBits s r) 0 0 :: src s (headBits s r) 2 0 :: srcs s (headBits s r) 1 4)
      = true ∧ evLt (ev (src s (headBits s r) 1 3)) (ev (src s (headBits s r) 1 2)) = false) ∧
    (∃ (s : Machine.State) (f : Fin 8) (at_ : Nat) (r : Ready), Issuable s (↑f) at_ 69 r ∧ Fits 1 (headBits s r) ∧ evLt (ev (src s (headBits s r) 1
      3)) (ev (src s (headBits s r) 1 2)) = true) ∧
    (∃ (s : Machine.State) (f : Fin 8) (at_ : Nat) (r : Ready), Issuable s (↑f) at_ 70 r ∧ Fits 1 (headBits s r) ∧ nSrc (headBits s r) 1 + 5 ≤ 16384 ∧
      nSrc (headBits s r) 2 + 2 ≤ 16384 ∧ nDst (headBits s r) ≠ nSrc (headBits s r) 2 ∧ nDst (headBits s r) ≠ nSrc (headBits s r) 2 + 1 ∧ allFin (src
      s (headBits s r) 0 0 :: (srcs s (headBits s r) 1 5 ++ srcs s (headBits s r) 2 2)) = true) ∧
    (∃ (s : Machine.State) (f : Fin 8) (at_ : Nat) (r : Ready), Issuable s (↑f) at_ 71 r ∧ (nParam (headBits s r) < 8 ∧ nDst (headBits s r) + 4 ≤
      16384 ∧ allFin (srcs s (headBits s r) 0 4 ++ srcs s (headBits s r) 1 (4 * mvRows (headBits s r)) ++ if nParam (headBits s r) % 2 = 1 then srcs s
      (headBits s r) 2 (mvRows (headBits s r)) else []) = true)) ∧
    (∃ (s : Machine.State) (f : Fin 8) (at_ : Nat) (r : Ready), Issuable s (↑f) at_ 72 r ∧ Fits 1 (headBits s r) ∧ tintOk s (headBits s r) = true ∧
      fpFinite (src s (headBits s r) 1 (3 + tintJ s (headBits s r))) = true ∧ fpFinite (src s (headBits s r) 1 (4 + tintJ s (headBits s r))) = true) ∧
    (∃ (s : Machine.State) (f : Fin 8) (at_ : Nat) (r : Ready), Issuable s (↑f) at_ 72 r ∧ Fits 1 (headBits s r) ∧ tintOk s (headBits s r) = false) ∧
    (∃ (s : Machine.State) (f : Fin 8) (at_ : Nat) (r : Ready), Issuable s (↑f) at_ 73 r ∧ nParam (headBits s r) < 2 ∧ nDst (headBits s r) + 2 ≤ 16384
      ∧ nSrc (headBits s r) 2 + 14 ≤ 16384 ∧ nDst (headBits s r) + 1 < nSrc (headBits s r) 2 + 12 ∧ allFin ((if nParam (headBits s r) = 0 then srcs s
      (headBits s r) 0 2 else []) ++ srcs s (headBits s r) 1 2 ++ srcs s (headBits s r) 2 14) = true) ∧
    (∃ (s : Machine.State) (f : Fin 8) (at_ : Nat) (r : Ready), Issuable s (↑f) at_ 74 r ∧ nParam (headBits s r) < 16 ∧ nDst (headBits s r) + 2 ≤
      16384 ∧ allFin (srcs s (headBits s r) 0 (nParam (headBits s r) + 1)) = true) ∧
    (∃ (s : Machine.State) (f : Fin 8) (at_ : Nat) (r : Ready), Issuable s (↑f) at_ 75 r ∧ Fits 1 (headBits s r) ∧ nSrc (headBits s r) 2 ≠ nDst
      (headBits s r) ∧ allFin [(ev (src s (headBits s r) 0 0)).w, (ev (src s (headBits s r) 1 0)).w, (ev (src s (headBits s r) 2 0)).w] = true ∧ evLt
      (ev (src s (headBits s r) 1 0)) evZ = false) ∧
    (∃ (s : Machine.State) (f : Fin 8) (at_ : Nat) (r : Ready), Issuable s (↑f) at_ 75 r ∧ Fits 1 (headBits s r) ∧ allFin [(ev (src s (headBits s r) 0
      0)).w, (ev (src s (headBits s r) 1 0)).w, (ev (src s (headBits s r) 2 0)).w] = true ∧ evLt (ev (src s (headBits s r) 1 0)) evZ = true) ∧
    (∃ (s : Machine.State) (f : Fin 8) (at_ : Nat) (r : Ready), Issuable s (↑f) at_ 76 r ∧ nParam (headBits s r) < 2 ∧ nDst (headBits s r) + 2 ≤ 16384
      ∧ allFin [(ev (src s (headBits s r) 0 0)).w, (ev (src s (headBits s r) 0 1)).w, (ev (src s (headBits s r) 1 0)).w] = true) :=
  ⟨⟨nodeAt 69 0 40, 0, 0, headR, issues _ _ _ _ _ (by decide), by unfold Fits; decide +kernel⟩,
   ⟨((nodeAt 69 0 40).setOperand 10 0x3F800000), 0, 0, headR, issues _ _ _ _ _ (by decide), by unfold Fits; decide +kernel⟩,
   ⟨nodeAt 70 0 40, 0, 0, headR, issues _ _ _ _ _ (by decide), by unfold Fits; decide +kernel⟩,
   ⟨nodeAt 71 6 0x3FFC, 0, 0, headR, issues _ _ _ _ _ (by decide), by decide +kernel⟩,
   ⟨((nodeAt 72 0 40).setOperand 10 2), 0, 0, headR, issues _ _ _ _ _ (by decide), by unfold Fits; decide +kernel⟩,
   ⟨nodeAt 72 0 40, 0, 0, headR, issues _ _ _ _ _ (by decide), by unfold Fits; decide +kernel⟩,
   ⟨nodeAt 73 1 40, 0, 0, headR, issues _ _ _ _ _ (by decide), by decide +kernel⟩,
   ⟨nodeAt 74 15 0x3FFE, 0, 0, headR, issues _ _ _ _ _ (by decide), by decide +kernel⟩,
   ⟨nodeAt 75 0 40, 0, 0, headR, issues _ _ _ _ _ (by decide), by unfold Fits; decide +kernel⟩,
   ⟨((nodeAt 75 0 0x3FFE).setOperand 8 0xBF800000), 0, 0, headR, issues _ _ _ _ _ (by decide), by unfold Fits; decide +kernel⟩,
   ⟨nodeAt 76 1 0x3FFE, 0, 0, headR, issues _ _ _ _ _ (by decide), by decide +kernel⟩⟩

theorem test_witness_TimeStampNode :
    ∃ (s : Machine.State) (f : Fin 8) (at_ : Nat) (r : Ready), Issuable s (↑f) at_ 85 r ∧ nParam (headBits s r) = 0 ∧ dRun s = true :=
  ⟨{ nodeAt 85 0 40 with pwr := { State.reset.pwr with seq := .done } }, 0, 0, headR, issues _ _ _ _ _ (by decide), by decide⟩

theorem test_witness_DeviceNodes :
    (∃ (s : Machine.State) (f : Fin 8) (at_ : Nat) (r : Ready), Issuable s (↑f) at_ 80 r ∧ (nParam (headBits s r) < 384 ∧ adSh (nParam (headBits s r))
      + adN (nParam (headBits s r)) ≤ 4 ∧ nDst (headBits s r) + 5 ≤ 16384 ∧ (256 ≤ nParam (headBits s r) → allFin (src s (headBits s r) 0 0 :: srcs s
      (headBits s r) 1 (adN (nParam (headBits s r)))) = true))) ∧
    (∃ (s : Machine.State) (f : Fin 8) (at_ : Nat) (r : Ready), Issuable s (↑f) at_ 81 r ∧ nParam (headBits s r) < 128 ∧ nParam (headBits s r) / 8 % 8
      ≠ 0 ∧ s.bit (F.MIR_FGRP_GRP ↑f) (nParam (headBits s r) % 8) = true) ∧
    (∃ (s : Machine.State) (f : Fin 8) (at_ : Nat) (r : Ready), Issuable s (↑f) at_ 81 r ∧ nParam (headBits s r) < 128 ∧ nParam (headBits s r) / 8 % 8
      ≠ 0 ∧ s.bit (F.MIR_FGRP_GRP ↑f) (nParam (headBits s r) % 8) = false ∧ s.mode ≠ Mode.standby) ∧
    (∃ (s : Machine.State) (f : Fin 8) (at_ : Nat) (r : Ready), Issuable s (↑f) at_ 81 r ∧ nParam (headBits s r) < 128 ∧ nParam (headBits s r) / 8 % 8
      ≠ 0 ∧ s.mode = Mode.standby) ∧
    (∃ (s : Machine.State) (f : Fin 8) (at_ : Nat) (r : Ready), Issuable s (↑f) at_ 82 r ∧ nParam (headBits s r) < 8 ∧ nDst (headBits s r) + 4 ≤
      16384) ∧
    (∃ (s : Machine.State) (f : Fin 8) (at_ : Nat) (r : Ready), Issuable s (↑f) at_ 83 r ∧ nParam (headBits s r) < 32) ∧
    (∃ (s : Machine.State) (f : Fin 8) (at_ : Nat) (r : Ready), Issuable s (↑f) at_ 84 r ∧ nParam (headBits s r) < 32) :=
  ⟨⟨nodeAt 80 4 0x3FFB, 0, 0, headR, issues _ _ _ _ _ (by decide), by decide⟩,
   ⟨(nodeAt 81 0x3F 40).putBit (F.MIR_FGRP_GRP 0) 7 true, 0, 0, headR, issues _ _ _ _ _ (by decide), by decide⟩,
   ⟨(nodeAt 81 0x3F 40).putBit (F.MIR_FGRP_GRP 0) 7 false, 0, 0, headR, issues _ _ _ _ _ (by decide), by decide⟩,
   ⟨{ nodeAt 81 0x3F 40 with mode := .standby }, 0, 0, headR, issues _ _ _ _ _ (by decide), by decide⟩,
   ⟨nodeAt 82 7 0x3FFC, 0, 0, headR, issues _ _ _ _ _ (by decide), by decide⟩,
   ⟨nodeAt 83 31 0x3FFE, 0, 0, headR, issues _ _ _ _ _ (by decide), by decide⟩,
   ⟨nodeAt 84 31 0x3FFE, 0, 0, headR, issues _ _ _ _ _ (by decide), by decide⟩⟩

theorem test_witness_NodeExceptions :
    (∃ (s : Machine.State) (f : Fin 8) (at_ : Nat) (opc : Nat) (r : Ready), s.flag F.PRS_NEXC_VALID = false ∧ Issuable s (↑f) at_ opc r ∧ ¬opc ∈
      opcodes) ∧
    (∃ (s : Machine.State) (f : Fin 8) (at_ : Nat) (r : Ready), s.flag F.PRS_NEXC_VALID = false ∧ Issuable s (↑f) at_ 48 r ∧ nParam (headBits s r) ≠
      0) ∧
    (∃ (s : Machine.State) (f : Fin 8) (at_ : Nat) (r : Ready), s.flag F.PRS_NEXC_VALID = false ∧ Issuable s (↑f) at_ 85 r ∧ nParam (headBits s r) ≠
      0) ∧
    (∃ (s : Machine.State) (f : Fin 8) (at_ : Nat) (r : Ready), s.flag F.PRS_NEXC_VALID = false ∧ Issuable s (↑f) at_ 32 r ∧ nParam (headBits s r) = 0
      ∧ fpFinite (src s (headBits s r) 0 0) = false ∧ nSucc (headBits s r) 0 = 16383 ∧ nSucc (headBits s r) 1 = 16383) ∧
    (∃ (s : Machine.State) (f : Fin 8) (at_ : Nat) (r : Ready), s.flag F.PRS_NEXC_VALID = false ∧ Issuable s (↑f) at_ 38 r ∧ nParam (headBits s r) = 0
      ∧ nSucc (headBits s r) 0 = 16383 ∧ nSucc (headBits s r) 1 = 16383 ∧ allFin [src s (headBits s r) 0 0, src s (headBits s r) 1 0] = true ∧ evZero
      (ev (src s (headBits s r) 0 0)) = false ∧ evZero (ev (src s (headBits s r) 1 0)) = true) :=
  ⟨⟨nodeAt 255 0 0x3FFE, 0, 0, 255, headR, by decide, issues _ _ _ _ _ (by decide), by decide⟩,
   ⟨nodeAt 48 1 40, 0, 0, headR, by decide, issues _ _ _ _ _ (by decide), by decide⟩,
   ⟨nodeAt 85 1 40, 0, 0, headR, by decide, issues _ _ _ _ _ (by decide), by decide⟩,
   ⟨((nodeAt 32 0 40).setOperand 0 0x7F800000), 0, 0, headR, by decide, issues _ _ _ _ _ (by decide), by decide⟩,
   ⟨((nodeAt 38 0 40).setOperand 0 0x3F800000), 0, 0, headR, by decide, issues _ _ _ _ _ (by decide), by decide⟩⟩

theorem test_witness_NodeCompletes :
    (∃ (s : Machine.State) (f : Fin 8) (node : BitVec 14) (at_ : Nat) (fl : Flight) (i : Nat) (v : Word), (∀ (a : Nat), s.errs a = 0) ∧ s.now ≤ at_ ∧
      injDue s 128 = none ∧ (List.find? (fun k => k.facet == ↑f && k.node == node.toNat) s.prs.flights = some fl) ∧ fl.writes = [(i, v)] ∧ i ≤ 16383 ∧
      fl.duties = [] ∧ fl.flag = none ∧ fl.trace = none ∧ cycleWords s (fl.done - 1) = []) ∧
    (∃ (s : Machine.State) (f : Fin 8) (node : BitVec 14) (at_ : Nat) (fl : Flight) (k : Nat) (d : Word), (∀ (a : Nat), s.errs a = 0) ∧ s.now ≤ at_ ∧
      injDue s 128 = none ∧ (List.find? (fun k => k.facet == ↑f && k.node == node.toNat) s.prs.flights = some fl) ∧ fl.duties = [(k, d)] ∧ fl.writes =
      [] ∧ fl.flag = none ∧ fl.trace = none ∧ k < 24 ∧ s.mode ≠ Mode.standby ∧ (s.leg k).dutyAt ≠ some (fl.done - 1)) ∧
    (∃ (s : Machine.State) (f : Fin 8) (node : BitVec 14) (at_ : Nat) (fl : Flight) (k : Nat), (∀ (a : Nat), s.errs a = 0) ∧ s.now ≤ at_ ∧ injDue s
      128 = none ∧ (List.find? (fun k => k.facet == ↑f && k.node == node.toNat) s.prs.flights = some fl) ∧ fl.flag = some k ∧ fl.writes = [] ∧
      fl.duties = [] ∧ fl.trace = none ∧ k < 32) :=
  ⟨⟨{ State.reset with prs := { flights := [{ facet := 0, id := 5, flow := 0, node := 7, half := false, done := 4, grp := 0, quiet := false, succ := [], writes := [(0x3FFF, 5)], duties := [] }] } },
     0, 7, 0,
     { facet := 0, id := 5, flow := 0, node := 7, half := false, done := 4, grp := 0, quiet := false, succ := [], writes := [(0x3FFF, 5)], duties := [] },
     0x3FFF, 5, noErr _ rfl, by decide⟩,
   ⟨{ State.reset with prs := { flights := [{ facet := 0, id := 5, flow := 0, node := 7, half := false, done := 4, grp := 0, quiet := false, succ := [], writes := [], duties := [(23, 5)] }] } },
     0, 7, 0,
     { facet := 0, id := 5, flow := 0, node := 7, half := false, done := 4, grp := 0, quiet := false, succ := [], writes := [], duties := [(23, 5)] },
     23, 5, noErr _ rfl, by decide⟩,
   ⟨{ State.reset with prs := { flights := [{ facet := 0, id := 5, flow := 0, node := 7, half := false, done := 4, grp := 0, quiet := false, succ := [], writes := [], duties := [], flag := some 31 }] } },
     0, 7, 0,
     { facet := 0, id := 5, flow := 0, node := 7, half := false, done := 4, grp := 0, quiet := false, succ := [], writes := [], duties := [], flag := some 31 },
     31, noErr _ rfl, by decide⟩⟩

theorem test_witness_CapturesAndConversions :
    (∃ (s : Machine.State) (b : Fin 4), s.flag F.CLK_GATE_LUP = true ∧ s.flag (F.LUP_STAT_RUN ↑b) = false ∧ lupChans s ↑b ≠ [] ∧ s.get (F.LUP_PRE_PRE
      ↑b) < lupCap s ↑b ∧ 536870912 ≤ lupBase s ↑b ∧ lupBase s ↑b + 16384 ≤ 541065216) ∧
    (∃ (s : Machine.State) (b : Fin 4), s.flag F.CLK_GATE_LUP = true ∧ s.flag (F.LUP_STAT_RUN ↑b) = false ∧ (lupChans s ↑b = [] ∨ lupCap s ↑b ≤ s.get
      (F.LUP_PRE_PRE ↑b))) ∧
    (∃ (s : Machine.State) (b : Fin 4), s.flag F.CLK_GATE_LUP = true ∧ s.flag (F.LUP_STAT_RUN ↑b) = true ∧ s.get (F.LUP_PRE_PRE ↑b) ≤ (s.loupe
      ↑b).taken) ∧
    (∃ (s : Machine.State) (k : Fin 8) (q : AdcSeq), (s.conv ↑k).busy = some q ∧ s.flag F.SYS_BRGSTAT_UP = true) ∧
    (∃ (s : Machine.State) (k : Fin 8) (at_ : Nat), s.flag (F.ADC_SEQCFG_BGSC ↑k) = false ∧ s.flag (F.ADC_SEQCFG_BGDC ↑k) = true ∧ slotBlocked s (↑k)
      (at_ * 64 / 3 + 640) = false) ∧
    (∃ (s : Machine.State) (k : Fin 8) (at_ : Nat), s.flag (F.ADC_SEQCFG_BGSC ↑k) = false ∧ s.flag (F.ADC_SEQCFG_BGDC ↑k) = true ∧ slotBlocked s (↑k)
      (at_ * 64 / 3 + 640) = true) ∧
    (∃ (s : Machine.State) (k : Fin 8), BridgeIdle s ∧ (s.grp ↑k).gate = Gate.off) ∧
    (∃ (s : Machine.State) (k : Fin 8), BridgeIdle s ∧ (s.grp ↑k).gate ≠ Gate.off) ∧
    (∃ (s : Machine.State) (k : Fin 8) (at_ : Nat), s.flag (F.ADC_ZXCFG_EN ↑k) = true ∧ (s.grp ↑k).gate = Gate.off ∧ stepOn s 8 ↑k = false ∧
      (speedEdge (↑k) at_ (advanceTo at_ s)).flag (F.ADC_ZXCFG_EN ↑k) = true ∧ (s.conv ↑k).edges = []) ∧
    (∃ (s : Machine.State) (k : Fin 8) (code : Fin 6) (at_ : Nat) (c0 : Nat) (t0 : Nat), s.flag (F.ADC_ZXCFG_EN ↑k) = true ∧ (s.grp ↑k).gate =
      Gate.off ∧ stepOn s 8 ↑k = false ∧ (speedEdge (↑k) at_ (advanceTo at_ s)).flag (F.ADC_ZXCFG_EN ↑k) = true ∧ (s.conv ↑k).edges = [(c0, t0)] ∧
      (↑code = (c0 + 1) % 6 ∨ ↑code = (c0 + 5) % 6) ∧ c0 < 6) ∧
    (∃ (s : Machine.State) (k : Fin 8) (code : Fin 6) (at_ : Nat) (c0 : Nat) (c1 : Nat) (t0 : Nat) (t1 : Nat) (now : Nat) (i0 : Nat) (i1 : Nat) (up :
      Bool), s.flag (F.ADC_ZXCFG_EN ↑k) = true ∧ (s.grp ↑k).gate = Gate.off ∧ stepOn s 8 ↑k = false ∧ (speedEdge (↑k) at_ (advanceTo at_ s)).flag
      (F.ADC_ZXCFG_EN ↑k) = true ∧ (s.conv ↑k).edges = [(c1, t1), (c0, t0)] ∧ c0 < 6 ∧ t0 < 2 ^ 32 ∧ t1 < 2 ^ 32 ∧ c1 = (if up = true then c0 + 1 else
      c0 + 5) % 6 ∧ ↑code = (if up = true then c1 + 1 else c1 + 5) % 6 ∧ now = mtime (advanceTo at_ s) % 2 ^ 32 ∧ i0 = (now + 2 ^ 32 - t1) % 2 ^ 32 ∧
      i1 = (t1 + 2 ^ 32 - t0) % 2 ^ 32 ∧ 4 * i1 ≤ 5 * i0 ∧ 4 * i0 ≤ 5 * i1) ∧
    (∃ (s : Machine.State) (k : Fin 8), stepOn s 8 ↑k = true) :=
  ⟨⟨((State.reset.put (F.LUP_CH_MODE 0 0) 1).put (F.LUP_BASE_BASE 0) 0x8000), 0, by decide⟩,
   ⟨((State.reset.put F.CLK_GATE_LUP 1).put (F.LUP_STAT_RUN 0) 0), 0, by decide⟩,
   ⟨((State.reset.put F.CLK_GATE_LUP 1).put (F.LUP_STAT_RUN 0) 1), 0, by decide⟩,
   ⟨{ (State.reset.put F.SYS_BRGSTAT_UP 1) with adc := [(0, { busy := some { codes := [1, 2, 3, 4], conv := 7, seq := 9 } })] }, 0,
     { codes := [1, 2, 3, 4], conv := 7, seq := 9 }, by decide⟩,
   ⟨((State.reset.put (F.ADC_SEQCFG_BGSC 0) 0).put (F.ADC_SEQCFG_BGDC 0) 1), 0, 0, by decide⟩,
   ⟨{ (State.reset.put (F.ADC_SEQCFG_BGDC 0) 1) with adc := [(0, { inst := some 700 })] }, 0, 0, by decide⟩,
   ⟨(State.reset.put F.SYS_BRGSTAT_UP 1), 0, by unfold BridgeIdle; decide⟩,
   ⟨{ (State.reset.put F.SYS_BRGSTAT_UP 1) with hgrp := [(0, { gate := .pass })] }, 0, by unfold BridgeIdle; decide⟩,
   ⟨(State.reset.put (F.ADC_ZXCFG_EN 0) 1), 0, 0, by decide⟩,
   ⟨{ (State.reset.put (F.ADC_ZXCFG_EN 0) 1) with adc := [(0, { edges := [(5, 0)] })] }, 0, 0, 0, 5, 0, by decide⟩,
   ⟨{ ((State.reset.put (F.ADC_ZXCFG_EN 0) 1).setReg (R.CPT_MTIME 0) 2000) with adc := [(0, { edges := [(1, 1000), (0, 0)] })] }, 0, 2, 0, 0, 1, 0,
     1000, 2000, 1000, 1000, true, by decide⟩,
   ⟨{ State.reset with bist := { step := true, stepNo := 8 } }, 0, by decide⟩⟩

theorem test_witness_PatternGenerators :
    (∃ (s : Machine.State) (g : Fin 8) (at_ : Nat), s.flag (F.PWM_GSTAT_RUN ↑g) = true ∧ s.now ≤ at_) ∧
    (∃ (s : Machine.State) (g : Fin 8), s.flag (F.PWM_GSTAT_RUN ↑g) = false) ∧
    (∃ (s : Machine.State) (k : Fin 24) (v : Word), (s.leg ↑k).dutyBy ≤ 8 ∧ fpFinite v = true) ∧
    (∃ (s : Machine.State) (k : Fin 24) (v : Word), (s.leg ↑k).dutyBy ≤ 8 ∧ fpFinite v = false) ∧
    (∃ (s : Machine.State) (g : Fin 8) (taps : Fin 65), injDue s (86 + ↑g) = none ∧ 32 ≤ ↑taps ∧ ↑taps ≤ 63) ∧
    (∃ (s : Machine.State) (g : Fin 8) (taps : Fin 65), injDue s (86 + ↑g) = none ∧ (↑taps < 32 ∨ 63 < ↑taps) ∧ (s.pg ↑g).tapsBad = false) ∧
    (∃ (s : Machine.State) (g : Fin 8) (synci : Nat) (rf : Int), syncReference s (↑g) synci = some rf ∧ syncOn s ↑g = true) ∧
    (∃ (s : Machine.State), s.flag F.LNK_STAT_TOKEN = false) ∧
    (∃ (s : Machine.State) (k : Fin 24) (high : Bool) (level : Bool) (e : Edge), (List.find? (fun e => e.high == high && e.level == level) (s.leg
      ↑k).edges = some e) ∧ (s.pg (↑k / 3)).frozen = false) :=
  ⟨⟨(State.reset.put (F.PWM_GSTAT_RUN 0) 1), 0, 0, by decide⟩,
   ⟨(State.reset.put (F.PWM_GSTAT_RUN 0) 0), 0, by decide⟩,
   ⟨State.reset, 0, 0, by decide⟩,
   ⟨State.reset, 0, 0x7F800000, by decide⟩,
   ⟨State.reset, 0, 63, by decide⟩,
   ⟨State.reset, 0, 0, by decide⟩,
   ⟨(((State.reset.put (F.PWM_GCFG_EN 0) 1).put (F.PWM_GSTAT_RUN 0) 1).put (F.PWM_GCFG_SYNC 0) 1), 0, 0, 0, by decide⟩,
   ⟨(State.reset.put F.LNK_STAT_TOKEN 0), by decide⟩,
   ⟨{ State.reset with legs := [(0, { edges := [{ time := 4, high := true, level := true }] })] }, 0, true, true,
     { time := 4, high := true, level := true }, by decide⟩⟩

theorem test_witness_FaultInputs :
    (∃ (s : Machine.State) (m : Fin 6) (level : Bool) (n : Nat), level = s.flag (F.PWM_FLTCFG_POL ↑m) ∧ s.get (F.PWM_FLTCFG_FILT ↑m) < n ∧ s.bit
      F.PWM_TRIP_ACT ↑m = false ∧ s.flag (F.PWM_FLTCFG_EN ↑m) = true) ∧
    (∃ (s : Machine.State) (m : Fin 6) (level : Bool) (n : Nat), level = s.flag (F.PWM_FLTCFG_POL ↑m) ∧ s.get (F.PWM_FLTCFG_FILT ↑m) < n ∧ s.bit
      F.PWM_TRIP_ACT ↑m = false ∧ s.flag (F.PWM_FLTCFG_EN ↑m) = false) ∧
    (∃ (s : Machine.State) (m : Fin 6) (level : Bool) (n : Nat), level ≠ s.flag (F.PWM_FLTCFG_POL ↑m) ∧ s.get (F.PWM_FLTCFG_FILT ↑m) < n) ∧
    (∃ (s : Machine.State) (m : Fin 6), s.bit F.PWM_TRIP_TRIP ↑m = false) ∧
    (∃ (s : Machine.State) (m : Fin 6), s.bit F.PWM_TRIP_TRIP ↑m = true) ∧
    (∃ (s : Machine.State) (m : Fin 6) (level : Bool) (n : Nat), level = s.flag (F.PWM_FLTCFG_POL ↑m) ∧ n ≤ s.get (F.PWM_FLTCFG_FILT ↑m)) :=
  ⟨⟨((State.reset.put (F.PWM_FLTCFG_EN 0) 1).put (F.PWM_FLTCFG_POL 0) 1), 0, true, 64, by decide⟩,
   ⟨((State.reset.put (F.PWM_FLTCFG_EN 0) 0).put (F.PWM_FLTCFG_POL 0) 1), 0, true, 64, by decide⟩,
   ⟨(State.reset.put (F.PWM_FLTCFG_POL 0) 1), 0, false, 64, by decide⟩,
   ⟨(State.reset.putBit F.PWM_TRIP_TRIP 0 false), 0, by decide⟩,
   ⟨(State.reset.putBit F.PWM_TRIP_TRIP 0 true), 0, by decide⟩,
   ⟨State.reset, 0, false, 0, by decide⟩⟩

theorem test_witness_GateDrivers :
    (∃ (s : Machine.State) (k : Fin 24) (high : Bool) (gross : Bool) (mv : Nat) (up : Bool) (at_ : Nat), vdsArmed (advanceTo at_ s) (↑k) high gross up
      at_ = true ∧ vdsOver s (↑k) high gross mv = true ∧ vdsTaken s (↑k) high gross = false ∧ s.hwm.vdsWindow = false) ∧
    (∃ (s : Machine.State) (k : Fin 24) (high : Bool) (gross : Bool) (mv : Nat) (up : Bool) (at_ : Nat), vdsArmed (advanceTo at_ s) (↑k) high gross up
      at_ = true ∧ vdsOver s (↑k) high gross mv = true ∧ vdsTaken s (↑k) high gross = false ∧ s.hwm.vdsWindow = true) ∧
    (∃ (s : Machine.State) (k : Fin 24) (high : Bool) (gross : Bool) (mv : Nat) (up : Bool) (at_ : Nat), vdsArmed (advanceTo at_ s) (↑k) high gross up
      at_ = true ∧ vdsOver s (↑k) high gross mv = true ∧ vdsTaken s (↑k) high gross = false ∧ (s.grp (↑k / 3)).stage2 = false ∧ (s.grp (↑k / 3)).soft
      ≤ 2 ∧ s.inj.held = none) ∧
    (∃ (s : Machine.State) (k : Fin 24) (high : Bool) (gross : Bool) (mv : Nat) (up : Bool) (at_ : Nat), vdsArmed (advanceTo at_ s) (↑k) high gross up
      at_ = false ∨ vdsOver s (↑k) high gross mv = false ∨ vdsTaken s (↑k) high gross = true) ∧
    (∃ (s : Machine.State) (g : Fin 8) (at_ : Nat), (s.grp ↑g).soft = 1 ∧ (s.grp ↑g).softAt + 60 * s.get (F.GDR_SOFT_WTIME ↑g) ≤ at_) ∧
    (∃ (s : Machine.State) (g : Fin 8) (at_ : Nat), (s.grp ↑g).soft = 2 ∧ (s.grp ↑g).softAt + 300 ≤ at_ ∧ s.mode = Mode.active ∧ softLatch s ↑g = true
      ∧ shortLatch s ↑g = false ∧ haltLatch s = false ∧ (s.grp ↑g).mirror = false ∧ (s.grp ↑g).stage2 = false) ∧
    (∃ (s : Machine.State), BridgeIdle s) ∧
    (∃ (s : Machine.State) (k : Fin 24) (high : Bool) (at_ : Nat) (c : Nat), (if high = true then (s.leg ↑k).cmdH else (s.leg ↑k).cmdL) = some c ∧ (if
      high = true then (s.leg ↑k).onH else (s.leg ↑k).onL) = none ∧ (if high = true then (gateGo s ↑k).fst else (gateGo s ↑k).snd) = true ∧ c + 150 *
      (s.get F.GDR_HSCFG_HSTMO + 1) ≤ at_) ∧
    (∃ (s : Machine.State) (k : Fin 24) (vbs : Nat), s.pwr.hwmOn = true ∧ stepOn s 7 ↑k = false ∧ s.inj.held = none ∧ vbs < 6000 + 1000 * s.get
      (F.GDR_DRV_BSUV ↑k)) ∧
    (∃ (s : Machine.State) (k : Fin 24) (high : Bool) (at_ : Nat) (c : Nat), (if high = true then (s.leg ↑k).cmdH else (s.leg ↑k).cmdL) = some c ∧
      (at_ < c + 150 * (s.get F.GDR_HSCFG_HSTMO + 1) ∨ (if high = true then (s.leg ↑k).onH else (s.leg ↑k).onL).isSome = true)) ∧
    (∃ (s : Machine.State) (k : Fin 24) (vbs : Nat), 6000 + 1000 * s.get (F.GDR_DRV_BSUV ↑k) ≤ vbs) ∧
    (∃ (s : Machine.State) (k : Fin 24) (vbs : Nat), vbs ≤ 6500 + 1000 * s.get (F.GDR_DRV_BSUV ↑k)) ∧
    (∃ (s : Machine.State) (k : Fin 24) (vbs : Nat), s.pwr.hwmOn = true ∧ stepOn s 7 ↑k = false ∧ injHeld s (24 + ↑k) 0 = true ∧ 6500 + 1000 * s.get
      (F.GDR_DRV_BSUV ↑k) < vbs) ∧
    (∃ (s : Machine.State) (k : Fin 24) (vbs : Nat), s.pwr.hwmOn = true ∧ stepOn s 7 ↑k = false ∧ s.inj.held = none ∧ 6500 + 1000 * s.get
      (F.GDR_DRV_BSUV ↑k) < vbs) :=
  ⟨⟨{ State.reset with legs := [(0, { onL := some 0, cmdL := some 0, lineL := true })] }, 0, false, false, 9999, false, 9999, by decide⟩,
   ⟨{ State.reset with legs := [(0, { onL := some 0, cmdL := some 0, lineL := true })], hwm := { vdsWindow := true } }, 0, false, false, 9999, false,
     9999, by decide⟩,
   ⟨{ State.reset with legs := [(0, { onL := some 0, cmdL := some 0, lineL := true })] }, 0, false, false, 9999, false, 9999, by decide⟩,
   ⟨{ State.reset with legs := [(0, { onL := some 0, cmdL := some 0, lineL := true })] }, 0, false, false, 0, false, 9999, by decide⟩,
   ⟨{ State.reset with hgrp := [(0, { soft := 1 })] }, 0, 9999, by decide⟩,
   ⟨{ (awake.put F.HWM_RXSTAT_SOFT 1) with hgrp := [(0, { soft := 2 })] }, 0, 9999, by decide⟩,
   ⟨(State.reset.put F.SYS_BRGSTAT_UP 1), by unfold BridgeIdle; decide⟩,
   ⟨{ awake with hgrp := [(0, { gate := .pass })], legs := [(0, { cmdL := some 0, lineL := true })] }, 0, false, 9999, 0, by decide⟩,
   ⟨{ State.reset with pwr := { State.reset.pwr with hwmOn := true }, inj := { State.reset.inj with held := none } }, 0, 0, by decide⟩,
   ⟨{ State.reset with legs := [(0, { cmdL := some 0 })] }, 0, false, 1, 0, by decide⟩,
   ⟨State.reset, 0, 9000, by decide⟩,
   ⟨State.reset, 0, 0, by decide⟩,
   ⟨{ State.reset with pwr := { State.reset.pwr with hwmOn := true }, inj := { held := some (24, 0) } }, 0, 12000, by decide⟩,
   ⟨{ State.reset with pwr := { State.reset.pwr with hwmOn := true } }, 0, 12000, by decide⟩⟩

theorem test_witness_Reactions :
    (∃ (s : Machine.State) (r : Rx) (l : List Rx), s.hwm.rxq = r :: l ∧ s.flag F.SYS_BRGSTAT_UP = true ∧ s.fresh.turn = none) ∧
    (∃ (s : Machine.State), s.flag F.SYS_BRGSTAT_UP = false) ∧
    (∃ (s : Machine.State), s.hwm.dcLow = true) ∧
    (∃ (s : Machine.State), s.hwm.dcLow = false) ∧
    (∃ (s : Machine.State) (k : Fin 24), (s.grp (↑k / 3)).gate ≠ Gate.off) ∧
    (∃ (s : Machine.State), BridgeIdle s) ∧
    (∃ (s : Machine.State) (g : Fin 8) (m : PisMoment), (s.grp ↑g).pisReq = true ∧ m = PisMoment.allOff ∧ (s.grp ↑g).gate = Gate.off ∧ (s.grp ↑g).slow
      = true) ∧
    (∃ (s : Machine.State) (g : Fin 8) (m : PisMoment), (s.grp ↑g).pisReq = true ∧ m ≠ PisMoment.allOff) :=
  ⟨⟨{ (State.reset.put F.SYS_BRGSTAT_UP 1) with hwm := { rxq := [{ det := 118, pos := 118, cls := 1, groups := 1 }] } },
     { det := 118, pos := 118, cls := 1, groups := 1 }, [], by decide⟩,
   ⟨(State.reset.put F.SYS_BRGSTAT_UP 0), by decide⟩,
   ⟨{ State.reset with hwm := { State.reset.hwm with dcLow := true } }, by decide⟩,
   ⟨{ State.reset with hwm := { State.reset.hwm with dcLow := false } }, by decide⟩,
   ⟨{ State.reset with hgrp := [(0, { gate := .pass })] }, 0, by decide⟩,
   ⟨(State.reset.put F.SYS_BRGSTAT_UP 1), by unfold BridgeIdle; decide⟩,
   ⟨{ State.reset with hgrp := [(0, { pisReq := true })] }, 0, .allOff, by decide⟩,
   ⟨{ State.reset with hgrp := [(0, { pisReq := true })] }, 0, .zeroCrossing, by decide⟩⟩

theorem test_witness_ReleasesAndDirectPath :
    (∃ (s : Machine.State), BridgeIdle s ∧ haltReleaseOk s = true) ∧
    (∃ (s : Machine.State), BridgeIdle s ∧ haltReleaseOk s = false) ∧
    (∃ (s : Machine.State), BridgeIdle s ∧ s.pwr.hbLost = true) ∧
    (∃ (s : Machine.State) (level : Bool), level = true ∨ s.mode ≠ Mode.active) ∧
    (∃ (s : Machine.State), s.flag F.HWM_STAT_ENABLE = true ∧ s.mode = Mode.active ∧ s.flag F.HWM_RXSTAT_WDRAW = false ∧ s.fresh.turn = none) ∧
    (∃ (s : Machine.State) (r : BitVec 16), bitsOf (s.spb 8) 1 0 ≠ 0 ∧ s.pwr.hwmOn = true ∧ pedalValid s (some r) = true ∧ s.flag F.HWM_STAT_PDLFLT =
      false ∧ s.hwm.pdl = []) ∧
    (∃ (s : Machine.State) (raw : Option (BitVec 16)), bitsOf (s.spb 8) 1 0 ≠ 0 ∧ s.pwr.hwmOn = true ∧ pedalValid s raw = false ∧ s.flag
      F.HWM_STAT_PDLFLT = false ∧ 1 ≤ s.hwm.pdlBad) ∧
    (∃ (g : Fin 8), 2 ≤ ↑g ∧ ↑g ≤ 5) ∧
    (∃ (s : Machine.State) (g : Fin 8), limpDrives s ↑g = true ∧ (s.grp ↑g).gate = Gate.limp) ∧
    (∃ (s : Machine.State) (v : Nat), limpThreshold s < v * limpGain s) ∧
    (∃ (s : Machine.State) (v : Nat), v * limpGain s ≤ limpThreshold s) :=
  ⟨⟨{ (forAll (List.range 22) (fun i t => t.setReg (R.HWM_SPB (96 + i)) 0) ((awake.put F.HWM_STAT_ENABLE 1).put F.SYS_BRGSTAT_UP 1)) with mode := .standby },
     by unfold BridgeIdle; decide +kernel⟩,
   ⟨(State.reset.put F.SYS_BRGSTAT_UP 1), by unfold BridgeIdle; decide⟩,
   ⟨{ (State.reset.put F.SYS_BRGSTAT_UP 1) with pwr := { State.reset.pwr with hbLost := true } }, by unfold BridgeIdle; decide⟩,
   ⟨State.reset, false, by decide⟩,
   ⟨(awake.put F.HWM_STAT_ENABLE 1), by decide⟩,
   ⟨{ ((State.reset.setReg (R.HWM_SPB 8) 1).setReg (R.HWM_SPB 9) 0xFFF00001) with pwr := { State.reset.pwr with hwmOn := true } }, 0x100, by decide⟩,
   ⟨{ ((State.reset.setReg (R.HWM_SPB 8) 1).setReg (R.HWM_SPB 9) 0xFFF00001) with pwr := { State.reset.pwr with hwmOn := true }, hwm := { pdlBad := 1 } },
     none, by decide⟩,
   ⟨5, by decide⟩,
   ⟨{ ((State.reset.setReg (R.HWM_SPB 11) 0x10000).put F.HWM_PISCTL_OPEN 0) with mode := .limp, sub := .none, hgrp := [(2, { gate := .limp })] }, 2,
     by decide⟩,
   ⟨State.reset, 100000000, by decide⟩,
   ⟨State.reset, 0, by decide⟩⟩

theorem test_witness_SafetyParameters :
    (∃ (s : Machine.State) (w : Requester) (i : Fin 256), mayWrite s w (R.HWM_SPB ↑i) = true ∧ BridgeIdle s ∧ spbOpen s = true ∧ ↑i ≠ 0 ∧
      s.hwm.commits.length < 8) ∧
    (∃ (s : Machine.State) (w : Requester) (i : Fin 256), mayWrite s w (R.HWM_SPB ↑i) = true ∧ BridgeIdle s ∧ spbOpen s = true ∧ ↑i ≠ 0 ∧ 8 ≤
      s.hwm.commits.length) ∧
    (∃ (s : Machine.State) (w : Requester) (i : Fin 256), mayWrite s w (R.HWM_SPB ↑i) = true ∧ BridgeIdle s ∧ spbOpen s = false ∧ ↑i ≠ 0) ∧
    (∃ (s : Machine.State) (w : Requester) (i : Fin 256), mayWrite s w (R.HWM_SPB ↑i) = false) ∧
    (∃ (s : Machine.State) (c : Commit) (l : List Commit), s.hwm.commits = c :: l ∧ s.pwr.vbat = true ∧ c.author < 2 ^ 16 ∧ l.length < 8) ∧
    (∃ (s : Machine.State), s.pwr.vbat = false) ∧
    (∃ (s : Machine.State), s.hwm.copyDue = true ∧ s.hwm.spbSlot < 32 ∧ s.hwm.logSlot < 16) ∧
    (∃ (s : Machine.State), s.hwm.copyDue = false) ∧
    (∃ (s : Machine.State) (w : Requester) (at_ : Nat), s.flag F.HWM_PWSTAT_UNLK = false ∧ s.flag F.HWM_PWSTAT_LOCKOUT = false ∧ (w = Requester.cp ∨ w
      = Requester.spp ∧ sppOn s = true ∧ sppCol s ≠ SppCol.fail) ∧ BridgeIdle s ∧ at_ ≤ s.hwm.wordAt + 300000000 ∧ s.hwm.words.length < 3) ∧
    (∃ (s : Machine.State) (w : Requester) (x : BitVec 16) (at_ : Nat), s.flag F.HWM_PWSTAT_UNLK = false ∧ s.flag F.HWM_PWSTAT_LOCKOUT = false ∧ (w =
      Requester.cp ∨ w = Requester.spp ∧ sppOn s = true ∧ sppCol s ≠ SppCol.fail) ∧ BridgeIdle s ∧ at_ ≤ s.hwm.wordAt + 300000000 ∧ s.hwm.words.length
      = 3 ∧ pwMatches s (s.hwm.words ++ [x]) = true) ∧
    (∃ (s : Machine.State) (w : Requester) (x : BitVec 16) (at_ : Nat), s.flag F.HWM_PWSTAT_UNLK = false ∧ s.flag F.HWM_PWSTAT_LOCKOUT = false ∧ (w =
      Requester.cp ∨ w = Requester.spp ∧ sppOn s = true ∧ sppCol s ≠ SppCol.fail) ∧ BridgeIdle s ∧ at_ ≤ s.hwm.wordAt + 300000000 ∧ s.hwm.words.length
      = 3 ∧ pwMatches s (s.hwm.words ++ [x]) = false) ∧
    (∃ (s : Machine.State) (w : Requester) (at_ : Nat), s.flag F.HWM_PWSTAT_UNLK = false ∧ s.flag F.HWM_PWSTAT_LOCKOUT = false ∧ w = Requester.cp ∧
      BridgeIdle s ∧ s.hwm.wordAt + 300000000 < at_) ∧
    (∃ (s : Machine.State), s.flag F.HWM_PWSTAT_UNLK = false ∧ s.flag F.HWM_PWSTAT_LOCKOUT = true ∧ BridgeIdle s) ∧
    (∃ (s : Machine.State) (w : Requester), mayWrite s w R.HWM_PWCTL = true ∧ BridgeIdle s ∧ s.flag F.HWM_PWSTAT_UNLK = true) ∧
    (∃ (s : Machine.State), s.pwr.hwmOn = true) ∧
    (∃ (s : Machine.State) (w : Requester) (k : Fin 24), mayWrite s w (R.GDR_VDS ↑k) = true ∧ BridgeIdle s ∧ s.flag F.HWM_PWSTAT_UNLK = true) ∧
    (∃ (s : Machine.State) (w : Requester) (g : Fin 8), mayWrite s w (R.GDR_SOFT ↑g) = true ∧ BridgeIdle s ∧ s.flag F.HWM_PWSTAT_UNLK = true) ∧
    (∃ (s : Machine.State) (w : Requester), mayWrite s w R.HWM_GCFG = true ∧ BridgeIdle s ∧ s.flag F.HWM_PWSTAT_UNLK = true) ∧
    (∃ (s : Machine.State) (w : Requester) (m : Fin 8) (n : Fin 64), mayWrite s w (R.HWM_GAPT ↑m ↑n) = true ∧ BridgeIdle s ∧ s.flag F.HWM_PWSTAT_UNLK
      = true) ∧
    (∃ (s : Machine.State) (w : Requester) (a : Word), mayWrite s w (BitVec.toNat a) = true ∧ BridgeIdle s ∧ hasAcc (BitVec.toNat a) Acc.rwp = true ∧
      BitVec.toNat a ≠ R.MGN_APPROVE ∧ ¬(1879050240 ≤ BitVec.toNat a ∧ BitVec.toNat a < 1879051264) ∧ s.flag F.HWM_PWSTAT_UNLK = false) :=
  ⟨⟨{ ((State.reset.put F.HWM_PWSTAT_UNLK 1).put F.SYS_BRGSTAT_UP 1) with mode := .service, sub := .none }, .cp, 1, by unfold BridgeIdle; decide⟩,
   ⟨{ ((State.reset.put F.HWM_PWSTAT_UNLK 1).put F.SYS_BRGSTAT_UP 1) with mode := .service, sub := .none, hwm := { commits := List.replicate 8 { idx := 1, src := 1, author := 77, old := 2, new := 3 } } },
     .cp, 255, by unfold BridgeIdle; decide⟩,
   ⟨(State.reset.put F.SYS_BRGSTAT_UP 1), .cp, 255, by unfold BridgeIdle; decide⟩,
   ⟨State.reset, .kringDma, 0, by decide⟩,
   ⟨{ State.reset with hwm := { commits := [{ idx := 1, src := 1, author := 77, old := 2, new := 3 }] } },
     { idx := 1, src := 1, author := 77, old := 2, new := 3 }, [], by decide⟩,
   ⟨{ State.reset with pwr := { State.reset.pwr with vbat := false } }, by decide⟩,
   ⟨{ State.reset with hwm := { State.reset.hwm with copyDue := true } }, by decide⟩,
   ⟨{ State.reset with hwm := { State.reset.hwm with copyDue := false } }, by decide⟩,
   ⟨(State.reset.put F.SYS_BRGSTAT_UP 1), .cp, 0, by unfold BridgeIdle; decide⟩,
   ⟨{ ((State.reset.put F.SYS_BRGSTAT_UP 1).setReg (R.HWM_SPB 4) 0).setReg (R.HWM_SPB 5) 0 with hwm := { words := [0, 0, 0] } }, .cp, 0, 0,
     by unfold BridgeIdle; decide⟩,
   ⟨{ ((State.reset.put F.SYS_BRGSTAT_UP 1).setReg (R.HWM_SPB 4) 0).setReg (R.HWM_SPB 5) 0 with hwm := { words := [0, 0, 0] } }, .cp, 1, 0,
     by unfold BridgeIdle; decide⟩,
   ⟨(State.reset.put F.SYS_BRGSTAT_UP 1), .cp, 300000001, by decide, by decide, by decide, by unfold BridgeIdle; decide, by decide⟩,
   ⟨(((State.reset.put F.HWM_PWSTAT_UNLK 0).put F.HWM_PWSTAT_LOCKOUT 1).put F.SYS_BRGSTAT_UP 1), by unfold BridgeIdle; decide⟩,
   ⟨((State.reset.put F.SYS_BRGSTAT_UP 1).put F.HWM_PWSTAT_UNLK 1), .cp, by unfold BridgeIdle; decide⟩,
   ⟨{ State.reset with pwr := { State.reset.pwr with hwmOn := true } }, by decide⟩,
   ⟨((State.reset.put F.SYS_BRGSTAT_UP 1).put F.HWM_PWSTAT_UNLK 1), .cp, 0, by unfold BridgeIdle; decide⟩,
   ⟨((State.reset.put F.SYS_BRGSTAT_UP 1).put F.HWM_PWSTAT_UNLK 1), .cp, 0, by unfold BridgeIdle; decide⟩,
   ⟨((State.reset.put F.SYS_BRGSTAT_UP 1).put F.HWM_PWSTAT_UNLK 1), .cp, by unfold BridgeIdle; decide⟩,
   ⟨((State.reset.put F.SYS_BRGSTAT_UP 1).put F.HWM_PWSTAT_UNLK 1), .cp, 0, 0, by unfold BridgeIdle; decide⟩,
   ⟨(State.reset.put F.SYS_BRGSTAT_UP 1), .cp, BitVec.ofNat 32 (R.GDR_VDS 0), by decide, by unfold BridgeIdle; decide⟩⟩

theorem test_witness_FeedbackPorts :
    (∃ (s : Machine.State) (n : Fin 8), s.flag (F.FBK_CFG_PTEN ↑n) = true ∧ s.flag (F.FBK_CFG_SCEN ↑n) = false ∧ 0 < s.get (F.FBK_SCALE_CPR ↑n) ∧
      s.flag (F.FBK_STAT_GATED ↑n) = false) ∧
    (∃ (s : Machine.State) (n : Fin 8) (at_ : Nat) (l : Nat) (d : Nat), s.flag (F.FBK_CFG_PTEN ↑n) = true ∧ s.flag (F.FBK_CFG_SCEN ↑n) = false ∧ 0 <
      s.get (F.FBK_SCALE_CPR ↑n) ∧ (s.fb ↑n).last = some l ∧ s.flag (F.FBK_STAT_GATED ↑n) = true ∧ (s.fb ↑n).stepDir = true ∧ (s.fb ↑n).held = none ∧
      s.get (F.FBK_CFG_REFKIND ↑n) = 0 ∧ d = since l (since (s.get (F.FBK_CFG_PFILT ↑n) + 1) (stamp (advanceTo at_ s))) ∧ 16 * (s.fb ↑n).dref2 ≤ 20 *
      d ∧ 20 * d ≤ 25 * (s.fb ↑n).dref2 ∧ near (2 * d) (s.fb ↑n).dref2 = false) ∧
    (∃ (s : Machine.State) (n : Fin 8) (at_ : Nat) (l : Nat) (x : Nat) (d : Nat), s.flag (F.FBK_CFG_PTEN ↑n) = true ∧ s.flag (F.FBK_CFG_SCEN ↑n) =
      false ∧ (s.fb ↑n).last = some l ∧ s.flag (F.FBK_STAT_GATED ↑n) = true ∧ (s.fb ↑n).stepDir = true ∧ (s.fb ↑n).held = none ∧ x = since (s.get
      (F.FBK_CFG_PFILT ↑n) + 1) (stamp (advanceTo at_ s)) ∧ d = since l x ∧ 3 * (s.fb ↑n).dref2 ≤ 20 * d ∧ 20 * d < 7 * (s.fb ↑n).dref2) ∧
    (∃ (s : Machine.State) (n : Fin 8) (h : Nat), (s.fb ↑n).held = some h ∧ (s.fb ↑n).stepDir = true) ∧
    (∃ (s : Machine.State) (n : Fin 8) (h : Nat), s.flag (F.FBK_STAT_GATED ↑n) = true ∧ (s.fb ↑n).held = some h ∧ (s.fb ↑n).stepDir = false) ∧
    (∃ (s : Machine.State) (n : Fin 8) (a : Bool) (b : Bool), s.flag (F.FBK_CFG_SCEN ↑n) = true ∧ (s.fb ↑n).quadKnown = true ∧ (quadrant a b + 4 -
      (s.fb ↑n).quad) % 4 = 1) ∧
    (∃ (s : Machine.State) (n : Fin 8) (a : Bool) (b : Bool), s.flag (F.FBK_CFG_SCEN ↑n) = true ∧ (s.fb ↑n).quadKnown = true ∧ (quadrant a b + 4 -
      (s.fb ↑n).quad) % 4 = 3) ∧
    (∃ (s : Machine.State) (n : Fin 8) (a : Bool) (b : Bool), s.flag (F.FBK_CFG_SCEN ↑n) = true ∧ (s.fb ↑n).quadKnown = true ∧ (quadrant a b + 4 -
      (s.fb ↑n).quad) % 4 = 2) ∧
    (∃ (s : Machine.State) (n : Fin 8), s.flag (F.FBK_CFG_SCEN ↑n) = true ∧ s.flag (F.FBK_STAT_PEND ↑n) = true) ∧
    (∃ (s : Machine.State) (n : Fin 8), stepsOf s (R.FBK_QCNT ↑n) = 0) ∧
    (∃ (s : Machine.State) (n : Fin 8) (d : Int), stepsOf s (R.FBK_QCNT ↑n) = d) ∧
    (∃ (s : Machine.State) (n : Fin 8), ↑n < 2 ∧ s.flag (F.FBK_STAT_REFOK ↑n) = true) ∧
    (∃ (s : Machine.State) (n : Fin 8), ↑n < 2 ∧ s.flag (F.FBK_STAT_REFOK ↑n) = false) ∧
    (∃ (n : Fin 8), 2 ≤ ↑n) ∧
    (∃ (s : Machine.State) (n : Fin 8), fallbackCond s ↑n = true) ∧
    (∃ (s : Machine.State) (n : Fin 8), fallbackCond s ↑n = false ∧ s.flag (F.FBK_STAT_FBACT ↑n) = true) ∧
    (∃ (s : Machine.State) (n : Fin 8) (si : BitVec 14) (co : BitVec 14) (at_ : Nat) (a : Int), s.flag (F.ADC_SEQCFG_BGSC ↑n) = true ∧ s.flag
      (F.ADC_SEQCFG_BGDC ↑n) = false ∧ s.flag (F.FBK_CFG_SCEN ↑n) = true ∧ slotBlocked s (↑n) (at_ * 64 / 3) = false ∧ slotBlocked s (↑n) (at_ * 64 /
      3 + 320) = false ∧ a = ((↑si.toNat - ↑(s.get (F.FBK_SCCAL_OFSS ↑n))) * 32768) ^ 2 + ((↑co.toNat - ↑(s.get (F.FBK_SCCAL_OFSC ↑n))) * ↑(s.get
      (F.FBK_SCAMP_GC ↑n))) ^ 2 ∧ (injHeld s (94 + ↑n) 1 = true ∨ a < (↑(s.get (F.FBK_SCAMP_AMPLO ↑n)) * 64 * 32768) ^ 2 ∨ (↑(s.get (F.FBK_SCAMP_AMPHI
      ↑n)) * 64 * 32768) ^ 2 < a)) ∧
    (∃ (s : Machine.State) (n : Fin 8) (si : BitVec 14) (co : BitVec 14) (at_ : Nat) (a : Int), s.flag (F.ADC_SEQCFG_BGSC ↑n) = true ∧ s.flag
      (F.ADC_SEQCFG_BGDC ↑n) = false ∧ s.flag (F.FBK_CFG_SCEN ↑n) = true ∧ slotBlocked s (↑n) (at_ * 64 / 3) = false ∧ slotBlocked s (↑n) (at_ * 64 /
      3 + 320) = false ∧ a = ((↑si.toNat - ↑(s.get (F.FBK_SCCAL_OFSS ↑n))) * 32768) ^ 2 + ((↑co.toNat - ↑(s.get (F.FBK_SCCAL_OFSC ↑n))) * ↑(s.get
      (F.FBK_SCAMP_GC ↑n))) ^ 2 ∧ injHeld s (94 + ↑n) 1 = false ∧ (↑(s.get (F.FBK_SCAMP_AMPLO ↑n)) * 64 * 32768) ^ 2 ≤ a ∧ a ≤ (↑(s.get
      (F.FBK_SCAMP_AMPHI ↑n)) * 64 * 32768) ^ 2 ∧ s.flag (F.FBK_STAT_PEND ↑n) = false) ∧
    (∃ (s : Machine.State) (n : Fin 8) (th : Word) (om : Word), (s.fb ↑n).seed = some (th, om) ∧ s.fresh.seeded.contains ↑n = false ∧ fpFinite om =
      true ∧ s.flag (F.FBK_CFG_AUTOFB ↑n) = false) ∧
    (∃ (s : Machine.State) (n : Fin 8), ((s.fb ↑n).seed = none ∨ s.fresh.seeded.contains ↑n = true) ∧ s.flag (F.FBK_CFG_AUTOFB ↑n) = false) ∧
    (∃ (s : Machine.State) (n : Fin 8), (s.fb ↑n).svalid = false) ∧
    (∃ (s : Machine.State) (n : Fin 8), (s.fb ↑n).svalid = true) ∧
    (∃ (bw : BitVec 13), 10 ≤ bw.toNat ∧ bw.toNat ≤ 5000) ∧
    (∃ (bw : BitVec 13), bw.toNat < 10 ∨ 5000 < bw.toNat) :=
  ⟨⟨((State.reset.put (F.FBK_CFG_PTEN 0) 1).put (F.FBK_SCALE_CPR 0) 60), 0, by decide⟩,
   ⟨{ ((((State.reset.put (F.FBK_CFG_PTEN 0) 1).put (F.FBK_SCALE_CPR 0) 60).put (F.FBK_STAT_GATED 0) 1).put (F.FBK_CFG_PFILT 0) 0) with fbp := [(0, { last := some (2 ^ 32 - 101), dref2 := 110 })] },
     0, 0, 2 ^ 32 - 101, 100, by decide⟩,
   ⟨{ (((State.reset.put (F.FBK_CFG_PTEN 0) 1).put (F.FBK_STAT_GATED 0) 1).put (F.FBK_CFG_PFILT 0) 0) with fbp := [(0, { last := some (2 ^ 32 - 101), dref2 := 500, stepDir := true })] },
     0, 0, 2 ^ 32 - 101, 2 ^ 32 - 1, 100, by decide⟩,
   ⟨{ State.reset with fbp := [(0, { held := some 5 })] }, 0, 5, by decide⟩,
   ⟨{ (State.reset.put (F.FBK_STAT_GATED 0) 1) with fbp := [(0, { held := some 5, stepDir := false })] }, 0, 5, by decide⟩,
   ⟨{ (State.reset.put (F.FBK_CFG_SCEN 0) 1) with fbp := [(0, { quadKnown := true, quad := quadrant true true })] }, 0, true, false, by decide⟩,
   ⟨{ (State.reset.put (F.FBK_CFG_SCEN 0) 1) with fbp := [(0, { quadKnown := true, quad := quadrant true true })] }, 0, false, true, by decide⟩,
   ⟨{ (State.reset.put (F.FBK_CFG_SCEN 0) 1) with fbp := [(0, { quadKnown := true, quad := quadrant true true })] }, 0, false, false, by decide⟩,
   ⟨((State.reset.put (F.FBK_CFG_SCEN 0) 1).put (F.FBK_STAT_PEND 0) 1), 0, by decide⟩,
   ⟨State.reset, 0, by decide⟩,
   ⟨State.reset, 0, 0, by decide⟩,
   ⟨(State.reset.put (F.FBK_STAT_REFOK 0) 1), 0, by decide⟩,
   ⟨(State.reset.put (F.FBK_STAT_REFOK 0) 0), 0, by decide⟩,
   ⟨2, by decide⟩,
   ⟨{ (State.reset.put (F.FBK_CFG_SCEN 0) 1) with fbp := [(0, { lost := 2 })] }, 0, by decide⟩,
   ⟨(State.reset.put (F.FBK_STAT_FBACT 0) 1), 0, by decide⟩,
   ⟨{ ((((State.reset.put (F.FBK_CFG_SCEN 0) 1).put (F.ADC_SEQCFG_BGSC 0) 1).put (F.FBK_SCCAL_OFSS 0) 0).put (F.FBK_SCCAL_OFSC 0) 0) with inj := { held := some (94, 1) } },
     0, 0, 0, 0, 0, by decide⟩,
   ⟨((((((State.reset.put (F.FBK_CFG_SCEN 0) 1).put (F.ADC_SEQCFG_BGSC 0) 1).put (F.FBK_SCAMP_AMPLO 0) 0).put (F.FBK_SCAMP_AMPHI 0) 255).put
     (F.FBK_SCCAL_OFSS 0) 0).put (F.FBK_SCCAL_OFSC 0) 0), 0, 0, 0, 0, 0, by decide⟩,
   ⟨{ State.reset with fbp := [(0, { seed := some (7, 0x3F800000) })] }, 0, 7, 0x3F800000, by decide⟩,
   ⟨(State.reset.put (F.FBK_CFG_AUTOFB 0) 0), 0, by decide⟩,
   ⟨State.reset, 0, by decide⟩,
   ⟨{ State.reset with fbp := [(0, { svalid := true })] }, 0, by decide⟩,
   ⟨5000, by decide⟩,
   ⟨0, by decide⟩⟩

theorem test_witness_WheelsAndSent :
    (∃ (s : Machine.State) (w : Fin 4) (short : Bool), s.flag (F.FBK_WSCFG_EN ↑w) = true ∧ s.flag (if short = true then F.FBK_WSPER_SHORT ↑w else
      F.FBK_WSPER_OPEN ↑w) = false) ∧
    (∃ (s : Machine.State) (w : Fin 4) (sync : Nat), s.flag (F.FBK_SNTCFG_EN ↑w) = true ∧ injDue s (106 + ↑w) = none ∧ sentSyncOk s (↑w) sync = false) ∧
    (∃ (s : Machine.State) (w : Fin 4) (sync : Nat) (l : List Nat), s.flag (F.FBK_SNTCFG_EN ↑w) = true ∧ injDue s (106 + ↑w) = none ∧ sentSyncOk s
      (↑w) sync = true ∧ l.length = s.get (F.FBK_SNTCFG_NDATA ↑w) + 2 ∧ (∃ x, x ∈ l ∧ (sentTicks sync x < 12 ∨ 27 < sentTicks sync x))) ∧
    (∃ (s : Machine.State) (w : Fin 4) (sync : Nat) (l : List Nat), s.flag (F.FBK_SNTCFG_EN ↑w) = true ∧ injDue s (106 + ↑w) = none ∧ sentSyncOk s
      (↑w) sync = true ∧ l.length = s.get (F.FBK_SNTCFG_NDATA ↑w) + 2 ∧ (∀ (x : Nat), x ∈ l → 12 ≤ sentTicks sync x ∧ sentTicks sync x ≤ 27) ∧ (crc4
      (s.flag (F.FBK_SNTCFG_LEGCRC ↑w)) (List.map (fun x => sentTicks sync x - 12) (List.take (s.get (F.FBK_SNTCFG_NDATA ↑w)) (List.drop 1 l))) ≠
      sentTicks sync (l.getD (s.get (F.FBK_SNTCFG_NDATA ↑w) + 1) 0) - 12)) ∧
    (∃ (s : Machine.State) (w : Fin 4) (sync : Nat) (l : List Nat) (pause : Nat), s.flag (F.FBK_SNTCFG_EN ↑w) = true ∧ injDue s (106 + ↑w) = none ∧
      sentSyncOk s (↑w) sync = true ∧ l.length = s.get (F.FBK_SNTCFG_NDATA ↑w) + 2 ∧ (∀ (x : Nat), x ∈ l → 12 ≤ sentTicks sync x ∧ sentTicks sync x ≤
      27) ∧ sentPauseOk s (↑w) sync l pause = false ∧ (crc4 (s.flag (F.FBK_SNTCFG_LEGCRC ↑w)) (List.map (fun x => sentTicks sync x - 12) (List.take
      (s.get (F.FBK_SNTCFG_NDATA ↑w)) (List.drop 1 l))) = sentTicks sync (l.getD (s.get (F.FBK_SNTCFG_NDATA ↑w) + 1) 0) - 12)) ∧
    (∃ (s : Machine.State) (w : Fin 4) (sync : Nat) (l : List Nat) (pause : Nat), s.flag (F.FBK_SNTCFG_EN ↑w) = true ∧ injDue s (106 + ↑w) = none ∧
      sentSyncOk s (↑w) sync = true ∧ l.length = s.get (F.FBK_SNTCFG_NDATA ↑w) + 2 ∧ (∀ (x : Nat), x ∈ l → 12 ≤ sentTicks sync x ∧ sentTicks sync x ≤
      27) ∧ sentPauseOk s (↑w) sync l pause = true ∧ (crc4 (s.flag (F.FBK_SNTCFG_LEGCRC ↑w)) (List.map (fun x => sentTicks sync x - 12) (List.take
      (s.get (F.FBK_SNTCFG_NDATA ↑w)) (List.drop 1 l))) = sentTicks sync (l.getD (s.get (F.FBK_SNTCFG_NDATA ↑w) + 1) 0) - 12)) :=
  ⟨⟨((State.reset.put (F.FBK_WSCFG_EN 0) 1).put (if (false : Bool) = true then F.FBK_WSPER_SHORT 0 else F.FBK_WSPER_OPEN 0) 0), 0, false, by decide⟩,
   ⟨(State.reset.put (F.FBK_SNTCFG_EN 0) 1), 0, 0, by decide⟩,
   ⟨(((State.reset.put (F.FBK_SNTCFG_EN 0) 1).put (F.FBK_SNTCFG_TICK 0) 10).put (F.FBK_SNTCFG_NDATA 0) 6), 0, 5600, List.replicate 7 1200 ++ [100], by
     decide, by decide, by decide, by decide, ⟨100, by decide, by decide⟩⟩,
   ⟨(((State.reset.put (F.FBK_SNTCFG_EN 0) 1).put (F.FBK_SNTCFG_TICK 0) 10).put (F.FBK_SNTCFG_NDATA 0) 6), 0, 5600, List.replicate 7 1200 ++ [1200],
     by decide⟩,
   ⟨(((State.reset.put (F.FBK_SNTCFG_EN 0) 1).put (F.FBK_SNTCFG_TICK 0) 10).put (F.FBK_SNTCFG_NDATA 0) 6), 0, 5600, List.replicate 7 1200 ++ [1700],
     1, by decide⟩,
   ⟨((State.reset.put (F.FBK_SNTCFG_EN 0) 1).put (F.FBK_SNTCFG_TICK 0) 10), 0, 5600, List.replicate 7 1200 ++ [1700], 0, by decide⟩⟩

theorem test_witness_RingPorts :
    (∃ (s : Machine.State) (p : Fin 4), s.flag (F.KRG_PORTSTAT_LOOP ↑p) = false) ∧
    (∃ (s : Machine.State) (p : Fin 4), s.flag (F.KRG_PORTSTAT_LOOP ↑p) = true) ∧
    (∃ (s : Machine.State) (p : Fin 4), portOff s ↑p = true) ∧
    (∃ (s : Machine.State), ringSynced s = true) ∧
    (∃ (s : Machine.State) (p : Fin 4), s.flag F.KRG_CTL_EN = true ∧ ringState s ≠ 0 ∧ driversOn s = true ∧ portOff s ↑p = false) ∧
    (∃ (s : Machine.State) (p : Fin 4), s.krg.asked = true ∧ s.krg.replied.contains ↑p = false) :=
  ⟨⟨(State.reset.put (F.KRG_PORTSTAT_LOOP 0) 0), 0, by decide⟩,
   ⟨(State.reset.put (F.KRG_PORTSTAT_LOOP 0) 1), 0, by decide⟩,
   ⟨State.reset, 0, by decide⟩,
   ⟨(State.reset.put F.KRG_STAT_STATE 5), by decide⟩,
   ⟨{ ((((awake.put F.KRG_STAT_STATE 5).put F.KRG_CTL_EN 1).put F.HWM_GCFG_EN 0).setReg R.PWR_DOMCTL 0xF) with  }, 0, by decide⟩,
   ⟨{ State.reset with krg := { State.reset.krg with asked := true } }, 0, by decide⟩⟩

theorem test_witness_RingFrames :
    (∃ (s : Machine.State) (p : Fin 4) (h : List Byte), (∀ (a : Nat), s.errs a = 0) ∧ injDue s 128 = none ∧ s.flag F.KRG_CTL_EN = true ∧ ringSynced s
      = true ∧ hSrc h = ownId s ∧ isWest ↑p = true) ∧
    (∃ (s : Machine.State) (p : Fin 4) (h : List Byte) (sof : Int) (e : Nat × Bool), (∀ (a : Nat), s.errs a = 0) ∧ injDue s 128 = none ∧ s.flag
      F.KRG_CTL_EN = true ∧ ringSynced s = true ∧ hSrc h ≠ ownId s ∧ relayTo s ↑p = some e ∧ headerFits s h = true ∧ (sof - (80 * ↑(s.get
      (F.KRG_APT_START (ringMode s) (hSlot h))) + 12800 * ↑(hHops h) + ↑(ldly s ↑p))).natAbs ≤ 8 * rlytol s ∧ hHops h < hmax s ∧ driversOn s = true ∧
      portOff s e.fst = false) ∧
    (∃ (s : Machine.State) (p : Fin 4) (h : List Byte) (sof : Int), (∀ (a : Nat), s.errs a = 0) ∧ injDue s 128 = none ∧ s.flag F.KRG_CTL_EN = true ∧
      ringSynced s = true ∧ hSrc h ≠ ownId s ∧ hmax s ≤ hHops h ∧ onTime s (deviation s (↑p) (ringMode s) h sof) = true) ∧
    (∃ (s : Machine.State) (p : Fin 4) (h : List Byte) (sof : Int), (∀ (a : Nat), s.errs a = 0) ∧ injDue s 128 = none ∧ s.flag F.KRG_CTL_EN = true ∧
      ringSynced s = true ∧ hSrc h ≠ ownId s ∧ headerFits s h = true ∧ onTime s (deviation s (↑p) (ringMode s) h sof) = false ∧ s.krg.rejects = [] ∧
      deviation s (↑p) (ringMode s) h sof < 0) ∧
    (∃ (s : Machine.State) (p : Fin 4) (k : Fin 64) (sof : Int) (f : RingFrame), (∀ (a : Nat), s.errs a = 0) ∧ injDue s 128 = none ∧ BanksFree s ∧
      s.flag F.KRG_CTL_EN = true ∧ ringState s ≠ 0 ∧ s.krg.seen.contains (64 * (↑p / 2) + ↑k) = false ∧ 536870912 ≤ rxBuffer s (↑p / 2) ↑k ∧ rxBuffer
      s (↑p / 2) ↑k + 256 ≤ 541065216 ∧ frameResult s (↑p) (↑k) (some f) sof = 0 ∧ stripped s (↑p) (some f) = false ∧ collides s f = false ∧ ringRuns
      s = true ∧ f.payload.length % 4 = 0 ∧ f.payload.length ≤ 248) ∧
    (∃ (s : Machine.State) (k : Fin 64), (∀ (a : Nat), s.errs a = 0) ∧ injDue s 128 = none ∧ BanksFree s ∧ ringSynced s = true ∧ ownSlot s (ringMode
      s) ↑k = true ∧ chSlot s (ownId s) ≠ some ↑k ∧ s.bit (F.KRG_TXRDY_RDY (↑k / 32)) (↑k % 32) = false) ∧
    (∃ (s : Machine.State) (k : Fin 64), (∀ (a : Nat), s.errs a = 0) ∧ injDue s 128 = none ∧ BanksFree s ∧ ringSynced s = true ∧ ownSlot s (ringMode
      s) ↑k = true ∧ chSlot s (ownId s) ≠ some ↑k ∧ s.bit (F.KRG_TXRDY_RDY (↑k / 32)) (↑k % 32) = true ∧ 536870912 ≤ s.get F.KRG_TXBASE_BASE * 16384 ∧
      s.get F.KRG_TXBASE_BASE * 16384 + 16384 ≤ 541065216) ∧
    (∃ (s : Machine.State) (k : Fin 64) (b : Nat), (∀ (a : Nat), s.errs a = 0) ∧ injDue s 128 = none ∧ s.dma = [] ∧ ringSynced s = true ∧ ownSlot s
      (ringMode s) ↑k = true ∧ s.bit (F.KRG_TXRDY_RDY (↑k / 32)) (↑k % 32) = true ∧ dmaShut 9 (s.get F.KRG_TXBASE_BASE * 16384 + 256 * ↑k) (slotLen s
      (ringMode s) ↑k / 4) s = some b ∧ holdsAbove s 9 b = false) ∧
    (∃ (s : Machine.State) (k : Fin 64) (b : Nat), (∀ (a : Nat), s.errs a = 0) ∧ injDue s 128 = none ∧ s.dma = [] ∧ ringSynced s = true ∧ ownSlot s
      (ringMode s) ↑k = true ∧ s.bit (F.KRG_TXRDY_RDY (↑k / 32)) (↑k % 32) = true ∧ dmaShut 9 (s.get F.KRG_TXBASE_BASE * 16384 + 256 * ↑k) (slotLen s
      (ringMode s) ↑k / 4) s = some b ∧ holdsAbove s 9 b = true) ∧
    (∃ (s : Machine.State) (k : Fin 64) (at_ : Nat) (e : Nat × List Byte), (∀ (a : Nat), s.errs a = 0) ∧ injDue s 128 = none ∧ s.krg.payload = some e
      ∧ e.fst = ↑k ∧ ringSynced s = true ∧ ownSlot s (ringMode s) ↑k = true ∧ injDue s 130 = none ∧ s.now ≤ at_ ∧ origOk s (↑k) at_ e.snd.length =
      true) ∧
    (∃ (s : Machine.State) (k : Fin 64) (at_ : Nat) (e : Nat × List Byte), (∀ (a : Nat), s.errs a = 0) ∧ injDue s 128 = none ∧ s.krg.payload = some e
      ∧ e.fst = ↑k ∧ ringSynced s = true ∧ ownSlot s (ringMode s) ↑k = true ∧ injDue s 130 = none ∧ s.now ≤ at_ ∧ origOk s (↑k) at_ e.snd.length =
      false) :=
  ⟨⟨((((((((awake.put F.KRG_STAT_STATE 5).put F.KRG_CTL_EN 1).put F.HWM_GCFG_EN 0).put (F.KRG_APT_EN 0 1) 1).put (F.KRG_APT_OWNER 0 1) 2).put
     (F.KRG_APT_PLEN 0 1) 2).setReg R.PWR_DOMCTL 0xF).put F.SYS_CHID_CHID 1), 1, [0x41, 0x10, 0, 0, 0, 0, 0, 0], noErr _ rfl, by decide⟩,
   ⟨((((((((((((awake.put F.KRG_STAT_STATE 5).put F.KRG_CTL_EN 1).put F.HWM_GCFG_EN 0).put (F.KRG_APT_EN 0 1) 1).put (F.KRG_APT_OWNER 0 1) 2).put
     (F.KRG_APT_PLEN 0 1) 2).setReg R.PWR_DOMCTL 0xF).put F.SYS_CHID_CHID 1).put (F.KRG_PORTSTAT_LINK 0) 1).put (F.KRG_PORTSTAT_LINK 1) 1).put
     (F.KRG_PORTSTAT_LINK 2) 1).put (F.KRG_PORTSTAT_LINK 3) 1), 0, [0x41, 0x20, 0, 0, 0, 0, 0, 0], 200, (1, false), noErr _ rfl, by decide⟩,
   ⟨(((((((awake.put F.KRG_STAT_STATE 5).put F.KRG_CTL_EN 1).put F.HWM_GCFG_EN 0).put (F.KRG_APT_EN 0 1) 1).put (F.KRG_APT_OWNER 0 1) 2).put
     (F.KRG_APT_PLEN 0 1) 2).setReg R.PWR_DOMCTL 0xF), 0, [0x41, 0x20, 0, 0, 31, 0, 0, 0], 397000, noErr _ rfl, by decide⟩,
   ⟨(((((((awake.put F.KRG_STAT_STATE 5).put F.KRG_CTL_EN 1).put F.HWM_GCFG_EN 0).put (F.KRG_APT_EN 0 1) 1).put (F.KRG_APT_OWNER 0 1) 2).put
     (F.KRG_APT_PLEN 0 1) 2).setReg R.PWR_DOMCTL 0xF), 0, [0x41, 0x20, 0, 0, 0, 0, 0, 0], -100000, noErr _ rfl, by decide⟩,
   ⟨(((((((awake.put F.KRG_STAT_STATE 4).put F.KRG_CTL_EN 1).put (F.KRG_APT_EN 0 1) 1).put (F.KRG_APT_OWNER 0 1) 2).put (F.KRG_APT_PLEN 0 1) 2).put
     F.KRG_RXBASE_BASE 0x4000)), 0, 1, 0, ringFrame, noErr _ rfl, by unfold BanksFree; decide +kernel⟩,
   ⟨((((((awake.put F.KRG_STAT_STATE 5).put F.SYS_CHID_CHID 1).put (F.KRG_APT_EN 0 1) 1).put (F.KRG_APT_OWNER 0 1) 1).put (F.KRG_APT_PLEN 0 1) 2)), 1,
     noErr _ rfl, by unfold BanksFree; decide⟩,
   ⟨((((((((awake.put F.KRG_STAT_STATE 5).put F.SYS_CHID_CHID 1).put (F.KRG_APT_EN 0 1) 1).put (F.KRG_APT_OWNER 0 1) 1).put (F.KRG_APT_PLEN 0 1)
     2)).put (F.KRG_TXRDY_RDY 0) 2).put F.KRG_TXBASE_BASE 0x8000), 1, noErr _ rfl, by unfold BanksFree; decide⟩,
   ⟨(((((((((awake.put F.KRG_STAT_STATE 5).put F.SYS_CHID_CHID 1).put (F.KRG_APT_EN 0 1) 1).put (F.KRG_APT_OWNER 0 1) 1).put (F.KRG_APT_PLEN 0 1)
     2)).put (F.KRG_TXRDY_RDY 0) 2).put F.KRG_TXBASE_BASE 0x8000).setReg R.ARB_LKST 0xFFFFFFF0), 1, 0, noErr _ rfl, by decide⟩,
   ⟨(((((((((awake.put F.KRG_STAT_STATE 5).put F.SYS_CHID_CHID 1).put (F.KRG_APT_EN 0 1) 1).put (F.KRG_APT_OWNER 0 1) 1).put (F.KRG_APT_PLEN 0 1)
     2)).put (F.KRG_TXRDY_RDY 0) 2).put F.KRG_TXBASE_BASE 0x8000).setReg R.ARB_LKST 0xFFFFFF90), 1, 0, noErr _ rfl, by decide⟩,
   ⟨{ ((((((awake.put F.KRG_STAT_STATE 5).put F.SYS_CHID_CHID 1).put (F.KRG_APT_EN 0 1) 1).put (F.KRG_APT_OWNER 0 1) 1).put (F.KRG_APT_PLEN 0 1) 2)) with krg := { payload := some (1, [7, 7, 7, 7, 7, 7, 7, 7]) } },
     1, 0, (1, [7, 7, 7, 7, 7, 7, 7, 7]), noErr _ rfl, by decide⟩,
   ⟨{ ((((((awake.put F.KRG_STAT_STATE 5).put F.SYS_CHID_CHID 1).put (F.KRG_APT_EN 0 1) 1).put (F.KRG_APT_OWNER 0 1) 1).put (F.KRG_APT_PLEN 0 1) 2)) with mode := .safe, krg := { payload := some (1, [7, 7, 7, 7, 7, 7, 7, 7]) } },
     1, 0, (1, [7, 7, 7, 7, 7, 7, 7, 7]), noErr _ rfl, by decide⟩⟩

theorem test_witness_RingCycle :
    (∃ (s : Machine.State), (∀ (a : Nat), s.errs a = 0) ∧ injDue s 128 = none ∧ ringRuns s = true ∧ s.get F.KRG_CYC_CYC32 = 4294967295) ∧
    (∃ (s : Machine.State), (∀ (a : Nat), s.errs a = 0) ∧ injDue s 128 = none ∧ ringRuns s = true ∧ s.get F.KRG_CYC_CYC32 ≠ 4294967295 ∧ modeMinority
      s = true) ∧
    (∃ (s : Machine.State), (∀ (a : Nat), s.errs a = 0) ∧ injDue s 128 = none ∧ ringRuns s = true ∧ s.get F.KRG_CYC_CYC32 ≠ 4294967295 ∧ modeMinority
      s = false ∧ s.krg.flipVote = false ∧ s.krg.flipMirror = false ∧ s.flag F.KRG_VOTE_FLIPREQ = false ∧ (∀ (p : Nat), p < 4 → (s.port p).miss < 3 ∧
      s.flag (F.KRG_PORTSTAT_LOOP p) = false) ∧ modesVoted s = [] ∧ s.krg.swVote = none) ∧
    (∃ (s : Machine.State) (m : Nat), (∀ (a : Nat), s.errs a = 0) ∧ injDue s 128 = none ∧ ringRuns s = true ∧ s.get F.KRG_CYC_CYC32 ≠ 4294967295 ∧
      modeMinority s = false ∧ s.krg.flipVote = false ∧ s.krg.flipMirror = false ∧ s.flag F.KRG_VOTE_FLIPREQ = false ∧ (∀ (p : Nat), p < 4 → (s.port
      p).miss < 3 ∧ s.flag (F.KRG_PORTSTAT_LOOP p) = false) ∧ modesVoted s = [m] ∧ m < 8 ∧ (allVoted s (fun e => e.swv == some m) (s.krg.ownSw == some
      m) = true)) ∧
    (∃ (s : Machine.State) (m : Nat), (∀ (a : Nat), s.errs a = 0) ∧ injDue s 128 = none ∧ ringRuns s = true ∧ s.get F.KRG_CYC_CYC32 ≠ 4294967295 ∧
      modeMinority s = false ∧ s.krg.flipVote = false ∧ s.krg.flipMirror = false ∧ s.flag F.KRG_VOTE_FLIPREQ = false ∧ (∀ (p : Nat), p < 4 → (s.port
      p).miss < 3 ∧ s.flag (F.KRG_PORTSTAT_LOOP p) = false) ∧ modesVoted s = [m] ∧ m < 8 ∧ s.bit F.KRG_VOTE_AUTOMASK m = true ∧ s.flag
      F.KRG_VOTE_SWREQ = false ∧ ((s.krg.heard.any fun e => e.src != ownId s && e.swv == some m) = true) ∧ s.krg.swVote = none ∧ (allVoted s (fun e =>
      e.swv == some m) (s.krg.ownSw == some m) = false)) ∧
    (∃ (s : Machine.State), (∀ (a : Nat), s.errs a = 0) ∧ injDue s 128 = none ∧ ringRuns s = true ∧ (s.flag F.LNK_STAT_INSTEP = false ∨ s.get
      F.LNK_XCFG_NSNAP = 0)) ∧
    (∃ (s : Machine.State), (∀ (a : Nat), s.errs a = 0) ∧ injDue s 128 = none ∧ ringRuns s = true ∧ s.flag F.LNK_STAT_INSTEP = true ∧ s.get
      F.LNK_XCFG_NSNAP ≠ 0 ∧ s.get F.KRG_CYC_CYC32 % s.get F.LNK_XCFG_NSNAP = 0 ∧ 536870912 ≤ BitVec.toNat (s.reg R.LNK_SNAPSRC) ∧ BitVec.toNat (s.reg
      R.LNK_SNAPSRC) + 4 * s.get F.LNK_XCFG_NSNAP ≤ 541065216 ∧ BanksFree s) ∧
    (∃ (s : Machine.State), (∀ (a : Nat), s.errs a = 0) ∧ injDue s 128 = none ∧ ringRuns s = true ∧ ringState s = 4 ∧ (32 * (s.get
      F.KRG_SYNCCFG_OFSLIM * 10) < (midpoint (List.map (fun x => x.snd) (devMeans s))).natAbs)) ∧
    (∃ (s : Machine.State), (∀ (a : Nat), s.errs a = 0) ∧ injDue s 128 = none ∧ ringRuns s = true ∧ ringState s = 4 ∧ ((midpoint (List.map (fun x =>
      x.snd) (devMeans s))).natAbs ≤ 32 * (s.get F.KRG_SYNCCFG_OFSLIM * 10)) ∧ s.krg.rateRun < 15) :=
  ⟨⟨((State.reset.put F.KRG_STAT_STATE 5).put F.KRG_CYC_CYC32 0xFFFFFFFF), noErr _ rfl, by decide⟩,
   ⟨{ ((State.reset.put F.KRG_STAT_STATE 5).put F.KRG_STAT_MODE 2) with krg := { timeValid := true, heard := [{ src := 3, int := false, mode := 5, swv := none, flip := false }, { src := 4, int := false, mode := 5, swv := none, flip := false }] } },
     noErr _ rfl, by decide⟩,
   ⟨(State.reset.put F.KRG_STAT_STATE 5), noErr _ rfl, by decide⟩,
   ⟨{ ((State.reset.put F.KRG_STAT_STATE 5).put F.KRG_VOTESTAT_VOTERS 0x18) with krg := { timeValid := true, heard := [{ src := 3, int := false, mode := 0, swv := some 4, flip := false }, { src := 4, int := false, mode := 0, swv := some 4, flip := false }] } },
     4, noErr _ rfl, by decide⟩,
   ⟨{ (((State.reset.put F.KRG_STAT_STATE 5).put F.KRG_VOTESTAT_VOTERS 0x18).put F.KRG_VOTE_AUTOMASK 255) with krg := { timeValid := true, heard := [{ src := 3, int := false, mode := 0, swv := some 4, flip := false }, { src := 4, int := false, mode := 0, swv := none, flip := false }] } },
     4, noErr _ rfl, by decide⟩,
   ⟨(State.reset.put F.KRG_STAT_STATE 5), noErr _ rfl, by decide⟩,
   ⟨((((State.reset.put F.KRG_STAT_STATE 5).put F.LNK_STAT_INSTEP 1).put F.LNK_XCFG_NSNAP 4).setReg R.LNK_SNAPSRC 0x20000100), noErr _ rfl,
     by unfold BanksFree; decide⟩,
   ⟨{ (State.reset.put F.KRG_STAT_STATE 4) with krg := { devs := [(2, (0, 100000)), (3, (0, 100000))] } }, noErr _ rfl, by decide⟩,
   ⟨(State.reset.put F.KRG_STAT_STATE 4), noErr _ rfl, by decide⟩⟩

theorem test_witness_RingStartUp :
    (∃ (s : Machine.State) (i : Nat), s.krg.timeValid = true ∧ 100 * i ≤ 106 * s.get F.HWM_GCFG_CYCLEN ∧ 94 * s.get F.HWM_GCFG_CYCLEN ≤ 100 * i) ∧
    (∃ (s : Machine.State) (i : Nat), s.krg.timeValid = true ∧ (106 * s.get F.HWM_GCFG_CYCLEN < 100 * i ∨ 100 * i < 94 * s.get F.HWM_GCFG_CYCLEN)) ∧
    (∃ (s : Machine.State), s.krg.timeValid = false) ∧
    (∃ (s : Machine.State) (late : Bool) (k : Nat), (if late = true then ringState s = 3 else ringState s = 1 ∧ s.flag F.KRG_CTL_CSEN = true) ∧
      firstSlot s (s.get F.KRG_CTL_CSMODE) = some k ∧ allDown s = false ∧ mayJoin s = true) ∧
    (∃ (s : Machine.State) (late : Bool), (if late = true then ringState s = 3 else ringState s = 1 ∧ s.flag F.KRG_CTL_CSEN = true) ∧ (firstSlot s
      (s.get F.KRG_CTL_CSMODE) = none ∨ allDown s = true ∨ mayJoin s = false)) ∧
    (∃ (s : Machine.State) (v : Word), s.flag F.KRG_CTL_EN = false ∧ bitOf v 31 = true ∧ layoutOk s = true) ∧
    (∃ (s : Machine.State) (v : Word), s.flag F.KRG_CTL_EN = false ∧ bitOf v 31 = true ∧ layoutOk s = false) ∧
    (∃ (s : Machine.State) (v : Word), s.flag F.KRG_CTL_EN = true ∧ bitOf v 31 = false) ∧
    (∃ (s : Machine.State), s.flag F.CFG_STAT_ARMED = false ∧ canArm s = true) ∧
    (∃ (s : Machine.State), s.flag F.CFG_STAT_ARMED = false ∧ canArm s = false) ∧
    (∃ (s : Machine.State), ringRuns s = true) ∧
    (∃ (s : Machine.State), ringRuns s = false ∧ s.krg.keysNext = []) :=
  ⟨⟨{ (State.reset.put F.HWM_GCFG_CYCLEN 100) with krg := { timeValid := true } }, 106, by decide⟩,
   ⟨{ State.reset with krg := { State.reset.krg with timeValid := true } }, 0, by decide⟩,
   ⟨{ State.reset with krg := { State.reset.krg with timeValid := false } }, by decide⟩,
   ⟨{ (((((((((((State.reset.put F.KRG_CTL_CSEN 1).put F.KRG_STAT_STATE 1).put (F.KRG_APT_EN 0 1) 1).put (F.KRG_APT_OWNER 0 1) 1).put F.SYS_CHID_CHID 1).put (F.KRG_TXRDY_RDY 0) 2).setReg R.PWR_DOMCTL 0xF).put (F.KRG_PORTSTAT_LINK 0) 1).put (F.KRG_PORTSTAT_LINK 1) 1).put (F.KRG_PORTSTAT_LINK 2) 1).put (F.KRG_PORTSTAT_LINK 3) 1) with mode := .integrate, sub := .none, pwr := { State.reset.pwr with seq := .done } },
     false, 1, by decide⟩,
   ⟨(State.reset.put F.KRG_STAT_STATE 3), true, by decide⟩,
   ⟨State.reset, 0x80000000, by decide⟩,
   ⟨(((State.reset.put (F.KRG_APT_EN 0 1) 1).put (F.KRG_APT_START 0 1) 0xFFFF).put (F.KRG_APT_PLEN 0 1) 63), 0x80000000, by decide⟩,
   ⟨(State.reset.put F.KRG_CTL_EN 1), 0, by decide⟩,
   ⟨(awake.put F.CFG_CTL_SHRDY 1), by decide⟩,
   ⟨(State.reset.put F.CFG_STAT_ARMED 0), by decide⟩,
   ⟨(State.reset.put F.KRG_STAT_STATE 4), by decide⟩,
   ⟨{ State.reset with krg := { State.reset.krg with keysNext := [] } }, by decide⟩⟩

theorem test_witness_CanControllers :
    (∃ (s : Machine.State) (c : Fin 2) (b : Fin 32), (∀ (a : Nat), s.errs a = 0) ∧ injDue s 128 = none ∧ s.flag F.CLK_GATE_CAN = true ∧ BanksFree s ∧
      (s.canOf ↑c).onBus = some ↑b ∧ s.get (F.CAN_MCTL_OPMODE ↑c) < 3) ∧
    (∃ (s : Machine.State) (c : Fin 2) (b : Fin 32), (∀ (a : Nat), s.errs a = 0) ∧ injDue s 128 = none ∧ s.flag F.CLK_GATE_CAN = true ∧ BanksFree s ∧
      (s.canOf ↑c).onBus ≠ some ↑b) ∧
    (∃ (s : Machine.State) (c : Fin 2) (fr : CanFrame) (b : Nat), (∀ (a : Nat), s.errs a = 0) ∧ injDue s 128 = none ∧ s.flag F.CLK_GATE_CAN = true ∧
      BanksFree s ∧ (s.canOf ↑c).onBus = some b ∧ b < 32 ∧ s.get (F.CAN_MCTL_OPMODE ↑c) ≠ 3 ∧ s.flag (F.CAN_MCTL_ONESHOT ↑c) = true ∧ rxPlace s (↑c)
      fr = none) ∧
    (∃ (s : Machine.State) (c : Fin 2), (∀ (a : Nat), s.errs a = 0) ∧ injDue s 128 = none ∧ s.flag F.CLK_GATE_CAN = true ∧ BanksFree s ∧ s.get
      (F.CAN_MCTL_OPMODE ↑c) = 3) ∧
    (∃ (s : Machine.State) (c : Fin 2) (fr : CanFrame), (∀ (a : Nat), s.errs a = 0) ∧ injDue s 128 = none ∧ s.flag F.CLK_GATE_CAN = true ∧ BanksFree s
      ∧ (s.canOf ↑c).onBus = none ∧ s.get (F.CAN_MCTL_OPMODE ↑c) ≠ 3 ∧ s.flag (F.CAN_MCTL_CONF ↑c) = false ∧ s.flag (F.CAN_STAT_BUSOFF ↑c) = false ∧
      fr.fd = false ∧ rxPlace s (↑c) fr = none) ∧
    (∃ (s : Machine.State) (c : Fin 2) (fr : CanFrame) (x : Nat × Nat) (a : Nat), (∀ (a : Nat), s.errs a = 0) ∧ injDue s 128 = none ∧ s.flag
      F.CLK_GATE_CAN = true ∧ BanksFree s ∧ (s.canOf ↑c).onBus = none ∧ s.get (F.CAN_MCTL_OPMODE ↑c) ≠ 3 ∧ s.flag (F.CAN_MCTL_CONF ↑c) = false ∧
      s.flag (F.CAN_STAT_BUSOFF ↑c) = false ∧ fr.fd = false ∧ rxPlace s (↑c) fr = some x ∧ x.fst ≤ 1 ∧ s.get (qFill (↑c) x.fst) < s.get (qSize (↑c)
      x.fst) ∧ a = rxElement s (↑c) x.fst ((s.get (qHead (↑c) x.fst) + s.get (qFill (↑c) x.fst)) % s.get (qSize (↑c) x.fst)) ∧ 536870912 ≤ a ∧ a + 80
      ≤ 541065216) ∧
    (∃ (s : Machine.State) (c : Fin 2) (fr : CanFrame) (x : Nat × Nat), (∀ (a : Nat), s.errs a = 0) ∧ injDue s 128 = none ∧ s.flag F.CLK_GATE_CAN =
      true ∧ BanksFree s ∧ (s.canOf ↑c).onBus = none ∧ s.get (F.CAN_MCTL_OPMODE ↑c) ≠ 3 ∧ s.flag (F.CAN_MCTL_CONF ↑c) = false ∧ s.flag
      (F.CAN_STAT_BUSOFF ↑c) = false ∧ fr.fd = false ∧ rxPlace s (↑c) fr = some x ∧ s.get (qSize (↑c) x.fst) ≤ s.get (qFill (↑c) x.fst) ∧ s.flag (qPol
      (↑c) x.fst) = false) ∧
    (∃ (s : Machine.State) (c : Fin 2) (v : Word), (∀ (a : Nat), s.errs a = 0) ∧ injDue s 128 = none ∧ s.flag F.CLK_GATE_CAN = true ∧ BanksFree s ∧
      bitsOf v 22 16 = 0 ∧ bitsOf v 6 0 ≤ s.get (qFill (↑c) 0)) ∧
    (∃ (s : Machine.State) (c : Fin 2) (v : Word), (∀ (a : Nat), s.errs a = 0) ∧ injDue s 128 = none ∧ s.flag F.CLK_GATE_CAN = true ∧ BanksFree s ∧
      s.get (qFill (↑c) 0) < bitsOf v 6 0) ∧
    (∃ (s : Machine.State) (k : CanErrKind), (∀ (a : Nat), s.errs a = 0) ∧ injDue s 128 = none ∧ s.flag F.CLK_GATE_CAN = true ∧ BanksFree s ∧ k ≠
      CanErrKind.protocolException) ∧
    (∃ (s : Machine.State) (c : Fin 2), (∀ (a : Nat), s.errs a = 0) ∧ injDue s 128 = none ∧ s.flag F.CLK_GATE_CAN = true ∧ BanksFree s ∧ s.flag
      (F.CAN_MCTL_PEXOFF ↑c) = false) ∧
    (∃ (s : Machine.State) (c : Fin 2), (∀ (a : Nat), s.errs a = 0) ∧ injDue s 128 = none ∧ s.flag F.CLK_GATE_CAN = true ∧ BanksFree s ∧ s.flag
      (F.CAN_STAT_BUSOFF ↑c) = true ∧ s.flag (F.CAN_MCTL_CONF ↑c) = false ∧ s.pwr.entry = 0) ∧
    (∃ (s : Machine.State) (c : Fin 2) (v : Word), (∀ (a : Nat), s.errs a = 0) ∧ injDue s 128 = none ∧ s.flag F.CLK_GATE_CAN = true ∧ BanksFree s ∧
      s.flag (F.CAN_MCTL_CONF ↑c) = true ∧ bitsOf v 30 28 ≤ 4) ∧
    (∃ (s : Machine.State) (c : Fin 2) (v : Word), (∀ (a : Nat), s.errs a = 0) ∧ injDue s 128 = none ∧ s.flag F.CLK_GATE_CAN = true ∧ BanksFree s ∧
      s.flag (F.CAN_MCTL_CONF ↑c) = false ∧ bitOf v 31 = true ∧ (s.canOf ↑c).onBus = none) ∧
    (∃ (s : Machine.State) (c : Fin 2) (v : Word) (b : Nat), (∀ (a : Nat), s.errs a = 0) ∧ injDue s 128 = none ∧ s.flag F.CLK_GATE_CAN = true ∧
      BanksFree s ∧ s.flag (F.CAN_MCTL_CONF ↑c) = false ∧ bitOf v 31 = true ∧ (s.canOf ↑c).onBus = some b) :=
  ⟨⟨{ ((State.reset.put (F.CAN_MCTL_CONF 0) 0).put F.CLK_GATE_CAN 1) with can := [(0, { onBus := some 3 })] }, 0, 3, noErr _ rfl,
     by unfold BanksFree; decide⟩,
   ⟨(State.reset.put F.CLK_GATE_CAN 1), 0, 0, noErr _ rfl, by unfold BanksFree; decide⟩,
   ⟨{ ((((State.reset.put (F.CAN_MCTL_CONF 0) 0).put F.CLK_GATE_CAN 1).put (F.CAN_MCTL_ONESHOT 0) 1).put (F.CAN_RXQ_NOMATCH 0) 0) with can := [(0, { onBus := some 3 })] },
     0, { ext := false, rmt := false, fd := false, ident := 5, brs := false, esi := false, dlc := 0, data := [] }, 3, noErr _ rfl,
     by unfold BanksFree; decide⟩,
   ⟨((State.reset.put F.CLK_GATE_CAN 1).put (F.CAN_MCTL_OPMODE 0) 3), 0, noErr _ rfl, by unfold BanksFree; decide⟩,
   ⟨(State.reset.put (F.CAN_MCTL_CONF 0) 0), 0,
     { ext := false, rmt := false, fd := false, ident := 5, brs := false, esi := false, dlc := 0, data := [] }, noErr _ rfl,
     by unfold BanksFree; decide⟩,
   ⟨((((State.reset.put (F.CAN_MCTL_CONF 0) 0).put (F.CAN_RXQ_NOMATCH 0) 1).put (F.CAN_RXQ_Q1SIZE 0) 4).put (F.CAN_RXBASE_BASE 0) 0x2000010), 0,
     { ext := false, rmt := false, fd := false, ident := 5, brs := false, esi := false, dlc := 0, data := [] }, (1, 63), 536872448, noErr _ rfl,
     by unfold BanksFree; decide⟩,
   ⟨(((((State.reset.put (F.CAN_MCTL_CONF 0) 0).put (F.CAN_RXQ_NOMATCH 0) 1).put (F.CAN_RXQ_Q1SIZE 0) 4).put (F.CAN_RXBASE_BASE 0) 0x2000010).put
     (F.CAN_RXPTR_Q1FILL 0) 4), 0, { ext := false, rmt := false, fd := false, ident := 5, brs := false, esi := false, dlc := 0, data := [] }, (1, 63),
     noErr _ rfl, by unfold BanksFree; decide⟩,
   ⟨(State.reset.put F.CLK_GATE_CAN 1), 0, 0, noErr _ rfl, by unfold BanksFree; decide⟩,
   ⟨(State.reset.put F.CLK_GATE_CAN 1), 0, 1, noErr _ rfl, by unfold BanksFree; decide⟩,
   ⟨(State.reset.put F.CLK_GATE_CAN 1), .ack, noErr _ rfl, by unfold BanksFree; decide⟩,
   ⟨((State.reset.put F.CLK_GATE_CAN 1).put (F.CAN_MCTL_PEXOFF 0) 0), 0, noErr _ rfl, by unfold BanksFree; decide⟩,
   ⟨{ (((State.reset.put F.CLK_GATE_CAN 1).put (F.CAN_STAT_BUSOFF 0) 1).put (F.CAN_MCTL_CONF 0) 0) with pwr := { State.reset.pwr with entry := 0 } },
     0, noErr _ rfl, by unfold BanksFree; decide⟩,
   ⟨((State.reset.put F.CLK_GATE_CAN 1).put (F.CAN_MCTL_CONF 0) 1), 0, 0, noErr _ rfl, by unfold BanksFree; decide⟩,
   ⟨(State.reset.put (F.CAN_MCTL_CONF 0) 0), 0, 0x80000000, noErr _ rfl, by unfold BanksFree; decide⟩,
   ⟨{ (State.reset.put (F.CAN_MCTL_CONF 0) 0) with can := [(0, { onBus := some 4 })] }, 0, 0x80000000, 4, noErr _ rfl, by unfold BanksFree; decide⟩⟩

theorem test_witness_LinkAndShadow :
    (∃ (s : Machine.State) (v : List (Nat × List Word)), s.flag F.LNK_CTL_EN = true ∧ s.krg.timeValid = true ∧ s.get F.LNK_XCFG_NSNAP = 0 ∧ (v =
      List.filter (fun e => isVoter e.snd) (members s)) ∧ v ≠ []) ∧
    (∃ (s : Machine.State) (bits : BitVec 9), s.flag F.LNK_CTL_EN = true ∧ s.krg.timeValid = true ∧ frameFaulted s bits = false ∧ s.flag
      F.LNK_STAT_LINEFLT = false ∧ s.flag F.LNK_STAT_TOKEN = false ∧ dom bits 0 = false ∧ claimed bits = true ∧ claims s bits = true ∧ lostAt (ownId
      s) bits = none ∧ s.lnk.faulted = 0) ∧
    (∃ (s : Machine.State) (bits : BitVec 9), s.flag F.LNK_CTL_EN = true ∧ s.krg.timeValid = true ∧ frameFaulted s bits = true ∧ s.lnk.faulted = 1 ∧
      s.flag F.LNK_STAT_LINEFLT = false) ∧
    (∃ (s : Machine.State), s.flag F.LNK_STAT_TOKEN = true) ∧
    (∃ (s : Machine.State), s.mode = Mode.boot ∨ s.mode = Mode.service) ∧
    (∃ (s : Machine.State), ¬(s.mode = Mode.boot ∨ s.mode = Mode.service)) ∧
    (∃ (s : Machine.State) (a : Word), (∀ (a : Nat), s.errs a = 0) ∧ 805437440 ≤ BitVec.toNat a ∧ BitVec.toNat a < 805568512 ∧ shadowHeld s = false ∧
      injDue s 128 = none) ∧
    (∃ (a : Word), 805306368 ≤ BitVec.toNat a ∧ BitVec.toNat a < 805437440) ∧
    (∃ (s : Machine.State), s.flag F.CFG_STAT_ARMED = false) :=
  ⟨⟨{ (((((State.reset.put F.LNK_CTL_EN 1).put F.SYS_CHID_CHID 1).put (F.LNK_CH_EN 0) 1).put (F.LNK_CH_MEMBER 0) 1).put F.LNK_XCFG_NSNAP 0) with krg := { timeValid := true }, lnk := { sent := some (0xA8000000 :: List.replicate 15 0) } },
     [(1, 0xA8000000 :: List.replicate 15 0)], by decide⟩,
   ⟨{ ((((awake.put F.LNK_CTL_EN 1).put F.LNK_STAT_INSTEP 1).put F.LNK_CTL_CLAIMEN 1).put F.SYS_CHID_CHID 1) with krg := { timeValid := true } }, 371,
     by decide⟩,
   ⟨{ ((State.reset.put F.LNK_CTL_EN 1).put F.LNK_STAT_LINEFLT 0) with krg := { State.reset.krg with timeValid := true }, lnk := { State.reset.lnk with faulted := 1 } },
     0, by decide⟩,
   ⟨(State.reset.put F.LNK_STAT_TOKEN 1), by decide⟩,
   ⟨State.reset, by decide⟩,
   ⟨awake, by decide⟩,
   ⟨State.reset, 0x3003FFFC, noErr _ rfl, by decide⟩,
   ⟨0x3001FFFC, by decide⟩,
   ⟨(State.reset.put F.CFG_STAT_ARMED 0), by decide⟩⟩

theorem test_witness_TestsOnDemand :
    (∃ (s : Machine.State) (r : Nat) (l : List Nat), bitsIn 17 (s.get F.BST_CTL_MASK) = r :: l ∧ s.flag F.BST_STAT_RUN = false ∧ s.mode =
      Mode.service) ∧
    (∃ (s : Machine.State), s.flag F.BST_STAT_RUN = false ∧ (s.mode ≠ Mode.service ∨ bitsIn 17 (s.get F.BST_CTL_MASK) = [])) ∧
    (∃ (s : Machine.State) (r : Nat) (c : Nat), s.flag F.BST_STAT_RUN = true ∧ s.get F.BST_STAT_ORIGIN = 2 ∧ r = s.get F.BST_STAT_REGION ∧ r < 17 ∧ c
      = s.get F.BST_STAT_COPY ∧ s.mir.frozen = [] ∧ s.mir.flipFor = []) ∧
    (∃ (s : Machine.State) (r : Nat), s.flag F.BST_STAT_RUN = true ∧ s.get F.BST_STAT_ORIGIN = 2 ∧ r = s.get F.BST_STAT_REGION ∧ r < 17 ∧ s.get
      F.BST_STAT_COPY = 0) ∧
    (∃ (s : Machine.State) (step : Nat) (arg : Nat), step = s.get F.BST_ACTL_STEP ∧ arg = s.get F.BST_ACTL_ARG ∧ s.bist.step = false ∧ anAllowed step
      arg s = true) ∧
    (∃ (s : Machine.State), s.bist.step = true) ∧
    (∃ (s : Machine.State), s.bist.step = false ∧ anAllowed (s.get F.BST_ACTL_STEP) (s.get F.BST_ACTL_ARG) s = false) :=
  ⟨⟨{ (State.reset.put F.BST_CTL_MASK 0x10001) with mode := .service, sub := .none }, 0, [16], by decide⟩,
   ⟨(State.reset.put F.BST_STAT_RUN 0), by decide⟩,
   ⟨((((State.reset.put F.BST_STAT_RUN 1).put F.BST_STAT_ORIGIN 2).put F.BST_STAT_REGION 16).put F.BST_STAT_COPY 1), 16, 1, by decide⟩,
   ⟨((((State.reset.put F.BST_STAT_RUN 1).put F.BST_STAT_ORIGIN 2).put F.BST_STAT_REGION 16).put F.BST_STAT_COPY 0), 16, by decide⟩,
   ⟨{ (State.reset.put F.BST_ACTL_STEP 1) with mode := .service, sub := .none }, 1, 0, by decide⟩,
   ⟨{ State.reset with bist := { State.reset.bist with step := true } }, by decide⟩,
   ⟨{ (State.reset.put F.BST_ACTL_STEP 0) with mode := .service, sub := .none }, by decide⟩⟩

theorem test_witness_MarginPlanner :
    (∃ (s : Machine.State) (k : Fin 8) (e : Nat × Int), (e = mget (fun _ => (0, 0)) s.mgn.sums (128 + 4 * ↑k)) ∧ mgnSees s = true ∧ (mget (fun _ => 0)
      s.mgn.turn ↑k = 0) ∧ 0 ≤ e.snd ∧ 15 ≤ e.fst) ∧
    (∃ (s : Machine.State) (k : Fin 8) (e : Nat × Int), (e = mget (fun _ => (0, 0)) s.mgn.sums (128 + 4 * ↑k)) ∧ mgnSees s = true ∧ (mget (fun _ => 0)
      s.mgn.turn ↑k = 0) ∧ 0 ≤ e.snd ∧ e.fst < 15) ∧
    (∃ (s : Machine.State) (k : Fin 24) (d : Int) (p : Int), d = ↑(max (s.get (F.MGN_TOFF_HS ↑k)) (s.get (F.MGN_TOFF_LS ↑k)) + bitsOf (s.spb 82) 15 0)
      - ↑(s.get (F.PWM_DT_DTBASE ↑k)) ∧ p = s.getS (F.PWM_DT_DTADJ ↑k) + clampInt (d - s.getS (F.PWM_DT_DTADJ ↑k)) (-64) 64 ∧ mgnOn s = true ∧ s.flag
      F.MGN_CTL_DTEN = true ∧ s.get (F.MGN_TOFF_HS ↑k) ≠ 0 ∧ s.get (F.MGN_TOFF_LS ↑k) ≠ 0 ∧ p ≠ s.getS (F.PWM_DT_DTADJ ↑k) ∧ signed 16 (bitsOf (s.spb
      (64 + ↑k / 3)) 15 0) ≤ p ∧ p ≤ signed 16 (bitsOf (s.spb (64 + ↑k / 3)) 31 16)) ∧
    (∃ (s : Machine.State) (k : Fin 24) (d : Int) (p : Int), d = ↑(max (s.get (F.MGN_TOFF_HS ↑k)) (s.get (F.MGN_TOFF_LS ↑k)) + bitsOf (s.spb 82) 15 0)
      - ↑(s.get (F.PWM_DT_DTBASE ↑k)) ∧ p = s.getS (F.PWM_DT_DTADJ ↑k) + clampInt (d - s.getS (F.PWM_DT_DTADJ ↑k)) (-64) 64 ∧ mgnOn s = true ∧ s.flag
      F.MGN_CTL_DTEN = true ∧ s.get (F.MGN_TOFF_HS ↑k) ≠ 0 ∧ s.get (F.MGN_TOFF_LS ↑k) ≠ 0 ∧ p = s.getS (F.PWM_DT_DTADJ ↑k) ∧ signed 16 (bitsOf (s.spb
      (64 + ↑k / 3)) 15 0) ≤ p ∧ p ≤ signed 16 (bitsOf (s.spb (64 + ↑k / 3)) 31 16)) ∧
    (∃ (s : Machine.State) (k : Fin 24) (d : Int) (p : Int), d = ↑(max (s.get (F.MGN_TOFF_HS ↑k)) (s.get (F.MGN_TOFF_LS ↑k)) + bitsOf (s.spb 82) 15 0)
      - ↑(s.get (F.PWM_DT_DTBASE ↑k)) ∧ p = s.getS (F.PWM_DT_DTADJ ↑k) + clampInt (d - s.getS (F.PWM_DT_DTADJ ↑k)) (-64) 64 ∧ mgnOn s = true ∧ s.flag
      F.MGN_CTL_DTEN = true ∧ s.get (F.MGN_TOFF_HS ↑k) ≠ 0 ∧ s.get (F.MGN_TOFF_LS ↑k) ≠ 0 ∧ (p < signed 16 (bitsOf (s.spb (64 + ↑k / 3)) 15 0) ∨
      signed 16 (bitsOf (s.spb (64 + ↑k / 3)) 31 16) < p) ∧ (p ≠ s.getS (F.PWM_DT_DTADJ ↑k) ∨ isApproved s ↑k = false)) ∧
    (∃ (s : Machine.State) (k : Fin 24) (p : Int), mgnOn s = true ∧ BridgeIdle s ∧ s.flag F.MGN_CTL_THREN = true ∧ s.get (F.MGN_RON_HS ↑k) ≠ 65535 ∧
      s.get (F.MGN_RON_LS ↑k) ≠ 65535 ∧ p = s.getS (F.GDR_VDS_THRADJ ↑k) + clampInt (↑(thrTarget (bitsOf (s.spb (72 + ↑k / 3)) 23 16 * bitsOf (s.spb
      (72 + ↑k / 3)) 31 24 * max (s.get (F.MGN_RON_HS ↑k)) (s.get (F.MGN_RON_LS ↑k)))) - ↑(s.get (F.GDR_VDS_THR ↑k)) - s.getS (F.GDR_VDS_THRADJ ↑k))
      (-1) 1 ∧ p = s.getS (F.GDR_VDS_THRADJ ↑k) ∧ signed 5 (bitsOf (s.spb (72 + ↑k / 3)) 4 0) ≤ p ∧ p ≤ signed 5 (bitsOf (s.spb (72 + ↑k / 3)) 12 8)) ∧
    (∃ (s : Machine.State) (k : Fin 24) (p : Int), mgnOn s = true ∧ BridgeIdle s ∧ s.flag F.MGN_CTL_THREN = true ∧ s.get (F.MGN_RON_HS ↑k) ≠ 65535 ∧
      s.get (F.MGN_RON_LS ↑k) ≠ 65535 ∧ p = s.getS (F.GDR_VDS_THRADJ ↑k) + clampInt (↑(thrTarget (bitsOf (s.spb (72 + ↑k / 3)) 23 16 * bitsOf (s.spb
      (72 + ↑k / 3)) 31 24 * max (s.get (F.MGN_RON_HS ↑k)) (s.get (F.MGN_RON_LS ↑k)))) - ↑(s.get (F.GDR_VDS_THR ↑k)) - s.getS (F.GDR_VDS_THRADJ ↑k))
      (-1) 1 ∧ p ≠ s.getS (F.GDR_VDS_THRADJ ↑k) ∧ signed 5 (bitsOf (s.spb (72 + ↑k / 3)) 4 0) ≤ p ∧ p ≤ signed 5 (bitsOf (s.spb (72 + ↑k / 3)) 12 8)) ∧
    (∃ (s : Machine.State) (k : Fin 24) (p : Int), mgnOn s = true ∧ BridgeIdle s ∧ s.flag F.MGN_CTL_THREN = true ∧ s.get (F.MGN_RON_HS ↑k) ≠ 65535 ∧
      s.get (F.MGN_RON_LS ↑k) ≠ 65535 ∧ p = s.getS (F.GDR_VDS_THRADJ ↑k) + clampInt (↑(thrTarget (bitsOf (s.spb (72 + ↑k / 3)) 23 16 * bitsOf (s.spb
      (72 + ↑k / 3)) 31 24 * max (s.get (F.MGN_RON_HS ↑k)) (s.get (F.MGN_RON_LS ↑k)))) - ↑(s.get (F.GDR_VDS_THR ↑k)) - s.getS (F.GDR_VDS_THRADJ ↑k))
      (-1) 1 ∧ (p < signed 5 (bitsOf (s.spb (72 + ↑k / 3)) 4 0) ∨ signed 5 (bitsOf (s.spb (72 + ↑k / 3)) 12 8) < p) ∧ isApproved s (32 + ↑k) = false) ∧
    (∃ (s : Machine.State), s.flag F.SYS_BRGSTAT_UP = false) ∧
    (∃ (s : Machine.State), mgnOn s = true ∧ s.pwr.vidTarget = none ∧ s.flag F.MGN_CTL_VIDEN = false) ∧
    (∃ (s : Machine.State) (l : List Int), mgnOn s = true ∧ s.pwr.vidTarget = none ∧ s.flag F.MGN_CTL_VIDEN = true ∧ (∃ j, j < 16 ∧ clampInt (l.getD j
      0) (-32768) 32767 < ↑(bitsOf (s.spb 81) 15 0)) ∧ bitsOf (s.spb 80) 4 0 ≤ s.get F.MGN_VIDP_CUR + 1 ∧ s.get F.MGN_VIDP_CUR + 1 ≤ bitsOf (s.spb 80)
      12 8) ∧
    (∃ (s : Machine.State) (v : Nat), s.pwr.vidTarget = some v ∧ s.flag F.BST_STAT_RUN = false ∧ s.get F.MGN_VIDP_CUR < v ∧ v < 32) ∧
    (∃ (s : Machine.State) (v : Nat), s.pwr.vidTarget = some v ∧ s.flag F.BST_STAT_RUN = false ∧ v < s.get F.MGN_VIDP_CUR) ∧
    (∃ (s : Machine.State) (w : Requester) (k : Fin 24) (v : Word), mayWrite s w R.MGN_APPROVE = true ∧ s.flag F.HWM_PWSTAT_UNLK = true ∧ bitOf v 31 =
      true ∧ bitsOf v 17 16 = 3 ∧ 24 ≤ bitsOf v 4 0 ∧ s.get F.MGN_APPROVE_TYPE = 0 ∧ s.get F.MGN_APPROVE_IDX = ↑k ∧ s.flag (F.MGN_DTP_HELD ↑k) = true) ∧
    (∃ (s : Machine.State) (w : Requester) (k : Fin 24), mayWrite s w R.MGN_APPROVE = true ∧ s.flag F.HWM_PWSTAT_UNLK = true ∧ BridgeIdle s ∧ s.flag
      (F.MGN_THRP_HELD ↑k) = true) ∧
    (∃ (s : Machine.State) (w : Requester) (k : Fin 24), mayWrite s w R.MGN_APPROVE = true ∧ s.flag F.HWM_PWSTAT_UNLK = true ∧ s.flag (F.MGN_DTP_HELD
      ↑k) = false) ∧
    (∃ (s : Machine.State) (w : Requester), mayWrite s w R.MGN_APPROVE = true ∧ s.flag F.HWM_PWSTAT_UNLK = false) :=
  ⟨⟨{ ((State.reset.put F.MGN_CTL_EN 1).put F.SYS_BRGSTAT_UP 1) with mgn := { sums := [(128, (15, 0))] } }, 0, (15, 0), by decide⟩,
   ⟨{ ((State.reset.put F.MGN_CTL_EN 1).put F.SYS_BRGSTAT_UP 1) with mgn := { sums := [(128, (14, 0))] } }, 0, (14, 0), by decide⟩,
   ⟨((((((((State.reset.put F.MGN_CTL_EN 1).put F.MGN_CTL_DTEN 1).put (F.MGN_TOFF_HS 0) 300).put (F.MGN_TOFF_LS 0) 200).put (F.PWM_DT_DTADJ 0) 0).put
     (F.PWM_DT_DTBASE 0) 236).setReg (R.HWM_SPB 82) 0).setReg (R.HWM_SPB 64) 0x0040FFC0), 0, 64, 64, by decide⟩,
   ⟨(((((((((State.reset.put F.MGN_CTL_EN 1).put F.SYS_BRGSTAT_UP 1).put F.MGN_CTL_DTEN 1).put (F.MGN_TOFF_HS 0) 300).put (F.MGN_TOFF_LS 0) 200).put
     (F.PWM_DT_DTADJ 0) 0).put (F.PWM_DT_DTBASE 0) 300).setReg (R.HWM_SPB 82) 0).setReg (R.HWM_SPB 64) 0x0040FFC0), 0, 0, 0, by decide⟩,
   ⟨((((((((State.reset.put F.MGN_CTL_EN 1).put F.MGN_CTL_DTEN 1).put (F.MGN_TOFF_HS 0) 300).put (F.MGN_TOFF_LS 0) 200).put (F.PWM_DT_DTADJ 0) 0).put
     (F.PWM_DT_DTBASE 0) 236).setReg (R.HWM_SPB 82) 0).setReg (R.HWM_SPB 64) 0x0000FFC0), 0, 64, 64, by decide⟩,
   ⟨((((((((State.reset.put F.MGN_CTL_EN 1).put F.SYS_BRGSTAT_UP 1).put F.MGN_CTL_THREN 1).put (F.MGN_RON_HS 0) 0).put (F.MGN_RON_LS 0) 0).put
     (F.GDR_VDS_THRADJ 0) 0).put (F.GDR_VDS_THR 0) 0).setReg (R.HWM_SPB 72) 0), 0, 0, by unfold BridgeIdle; decide⟩,
   ⟨((((((((State.reset.put F.MGN_CTL_EN 1).put F.SYS_BRGSTAT_UP 1).put F.MGN_CTL_THREN 1).put (F.MGN_RON_HS 0) 300).put (F.MGN_RON_LS 0) 200).put
     (F.GDR_VDS_THRADJ 0) 0).put (F.GDR_VDS_THR 0) 16).setReg (R.HWM_SPB 72) 0x00000F11), 0, -1, by unfold BridgeIdle; decide⟩,
   ⟨((((((((State.reset.put F.MGN_CTL_EN 1).put F.SYS_BRGSTAT_UP 1).put F.MGN_CTL_THREN 1).put (F.MGN_RON_HS 0) 300).put (F.MGN_RON_LS 0) 200).put
     (F.GDR_VDS_THRADJ 0) 0).put (F.GDR_VDS_THR 0) 16).setReg (R.HWM_SPB 72) 0x00000F00), 0, -1, by unfold BridgeIdle; decide⟩,
   ⟨(State.reset.put F.SYS_BRGSTAT_UP 0), by decide⟩,
   ⟨(State.reset.put F.MGN_CTL_EN 1), by decide⟩,
   ⟨((((((State.reset.put F.MGN_CTL_EN 1).put F.SYS_BRGSTAT_UP 1).put F.MGN_CTL_VIDEN 1).put F.MGN_VIDP_CUR 5).setReg (R.HWM_SPB 81) 7).setReg
     (R.HWM_SPB 80) 0x1F00), [], by decide, by decide, by decide, ⟨0, by decide, by decide⟩, by decide, by decide⟩,
   ⟨{ State.reset with pwr := { State.reset.pwr with vidTarget := some 31 } }, 31, by decide⟩,
   ⟨{ (State.reset.put F.BST_STAT_RUN 0) with pwr := { State.reset.pwr with vidTarget := some 0 } }, 0, by decide⟩,
   ⟨((((State.reset.put F.HWM_PWSTAT_UNLK 1).put F.MGN_APPROVE_TYPE 0).put F.MGN_APPROVE_IDX 0).put (F.MGN_DTP_HELD 0) 1), .cp, 0, 0x8003001F, by
     decide⟩,
   ⟨(((State.reset.put F.HWM_PWSTAT_UNLK 1).put F.SYS_BRGSTAT_UP 1).put (F.MGN_THRP_HELD 0) 1), .cp, 0, by unfold BridgeIdle; decide⟩,
   ⟨((State.reset.put F.HWM_PWSTAT_UNLK 1).put (F.MGN_DTP_HELD 0) 0), .cp, 0, by decide⟩,
   ⟨(State.reset.put F.HWM_PWSTAT_UNLK 0), .cp, by decide⟩⟩

theorem test_witness_FaultInjection :
    (∃ (s : Machine.State) (w : Word), s.flag F.CLK_GATE_INJ = true ∧ bitsOf w 15 0 = 6716) ∧
    (∃ (s : Machine.State) (w : Word) (at_ : Nat) (t0 : Nat), s.flag F.CLK_GATE_INJ = true ∧ s.inj.key1 = some t0 ∧ bitsOf w 15 0 = 58819 ∧ at_ ≤ t0 +
      300000) ∧
    (∃ (s : Machine.State) (w : Requester), s.flag F.CLK_GATE_INJ = true ∧ mayWrite s w R.INJ_CTL = true ∧ injAllowed s = false ∧ injBusy s = false ∧
      s.mode ≠ Mode.active) ∧
    (∃ (s : Machine.State) (w : Requester), s.flag F.CLK_GATE_INJ = true ∧ mayWrite s w R.INJ_CTL = true ∧ injBusy s = true ∧ s.mode ≠ Mode.active) ∧
    (∃ (s : Machine.State) (w : Requester), s.flag F.CLK_GATE_INJ = true ∧ mayWrite s w R.INJ_CTL = true ∧ injAllowed s = true ∧ injBusy s = false ∧
      s.mode ≠ Mode.active ∧ 78 ≤ s.get F.INJ_SEL_DET ∧ s.get F.INJ_SEL_DET < 94) ∧
    (∃ (s : Machine.State) (w : Requester), s.flag F.CLK_GATE_INJ = true ∧ mayWrite s w R.INJ_CTL = true ∧ injAllowed s = true ∧ injBusy s = false ∧
      s.get F.INJ_SEL_DET < 24) ∧
    (∃ (s : Machine.State) (det : Nat) (arg : Nat), s.flag F.CLK_GATE_INJ = true ∧ s.inj.held = some (det, arg) ∧ 24 ≤ det ∧ det < 48) ∧
    (∃ (s : Machine.State) (det : Nat) (arg : Nat), s.flag F.CLK_GATE_INJ = true ∧ s.inj.held = some (det, arg) ∧ 72 ≤ det ∧ det < 78) ∧
    (∃ (s : Machine.State) (det : Nat) (arg : Nat), s.flag F.CLK_GATE_INJ = true ∧ s.inj.held = some (det, arg) ∧ 102 ≤ det ∧ det < 106) ∧
    (∃ (s : Machine.State) (det : Nat) (arg : Nat), s.flag F.CLK_GATE_INJ = true ∧ s.inj.held = some (det, arg) ∧ 121 ≤ det ∧ det < 127) ∧
    (∃ (s : Machine.State) (det : Nat) (arg : Nat), s.flag F.CLK_GATE_INJ = true ∧ s.inj.held = some (det, arg) ∧ (det < 24 ∨ det = 133 ∨ det = 134)) ∧
    (∃ (s : Machine.State), s.flag F.CLK_GATE_INJ = true ∧ s.inj.held = none) :=
  ⟨⟨(State.reset.put F.CLK_GATE_INJ 1), 0x1A3C, by decide⟩,
   ⟨{ State.reset with inj := { key1 := some 5 } }, 0xE5C3, 300005, 5, by decide⟩,
   ⟨(State.reset.put F.CLK_GATE_INJ 1), .cp, by decide⟩,
   ⟨{ State.reset with mode := .service, sub := .none, inj := { waiting := [(119, 0)] } }, .cp, by decide⟩,
   ⟨{ ((State.reset.put F.INJ_STAT_ARMED 1).put F.INJ_SEL_DET 93) with mode := .service, sub := .none }, .cp, by decide⟩,
   ⟨{ ((State.reset.put F.INJ_STAT_ARMED 1).put F.INJ_SEL_DET 23) with mode := .service, sub := .none }, .cp, by decide⟩,
   ⟨{ State.reset with inj := { held := some (47, 0) } }, 47, 0, by decide⟩,
   ⟨{ State.reset with inj := { held := some (72, 0) } }, 72, 0, by decide⟩,
   ⟨{ State.reset with inj := { held := some (102, 0) } }, 102, 0, by decide⟩,
   ⟨{ State.reset with inj := { held := some (121, 0) } }, 121, 0, by decide⟩,
   ⟨{ State.reset with inj := { held := some (133, 0) } }, 133, 0, by decide⟩,
   ⟨{ (State.reset.put F.CLK_GATE_INJ 1) with inj := { State.reset.inj with held := none } }, by decide⟩⟩

theorem test_witness_ServicePort :
    (∃ (s : Machine.State) (fr : SppFrame), GoodFrame s 9 fr ∧ fr.len = 0) ∧
    (∃ (s : Machine.State) (fr : SppFrame), sppOn s = true ∧ s.flag F.SPP_STAT_BUSY = false ∧ fr.raw = none ∧ crc16 (frameBody 9 fr) ≠ fr.crc) ∧
    (∃ (s : Machine.State) (fr : SppFrame), sppOn s = true ∧ s.flag F.SPP_STAT_BUSY = false ∧ fr.raw = none ∧ crc16 (frameBody 9 fr) = fr.crc ∧
      fr.data.length ≠ fr.len.toNat) ∧
    (∃ (s : Machine.State) (fr : SppFrame) (x : Byte) (l : List Byte), fr.raw = some (x :: l) ∧ sppOn s = true ∧ s.flag F.SPP_STAT_BUSY = false) ∧
    (∃ (s : Machine.State), sppOn s = true ∧ s.flag F.SPP_STAT_BUSY = true) ∧
    (∃ (s : Machine.State) (r : SppResp) (n : Nat), s.spp.resp = some r ∧ sppOn s = true ∧ (respBytes (BitVec.ofNat 8 r.seq) r).length ≤ n) ∧
    (∃ (s : Machine.State) (r : SppResp) (n : Nat), s.spp.resp = some r ∧ sppOn s = true ∧ n < (respBytes (BitVec.ofNat 8 r.seq) r).length) ∧
    (∃ (s : Machine.State) (n : Nat), s.spp.resp = none ∧ sppOn s = true ∧ 2 ≤ n) ∧
    (∃ (s : Machine.State) (fr : SppFrame), (∀ (a : Nat), s.errs a = 0) ∧ GoodFrame s 1 fr ∧ blockShape fr = true ∧ rdAllowed s fr = true ∧ injDue s
      128 = none ∧ 536870912 ≤ BitVec.toNat fr.addr ∧ BitVec.toNat fr.addr + 4 * fr.len.toNat ≤ 541065216 ∧ (∀ (b : Nat), b < 8 → lockOpen s 12 b =
      true)) ∧
    (∃ (s : Machine.State) (fr : SppFrame), GoodFrame s 1 fr ∧ blockShape fr = true ∧ rdAllowed s fr = false) ∧
    (∃ (s : Machine.State) (fr : SppFrame), (∀ (a : Nat), s.errs a = 0) ∧ GoodFrame s 2 fr ∧ blockShape fr = true ∧ wrAllowed s fr = true ∧ injDue s
      128 = none ∧ 536870912 ≤ BitVec.toNat fr.addr ∧ BitVec.toNat fr.addr + 4 * fr.len.toNat ≤ 541065216 ∧ (∀ (b : Nat), b < 8 → lockOpen s 12 b =
      true)) ∧
    (∃ (s : Machine.State) (fr : SppFrame), GoodFrame s 3 fr ∧ fr.len = 0 ∧ BitVec.toNat fr.addr % 65536 = 0 ∧ s.mode = Mode.service ∧ inFlash
      (BitVec.toNat fr.addr) = true ∧ protectedFlash (BitVec.toNat fr.addr) = false) ∧
    (∃ (s : Machine.State) (fr : SppFrame), GoodFrame s 4 fr ∧ blockShape fr = true ∧ onePage fr = true ∧ s.mode = Mode.service ∧ inFlash
      (BitVec.toNat fr.addr) = true ∧ protectedFlash (BitVec.toNat fr.addr) = false ∧ (∀ (a : Nat), a ∈ sppWords fr → s.word a = 4294967295)) ∧
    (∃ (s : Machine.State) (fr : SppFrame) (n : Nat), (∀ (a : Nat), s.errs a = 0) ∧ n = BitVec.toNat (fr.data.headD 0) ∧ GoodFrame s 5 fr ∧ fr.len = 1
      ∧ BitVec.toNat fr.addr % 4 = 0 ∧ s.mode = Mode.service ∧ inFlash (BitVec.toNat fr.addr) = true ∧ BitVec.toNat fr.addr + n ≤ 285212672 ∧ injDue s
      128 = none) ∧
    (∃ (s : Machine.State) (fr : SppFrame) (at_ : Nat), GoodFrame s 6 fr ∧ fr.len = 0 ∧ sppCol s ≠ SppCol.fail ∧ s.flag F.SYS_BRGSTAT_UP = true ∧
      s.brg.queue = [] ∧ s.flag F.HWM_PWSTAT_UNLK = false ∧ s.flag F.HWM_PWSTAT_LOCKOUT = false ∧ at_ ≤ s.hwm.wordAt + 300000000 ∧ s.hwm.words.length
      < 3) ∧
    (∃ (s : Machine.State) (fr : SppFrame), GoodFrame s 7 fr ∧ fr.len = 0 ∧ svcRow s = true) ∧
    (∃ (s : Machine.State) (fr : SppFrame), GoodFrame s 7 fr ∧ fr.len = 0 ∧ (sppCol s = SppCol.boot ∨ sppCol s = SppCol.ring) ∧ svcRow s = false) ∧
    (∃ (s : Machine.State) (fr : SppFrame), GoodFrame s 8 fr ∧ fr.len = 0 ∧ resetAllowed s fr = true ∧ resetRow s = true) ∧
    (∃ (s : Machine.State) (fr : SppFrame), GoodFrame s 8 fr ∧ fr.len = 0 ∧ resetAllowed s fr = false) ∧
    (∃ (s : Machine.State) (fr : SppFrame) (op : Byte), 10 ≤ BitVec.toNat op ∧ GoodFrame s op fr) ∧
    (∃ (s : Machine.State) (r : SppResp), s.spp.staged = some r ∧ s.spp.wait = none) :=
  ⟨⟨port, sppFr 9 0 [], by unfold GoodFrame; decide +kernel⟩,
   ⟨port, fr0, by decide +kernel⟩,
   ⟨port, { frameLong with crc := crc16 (frameBody 9 frameLong) }, by decide +kernel⟩,
   ⟨port, { fr0 with raw := some [5] }, 5, [], by decide⟩,
   ⟨(port.put F.SPP_STAT_BUSY 1), by decide⟩,
   ⟨{ port with spp := { resp := some { seq := 3, result := 0, data := [] } } }, { seq := 3, result := 0, data := [] }, 6, by decide⟩,
   ⟨{ port with spp := { resp := some { seq := 3, result := 0, data := [] } } }, { seq := 3, result := 0, data := [] }, 1, by decide⟩,
   ⟨port, 2, by decide⟩,
   ⟨port, rdFr, noErr _ rfl, by unfold GoodFrame; decide +kernel⟩,
   ⟨{ port with mode := .active }, rdFr, by unfold GoodFrame; decide +kernel⟩,
   ⟨port, sppFr 2 0x203FFFFC [5], noErr _ rfl, by unfold GoodFrame; decide +kernel⟩,
   ⟨port, sppFr 3 0x10FF0000 [], by unfold GoodFrame; decide +kernel⟩,
   ⟨port, sppFr 4 0x10FFFFFC [5], by unfold GoodFrame; decide +kernel⟩,
   ⟨port, sppFr 5 0x10FFFFF8 [8], 8, noErr _ rfl, by unfold GoodFrame; decide +kernel⟩,
   ⟨(port.put F.SYS_BRGSTAT_UP 1), sppFr 6 5 [], 0, by unfold GoodFrame; decide +kernel⟩,
   ⟨{ port with mode := .standby }, sppFr 7 0 [], by unfold GoodFrame; decide +kernel⟩,
   ⟨{ port with mode := .integrate }, sppFr 7 0 [], by unfold GoodFrame; decide +kernel⟩,
   ⟨port, sppFr 8 0xC3A5 [], by unfold GoodFrame; decide +kernel⟩,
   ⟨port, sppFr 8 5 [], by unfold GoodFrame; decide +kernel⟩,
   ⟨port, sppFr 255 0 [], 255, by unfold GoodFrame; decide +kernel⟩,
   ⟨{ port with spp := { staged := some { seq := 3, result := 0, data := [] } } }, { seq := 3, result := 0, data := [] }, by decide⟩⟩

theorem test_witness_FlashCommandsRefused :
    (∃ (s : Machine.State) (fr : SppFrame), s.mode = Mode.service ∧ GoodFrame s 4 fr ∧ blockShape fr = true ∧ onePage fr = true ∧ inFlash
      (BitVec.toNat fr.addr) = true ∧ ¬(281149440 ≤ BitVec.toNat fr.addr ∧ BitVec.toNat fr.addr < 281280512) ∧ (∃ a, a ∈ sppWords fr ∧ s.word a ≠
      4294967295)) ∧
    (∃ (s : Machine.State) (fr : SppFrame), s.mode = Mode.service ∧ GoodFrame s 4 fr ∧ blockShape fr = true ∧ onePage fr = true ∧ 281149440 ≤
      BitVec.toNat fr.addr ∧ BitVec.toNat fr.addr < 281280512) ∧
    (∃ (s : Machine.State) (fr : SppFrame), s.mode = Mode.service ∧ GoodFrame s 3 fr ∧ fr.len = 0 ∧ BitVec.toNat fr.addr % 65536 = 0 ∧ 281149440 ≤
      BitVec.toNat fr.addr ∧ BitVec.toNat fr.addr < 281280512) :=
  ⟨⟨(port.setWord 0x10FFFFFC 0), sppFr 4 0x10FFFFFC [5], by unfold GoodFrame; decide +kernel⟩,
   ⟨port, sppFr 4 0x10C3FFFC [5], by unfold GoodFrame; decide +kernel⟩,
   ⟨port, sppFr 3 0x10C20000 [], by unfold GoodFrame; decide +kernel⟩⟩

theorem test_witness_WritesAndCounters :
    (∃ (s : Machine.State), s.flag F.SYS_BRGSTAT_UP = true) ∧
    (∃ (s : Machine.State), s.flag F.SYS_BRGSTAT_UP = false) ∧
    (∃ (s : Machine.State), (∀ (a : Nat), s.errs a = 0) ∧ injDue s 128 = none) ∧
    (∃ (s : Machine.State), s.flag F.CLK_GATE_EVC = true) :=
  ⟨⟨(State.reset.put F.SYS_BRGSTAT_UP 1), by decide⟩,
   ⟨(State.reset.put F.SYS_BRGSTAT_UP 0), by decide⟩,
   ⟨State.reset, noErr _ rfl, by decide⟩,
   ⟨(State.reset.put F.CLK_GATE_EVC 1), by decide⟩⟩

end Sys2Proof.Tests
end

section
/-! PROOF. The clear of SYS.BRGERRCNT in the cycle of a repeat (R20): which bits count as set in the running cycle, what the report of
an event leaves alone, and what a repeat does to the count. -/

namespace Sys2Proof.Machine

/-! ### The bits that the running cycle has set -/

theorem testBit_foldl_marks (a i : Nat) (l : List (Nat × Nat)) (m : Nat) :
    (l.foldl (fun m e => if e.1 = a then m ||| e.2 else m) m).testBit i
      = (m.testBit i || l.any fun e => e.1 == a && e.2.testBit i) := by
  induction l generalizing m with
  | nil => simp
  | cons e l ih =>
    rw [List.foldl_cons, ih, List.any_cons]
    by_cases he : e.1 = a
    · simp [he, Bool.or_assoc]
    · simp [he, beq_false_of_ne he]

theorem State.testBit_freshBits (s : State) (a i : Nat) :
    (s.freshBits a).testBit i = s.fresh.bits.any fun e => e.1 == a && e.2.testBit i := by
  simp [State.freshBits, testBit_foldl_marks]

theorem State.freshIn_eq_false_of_bits_nil {s : State} (f : Fld) (h : s.fresh.bits = []) : s.freshIn f = false := by
  simp [State.freshIn, State.freshBits, h, bitsOf]

/-- A field counts as set in the running cycle exactly when a mark of its register names one of its bits. -/
theorem State.freshIn_iff (s : State) {f : Fld} (h : FldOk f) :
    s.freshIn f = true ↔ ∃ e ∈ s.fresh.bits, e.1 = f.a ∧ ∃ i, f.lo ≤ i ∧ i ≤ f.hi ∧ e.2.testBit i = true := by
  obtain ⟨hlo, hhi⟩ := h
  have key : ∀ i, (bitsOf (BitVec.ofNat 32 (s.freshBits f.a)) f.hi f.lo).testBit i = true ↔
      i < f.hi + 1 - f.lo ∧ ∃ e ∈ s.fresh.bits, e.1 = f.a ∧ e.2.testBit (f.lo + i) = true := fun i => by
    rw [bitsOf_testBit, BitVec.toNat_ofNat, Nat.testBit_mod_two_pow, State.testBit_freshBits]
    simp only [Bool.and_eq_true, decide_eq_true_eq, List.any_eq_true, beq_iff_eq]
    exact ⟨fun ⟨hi, _, he⟩ => ⟨hi, he⟩, fun ⟨hi, he⟩ => ⟨hi, by omega, he⟩⟩
  constructor
  · intro hf
    obtain ⟨i, hi⟩ := Nat.exists_testBit_of_ne_zero (bne_iff_ne.mp hf)
    obtain ⟨hw, e, he, ha, hb⟩ := (key i).mp hi
    exact ⟨e, he, ha, f.lo + i, by omega, by omega, hb⟩
  · rintro ⟨e, he, ha, i, hl, hh, hb⟩
    have hi := (key (i - f.lo)).mpr ⟨by omega, e, he, ha, by rwa [Nat.add_sub_cancel' hl]⟩
    refine bne_iff_ne.mpr fun h0 => ?_
    simp [h0] at hi

theorem State.freshIn_mono {s t : State} {f : Fld} (h : FldOk f) (hst : s.fresh.bits ⊆ t.fresh.bits) (hf : s.freshIn f = true) :
    t.freshIn f = true := by
  obtain ⟨e, he, hb⟩ := (s.freshIn_iff h).mp hf
  exact (t.freshIn_iff h).mpr ⟨e, hst he, hb⟩

theorem State.freshIn_put (s : State) {f : Fld} {v : Nat} (h : FldOk f) (hv : v % 2 ^ (f.hi + 1 - f.lo) ≠ 0) :
    (s.put f v).freshIn f = true := by
  obtain ⟨i, hi⟩ := Nat.exists_testBit_of_ne_zero hv
  have hw : i < f.hi + 1 - f.lo := by
    rw [Nat.testBit_mod_two_pow, Bool.and_eq_true, decide_eq_true_eq] at hi
    exact hi.1
  have hm : v % 2 ^ (f.hi + 1 - f.lo) * 2 ^ f.lo ≠ 0 := Nat.mul_ne_zero hv (Nat.ne_of_gt (Nat.two_pow_pos _))
  refine (State.freshIn_iff _ h).mpr ⟨(f.a, v % 2 ^ (f.hi + 1 - f.lo) * 2 ^ f.lo), ?_, rfl, f.lo + i, by omega, by omega, ?_⟩
  · rw [State.put, State.mark_fresh, if_neg hm]
    exact List.mem_cons_self
  · rw [Nat.testBit_mul_two_pow, Nat.add_sub_cancel_left, hi, Bool.and_true]
    exact decide_eq_true (Nat.le_add_right _ _)

/-- A counter that counts counts as set, at its ceiling too: what it holds then is not 0. -/
theorem State.freshIn_bump (s : State) {f : Fld} {n : Nat} (h : FldOk f) (hn : 0 < n) : (s.bump f n).freshIn f = true := by
  refine State.freshIn_put s h ?_
  have hw : 2 ≤ 2 ^ (f.hi + 1 - f.lo) := Nat.le_self_pow (by have := h.1; omega) 2
  have hs : 0 < satTo (fldTop f) (s.get f + n) ∧ satTo (fldTop f) (s.get f + n) < 2 ^ (f.hi + 1 - f.lo) := by
    unfold satTo fldTop
    split <;> omega
  rw [Nat.mod_eq_of_lt hs.2]
  exact Nat.ne_of_gt hs.1

/-! ### What the report of an event leaves alone -/

/-- The report of an event leaves the bridge's record as it is, and no mark of the running cycle is lost. -/
def EventKeeps (s t : State) : Prop := t.brg = s.brg ∧ s.fresh.bits ⊆ t.fresh.bits

theorem EventKeeps.refl (s : State) : EventKeeps s s := ⟨rfl, List.Subset.refl _⟩

theorem EventKeeps.trans {s t u : State} (h : EventKeeps s t) (k : EventKeeps t u) : EventKeeps s u :=
  ⟨k.1.trans h.1, List.Subset.trans h.2 k.2⟩

theorem EventKeeps.ite {c : Prop} [Decidable c] {s t u : State} (h : EventKeeps s t) (k : EventKeeps s u) :
    EventKeeps s (if c then t else u) := by
  split
  · exact h
  · exact k

theorem eventKeeps_of_eq {s t : State} (hb : t.brg = s.brg) (hf : t.fresh.bits = s.fresh.bits) : EventKeeps s t :=
  ⟨hb, hf ▸ List.Subset.refl _⟩

theorem setReg_eventKeeps (s : State) (a w) : EventKeeps s (s.setReg a w) := eventKeeps_of_eq rfl rfl

theorem mark_eventKeeps (s : State) (a m) : EventKeeps s (s.mark a m) := by
  refine ⟨rfl, ?_⟩
  rw [State.mark_fresh]
  split
  · exact List.Subset.refl _
  · exact List.subset_cons_self _ _

theorem put_eventKeeps (s : State) (f v) : EventKeeps s (s.put f v) := (setReg_eventKeeps _ _ _).trans (mark_eventKeeps _ _ _)

theorem putBit_eventKeeps (s : State) (f i b) : EventKeeps s (s.putBit f i b) :=
  (setReg_eventKeeps _ _ _).trans (mark_eventKeeps _ _ _)

theorem forAll_eventKeeps {f : Nat → State → State} (hf : ∀ i t, EventKeeps t (f i t)) (l : List Nat) (s : State) :
    EventKeeps s (forAll l f s) := by
  induction l generalizing s with
  | nil => exact EventKeeps.refl s
  | cons i l ih => exact (hf i s).trans (ih (f i s))

theorem evcOne_eventKeeps (n c : Nat) (s : State) : EventKeeps s (evcOne n c s) := by
  unfold evcOne
  extract_lets old sum new fr counted wrapped sh
  have hc : EventKeeps s counted := eventKeeps_of_eq rfl rfl
  have hw : EventKeeps s wrapped := (hc.trans (putBit_eventKeeps _ _ _ _)).ite hc
  exact (hw.trans (putBit_eventKeeps _ _ _ _)).ite hw

theorem evcAdd_eventKeeps (src n : Nat) (s : State) : EventKeeps s (evcAdd src n s) :=
  (EventKeeps.refl s).ite (forAll_eventKeeps (evcOne_eventKeeps n) _ s)

theorem icuPend_eventKeeps (n : Nat) (s : State) : EventKeeps s (icuPend n s) :=
  (put_eventKeeps _ _ _).ite ((put_eventKeeps _ _ _).trans (evcAdd_eventKeeps _ _ _))

theorem icuMoveLine_eventKeeps (n : Nat) (up : Bool) (s : State) : EventKeeps s (icuMoveLine n up s) := by
  unfold icuMoveLine
  extract_lets was ic moved
  have hm : EventKeeps s moved := eventKeeps_of_eq rfl rfl
  exact ((hm.trans (icuPend_eventKeeps _ _)).ite (hm.trans (evcAdd_eventKeeps _ _ _))).ite hm

theorem evcSettle_eventKeeps (s : State) : EventKeeps s (evcSettle s) := icuMoveLine_eventKeeps _ _ s

theorem evcCount_eventKeeps (src n : Nat) (s : State) : EventKeeps s (evcCount src n s) :=
  (evcAdd_eventKeeps _ _ _).trans (evcSettle_eventKeeps _)

theorem icuEvent_eventKeeps (n : Nat) (s : State) : EventKeeps s (icuEvent n s) :=
  (EventKeeps.refl s).ite (((icuPend_eventKeeps _ _).trans (evcSettle_eventKeeps _)).ite (EventKeeps.refl s))

/-! ### The repeat and the clear -/

theorem fldOk_brgerrcntCount : FldOk F.SYS_BRGERRCNT_COUNT := ⟨by decide, by decide⟩

/-- A failed frame that is not its third is repeated, and the repeat counts in the running cycle. -/
theorem bridgeFail_freshIn_count {s : State} (h : s.brg.fails < 2) : (bridgeFail s).freshIn F.SYS_BRGERRCNT_COUNT = true := by
  unfold bridgeFail
  extract_lets told lost
  have hk : EventKeeps s told := (put_eventKeeps _ _ _).trans (icuEvent_eventKeeps _ _)
  rw [if_pos (hk.1 ▸ h)]
  exact State.freshIn_mono fldOk_brgerrcntCount (evcCount_eventKeeps _ _ _).2 (State.freshIn_bump _ fldOk_brgerrcntCount Nat.one_pos)

theorem exec_bridgeFrameReceive_bad {s : State} (hup : s.flag F.SYS_BRGSTAT_UP = true) (hinj : injDue s 119 = none) :
    exec (.bridgeFrameReceive false) s = .next (bridgeFail s) := by
  have hspend : injSpend 119 s = s := by
    unfold injSpend
    rw [hinj]
  show execBridgeFrameReceive false s = _
  unfold execBridgeFrameReceive
  rw [if_pos hup, hspend]
  rfl

theorem exec_brgerrcntClr (b : Bool) (s : State) :
    exec (.brgerrcntClr b) s = .next (brgClear (b || s.freshIn F.SYS_BRGERRCNT_COUNT) s) := rfl

theorem brgClear_get_count (again : Bool) (s : State) : (brgClear again s).get F.SYS_BRGERRCNT_COUNT = again.toNat := by
  unfold brgClear
  rw [State.get_put_same _ _ fldOk_brgerrcntCount]
  cases again <;> rfl

theorem brgClear_writes (again : Bool) (s : State) : Writes [R.SYS_BRGERRCNT] s (brgClear again s) :=
  put_writes s F.SYS_BRGERRCNT_COUNT _

/-- A clear leaves 1 or 0 in COUNT, as a repeat comes with it or has come before it in its cycle, or neither. -/
theorem brgerrcntClr_gives {b c : Bool} {s : State} (h : (b || s.freshIn F.SYS_BRGERRCNT_COUNT) = c) :
    Gives (.brgerrcntClr b) s fun t => t.get F.SYS_BRGERRCNT_COUNT = c.toNat ∧ Writes [R.SYS_BRGERRCNT] s t :=
  ⟨brgClear c s, h ▸ exec_brgerrcntClr b s, brgClear_get_count c s, brgClear_writes c s⟩

theorem Gives.imp {c : Instr} {s : State} {P Q : State → Prop} (h : Gives c s P) (k : ∀ t, P t → Q t) : Gives c s Q := by
  obtain ⟨t, he, hp⟩ := h
  exact ⟨t, he, k t hp⟩

/-- Settles O20: the marks of the running cycle (log 106) tell the clear whether a repeat falls in its cycle, and the report of the
repeat to the event counters loses none of them. -/
theorem clearInTheCycleOfARepeat : Obligations.ClearInTheCycleOfARepeat := by
  unfold Obligations.ClearInTheCycleOfARepeat
  intro s
  refine ⟨brgerrcntClr_gives (Bool.true_or _), brgerrcntClr_gives (Bool.false_or _), fun hnil => ?_, fun hup hfails hinj => ?_⟩
  · have hold : (false || s.freshIn F.SYS_BRGERRCNT_COUNT) = false := State.freshIn_eq_false_of_bits_nil _ hnil
    exact (brgerrcntClr_gives hold).imp fun _ ht => ht.1
  · have hnew : (false || (bridgeFail s).freshIn F.SYS_BRGERRCNT_COUNT) = true := bridgeFail_freshIn_count hfails
    exact ⟨bridgeFail s, exec_bridgeFrameReceive_bad hup hinj, (brgerrcntClr_gives hnew).imp fun _ ht => ht.1⟩

end Sys2Proof.Machine
end

section
/-! PROOF. The flash commands that the service port refuses (R57): a good command frame is executed in a state that differs from the
one it came in by the port's status and what its event shows, and the answer writes no more than the port's registers. -/

namespace Sys2Proof.Machine

/-! ### Memory that reads the same -/

theorem SameMem.word {s t : State} (h : SameMem s t) (a : Nat) : t.word a = s.word a := by
  unfold State.word
  rw [h, h, h, h]

/-! ### The answer -/

theorem respond_answers (fr : SppFrame) (result : Nat) (data : List Word) (s : State) :
    Answers fr result data (respond fr result data s) :=
  ⟨State.get_put_same _ _ ⟨by decide, by decide⟩, rfl⟩

theorem updSpp_writes (s : State) (f) : Writes [] s (s.updSpp f) := writes_keep rfl rfl rfl rfl rfl

theorem respond_writes (fr : SppFrame) (result : Nat) (data : List Word) (s : State) :
    Writes [R.SPP_STAT, R.SPP_ERRCNT] s (respond fr result data s) := by
  unfold respond
  extract_lets counted
  have hc : Writes [R.SPP_ERRCNT] s counted := Writes.ite (bump_writes _ F.SPP_ERRCNT_REFCNT 1) (Writes.refl _ _)
  have hb : Writes [R.SPP_STAT] counted (counted.put F.SPP_STAT_BUSY 1) := put_writes _ F.SPP_STAT_BUSY _
  exact ((hc.trans hb).trans (updSpp_writes _ _)).mono (by simp)

/-! ### The frame -/

/-- The state in which the port executes a good frame: the status byte has been shifted out (R61), a response still unfetched has set
LOSTRESP (R54), and source 92 is raised. -/
def frameTaken (fr : SppFrame) (s : State) : State :=
  let stat : Byte := (regValue s R.SPP_STAT).extractLsb' 0 8
  let s := s.updSpp (fun p => { p with out := List.replicate (sppCount fr) stat })
  icuEvent 92 (if s.spp.resp.isSome then s.put F.SPP_STAT_LOSTRESP 1 else s)

theorem frameTaken_writes (fr : SppFrame) (s : State) : Writes [R.SPP_STAT] s (frameTaken fr s) := by
  unfold frameTaken
  extract_lets stat shifted
  have hn : Writes [R.SPP_STAT] shifted (if shifted.spp.resp.isSome then shifted.put F.SPP_STAT_LOSTRESP 1 else shifted) :=
    Writes.ite (put_writes _ F.SPP_STAT_LOSTRESP _) (Writes.refl _ _)
  exact ((updSpp_writes s _).trans hn).trans (icuEvent_writes (by decide) _)

theorem sppFrame_of_goodFrame {s : State} {op : Byte} {fr : SppFrame} (h : GoodFrame s op fr) (act : State → State) :
    sppFrame op fr act s = act (frameTaken fr s) := by
  obtain ⟨hon, hbusy, hraw, hcrc, hlen⟩ := h
  have hcrcOk : frameCrcBad op fr = false := by simp [frameCrcBad, hraw, hcrc]
  have hlenOk : frameLenBad fr = false := by simp [frameLenBad, hraw, hlen]
  have hidle (f : Spp → Spp) : (s.updSpp f).flag F.SPP_STAT_BUSY = false := hbusy
  simp only [sppFrame, hon, hidle, hcrcOk, hlenOk, Bool.true_eq_false, Bool.false_eq_true, if_false]
  rfl

theorem sppGuard_pass {fr : SppFrame} {shape allowed : Bool} (act : State → State) (s : State) (hs : shape = true)
    (ha : allowed = true) : sppGuard fr shape allowed act s = act s := by
  simp [sppGuard, hs, ha]

/-- A good frame that is only answered wherever mode and memory are what they were when it came in: the command writes no more than the
port's registers. -/
theorem gives_answer {c : Instr} {s : State} {op : Byte} {fr : SppFrame} {act : State → State} {result : Nat}
    (hc : exec c s = .next (sppFrame op fr act s)) (h : GoodFrame s op fr)
    (hact : ∀ u, u.mode = s.mode → SameMem s u → act u = respond fr result [] u) :
    Gives c s fun t => Answers fr result [] t ∧ Writes [R.SPP_STAT, R.SPP_ERRCNT] s t := by
  have hu := frameTaken_writes fr s
  have ⟨_, _, hmem, hmode, _⟩ := hu
  have hend := (sppFrame_of_goodFrame h act).trans (hact _ hmode hmem)
  exact ⟨_, hc.trans (congrArg _ hend), respond_answers _ _ _ _, (hu.trans (respond_writes _ _ _ _)).mono (by simp)⟩

/-! ### The two refusals of flash -/

theorem protectedFlash_iff (a : Nat) : protectedFlash a = true ↔ 0x10C20000 ≤ a ∧ a < 0x10C40000 := decide_eq_true_iff

theorem inFlash_of_protectedFlash {a : Nat} (h : protectedFlash a = true) : inFlash a = true := by
  obtain ⟨hlo, hhi⟩ := (protectedFlash_iff a).mp h
  exact decide_eq_true ⟨by omega, by omega⟩

theorem serviceFlash_allowed {s t : State} {a : Nat} (hm : s.mode = .service) (ht : t.mode = s.mode) (hf : inFlash a = true) :
    (t.mode == .service && inFlash a) = true := by
  simp [ht, hm, hf]

theorem flashProgram_protected {fr : SppFrame} (fail : Bool) (s : State) (h : protectedFlash fr.addr.toNat = true) :
    flashProgram fr fail s = respond fr 6 [] s := if_pos h

/-- One addressed word that is not erased is enough: none is programmed. -/
theorem flashProgram_of_word_not_erased {fr : SppFrame} (fail : Bool) {s : State} (hp : ¬ protectedFlash fr.addr.toNat = true)
    (hw : ∃ a, a ∈ sppWords fr ∧ s.word a ≠ 0xFFFFFFFF) : flashProgram fr fail s = respond fr 7 [] s := by
  obtain ⟨a, ha, hne⟩ := hw
  have hall : ¬ (sppWords fr).all (fun w => s.word w == 0xFFFFFFFF) = true := fun h =>
    hne (beq_iff_eq.mp (List.all_eq_true.mp h a ha))
  exact (if_neg hp).trans (if_neg hall)

/-- FPROG in a form and at a place that SERVICE accepts answers what programming comes to. -/
theorem sppFprog_gives_answer {s : State} {fr : SppFrame} {fail : Bool} {result : Nat} (hm : s.mode = .service)
    (h : GoodFrame s 4 fr) (hb : blockShape fr = true) (hp : onePage fr = true) (hf : inFlash fr.addr.toNat = true)
    (hprog : ∀ u, SameMem s u → flashProgram fr fail u = respond fr result [] u) :
    Gives (.sppFprog fr fail) s fun t => Answers fr result [] t ∧ Writes [R.SPP_STAT, R.SPP_ERRCNT] s t :=
  gives_answer rfl h fun u hu hmem =>
    (sppGuard_pass _ u (by simp [hb, hp]) (serviceFlash_allowed hm hu hf)).trans (hprog u hmem)

theorem sppFerase_gives_protected {s : State} {fr : SppFrame} (fail : Bool) (hm : s.mode = .service) (h : GoodFrame s 3 fr)
    (hlen : fr.len = 0) (hal : fr.addr.toNat % 0x10000 = 0) (hp : protectedFlash fr.addr.toNat = true) :
    Gives (.sppFerase fr fail) s fun t => Answers fr 6 [] t ∧ Writes [R.SPP_STAT, R.SPP_ERRCNT] s t :=
  gives_answer rfl h fun u hu _ =>
    (sppGuard_pass _ u (by simp [noData, hlen, hal]) (serviceFlash_allowed hm hu (inFlash_of_protectedFlash hp))).trans (if_pos hp)

/-- Settles O59: a refused flash command leaves memory as it is, and of an FPROG into the device's own areas that meets a word which
is not erased, the areas decide (R57's two sentences meet there, and 0x06 is the model's choice). -/
theorem flashCommandsRefused : Obligations.FlashCommandsRefused := by
  unfold Obligations.FlashCommandsRefused
  intro s fr hm
  refine ⟨fun h hb hp hf hout hw fail => ?_, fun h hb hp hlo hhi fail => ?_, fun h hlen hal hlo hhi fail => ?_⟩
  · refine sppFprog_gives_answer hm h hb hp hf fun u hmem => ?_
    exact flashProgram_of_word_not_erased fail (mt (protectedFlash_iff _).mp hout) (by simpa only [hmem.word] using hw)
  · have hprot := (protectedFlash_iff _).mpr ⟨hlo, hhi⟩
    exact sppFprog_gives_answer hm h hb hp (inFlash_of_protectedFlash hprot) fun u _ => flashProgram_protected fail u hprot
  · exact sppFerase_gives_protected fail hm h hlen hal ((protectedFlash_iff _).mpr ⟨hlo, hhi⟩)

end Sys2Proof.Machine
end

section
/-! PROOF. What the issue of a node changes: parts of the state that events and the passing of time leave alone, the slot that a node
takes, its reads, and its exception. -/

namespace Sys2Proof.Machine

/-! ### What events leave alone -/

/-- A part of the state that events leave alone: it depends on nothing that counting, latching and marking write. -/
def EventFree {α : Type} (p : State → α) : Prop :=
  ∀ s regs fresh evc icu, p { s with regs := regs, fresh := fresh, evc := evc, icu := icu } = p s

section
variable {α : Type} {p : State → α}

theorem apply_ite_eq {c : Prop} [Decidable c] {s t : State} {x : α} (hs : p s = x) (ht : p t = x) :
    p (if c then s else t) = x := by
  split
  · exact hs
  · exact ht

theorem forAll_apply {f : Nat → State → State} (hf : ∀ i s, p (f i s) = p s) (l : List Nat) (s : State) :
    p (forAll l f s) = p s := by
  induction l generalizing s with
  | nil => rfl
  | cons i l ih => exact (ih (f i s)).trans (hf i s)

variable (hp : EventFree p)
include hp

theorem EventFree.setReg (s : State) (a w) : p (s.setReg a w) = p s := hp s _ s.fresh s.evc s.icu

theorem EventFree.put (s : State) (f v) : p (s.put f v) = p s := hp s _ _ s.evc s.icu

theorem EventFree.putBit (s : State) (f i b) : p (s.putBit f i b) = p s := hp s _ _ s.evc s.icu

theorem EventFree.putMax (s : State) (f v) : p (s.putMax f v) = p s := apply_ite_eq (hp.put s f v) rfl

theorem EventFree.evcOne (n c : Nat) (s : State) : p (evcOne n c s) = p s := by
  unfold Machine.evcOne
  extract_lets old sum new fr counted wrapped sh
  have hc : p counted = p s := hp s s.regs _ _ s.icu
  have hw : p wrapped = p s := apply_ite_eq ((hp.putBit _ _ _ _).trans hc) hc
  exact apply_ite_eq ((hp.putBit _ _ _ _).trans hw) hw

theorem EventFree.evcAdd (src n : Nat) (s : State) : p (evcAdd src n s) = p s :=
  apply_ite_eq rfl (forAll_apply (hp.evcOne n) _ s)

theorem EventFree.icuPend (n : Nat) (s : State) : p (icuPend n s) = p s :=
  apply_ite_eq (hp.put _ _ _) ((hp.evcAdd _ _ _).trans (hp.put _ _ _))

theorem EventFree.evcSettle (s : State) : p (evcSettle s) = p s := by
  unfold Machine.evcSettle icuMoveLine
  extract_lets was lines moved
  have hm : p moved = p s := hp s s.regs s.fresh s.evc _
  exact apply_ite_eq (apply_ite_eq ((hp.icuPend _ _).trans hm) ((hp.evcAdd _ _ _).trans hm)) hm

theorem EventFree.evcCount (src n : Nat) (s : State) : p (evcCount src n s) = p s :=
  (hp.evcSettle _).trans (hp.evcAdd _ _ _)

theorem EventFree.icuEvent (n : Nat) (s : State) : p (icuEvent n s) = p s :=
  apply_ite_eq rfl (apply_ite_eq ((hp.evcSettle _).trans (hp.icuPend _ _)) rfl)

end

/-! ### What the passing of time leaves alone -/

theorem EventFree.heldTick {α : Type} {p : State → α} (hp : EventFree p)
    (hh : ∀ s k t, p (s.updFacet k fun c => { c with heldFrom := t }) = p s) (t k : Nat) (s : State) :
    p (heldTick t k s) = p s :=
  apply_ite_eq rfl ((hp.evcAdd _ _ _).trans ((hh _ _ _).trans (hp.put _ _ _)))

/-- A part of the state that the passing of time leaves alone. -/
structure TimeFree {α : Type} (p : State → α) : Prop where
  event : EventFree p
  clock : ∀ s now cp, p { s with now := now, cp := cp } = p s
  heldFrom : ∀ s k t, p (s.updFacet k fun c => { c with heldFrom := t }) = p s

section
variable {α : Type} {p : State → α} (hp : TimeFree p)
include hp

theorem TimeFree.passTo (t : Nat) (s : State) : p (passTo t s) = p s := by
  unfold Machine.passTo
  extract_lets d n moved counted
  have hm : p moved = p s := hp.clock s _ s.cp
  have hc : p counted = p s := by
    refine Eq.trans (apply_ite_eq rfl (hp.clock _ (State.now _) _)) ?_
    exact (hp.event.setReg _ _ _).trans ((hp.event.setReg _ _ _).trans hm)
  refine apply_ite_eq rfl (apply_ite_eq ?_ hm)
  rw [hp.event.evcSettle, forAll_apply (hp.event.heldTick hp.heldFrom t), hp.event.evcAdd, hp.event.evcAdd, hc]

theorem TimeFree.advanceTo (t : Nat) (s : State) : p (advanceTo t s) = p s := by
  unfold Machine.advanceTo
  extract_lets edge passed
  have hn (u : State) : p (newCycle u) = p u := hp.event u u.regs _ u.evc u.icu
  have hs : p passed = p s := (hp.passTo _ _).trans (apply_ite_eq ((hn _).trans (hp.passTo _ _)) rfl)
  exact (hp.event passed passed.regs _ passed.evc passed.icu).trans hs

end

/-- What is not written to a facet by an update of its other fields. -/
theorem facet_updFacet_proj {α : Type} (g : Facet → α) {h : Facet → Facet} (hg : ∀ c, g (h c) = g c) (s : State) (k j : Nat) :
    g ((s.updFacet k h).facet j) = g (s.facet j) := by
  by_cases e : j = k
  · rw [e, State.facet_updFacet_same, hg]
  · rw [State.facet_updFacet_ne _ _ e]

theorem timeFree_free (k : Nat) : TimeFree fun s => (s.facet k).free :=
  ⟨fun _ _ _ _ _ => rfl, fun _ _ _ => rfl, fun s j t =>
    facet_updFacet_proj Facet.free (h := fun c => { c with heldFrom := t }) (fun _ => rfl) s j k⟩

theorem timeFree_ready (k : Nat) : TimeFree fun s => (s.facet k).ready :=
  ⟨fun _ _ _ _ _ => rfl, fun _ _ _ => rfl, fun s j t =>
    facet_updFacet_proj Facet.ready (h := fun c => { c with heldFrom := t }) (fun _ => rfl) s j k⟩

theorem timeFree_flights : TimeFree fun s => s.prs.flights := ⟨fun _ _ _ _ _ => rfl, fun _ _ _ => rfl, fun _ _ _ => rfl⟩

theorem timeFree_insts : TimeFree fun s => s.prs.insts := ⟨fun _ _ _ _ _ => rfl, fun _ _ _ => rfl, fun _ _ _ => rfl⟩

theorem timeFree_mir : TimeFree State.mir := ⟨fun _ _ _ _ _ => rfl, fun _ _ _ => rfl, fun _ _ _ => rfl⟩

theorem timeFree_inj : TimeFree State.inj := ⟨fun _ _ _ _ _ => rfl, fun _ _ _ => rfl, fun _ _ _ => rfl⟩

theorem timeFree_ecc : TimeFree State.ecc := ⟨fun _ _ _ _ _ => rfl, fun _ _ _ => rfl, fun _ _ _ => rfl⟩

theorem timeFree_pwr : TimeFree State.pwr := ⟨fun _ _ _ _ _ => rfl, fun _ _ _ => rfl, fun _ _ _ => rfl⟩

theorem eventFree_prs : EventFree State.prs := fun _ _ _ _ _ => rfl

theorem dRun_of_pwr {s t : State} (h : t.pwr = s.pwr) : dRun t = dRun s := by
  unfold dRun
  rw [h]

/-! ### The head of a list, and memory, while time passes -/

theorem issueHead_advanceTo (t f t0 : Nat) (s : State) : issueHead (advanceTo t s) f t0 = issueHead s f t0 := by
  have hbit (k : Nat) : (advanceTo t s).bit F.MIR_RETIRED_FACET k = s.bit F.MIR_RETIRED_FACET k := by
    unfold State.bit
    rw [(advanceTo_writes t s).get (by decide) (by decide)]
  have hout : facetsOut (advanceTo t s) = facetsOut s := by
    simp only [facetsOut, timeFree_mir.advanceTo, hbit]
  simp only [issueHead, hout, (timeFree_free f).advanceTo, (timeFree_ready f).advanceTo]

theorem nodeBits_of_sameMem {s t : State} (h : SameMem s t) (half : Bool) (n : Nat) : nodeBits t half n = nodeBits s half n := by
  simp only [nodeBits, h.word]

theorem src_of_sameMem {s t : State} (h : SameMem s t) (w k i : Nat) : src t w k i = src s w k i := by
  simp only [src, elem, State.operand, h.word]

/-! ### CPT.MTIME while time passes -/

theorem mtime_lt (s : State) : mtime s < 2 ^ 64 := by
  unfold mtime
  have h0 := (s.reg (R.CPT_MTIME 0)).isLt
  have h1 := (s.reg (R.CPT_MTIME 1)).isLt
  omega

theorem mtime_setMtime (s : State) {v : Nat} (h : v < 2 ^ 64) : mtime (setMtime s v) = v := by
  unfold mtime setMtime
  rw [State.reg_setReg_same, State.reg_setReg_ne _ _ (by decide), State.reg_setReg_same, BitVec.toNat_ofNat, BitVec.toNat_ofNat]
  omega

theorem reg_mtime_zero (s : State) : s.reg (R.CPT_MTIME 0) = BitVec.ofNat 32 (mtime s) := by
  apply BitVec.eq_of_toNat_eq
  rw [BitVec.toNat_ofNat]
  unfold mtime
  have h0 := (s.reg (R.CPT_MTIME 0)).isLt
  omega

theorem mtime_of_writes {l : List Nat} {s t : State} (h : Writes l s t) (h0 : R.CPT_MTIME 0 ∉ l) (h1 : R.CPT_MTIME 1 ∉ l) :
    mtime t = mtime s := by
  unfold mtime
  rw [h.1 _ h0 (by decide), h.1 _ h1 (by decide)]

theorem mtime_heldTick (t f : Nat) (s : State) : mtime (heldTick t f s) = mtime s := by
  have hw : Writes [R.PRS_FRF f] s (heldTick t f s) := Writes.ite (Writes.refl _ _)
    (((bump_writes s (F.PRS_FRF_COUNT f) _).trans (updFacet_writes _ _ _)).trans (evcAdd_writes _ _ _))
  refine mtime_of_writes hw ?_ ?_ <;> rw [List.mem_singleton] <;> unfold R.CPT_MTIME R.PRS_FRF <;> omega

theorem mtime_of_writes_nil {s t : State} (h : Writes [] s t) : mtime t = mtime s := mtime_of_writes h (by simp) (by simp)

theorem now_passTo (t : Nat) (s : State) : (passTo t s).now = max s.now t := by
  have he : EventFree State.now := fun _ _ _ _ _ => rfl
  unfold passTo
  extract_lets d n moved counted
  have hc : counted.now = t := apply_ite_eq rfl rfl
  by_cases hle : t ≤ s.now
  · rw [if_pos hle, Nat.max_eq_left hle]
  · rw [if_neg hle, Nat.max_eq_right (by omega)]
    refine apply_ite_eq ?_ rfl
    rw [he.evcSettle, forAll_apply (he.heldTick (fun _ _ _ => rfl) t), he.evcAdd, he.evcAdd, hc]

/-- CPT.MTIME counts the CLK_PER edges of the time that passes. -/
theorem mtime_passTo {s : State} (hd : dRun s = true) {t : Nat} (ht : s.now ≤ t) :
    mtime (passTo t s) = (mtime s + (t / 3 - s.now / 3)) % 2 ^ 64 := by
  unfold passTo
  extract_lets d n moved counted
  by_cases hle : t ≤ s.now
  · obtain rfl : t = s.now := Nat.le_antisymm hle ht
    rw [if_pos hle, Nat.sub_self, Nat.add_zero, Nat.mod_eq_of_lt (mtime_lt s)]
  · have hrun : dRun moved = true := hd
    have hc : mtime counted = (mtime s + n) % 2 ^ 64 :=
      (mtime_of_writes_nil (countCycles_writes _ _)).trans (mtime_setMtime moved (Nat.mod_lt _ (by decide)))
    rw [if_neg hle, if_pos hrun, mtime_of_writes_nil (evcSettle_writes _), forAll_apply (mtime_heldTick t),
      mtime_of_writes_nil (evcAdd_writes _ _ _), mtime_of_writes_nil (evcAdd_writes _ _ _), hc]

theorem mtime_advanceTo {s : State} (hd : dRun s = true) {t : Nat} (ht : s.now ≤ t) :
    mtime (advanceTo t s) = (mtime s + (t / 3 - s.now / 3)) % 2 ^ 64 := by
  unfold advanceTo
  extract_lets edge passed
  show mtime passed = _
  by_cases hlt : s.now < edge
  · have hd' : dRun (newCycle (passTo (edge - 1) s)) = true := (dRun_of_pwr (timeFree_pwr.passTo _ _)).trans hd
    have hnow : (newCycle (passTo (edge - 1) s)).now = edge - 1 := (now_passTo _ _).trans (Nat.max_eq_right (by omega))
    have hm : mtime (newCycle (passTo (edge - 1) s)) = _ := mtime_passTo hd (t := edge - 1) (by omega)
    rw [show passed = passTo t _ from congrArg (passTo t) (if_pos hlt), mtime_passTo hd' (by omega), hm, hnow]
    omega
  · rw [show passed = passTo t s from congrArg (passTo t) (if_neg hlt)]
    exact mtime_passTo hd ht

end Sys2Proof.Machine
end

section
/-! PROOF. The steps of a node's issue: the slot, the reads of its words, and the exception, which may end what the node belongs to. -/

namespace Sys2Proof.Machine

/-! ### The ready lists -/

theorem putMax_writes (s : State) (f v) : Writes [f.a] s (s.putMax f v) := Writes.ite (put_writes s f v) (Writes.refl _ _)

theorem queueShow_writes (f : Nat) (s : State) : Writes [R.PRS_FQ f] s (queueShow f s) :=
  (put_writes s (F.PRS_FQ_QDEPTH f) _).step (putMax_writes _ (F.PRS_FQ_QMAX f) _)

theorem readyRefill_writes (f : Nat) (s : State) : Writes [R.PRS_FQ f] s (readyRefill f s) :=
  (updFacet_writes s f _).trans (queueShow_writes f _)

/-- A part of the state that the ready and held nodes of a facet do not reach. -/
def ListFree {α : Type} (p : State → α) : Prop :=
  ∀ s k (l m : Facet → List Ready), p (s.updFacet k fun c => { c with ready := l c, held := m c }) = p s

theorem EventFree.readyRefill {α : Type} {p : State → α} (hp : EventFree p) (hr : ListFree p) (f : Nat) (s : State) :
    p (readyRefill f s) = p s :=
  (hp.putMax _ _ _).trans ((hp.put _ _ _).trans (hr _ _ _ _))

theorem listFree_free (k : Nat) : ListFree fun s => (s.facet k).free := fun s j l m =>
  facet_updFacet_proj Facet.free (h := fun c => { c with ready := l c, held := m c }) (fun _ => rfl) s j k

theorem eventFree_free (k : Nat) : EventFree fun s => (s.facet k).free := (timeFree_free k).event

theorem readyRefill_free (f k : Nat) (s : State) : ((readyRefill f s).facet k).free = (s.facet k).free :=
  (eventFree_free k).readyRefill (listFree_free k) f s

/-! ### The slot -/

theorem takeSlot_writes (f t c : Nat) (r : Ready) (s : State) : Writes [R.PRS_FW f, R.PRS_FQ f] s (takeSlot f t c r s) :=
  (((updFacet_writes s f _).trans (putMax_writes _ (F.PRS_FW_WMAX f) _)).trans (readyRefill_writes f _)).trans
    (evcCount_writes _ _ _)

/-- What neither events nor the facets' records reach is as it was. -/
theorem EventFree.takeSlot {α : Type} {p : State → α} (hp : EventFree p) (hu : ∀ s k g, p (s.updFacet k g) = p s)
    (f t c : Nat) (r : Ready) (s : State) : p (takeSlot f t c r s) = p s :=
  (hp.evcCount _ _ _).trans ((hp.readyRefill (fun _ _ _ _ => hu _ _ _) _ _).trans ((hp.putMax _ _ _).trans (hu _ _ _)))

theorem takeSlot_free (f t c : Nat) (r : Ready) (s : State) : ((takeSlot f t c r s).facet f).free = t + c := by
  have he := eventFree_free f
  refine (he.evcCount _ _ _).trans ((readyRefill_free f f _).trans ((he.putMax _ _ _).trans ?_))
  exact congrArg Facet.free (State.facet_updFacet_same _ _ _)

/-! ### The reads -/

/-- No word in memory is beyond correction, and no injection waits to make one so. -/
def Correctable (s : State) : Prop := (∀ a, s.errs a ≤ 2) ∧ injDue s 128 = none

theorem Correctable.of_eq {s t : State} (h : Correctable s) (he : t.ecc = s.ecc) (hi : t.inj = s.inj) : Correctable t := by
  unfold Correctable State.errs injDue
  rw [he, hi]
  exact h

theorem Correctable.setErrs {s : State} (h : Correctable s) (a : Nat) : Correctable (s.setErrs a 0) := by
  refine ⟨fun b => ?_, h.2⟩
  unfold State.errs State.setErrs
  rw [mget_mset]
  split
  · exact Nat.zero_le 2
  · exact h.1 b

theorem EventFree.eccCorrected {α : Type} {p : State → α} (hp : EventFree p) (flash : Bool) (s : State) :
    p (eccCorrected flash s) = p s :=
  (hp.evcCount _ _ _).trans ((hp.icuEvent _ _).trans ((hp.put _ _ _).trans (hp.put _ _ _)))

theorem eccCorrected_writes (flash : Bool) (s : State) : Writes [R.ARB_ECCSTAT] s (eccCorrected flash s) := by
  unfold eccCorrected
  extract_lets told
  have ht : Writes [R.ARB_ECCSTAT] s told := by
    cases flash
    · exact put_writes s F.ARB_ECCSTAT_CE 1
    · exact put_writes s F.ARB_ECCSTAT_FLCE 1
  exact (ht.step (bump_writes _ F.ARB_ECCSTAT_CECNT 1)).step
    (((icuEvent_writes (by decide) _).step (evcCount_writes _ _ _)).mono fun _ h => absurd h (by simp))

/-- A read that fails nowhere: it reports what it corrects. -/
structure CleanRead (s : State) (q : Bool × State) : Prop where
  ok : q.1 = false
  writes : Writes [R.ARB_ECCSTAT] s q.2
  prs : q.2.prs = s.prs
  correctable : Correctable q.2

theorem CleanRead.corrected {s u : State} (flash : Bool) (hw : Writes [R.ARB_ECCSTAT] s u) (hp : u.prs = s.prs)
    (hc : Correctable u) : CleanRead s (false, eccCorrected flash u) where
  ok := rfl
  writes := hw.step (eccCorrected_writes flash u)
  prs := (eventFree_prs.eccCorrected flash u).trans hp
  correctable := hc.of_eq (EventFree.eccCorrected (p := State.ecc) (fun _ _ _ _ _ => rfl) flash u)
    (EventFree.eccCorrected (p := State.inj) (fun _ _ _ _ _ => rfl) flash u)

theorem eccRead_clean {s : State} (h : Correctable s) (a : Nat) : CleanRead s (eccRead a a s) := by
  have hq : eccInject a s = (0, s) := by
    unfold eccInject
    rw [h.2]
  unfold eccRead
  simp only [hq, Nat.add_zero, h.1 a, if_true]
  split
  · exact ⟨rfl, Writes.refl _ _, rfl, h⟩
  · split
    · exact .corrected true (Writes.refl _ _) rfl h
    · exact .corrected false (writes_keep rfl rfl rfl rfl rfl) rfl (h.setErrs a)

theorem eccReadAll_clean {s : State} (h : Correctable s) (l : List Nat) : CleanRead s (eccReadAll s l) := by
  induction l generalizing s with
  | nil => exact ⟨rfl, Writes.refl _ _, rfl, h⟩
  | cons a l ih =>
    have ha := eccRead_clean h a
    have hl := ih ha.correctable
    exact ⟨by simp [eccReadAll, ha.ok, hl.ok], ha.writes.step hl.writes, hl.prs.trans ha.prs, hl.correctable⟩

/-! ### The exception -/

/-- All instances in service are of the 64 flows: FLOW is a 6-bit field of a node (R126), and there are 64 PRS.FLOWCFG. -/
def FlowsNumbered (s : State) : Prop := ∀ i ∈ s.prs.insts, i.flow < 64

theorem FlowsNumbered.of_insts {s t : State} (h : FlowsNumbered s) (ht : t.prs.insts = s.prs.insts) : FlowsNumbered t := by
  unfold FlowsNumbered
  rw [ht]
  exact h

/-- The registers that an exception may write: where it is recorded, and where the end of one of the
instances and the start of the next one of its flow show. -/
def excRegs : List Nat :=
  [R.PRS_NEXC, R.PRS_NEXCCNT, R.PRS_STAT] ++ (List.range 8).map R.PRS_FQ ++ (List.range 64).map R.PRS_FLOWST

theorem flowst_mem_excRegs {n : Nat} (h : n < 64) : R.PRS_FLOWST n ∈ excRegs :=
  List.mem_append_right _ (List.mem_map.mpr ⟨n, List.mem_range.mpr h, rfl⟩)

theorem fq_mem_excRegs {f : Nat} (h : f < 8) : R.PRS_FQ f ∈ excRegs :=
  List.mem_append_left _ (List.mem_append_right _ (List.mem_map.mpr ⟨f, List.mem_range.mpr h, rfl⟩))

theorem Writes.of_mem {a : Nat} {l : List Nat} {s t : State} (h : Writes [a] s t) (ha : a ∈ l) : Writes l s t :=
  h.mono fun b hb => by rwa [List.mem_singleton.mp hb]

theorem Writes.of_nil {l : List Nat} {s t : State} (h : Writes [] s t) : Writes l s t := h.mono fun _ hb => absurd hb (by simp)

theorem instEnd_writes {i : Inst} (h : i.flow < 64) (s : State) : Writes excRegs s (instEnd i s) := by
  unfold instEnd
  extract_lets gone left
  have hl : Writes excRegs s left := (writes_keep rfl rfl rfl rfl rfl : Writes excRegs s gone).step
    (forAll_writesIn (fun f hf u => (updFacet_writes _ _ _).of_nil.step
      ((readyRefill_writes f _).of_mem (fq_mem_excRegs (List.mem_range.mp hf)))) _)
  exact (hl.step ((put_writes _ (F.PRS_FLOWST_INSV i.flow) 0).of_mem (flowst_mem_excRegs h))).step
    ((putB_writes _ F.PRS_STAT_DRAIN _).of_mem (by decide))

theorem instStart_writes {n : Nat} (h : n < 64) (t : Nat) (s : State) : Writes excRegs s (instStart n t s) :=
  ((updPrs_writes s _).of_nil.step ((put_writes _ (F.PRS_FLOWST_INSV n) 1).of_mem (flowst_mem_excRegs h))).step
    (evcCount_writes _ _ _).of_nil

theorem startPending_writes {n : Nat} (h : n < 64) (t : Nat) (s : State) : Writes excRegs s (startPending n t s) := by
  unfold startPending
  extract_lets taken
  have ht : Writes excRegs s taken := (put_writes s (F.PRS_FLOWST_PEND n) 0).of_mem (flowst_mem_excRegs h)
  exact Writes.ite (Writes.ite (ht.step (instStart_writes h t _)) ht) (Writes.refl _ _)

/-- The part of `nodeExc` before the policy applies: NEXC, the count and source 58. -/
def excTold (cause facet flow node : Nat) (s : State) : State :=
  let s :=
    if s.flag F.PRS_NEXC_VALID then s.put F.PRS_NEXC_OVR 1
    else ((((s.put F.PRS_NEXC_VALID 1).put F.PRS_NEXC_CAUSE cause).put F.PRS_NEXC_FACET facet).put F.PRS_NEXC_FLOW flow).put
      F.PRS_NEXC_NODE node
  evcCount 0x1A 1 (icuEvent 58 (s.bump F.PRS_NEXCCNT_COUNT 1))

theorem excTold_writes (cause facet flow node : Nat) (s : State) : Writes excRegs s (excTold cause facet flow node s) := by
  have hput (u : State) (f : Fld) (v : Nat) (hf : f.a = R.PRS_NEXC) : Writes excRegs u (u.put f v) :=
    (put_writes u f v).of_mem (hf ▸ by decide)
  unfold excTold
  extract_lets told
  have ht : Writes excRegs s told := Writes.ite (hput _ _ _ rfl)
    (((((hput _ _ _ rfl).step (hput _ _ _ rfl)).step (hput _ _ _ rfl)).step (hput _ _ _ rfl)).step (hput _ _ _ rfl))
  exact ((ht.step ((bump_writes _ F.PRS_NEXCCNT_COUNT 1).of_mem (by decide))).step (icuEvent_writes (by decide) _).of_nil).step
    (evcCount_writes _ _ _).of_nil

theorem EventFree.excTold {α : Type} {p : State → α} (hp : EventFree p) (cause facet flow node : Nat) (s : State) :
    p (excTold cause facet flow node s) = p s := by
  unfold Machine.excTold
  extract_lets told
  have ht : p told = p s := apply_ite_eq (hp.put _ _ _) (by rw [hp.put, hp.put, hp.put, hp.put, hp.put])
  exact (hp.evcCount _ _ _).trans ((hp.icuEvent _ _).trans ((hp.put _ _ _).trans ht))

/-- Beside its report an exception does nothing, or it ends one of the instances in service and starts a held trigger of its flow. -/
theorem nodeExc_cases (cause facet flow node id t : Nat) (s : State) :
    nodeExc cause facet flow node id t s = excTold cause facet flow node s ∨
      ∃ i ∈ s.prs.insts, nodeExc cause facet flow node id t s =
        startPending i.flow t (instEnd i (excTold cause facet flow node s)) := by
  have hdef : nodeExc cause facet flow node id t s =
      if bitOf ((excTold cause facet flow node s).reg R.PRS_EXCPOL) cause then
        match instId (excTold cause facet flow node s) id with
        | some i => startPending i.flow t (instEnd i (excTold cause facet flow node s))
        | none => excTold cause facet flow node s
      else excTold cause facet flow node s := rfl
  rw [hdef]
  split
  · split
    · next i hi =>
      refine .inr ⟨i, ?_, rfl⟩
      rw [← eventFree_prs.excTold cause facet flow node s]
      exact List.mem_of_find?_eq_some hi
    · exact .inl rfl
  · exact .inl rfl

theorem nodeExc_writes {s : State} (h : FlowsNumbered s) (cause facet flow node id t : Nat) :
    Writes excRegs s (nodeExc cause facet flow node id t s) := by
  have ht := excTold_writes cause facet flow node s
  obtain he | ⟨i, hi, he⟩ := nodeExc_cases cause facet flow node id t s
  · exact he ▸ ht
  · exact he ▸ (ht.step (instEnd_writes (h i hi) _)).step (startPending_writes (h i hi) t _)

/-- What neither events nor the lists of instances, tokens and ready nodes reach is as it was. -/
theorem EventFree.nodeExc {α : Type} {p : State → α} (hp : EventFree p)
    (hi : ∀ s n l k, p (s.updPrs fun q => { q with nextId := n, insts := l, toks := k }) = p s)
    (hr : ListFree p) (cause facet flow node id t : Nat) (s : State) : p (nodeExc cause facet flow node id t s) = p s := by
  have hend (i : Inst) (u : State) : p (instEnd i u) = p u := by
    refine (hp.put _ _ _).trans ((hp.put _ _ _).trans ((forAll_apply (fun f v => ?_) _ _).trans (hi u u.prs.nextId _ _)))
    exact (hp.readyRefill hr _ _).trans (hr _ _ _ _)
  have hstart (n : Nat) (u : State) : p (instStart n t u) = p u :=
    (hp.evcCount _ _ _).trans ((hp.put _ _ _).trans (hi u _ _ u.prs.toks))
  have hpend (n : Nat) (u : State) : p (startPending n t u) = p u :=
    apply_ite_eq (apply_ite_eq ((hstart _ _).trans (hp.put _ _ _)) (hp.put _ _ _)) rfl
  obtain he | ⟨i, _, he⟩ := nodeExc_cases cause facet flow node id t s
  · rw [he, hp.excTold]
  · rw [he, hpend, hend, hp.excTold]

theorem nodeExc_flights (cause facet flow node id t : Nat) (s : State) :
    (nodeExc cause facet flow node id t s).prs.flights = s.prs.flights :=
  timeFree_flights.event.nodeExc (fun _ _ _ _ => rfl) (fun _ _ _ _ => rfl) cause facet flow node id t s

theorem nodeExc_free (k cause facet flow node id t : Nat) (s : State) :
    ((nodeExc cause facet flow node id t s).facet k).free = (s.facet k).free :=
  (eventFree_free k).nodeExc (fun _ _ _ _ => rfl) (listFree_free k) cause facet flow node id t s

end Sys2Proof.Machine
end

section
/-! PROOF. The issue of a node that reads single words, writes one and raises nothing by itself: the integer operations (R133) and
TSTAMP (R160). -/

namespace Sys2Proof.Machine

/-! ### Operations of one word -/

/-- The operation reads the first words of at most three sources, writes `val` to DST, and raises neither cause nor saturation. -/
structure OneWord (op : NodeOp) (val : State → Nat → Word) : Prop where
  notPwmwr : op.opc ≠ 0x51
  rd : ∃ n ≤ 3, ∀ s w, op.rd s w = (List.range n).map fun k => (nSrc w k, 1)
  wr : ∀ w, op.wr w = [(nDst w, 1)]
  run : ∀ s f w, op.run s f w = { writes := [(nDst w, val s w)] }

/-- A function of PARAM and of the three source words. -/
def onSources (g : Nat → Word → Word → Word → Word) (s : State) (w : Nat) : Word :=
  g (nParam w) (src s w 0 0) (src s w 1 0) (src s w 2 0)

theorem onSources_of_sameMem (g : Nat → Word → Word → Word → Word) {s u : State} {w : Nat} (h : SameMem s u) :
    onSources g u w = onSources g s w := by
  simp only [onSources, src_of_sameMem h]

theorem oneWord_plain {opc lat n : Nat} {ok : Nat → Bool} (g : Nat → Word → Word → Word → Word) (hopc : opc ≠ 0x51)
    (hn : n ≤ 3) : OneWord (plain opc lat n ok fun p a b c => { w := g p a b c }) (onSources g) :=
  ⟨hopc, ⟨n, hn, fun _ _ => rfl⟩, fun _ => rfl, fun _ _ _ => rfl⟩

theorem oneWord_tstamp : OneWord nodeTstamp fun s _ => s.reg (R.CPT_MTIME 0) :=
  ⟨by decide, ⟨0, by decide, fun _ _ => rfl⟩, fun _ => rfl, fun _ _ _ => rfl⟩

theorem nDst_lt (w : Nat) : nDst w < 0x4000 := Nat.mod_lt _ (by decide)

theorem nSrc_lt (w : Nat) {k : Nat} (h : k ≤ 3) : nSrc w k < 0x4000 := by
  have hm : nSrc w k < 2 ^ (111 - 14 * k + 1 - (98 - 14 * k)) := Nat.mod_lt _ (Nat.two_pow_pos _)
  rwa [show 111 - 14 * k + 1 - (98 - 14 * k) = 14 by omega] at hm

theorem runWords_firstWords (w n : Nat) : runWords ((List.range n).map fun k => (nSrc w k, 1)) = n := by
  induction n with
  | zero => rfl
  | succ n ih => rw [runWords, List.range_succ, List.map_append, List.foldl_append, ← runWords, ih]; rfl

section
variable {op : NodeOp} {val : State → Nat → Word} (hop : OneWord op val)
include hop

theorem OneWord.cost (s : State) (w : Nat) : nodeCost op s w = 1 := by
  obtain ⟨n, hn, hrd⟩ := hop.rd
  have hwr : runWords [(nDst w, 1)] = 1 := rfl
  unfold nodeCost ceilDiv
  rw [hrd, hop.wr, runWords_firstWords, hwr]
  omega

theorem OneWord.beyond (s : State) (w : Nat) : (runBeyond (op.rd s w) || runBeyond (op.wr w)) = false := by
  obtain ⟨n, hn, hrd⟩ := hop.rd
  have hd := nDst_lt w
  have hs : ∀ k < n, ¬ 0x4000 < nSrc w k + 1 := fun k hk => by
    have := nSrc_lt w (show k ≤ 3 by omega)
    omega
  simp only [hrd, hop.wr, runBeyond, List.any_map, List.any_cons, List.any_nil, Bool.or_false, Bool.or_eq_false_iff,
    List.any_eq_false, List.mem_range, Function.comp_apply, decide_eq_true_eq, decide_eq_false_iff_not]
  exact ⟨hs, by omega⟩

end

/-! ### The issue -/

/-- A successor of the node is no node of its flow: BADIDX. -/
def badSucc (s : State) (r : Ready) (w : Nat) : Bool :=
  succBad s r.half r.flow (nSucc w 0) || succBad s r.half r.flow (nSucc w 1)

theorem badSucc_of_none {w : Nat} (h0 : nSucc w 0 = 0x3FFF) (h1 : nSucc w 1 = 0x3FFF) (s : State) (r : Ready) :
    badSucc s r w = false := by
  simp [badSucc, succBad, h0, h1]

/-- The flight of a node that writes one word, issued in cycle `t` in state `s`. -/
def oneWordFlight (op : NodeOp) (f t : Nat) (r : Ready) (w : Nat) (v : Word) (s : State) : Flight :=
  { facet := f, id := r.id, flow := r.flow, node := r.node, done := t + op.lat, writes := [(nDst w, v)], duties := [], grp := 0
    succ := succList s r w, half := r.half, quiet := badSucc s r w }

/-- The registers that the slot of a node and its reads may write. -/
def slotRegs (f : Nat) : List Nat := [R.PRS_FW f, R.PRS_FQ f, R.ARB_ECCSTAT]

/-- Facet `f` has taken its slot of cycle `t` and read the node's words: the state in which the operation runs. -/
structure SlotTaken (f t : Nat) (s u : State) : Prop where
  writes : Writes (slotRegs f) s u
  flights : u.prs.flights = s.prs.flights
  insts : u.prs.insts = s.prs.insts
  free : (u.facet f).free = t + 1

theorem SlotTaken.of_reads {f t : Nat} {r : Ready} {s : State} {q : Bool × State} (h : CleanRead (takeSlot f t 1 r s) q) :
    SlotTaken f t s q.2 where
  writes := (takeSlot_writes f t 1 r s).trans h.writes
  flights := (congrArg Prism.flights h.prs).trans
    (timeFree_flights.event.takeSlot (fun _ _ _ => rfl) f t 1 r s)
  insts := (congrArg Prism.insts h.prs).trans (timeFree_insts.event.takeSlot (fun _ _ _ => rfl) f t 1 r s)
  free := (congrArg (fun p => (mget (fun _ => {}) p.facets f).free) h.prs).trans (takeSlot_free f t 1 r s)

theorem orderWrites_single (e : Nat × Word) (s : State) : orderWrites [e] s = ([e], s) := if_pos (List.pairwise_singleton _ e.1)

theorem Correctable.takeSlot {s : State} (h : Correctable s) (f t c : Nat) (r : Ready) : Correctable (takeSlot f t c r s) :=
  h.of_eq (EventFree.takeSlot (p := State.ecc) (fun _ _ _ _ _ => rfl) (fun _ _ _ => rfl) f t c r s)
    (EventFree.takeSlot (p := State.inj) (fun _ _ _ _ _ => rfl) (fun _ _ _ => rfl) f t c r s)

/-- Where nothing in memory is beyond correction and PARAM is legal, the node is under way, and a bad successor is its one exception. -/
theorem OneWord.issueNode_eq {op : NodeOp} {val : State → Nat → Word} (hop : OneWord op val) {s : State} (hc : Correctable s)
    {w : Nat} (hok : op.ok (nParam w) = true) (f t : Nat) (r : Ready) :
    ∃ u, SlotTaken f t s u ∧ issueNode op f t r w s =
      let x := u.updPrs fun p => { p with flights := p.flights ++ [oneWordFlight op f t r w (val u w) u] }
      if badSucc u r w then nodeExc 5 f r.flow r.node r.id t x else x := by
  unfold issueNode
  extract_lets good taken a e e2 u idle x badidx c
  have htaken : taken = takeSlot f t 1 r s := by
    show takeSlot f t (if good = true then nodeCost op s w else 1) r s = _
    rw [hop.cost, ite_self]
  have hread : CleanRead (takeSlot f t 1 r s) e2 := by
    rw [← htaken]
    have he : CleanRead taken e := eccReadAll_clean (htaken ▸ hc.takeSlot f t 1 r) [a, a + 8]
    have hl := eccReadAll_clean he.correctable (runPlaces (op.rd e.2 w))
    rw [show e2 = eccReadAll e.2 (runPlaces (op.rd e.2 w)) from if_neg (by simp [he.ok])]
    exact ⟨hl.ok, he.writes.step hl.writes, hl.prs.trans he.prs, hl.correctable⟩
  have hidle : idle = false := by simp [idle, hop.notPwmwr]
  have hgood : good = true := hok
  have hx : x = { writes := [(nDst w, val u w)] } := by simp [x, hread.ok, hgood, hop.run]
  have hdst : x.writes.filter (fun e => decide (e.1 ≤ 0x3FFF)) = [(nDst w, val u w)] := by
    simp [hx, Nat.le_of_lt_succ (nDst_lt w)]
  have hbad : badidx = badSucc u r w := by simp [badidx, badSucc, hop.beyond]
  have hcause : c = if badSucc u r w then some 5 else none := by simp [c, hidle, causeOf, hbad, hx]
  refine ⟨u, .of_reads hread, ?_⟩
  rw [if_neg (by simp [hread.ok]), if_neg (by simp [hgood]), hdst, orderWrites_single]
  cases hb : badSucc u r w
  all_goals
    simp only [hb] at hcause
    simp [hcause, hx, hidle, hb, oneWordFlight]

/-- The state after the issue: the node's flight has joined the others, the slot is taken, and an exception has shown in `excRegs`. -/
theorem OneWord.issueNode_spec {op : NodeOp} {val : State → Nat → Word} (hop : OneWord op val) {s : State} (hc : Correctable s)
    (hs : FlowsNumbered s) {w : Nat} (hok : op.ok (nParam w) = true) (f t : Nat) (r : Ready) :
    ∃ u, SlotTaken f t s u ∧ Writes excRegs u (issueNode op f t r w s) ∧
      (issueNode op f t r w s).prs.flights = s.prs.flights ++ [oneWordFlight op f t r w (val u w) u] ∧
      ((issueNode op f t r w s).facet f).free = t + 1 := by
  obtain ⟨u, hu, heq⟩ := hop.issueNode_eq hc hok f t r
  refine ⟨u, hu, ?_⟩
  rw [heq]
  extract_lets x
  have hx : Writes excRegs u x := (updPrs_writes u _).of_nil
  have hxf : x.prs.flights = s.prs.flights ++ [oneWordFlight op f t r w (val u w) u] := congrArg (· ++ _) hu.flights
  split
  · have hflows : FlowsNumbered x := hs.of_insts hu.insts
    exact ⟨hx.step (nodeExc_writes hflows _ _ _ _ _ _), (nodeExc_flights _ _ _ _ _ _ _).trans hxf,
      (nodeExc_free _ _ _ _ _ _ _ _).trans hu.free⟩
  · exact ⟨hx, hxf, hu.free⟩

/-! ### The commands -/

theorem Issuable.correctable {s : State} {f t opc : Nat} {r : Ready} (h : Issuable s f t opc r) : Correctable (advanceTo t s) :=
  Correctable.of_eq h.2.2.2 (timeFree_ecc.advanceTo t s) (timeFree_inj.advanceTo t s)

theorem Issuable.issue_eq {op : NodeOp} {s : State} {f t : Nat} {r : Ready} (h : Issuable s f t op.opc r) :
    issue op f t s = issueNode op f t r (headBits s r) (advanceTo t s) := by
  obtain ⟨_, hhead, hopc, _⟩ := h
  have hbits : nodeBits (advanceTo t s) r.half r.node = headBits s r := nodeBits_of_sameMem (advanceTo_writes t s).2.2.1 _ _
  unfold issue
  simp only [issueHead_advanceTo, hhead, hbits]
  exact if_pos hopc

theorem Writes.blocks {l bs : List Nat} {s t : State} (h : Writes l s t) (hl : ∀ a ∈ l, a / 0x10000 ∈ bs) : Blocks bs s t :=
  ⟨fun a ha he => h.1 a (fun hm => ha (hl a hm)) he, h.2.1, h.2.2.1⟩

/-- The node is issued; its operation has run in a state `u` that differs from the start by the passing of time and the slot. -/
theorem OneWord.issued {op : NodeOp} {val : State → Nat → Word} (hop : OneWord op val) {s : State} (hs : FlowsNumbered s)
    {f : Fin 8} {t : Nat} {r : Ready} (h : Issuable s f.val t op.opc r) (hok : op.ok (nParam (headBits s r)) = true) :
    ∃ u, SlotTaken f.val t (advanceTo t s) u ∧ Writes excRegs u (issue op f.val t s) ∧
      Issued s (issue op f.val t s) f.val t op.lat 1 r fun fl =>
        fl.writes = [(nDst (headBits s r), val u (headBits s r))] := by
  rw [h.issue_eq]
  obtain ⟨u, hu, hw, hfl, hfree⟩ := hop.issueNode_spec h.correctable (hs.of_insts (timeFree_insts.advanceTo t s)) hok f.val t r
  rw [timeFree_flights.advanceTo] at hfl
  have hall := ((advanceTo_writes t s).trans hu.writes).trans hw
  have hblocks : ∀ f : Fin 8, ∀ a ∈ timeRegs ++ slotRegs f.val ++ excRegs, a / 0x10000 ∈ [0x4003, 0x4005, 0xE000] := by decide
  exact ⟨u, hu, hw, ⟨_, hfl, rfl, rfl, rfl, rfl, rfl, rfl, rfl⟩, hfree, hall.2.2.2, hall.blocks (hblocks f)⟩

/-- An operation on the words of its sources alone gives what it gives at the start. -/
theorem OneWord.gives {op : NodeOp} {val : State → Nat → Word} (hop : OneWord op val)
    (hval : ∀ {s u w}, SameMem s u → val u w = val s w) {c : Instr} {s : State} {f : Fin 8} {t : Nat} {r : Ready}
    (hexec : exec c s = .next (issue op f.val t s)) (hs : FlowsNumbered s) (h : Issuable s f.val t op.opc r)
    (hok : op.ok (nParam (headBits s r)) = true) :
    Gives c s fun t' => Issued s t' f.val t op.lat 1 r fun fl =>
      fl.writes = [(nDst (headBits s r), val s (headBits s r))] := by
  obtain ⟨u, hu, _, hi⟩ := hop.issued hs h hok
  have hmem : SameMem s u := ((advanceTo_writes t s).trans hu.writes).2.2.1
  rw [hval hmem] at hi
  exact ⟨_, hexec, hi⟩

/-- Without successors nothing raises a flag: the operation does not, and no successor is bad. -/
theorem OneWord.leavesFlags {op : NodeOp} {val : State → Nat → Word} (hop : OneWord op val) {c : Instr} {s : State} {f : Fin 8}
    {t : Nat} {r : Ready} (hexec : exec c s = .next (issue op f.val t s)) (h : Issuable s f.val t op.opc r)
    (hok : op.ok (nParam (headBits s r)) = true) (h0 : nSucc (headBits s r) 0 = 0x3FFF) (h1 : nSucc (headBits s r) 1 = 0x3FFF) :
    Gives c s fun t' =>
      t'.reg (R.PRS_SATFLOW 0) = s.reg (R.PRS_SATFLOW 0) ∧ t'.reg (R.PRS_SATFLOW 1) = s.reg (R.PRS_SATFLOW 1) ∧
      t'.reg R.PRS_NEXC = s.reg R.PRS_NEXC ∧ t'.reg R.PRS_NEXCCNT = s.reg R.PRS_NEXCCNT := by
  refine ⟨_, hexec, ?_⟩
  rw [h.issue_eq]
  obtain ⟨u, hu, heq⟩ := hop.issueNode_eq h.correctable hok f.val t r
  rw [badSucc_of_none h0 h1] at heq
  have hw : Writes (timeRegs ++ slotRegs f.val) s (issueNode op f.val t r (headBits s r) (advanceTo t s)) := by
    rw [heq]
    exact ((advanceTo_writes t s).trans hu.writes).step (updPrs_writes u _).of_nil
  have hout : ∀ f : Fin 8, ∀ a ∈ [R.PRS_SATFLOW 0, R.PRS_SATFLOW 1, R.PRS_NEXC, R.PRS_NEXCCNT],
      a ∉ timeRegs ++ slotRegs f.val ∧ eventReg a = false := by decide
  have hkeep {a : Nat} (ha : a ∈ [R.PRS_SATFLOW 0, R.PRS_SATFLOW 1, R.PRS_NEXC, R.PRS_NEXCCNT]) := hw.1 a (hout f a ha).1 (hout f a ha).2
  exact ⟨hkeep (by simp), hkeep (by simp), hkeep (by simp), hkeep (by simp)⟩

end Sys2Proof.Machine
end

section
/-! PROOF. R133 and R160: the integer operations and TSTAMP do what the rules say wherever all instances in service are of the 64
flows. The statements take every state. Where one of the instances has a number that no flow has, its end (a bad successor aborts it)
clears its flag in a register of another block, and the frame of `Issued` breaks. -/

namespace Sys2Proof.Machine

/-! ### The operations -/

theorem add_eq_ofNat (a b : Word) : a + b = BitVec.ofNat 32 (a.toNat + b.toNat) := by
  rw [BitVec.ofNat_add, BitVec.ofNat_toNat, BitVec.ofNat_toNat, BitVec.setWidth_eq, BitVec.setWidth_eq]

theorem sub_eq_ofInt (a b : Word) : a - b = BitVec.ofInt 32 (a.toNat - b.toNat : Int) := by
  apply BitVec.eq_of_toNat_eq
  rw [BitVec.toNat_sub, BitVec.toNat_ofInt]
  omega

theorem shiftLeft_eq_ofNat (a : Word) (p : Nat) : a <<< p = BitVec.ofNat 32 (a.toNat * 2 ^ p) := by
  apply BitVec.eq_of_toNat_eq
  rw [BitVec.toNat_shiftLeft, Nat.shiftLeft_eq, BitVec.toNat_ofNat]

theorem oneWord_iadd : OneWord nodeIadd (onSources fun _ a b _ => a + b) := oneWord_plain _ (by decide) (by decide)
theorem oneWord_isub : OneWord nodeIsub (onSources fun _ a b _ => a - b) := oneWord_plain _ (by decide) (by decide)
theorem oneWord_and : OneWord nodeAnd (onSources fun _ a b _ => a &&& b) := oneWord_plain _ (by decide) (by decide)
theorem oneWord_or : OneWord nodeOr (onSources fun _ a b _ => a ||| b) := oneWord_plain _ (by decide) (by decide)
theorem oneWord_xor : OneWord nodeXor (onSources fun _ a b _ => a ^^^ b) := oneWord_plain _ (by decide) (by decide)
theorem oneWord_ishl : OneWord nodeIshl (onSources fun p a _ _ => a <<< p) := oneWord_plain _ (by decide) (by decide)
theorem oneWord_ishr : OneWord nodeIshr (onSources fun p a _ _ => if 32 ≤ p then a.sshiftRight (p % 32) else a >>> p) :=
  oneWord_plain _ (by decide) (by decide)
theorem oneWord_icmp : OneWord nodeIcmp
    (onSources fun p a b _ => maskWord (if 8 ≤ p then relUnsigned (p % 8) a b else relSigned p a b)) :=
  oneWord_plain _ (by decide) (by decide)
theorem oneWord_sel : OneWord nodeSel (onSources fun _ a b c => if a = 0 then c else b) := oneWord_plain _ (by decide) (by decide)

theorem noParam_of_eq_zero {p : Nat} (h : p = 0) : noParam p = true := beq_iff_eq.mpr h

theorem below_of_lt {n p : Nat} (h : p < n) : below n p = true := decide_eq_true h

/-- The signed relations of ICMP are legal. -/
theorem icmp_ok_of_lt {p : Nat} (h : p < 6) : nodeIcmp.ok p = true := by
  show (decide (p < 16) && decide (p % 8 < 6)) = true
  rw [Bool.and_eq_true, decide_eq_true_eq, decide_eq_true_eq]
  omega

/-! ### R133 and R160 with the flows numbered -/

/-- `Obligations.IntegersWrap` at one state, facet, cycle and node. -/
def IntegersWrapAt (s : State) (f : Fin 8) (at_ : Nat) (r : Ready) : Prop :=
    (Issuable s f.val at_ 0x30 r → nParam (headBits s r) = 0 → Gives (.iadd f at_) s fun t =>
      Issued s t f.val at_ 2 1 r (fun fl => fl.writes =
        [(nDst (headBits s r), BitVec.ofNat 32 ((src s (headBits s r) 0 0).toNat + (src s (headBits s r) 1 0).toNat))])) ∧
    (Issuable s f.val at_ 0x31 r → nParam (headBits s r) = 0 → Gives (.isub f at_) s fun t =>
      Issued s t f.val at_ 2 1 r (fun fl => fl.writes =
        [(nDst (headBits s r), BitVec.ofInt 32 ((src s (headBits s r) 0 0).toNat - (src s (headBits s r) 1 0).toNat : Int))])) ∧
    (Issuable s f.val at_ 0x35 r → nParam (headBits s r) < 32 → Gives (.ishl f at_) s fun t =>
      Issued s t f.val at_ 2 1 r (fun fl => fl.writes =
        [(nDst (headBits s r), BitVec.ofNat 32 ((src s (headBits s r) 0 0).toNat * 2 ^ nParam (headBits s r)))])) ∧
    ∀ e ∈ [(Instr.iadd, 0x30, 1), (Instr.isub, 0x31, 1), (Instr.and, 0x32, 1), (Instr.or, 0x33, 1), (Instr.xor, 0x34, 1),
        (Instr.ishl, 0x35, 32), (Instr.ishr, 0x36, 64), (Instr.icmp, 0x37, 6), (Instr.sel, 0x38, 1)],
      Issuable s f.val at_ e.2.1 r → nParam (headBits s r) < e.2.2 → nSucc (headBits s r) 0 = 0x3FFF →
      nSucc (headBits s r) 1 = 0x3FFF → Gives (e.1 f at_) s fun t =>
        t.reg (R.PRS_SATFLOW 0) = s.reg (R.PRS_SATFLOW 0) ∧ t.reg (R.PRS_SATFLOW 1) = s.reg (R.PRS_SATFLOW 1) ∧
        t.reg R.PRS_NEXC = s.reg R.PRS_NEXC ∧ t.reg R.PRS_NEXCCNT = s.reg R.PRS_NEXCCNT

theorem integersWrap_iff : Obligations.IntegersWrap ↔ ∀ s f at_ r, IntegersWrapAt s f at_ r := Iff.rfl

/-- R133 in every state whose instances are of the 64 flows: the premise that `not_integersWrap` finds missing. -/
theorem integersWrapAt_of_flowsNumbered {s : State} (hs : FlowsNumbered s) (f : Fin 8) (at_ : Nat) (r : Ready) :
    IntegersWrapAt s f at_ r := by
  have hzero {p : Nat} (h : p < 1) : noParam p = true := noParam_of_eq_zero (Nat.lt_one_iff.mp h)
  refine ⟨fun h hp => ?_, fun h hp => ?_, fun h hp => ?_, ?_⟩
  · rw [← add_eq_ofNat]
    exact oneWord_iadd.gives (onSources_of_sameMem _) rfl hs h (noParam_of_eq_zero hp)
  · rw [← sub_eq_ofInt]
    exact oneWord_isub.gives (onSources_of_sameMem _) rfl hs h (noParam_of_eq_zero hp)
  · rw [← shiftLeft_eq_ofNat]
    exact oneWord_ishl.gives (onSources_of_sameMem _) rfl hs h (below_of_lt hp)
  · simp only [List.forall_mem_cons, List.not_mem_nil, false_imp_iff, implies_true, and_true]
    exact ⟨fun h hp => oneWord_iadd.leavesFlags rfl h (hzero hp), fun h hp => oneWord_isub.leavesFlags rfl h (hzero hp),
      fun h hp => oneWord_and.leavesFlags rfl h (hzero hp), fun h hp => oneWord_or.leavesFlags rfl h (hzero hp),
      fun h hp => oneWord_xor.leavesFlags rfl h (hzero hp), fun h hp => oneWord_ishl.leavesFlags rfl h (below_of_lt hp),
      fun h hp => oneWord_ishr.leavesFlags rfl h (below_of_lt hp), fun h hp => oneWord_icmp.leavesFlags rfl h (icmp_ok_of_lt hp),
      fun h hp => oneWord_sel.leavesFlags rfl h (hzero hp)⟩

/-- `Obligations.TimeStampNode` at one state, facet, cycle and node. -/
def TimeStampAt (s : State) (f : Fin 8) (at_ : Nat) (r : Ready) : Prop :=
  Issuable s f.val at_ 0x55 r →
    (nParam (headBits s r) = 0 → Gives (.tstamp f at_) s fun t => Issued s t f.val at_ 2 1 r fun fl =>
      fl.writes = [(nDst (headBits s r), t.reg (R.CPT_MTIME 0))]) ∧
    (nParam (headBits s r) = 0 → dRun s = true → Gives (.tstamp f at_) s fun t =>
      t.reg (R.CPT_MTIME 0) = BitVec.ofNat 32 (mtime s + (at_ / 3 - s.now / 3)))

theorem timeStampNode_iff : Obligations.TimeStampNode ↔ ∀ s f at_ r, TimeStampAt s f at_ r := Iff.rfl

/-- R160 in every state whose instances are of the 64 flows: the premise that `not_timeStampNode` finds missing. -/
theorem timeStampAt_of_flowsNumbered {s : State} (hs : FlowsNumbered s) (f : Fin 8) (at_ : Nat) (r : Ready) :
    TimeStampAt s f at_ r := by
  intro h
  have hout : ∀ f : Fin 8, ∀ a ∈ [R.CPT_MTIME 0, R.CPT_MTIME 1], a ∉ slotRegs f.val ∧ a ∉ excRegs := by decide
  refine ⟨fun hp => ?_, fun hp hd => ?_⟩
  · obtain ⟨u, _, hw, hi⟩ := oneWord_tstamp.issued hs h (noParam_of_eq_zero hp)
    rw [← hw.1 (R.CPT_MTIME 0) (hout f _ (by simp)).2 (by decide)] at hi
    exact ⟨_, rfl, hi⟩
  · obtain ⟨u, hu, hw, _⟩ := oneWord_tstamp.issued hs h (noParam_of_eq_zero hp)
    refine ⟨_, rfl, ?_⟩
    show (issue nodeTstamp f.val at_ s).reg (R.CPT_MTIME 0) = _
    rw [reg_mtime_zero, mtime_of_writes hw (hout f _ (by simp)).2 (hout f _ (by simp)).2,
      mtime_of_writes hu.writes (hout f _ (by simp)).1 (hout f _ (by simp)).1, mtime_advanceTo hd h.1]
    apply BitVec.eq_of_toNat_eq
    rw [BitVec.toNat_ofNat, BitVec.toNat_ofNat]
    omega

/-! ### The counterexample -/

def headReady : Ready := { id := 5, flow := 3, node := 17, half := false, entry := 0, prio := 1 }

/-- After reset, with node 17 of flow 3 at the head of facet 0's list: opcode `opc`, everything else 0, so that both successors are node
0 of flow 0 (BADIDX). It belongs to an `Inst` of flow `n`. -/
def badIndexState (opc n : Nat) : State :=
  { State.reset.setWord (nodeAddr false 17 + 12) (BitVec.ofNat 32 (opc * 2 ^ 24 + 3 * 2 ^ 18)) with
    prs := { facets := [(0, { ready := [headReady] })]
             insts := [{ id := 5, flow := n, trig := 0, half := false, prio := 1, nodes := 1, roots := [17] }] } }

theorem issuable_badIndexState {opc n : Nat} (h : issueHead (badIndexState opc n) 0 0 = some headReady ∧
    nOpc (nodeBits (badIndexState opc n) false 17) = opc) : Issuable (badIndexState opc n) 0 0 opc headReady :=
  ⟨Nat.le_refl 0, h.1, h.2, fun _ => Nat.zero_le 2, rfl⟩

/-- With the node's own flow the premises of `integersWrapAt_of_flowsNumbered` and of IADD's clause hold together. -/
theorem flowsNumbered_witness : FlowsNumbered (badIndexState 0x30 3) ∧ Issuable (badIndexState 0x30 3) 0 0 0x30 headReady ∧
    nParam (headBits (badIndexState 0x30 3) headReady) = 0 :=
  ⟨by simp [FlowsNumbered, badIndexState], issuable_badIndexState (by decide +kernel), by decide +kernel⟩

/-- A command that changes a register of another block is no issue of a node. -/
theorem not_gives_issued {c : Instr} {s u : State} {f t0 lat n a : Nat} {r : Ready} {P : State → Flight → Prop}
    (hu : exec c s = .next u) (hne : u.reg a ≠ s.reg a) (ha : a / 0x10000 ∉ [0x4003, 0x4005, 0xE000]) (he : eventReg a = false) :
    ¬ Gives c s fun t => Issued s t f t0 lat n r (P t) := by
  rintro ⟨t, ht, _, _, _, hblocks, _⟩
  obtain rfl : u = t := by injection hu.symm.trans ht
  exact hne (hblocks a ha he)

/-- PRS.FLOWST of flow 0x7F47 would lie at FBK.SCAMP of port 0, whose bit 31 is 1 after reset. BADIDX aborts by default, and what
ends the `Inst` clears that bit as its INSV. -/
theorem iadd_clears_scamp : (issue nodeIadd 0 0 (badIndexState 0x30 0x7F47)).reg (R.FBK_SCAMP 0) ≠
    (badIndexState 0x30 0x7F47).reg (R.FBK_SCAMP 0) := by decide +kernel

theorem tstamp_clears_scamp : (issue nodeTstamp 0 0 (badIndexState 0x55 0x7F47)).reg (R.FBK_SCAMP 0) ≠
    (badIndexState 0x55 0x7F47).reg (R.FBK_SCAMP 0) := by decide +kernel

/-- Refutes O33: IADD with a bad successor, in a state whose `Inst` has flow number 0x7F47, which the statement does not exclude. The
abort clears bit 31 of FBK.SCAMP, which is no register of the engine, of the memory code or of time. The device has 64 flows (R126): with
that premise the whole statement holds (`integersWrapAt_of_flowsNumbered`). -/
theorem not_integersWrap : ¬ Obligations.IntegersWrap := by
  rw [integersWrap_iff]
  intro h
  obtain ⟨hiadd, _⟩ := h (badIndexState 0x30 0x7F47) 0 0 headReady
  exact not_gives_issued rfl iadd_clears_scamp (by decide) (by decide)
    (hiadd (issuable_badIndexState (by decide +kernel)) (by decide +kernel))

/-- Refutes O36: TSTAMP in the state in which `not_integersWrap` has IADD. With the premise that the flows are numbered below 64 the whole
statement holds (`timeStampAt_of_flowsNumbered`). -/
theorem not_timeStampNode : ¬ Obligations.TimeStampNode := by
  rw [timeStampNode_iff]
  intro h
  obtain ⟨hstamp, _⟩ := h (badIndexState 0x55 0x7F47) 0 0 headReady (issuable_badIndexState (by decide +kernel))
  exact not_gives_issued (P := fun t fl => fl.writes = [(nDst _, t.reg (R.CPT_MTIME 0))]) rfl tstamp_clears_scamp
    (by decide) (by decide) (hstamp (by decide +kernel))

end Sys2Proof.Machine
end
